-- ==== Sys2Proof/Word.lean ====
section
/-! DEFINITION. The word types of the block and their plainest arithmetic. Everything a repair could have
to mend (byte order, bit fields) stands in Machine/Bytes.lean. -/

namespace Sys2Proof

/-- A byte of a structure in memory (R8). -/
abbrev Byte := BitVec 8

/-- A run of bytes, lowest address first. -/
abbrev Bytes := List Byte

/-- A register is 64 bits wide (R13). -/
abbrev Word := BitVec 64

end Sys2Proof
end

