-- ==== Sys2Proof/Machine/Data.lean ====
section
/-! DEFINITION. The data that crosses the block's boundary: graph images, manifests, submissions, link
messages, core commands and records, as the structures the spec lays out (R7, R79–R92, R105, R159, R183,
R202, R211, R244, R338–R341, R349, R397, R402, R440, R446, R451). -/

namespace Sys2Proof

/-- Repeatability mode (R361): 0, 1, 2 in every encoding. -/
inductive Mode where
  | scheduleExact
  | resultExact
  | relaxed
  deriving DecidableEq, Repr, Inhabited

/-- Phase of a context slot (R302), coded 0–6 as in R397. -/
inductive Phase where
  | empty
  | loading
  | running
  | freezing
  | frozen
  | thawing
  | tearingDown
  deriving DecidableEq, Repr, Inhabited

/-- Node kinds (R93). -/
inductive NodeKind where
  | compute
  | control
  | mover
  | fetch
  | dump
  | calibration
  deriving DecidableEq, Repr, Inhabited

/-- End status of a task (R25). -/
inductive EndStatus where
  | normal
  | spanOverrun
  | engineFault
  | halted
  deriving DecidableEq, Repr, Inhabited

/-- Privileges of a register access (R14). -/
inductive Priv where
  | steward
  | operator
  | tenant
  deriving DecidableEq, Repr, Inhabited

/-- The two filtered board inputs (R72). -/
inductive ExtInput where
  | syncPulse
  | xtrig
  deriving DecidableEq, Repr, Inhabited

/-! ### The graph image -/

/-- A node descriptor (R92). `raw` holds the 128 B as stored, for the dispatch form of R95. -/
structure NodeDesc where
  kind : NodeKind := .compute
  be : Bool := false
  waitAny : Bool := false
  floating : Bool := false
  rank : Nat := 0
  energy : Nat := 0
  flowMode : Nat := 0
  fanoutSource : Nat := 0
  fanoutShift : Nat := 0
  span : Nat := 1
  depCount : Nat := 0
  carryIn : Nat := 0
  flowId : Nat := 0
  waitMask : BitVec 32 := 0
  placement : BitVec 64 := 0
  programEntry : Nat := 0
  argPointer : Nat := 0
  argUnits : Nat := 0
  argFanoutStride : Nat := 0
  argStepStride : Nat := 0
  argStepRing : Nat := 1
  /-- Index of the first successor entry; none for 0xFFFF_FFFF. -/
  succ : Option Nat := none
  layer : Nat := 0
  operatorId : Nat := 0
  seedOffset : Nat := 0
  fanoutMax : Nat := 0
  fanoutConst : Nat := 0
  fanoutParam : Nat := 0
  watchCounter : Nat := 0
  watchFlag : Nat := 0
  watchDeltaSource : Nat := 0
  watchEnable : Bool := false
  watchDelta : Nat := 0
  watchNode : Nat := 0
  raw : Bytes := []
  deriving DecidableEq, Repr, Inhabited

/-- A successor entry (R105). -/
structure SuccEntry where
  target : Nat
  setFlags : BitVec 32
  decrement : Bool
  nextStep : Bool
  last : Bool
  deriving DecidableEq, Repr, Inhabited

/-- A template (R85, R86): its flag and its nodes in node order. -/
structure Template where
  stepTemplate : Bool := false
  nodes : List NodeDesc := []
  /-- The critical path Puska computes at load: the longest chain of spans through same-step decrement edges (R86). -/
  critical : Nat := 0
  deriving DecidableEq, Repr, Inhabited

/-- A tensor symbol (R88). -/
structure Symbol where
  nameId : Nat := 0
  layer : Nat := 0
  operatorId : Nat := 0
  template : Nat := 0
  node : Nat := 0
  /-- false scratchpad, true external memory. -/
  external : Bool := false
  lcid : Nat := 0
  format : Nat := 0
  address : Nat := 0
  length : Nat := 0
  stepStride : Nat := 0
  stepRing : Nat := 1
  deriving DecidableEq, Repr, Inhabited

/-- An expert directory entry (R211), with the fields of bytes 8–31 as numbers. -/
structure Expert where
  expertId : Nat := 0
  layer : Nat := 0
  capacity : Nat := 0
  renormalise : Bool := false
  spillEnable : Bool := false
  /-- 0 local, 1 borrow, 2 absent. -/
  exec : Nat := 0
  peer : Nat := 0
  size : Nat := 0
  location : Nat := 0
  slotGroup : Nat := 0
  deriving DecidableEq, Repr, Inhabited

/-- A counter declaration (R159): role 0 single, 1 producer, 2 consumer. -/
structure CounterDecl where
  vid : Nat := 0
  role : Nat := 0
  remote : Bool := false
  buffers : Nat := 0
  partner : Nat := 0
  deriving DecidableEq, Repr, Inhabited

/-- A ring declaration (R183). -/
structure RingDecl where
  ring : Nat := 0
  receiver : Nat := 0
  sizeLog2 : Nat := 10
  base : Nat := 0
  deriving DecidableEq, Repr, Inhabited

/-- A decoded graph image (R82–R92). -/
structure Image where
  templates : List Template := []
  successors : List SuccEntry := []
  experts : List Expert := []
  symbols : List Symbol := []
  counters : List CounterDecl := []
  rings : List RingDecl := []
  /-- The 64 B seed block (R89). -/
  seed : Bytes := []
  instanceEntries : Nat := 0
  flowCount : Nat := 0
  defaultTemplate : Nat := 0
  stepsInFlight : Nat := 1
  arrangementInvariant : Bool := false
  /-- R84. -/
  graphHash : Bytes := []
  deriving DecidableEq, Repr, Inhabited

/-! ### The catchment manifest -/

/-- An entry of a manifest's entry table (R340); role 0 worker, 1 headwater, 2 transit. -/
structure ManifestEntry where
  instanceAddr : Nat := 0
  role : Nat := 0
  energyShare : Nat := 0
  lcidMask : BitVec 64 := 0
  ctidMask : BitVec 8 := 0
  clusterMask : BitVec 8 := 0
  partners : List Nat := []
  outSlots : BitVec 64 := 0
  inSlots : BitVec 64 := 0
  memSlots : BitVec 64 := 0
  inletQuota : Nat := 0
  horizonQuota : Nat := 0
  /-- (destination instance, outbound port), R341. -/
  routes : List (Nat × Nat) := []
  neighbours : List Nat := []
  framesT0 : Nat := 0
  framesT1 : Nat := 0
  framesT2 : Nat := 0
  tableBlocks : Nat := 0
  lockstepPeer : Nat := 0
  deriving DecidableEq, Repr, Inhabited

/-- A decoded catchment manifest (R338–R341). -/
structure Manifest where
  cmid : Nat := 0
  be : Bool := false
  lockstep : Bool := false
  horizon : Nat := 2
  rota : List Nat := []
  headwater : Nat := 0
  lockstepCmid : Nat := 0
  launchGtc : Nat := 0
  entries : List ManifestEntry := []
  /-- Member indices of each placement group (R341). -/
  groups : List (List Nat) := []
  /-- R338. -/
  hash : Bytes := []
  /-- The hash with launch_gtc taken as zero (R383). -/
  hashNoLaunch : Bytes := []
  deriving DecidableEq, Repr, Inhabited

/-! ### Submissions -/

/-- What every submission carries beside its payload (R446). -/
structure SubHdr where
  slot : Fin 16 := 0
  cxid : Nat := 0
  tag : BitVec 64 := 0
  deriving DecidableEq, Repr, Inhabited

/-- The payload of a load (R451, kind 0x01). -/
structure LoadReq where
  imageAddr : Nat := 0
  imageLength : Nat := 0
  mode : Nat := 0
  rota : Nat := 0
  cmid : Nat := 0
  multiMember : Bool := false
  wrappedKey : Bytes := []
  deriving DecidableEq, Repr, Inhabited

/-- The payload of a thaw (R451, kind 0x04). -/
structure ThawReq where
  imageAddr : Nat := 0
  imageLength : Nat := 0
  graphAddr : Nat := 0
  graphLength : Nat := 0
  wrappedKey : Bytes := []
  deriving DecidableEq, Repr, Inhabited

/-- The payload of a join (R451, kind 0x07). -/
structure JoinReq where
  globalId : Nat := 0
  maxTokens : Nat := 0
  be : Bool := false
  imported : Bool := false
  deadline : Nat := 0
  group : Nat := 0
  deriving DecidableEq, Repr, Inhabited

/-- The payload of a leave (kind 0x08). -/
structure LeaveReq where
  globalId : Nat := 0
  export_ : Bool := false
  hostBase : Nat := 0
  stride : Nat := 0
  deriving DecidableEq, Repr, Inhabited

/-- The payload of an import (kind 0x09). -/
structure ImportReq where
  globalId : Nat := 0
  maxTokens : Nat := 0
  tokens : Nat := 0
  hostAddr : Nat := 0
  deriving DecidableEq, Repr, Inhabited

/-- A submission of any kind of R451, its payload decoded. -/
inductive Sub where
  | load (r : LoadReq)
  | manifest (addr length : Nat)
  | freeze (addr length : Nat) (release : Bool)
  | thaw (r : ThawReq)
  | teardown
  | cancel (step : Nat)
  | join (r : JoinReq)
  | leave (r : LeaveReq)
  | importSeq (r : ImportReq)
  | appendCount (globalId tokens : Nat)
  | setFlag (step node : Nat) (flags : BitVec 32)
  | runRecord
  | fwUpdate (addr length : Nat)
  | step (template count : Nat)
  deriving DecidableEq, Repr, Inhabited

/-- One submission slot as a sluice poll reads it through MEM (R446): word 0 and the rest. -/
structure SlotImage where
  slot : Fin 16 := 0
  /-- Bytes 0–7. -/
  word0 : BitVec 64 := 0
  tag : BitVec 64 := 0
  takeTick : Nat := 0
  /-- Bytes 22–63 read as zero. -/
  restZero : Bool := true
  payload : Bytes := []
  deriving DecidableEq, Repr, Inhabited

/-! ### Sequences in step starts -/

/-- An entry of a step start's change list (R350), with what a member needs to apply it (R276–R285). -/
inductive Change where
  | join (r : JoinReq)
  | leave (globalId : Nat) (export_ : Bool) (hostBase stride : Nat)
  | append (globalId tokens : Nat)
  deriving DecidableEq, Repr, Inhabited

/-! ### Link messages -/

/-- A digest entry of a lock-step list (R356). -/
structure DigestEntry where
  name : Nat := 0
  kind : Nat := 0
  core : Nat := 0
  slot : Nat := 0
  status : Nat := 0
  checksum : Nat := 0
  deriving DecidableEq, Repr, Inhabited

/-- A template's admission summary for one node (R313). -/
structure NodeSummary where
  span : Nat := 1
  width : Nat := 1
  energy : Nat := 0
  governed : Bool := true
  source : Nat := 0
  fanoutMax : Nat := 0
  fanoutConst : Nat := 0
  /-- Same-step decrement predecessors, by node index. -/
  preds : List Nat := []
  /-- Source 7 only: bytes per token per layer, log2 of pages per block, guard. -/
  seqBytes : Nat := 0
  blockLog2 : Nat := 0
  guard : Nat := 0
  /-- Bytes of all slots of the slot groups of the node's layer when flag 26 is waited for; none otherwise. -/
  fetchBytes : Option Nat := none
  deriving DecidableEq, Repr, Inhabited

/-- A template's admission summary (R313). -/
structure TemplateSummary where
  stepTemplate : Bool := false
  nodes : List NodeSummary := []
  deriving DecidableEq, Repr, Inhabited

/-- A member's summary for the headwater (R313, R347). -/
structure MemberSummary where
  templates : List TemplateSummary := []
  pageTokens : Nat := 64
  cores : Nat := 1
  share : Nat := 1
  stepsInFlight : Nat := 1
  horizon : Nat := 2
  slotsPerTick : Nat := 8
  /-- Bit t set when the pools of tier t hold at least one frame. -/
  tierMask : Nat := 0
  deriving DecidableEq, Repr, Inhabited

/-- The control messages of R349, R355, R357 and R358, with what each carries. -/
inductive Ctrl where
  | stepStart (step : Nat) (template : Option Nat) (changes : List Change)
  | stepReport (step : Nat) (cancelled : Bool) (b r1 r2 : Nat)
  | blockedReport (blocked : Bool)
  | cancel (step : Nat)
  | freeze (tick : Nat)
  | thaw
  | resume (gtc : Nat)
  | restoreReport (serial : Nat) (ok : Bool)
  | teardown (code member : Nat)
  | idleBeat
  | join (index : Nat) (hash : Nat) (summary : MemberSummary)
  | refuse (index : Nat) (reason : Nat)
  | confirm (changes : List Change)
  | abort
  | lockHello (horizon launch index : Nat)
  | digest (tick : Nat) (d : BitVec 64)
  | lockList (tick : Nat) (entries : List DigestEntry)
  | lockHalt
  | haltRelay (cause bp : Nat)
  deriving DecidableEq, Repr, Inhabited

/-- A fetch request (R232, R233): `template` and `node` are the requesting node's. -/
structure FetchReq where
  expertId : Nat := 0
  home : Nat := 0
  length : Nat := 0
  destOffset : Nat := 0
  destLcid : Nat := 0
  destWindow : Nat := 0
  step : Nat := 0
  template : Nat := 0
  node : Nat := 0
  deriving DecidableEq, Repr, Inhabited

/-- A landing notice (the table of messages before R35). -/
structure Landing where
  lcid : Nat := 0
  window : Nat := 0
  offset : Nat := 0
  length : Nat := 0
  vid : Nat := 0
  increment : Nat := 0
  /-- Windows that cores have opened over SPAD_REG since the last boundary (R27), as (LCID, window, lo, hi). -/
  opened : List (Nat × Nat × Nat × Nat) := []
  deriving DecidableEq, Repr, Inhabited

/-- A remote confluence entry: a forwarded pair or a wide word (R244, R255, R256). -/
inductive CflItem where
  | pair (record : BitVec 128)
  | wide (word : BitVec 256)
  deriving DecidableEq, Repr, Inhabited

/-- What a link message carries. -/
inductive MsgBody where
  | ripple (vid increment : Nat)
  | landing (l : Landing)
  | fetch (f : FetchReq)
  | ctrl (c : Ctrl)
  | seal
  | controlSeal
  | beacon (gtc refOffset seq : Nat)
  | remote (cluster : Nat) (entries : List (Nat × CflItem))
  deriving DecidableEq, Repr, Inhabited

/-- What every link message carries: the sender's instance address and CMID, the CXID, the sender tick and the
epoch (R35, R59, R311). `vc` is the virtual channel: 0 DMV0 data, 1 DMV1 data, 2 control, 3 time. -/
structure MsgHdr where
  sender : Nat := 0
  cmid : Nat := 0
  cxid : Nat := 0
  tick : Nat := 0
  epoch : Nat := 0
  vc : Nat := 0
  deriving DecidableEq, Repr, Inhabited

/-- A confirm message: its header, and the batch of step 0 (R349). -/
structure ConfirmMsg where
  hdr : MsgHdr := {}
  batch : List Change := []
  deriving DecidableEq, Repr, Inhabited

/-- What Puska finds as it completes a load: the image it reads, and the graph hash of the lock-step peer's context where that is known
(R90, R355). -/
structure LoadInput where
  image : Bytes := []
  peerGraph : Option Bytes := none
  deriving DecidableEq, Repr, Inhabited

/-- A link message Puska sends: the destination instance, the outbound port the routing table names for it (R344), the header and
the body. -/
structure Msg where
  dest : Nat := 0
  port : Nat := 0
  hdr : MsgHdr := {}
  body : MsgBody := .seal
  deriving DecidableEq, Repr, Inhabited

/-! ### What a core, a boundary or a tick start presents -/

/-- What a core reports with a task's end (R25): the status, and for an engine fault the command code and
the entry index or address; the store checksum of R356; whether the cache portion was enabled (R21). -/
structure EndReport where
  status : EndStatus := .normal
  code : Nat := 0xFF
  detail : Nat := 0
  checksum : Nat := 0
  cache : Bool := false
  deriving DecidableEq, Repr, Inhabited

/-- A circular region of a core as the core brings it at a boundary (R289, R294, R322): its size in bytes, its base in the scratchpad,
and the running byte counts of its head and its tail. A region of the ledger has its tail moved by the ledger (R289), and the count the
core brings for it says nothing. -/
structure RegionIn where
  lcid : Nat
  region : Nat
  bytes : Nat
  base : Nat := 0
  head : Option Nat := none
  tail : Nat := 0
  deriving DecidableEq, Repr, Inhabited

/-- What Puska samples at a slot boundary: the ac offsets at which the STRETCH port will mark a cycle of the slot or margin that begins
here, given ahead of those cycles (R42; log entry 47), the scratchpad bytes its cores have stored, as (LCID, byte offset, bytes),
which a data-word count may read (R117, R119), the external memory bytes that others have written, as (address, bytes), which an
argument block may hold (R121), and the staging regions that are configured, (R289). -/
structure BoundaryIn where
  stretched : List Nat := []
  stores : List (Nat × Nat × Bytes) := []
  memory : List (Nat × Bytes) := []
  regions : List RegionIn := []
  /-- Landing windows the cores have opened over SPAD_REG since the last boundary (R27), as (LCID, window, lo, hi). -/
  windows : List (Nat × Nat × Nat × Nat) := []
  /-- Bytes sent and received on each port since the last boundary (R503). -/
  sent : List Nat := []
  received : List Nat := []
  /-- Levels of SYNC_PULSE_IN and XTRIG_IN behind the synchroniser in the slot or margin that ends, each from an offset on, in order
  (R72). -/
  levels : List (Nat × Bool × Bool) := []
  deriving DecidableEq, Repr, Inhabited

/-- What Puska samples at a tick start beside a boundary's inputs: the slots of the poll (R448), the bytes it
reads at addresses firmware names, the two tail fields (R458, R459) and the sensor scan (R146, R406). -/
structure TickIn where
  boundary : BoundaryIn := {}
  slots : List SlotImage := []
  blobs : List (Nat × Bytes) := []
  completionTail : Nat := 0
  logTail : Nat := 0
  temperature : Nat := 0
  /-- Block ids with their temperatures, in 0.1 °C, and the stretch monitors that have reported a lag, with what they report (R406). -/
  blocks : List (Nat × Nat) := []
  lagging : List (Nat × Nat) := []
  /-- The comparator self-test of a calibration tick (R392). -/
  selfTestOk : Bool := true
  deriving DecidableEq, Repr, Inhabited

/-- What has been written in external memory at the address a thaw names, after the save stored its image there: nothing where the image
stands as it was saved (log entry 44). -/
structure FreezeImageRef where
  placed : Bytes := []
  deriving DecidableEq, Repr, Inhabited

/-- Faults of logic that every context depends on (R388): the two comparators of a counter read disagree, with the physical counter
(R392); the time unit's GTC and boundary logic. The last one is a disturbance that no SRAM reports: one copy of a counter comes to hold
another value, which the next read of the counter finds (R162). -/
inductive LogicFault where
  | comparators (physical : Nat)
  | timeUnit
  | counterCopy (slot : Fin 16) (vid value : Nat)
  deriving DecidableEq, Repr, Inhabited

/-- The places an SRAM error names (R388, R505): an SRAM identifier, an entry, and the owner where it is held. Identifier 0 stands
for an accumulator word of a confluence region, which the scratchpad controller reports (R243): `entry` is the cluster and `detail`
the element. -/
structure SramError where
  /-- A fault of logic and not of an SRAM; the other fields then say nothing. -/
  logic : Option LogicFault := none
  sram : Fin 19 := 0
  entry : Nat := 0
  /-- The context slot that holds the entry; none for a free entry or a shared structure. -/
  owner : Option (Fin 16) := none
  free : Bool := false
  correctable : Bool := true
  /-- For an inlet word: the word index; for a counter copy: the virtual id. -/
  detail : Nat := 0
  deriving DecidableEq, Repr, Inhabited

/-- The engines of a compute core (R426). -/
inductive Engine where
  | mxe
  | vxe
  | dmv0
  | dmv1
  deriving DecidableEq, Repr, Inhabited

/-- One core's answer to a program-counter sample (R425): `core` is the LCID, or the CTID when `control`. -/
structure CoreSample where
  control : Bool := false
  core : Nat := 0
  stall : Nat := 0
  pc : Nat := 0
  deriving DecidableEq, Repr, Inhabited

/-- A register access (R13, R14, R468): the privilege it arrives with, the aperture it comes through if any, the
page and byte offset, and the bytes it covers (8 for a whole word). -/
structure RegAccess where
  priv : Priv := .operator
  aperture : Option (Fin 16) := none
  page : Fin 64 := 0
  offset : Nat := 0
  bytes : Nat := 8
  deriving DecidableEq, Repr, Inhabited

end Sys2Proof
end

