-- ==== Sys2Proof/Config.lean ====
section
/-! DEFINITION. What the signed configuration image fixes for one die (R460), with the defaults the
spec gives, and the free values: the opaque constants that stand where the spec leaves a value open. -/

namespace Sys2Proof

/-- One package of the tray map (R460): the package part of its instance addresses (bits 31:3 of R7) and
its range of the tray's physical address space. -/
structure TrayPackage where
  package : Nat
  base : Nat
  size : Nat
  deriving DecidableEq, Repr, Inhabited

/-- The sections of the configuration image kept by this die (R460, R461 stage 1). The image's byte layout
is not given by the spec, so its fields stand here as the steward finds them. -/
structure ConfigImage where
  /-- Slots per tick, N (R38). -/
  slotsPerTick : Nat := 8
  /-- Tick margin in ac (R38). -/
  tickMargin : Nat := 128
  /-- Lag limit in tick lengths (R45). -/
  lagLimit : Nat := 2
  /-- GTC start value (R51). -/
  gtcStart : Nat := 0
  /-- Beacon parent port 0–4, or none for a beacon root (R51). -/
  beaconParent : Option Nat := none
  /-- Ports toward this instance's beacon children (R53). -/
  beaconChildren : List Nat := []
  /-- Beacon period exponent b (R53). -/
  beaconExp : Nat := 4
  /-- log2 of the calibration interval (R68). -/
  calLog2 : Nat := 16
  /-- Calibration phase (R68). -/
  calPhase : Nat := 0
  /-- Die energy budget in EU (R143). -/
  dieBudget : Nat := 768
  /-- °C at the block (R146). -/
  tempHigh : Nat := 105
  /-- °C at the block (R146). -/
  tempLow : Nat := 95
  /-- °C at the block (R394). -/
  tempCritical : Nat := 115
  /-- R394. -/
  hotTicks : Nat := 256
  /-- R394. -/
  ilimitTicks : Nat := 1024
  /-- Grade: true for Ustum 56, false for Ustum 64 (R1). -/
  grade56 : Bool := false
  /-- Disabled-unit map: the PCIDs out of service (R18, R20). -/
  disabled : List Nat := []
  /-- Core map: the PCID of each populated LCID, in ascending LCID (R18, R375). -/
  coreMap : List Nat := []
  /-- Latency class 0–3 of PCID 0–71 (R376); a PCID past the list has class 0. -/
  latencyClass : List Nat := []
  /-- The tray's packages (R232, R267, R453). -/
  tray : List TrayPackage := []
  /-- Die id of the certificate, 128 bits (R400). -/
  dieId : Nat := 0
  /-- Public key of the die certificate, x and y (R400). -/
  certX : Nat := 0
  certY : Nat := 0
  /-- SHA-384 of the operator key (R338). -/
  operatorKeyHash : Bytes := []
  /-- SHA-384 of the Balyon firmware key (R411). -/
  firmwareKeyHash : Bytes := []
  /-- Minimum steward firmware version (R412). -/
  minFirmware : Nat := 0
  /-- Version of the image's steward firmware (R411). -/
  firmware : Nat := 0
  /-- Log ring address and log2 (size / 64 KiB), 0–8 (R409). -/
  logAddr : Nat := 0
  logLog2 : Nat := 0
  /-- Sluice window address, a multiple of 64 KiB (R443). -/
  window : Nat := 0
  /-- log2 (C / 64 KiB), 0–6; default C = 256 KiB (R443). -/
  completionLog2 : Nat := 2
  /-- log2 (L / 64 KiB), 0–8; default L = 1 MiB (R443). -/
  logAreaLog2 : Nat := 4
  /-- Minimum spacing in slots of SYNC_PULSE_IN and XTRIG_IN (R73). -/
  syncSpacing : Nat := 4096
  xtrigSpacing : Nat := 4096
  /-- This die's instance address (R7). -/
  instanceAddr : Nat := 0
  /-- SHA-384 of the image with the core map section as zeros, of the disabled-unit map section and of the
  core map section (R383). -/
  configHash : Bytes := []
  disabledHash : Bytes := []
  coreMapHash : Bytes := []
  deriving DecidableEq, Repr, Inhabited

/-- Free value (log entry 3): what the spec leaves open in the silicon revision of PAGE_ID (R471). -/
opaque Config.implRevision : BitVec 16

/-- Free value (log entry 4): the per-signature nonce of an ECDSA signature (R385); the spec names the
algorithm and leaves the nonce to the signer. -/
opaque Config.signNonce : Nat → BitVec 384

/-- Free value (log entry 5): the compare vector a sequencer_compare fault record carries (R398, code 0x80),
whose layout the spec does not give. -/
opaque Config.compareVector : Nat → BitVec 64

/-- Free value (log entry 7): where the scratchpad of an LCID of this die begins in the tray's physical address space,
which the spec uses (R231, R271) and does not give. -/
opaque Config.spadBase : Nat → BitVec 64

/-- Free value (log entry 9): the bytes of a step start message as received, which the input digest covers (R384) and
whose layout the spec does not give. -/
opaque Config.stepStartPayload : Nat → Option Nat → List Change → Bytes

/-- Free value (log entry 12): the plaintext of the parcel of Puska's state in a freeze image, whose encoding the spec does not give (R322,
R326), by context slot and freeze serial. -/
opaque Config.puskaParcel : Nat → Nat → Bytes

/-- Free value (log entry 12): a compute core's architectural state at the halt of a freeze, as its parcel holds them, whose
encoding and size the spec does not give (R322), by LCID and freeze serial. -/
opaque Config.coreState : Nat → Nat → Bytes

/-- Free value (log entry 12): the contents of a compute core's tile-register and accumulator file at the halt of a freeze (R322), by LCID
and freeze serial. -/
opaque Config.tileFile : Nat → Nat → Bytes

/-- Free value (log entry 13): the payload bytes of steward log entries whose contents the spec names and whose layout it
does not give (kinds 0x03 to 0x08 and 0x0A of R409), by kind and contents. -/
opaque Config.logPayload : Nat → List Nat → Bytes

/-- Free value (log entry 14): the spare physical counter the comparator self-test of R392 uses, which the spec does not name. -/
opaque Config.spareCounter : Nat

/-- Free value (log entry 15): where a freeze that a rotation asks for saves its context, which the spec does not say (R337),
by context slot and freeze serial. -/
opaque Config.rotationSave : Nat → Nat → Nat

end Sys2Proof
end

