-- ==== Sys2Proof/Syntax.lean ====
section
/-! DEFINITION. The commands of the block: one constructor per row of spec/opcode_table.json, in the table's
order, with the operands the spec gives the row. -/

namespace Sys2Proof

/-- A command or event at Puska's boundary. Core ids are LCIDs (R18) or CTIDs; `slot` is a context slot (R7). -/
inductive Instr where
  /- start-up (R461) -/
  | dieReset
  | configImage (img : ConfigImage) (malformed : Option Nat) (signatureOk chainOk : Bool) (rangeOffset : Nat) (firmwareRefusal : Option Nat)
  | selfTestDone (railsOk comparatorsOk : Bool) (secdedBad : Option (Nat × Nat))
  | sramScrubDone (bad : Option (Nat × Nat))
  | keyDerivation (puf : Option (BitVec 256))
  | topologyReport (far delays lanes : List Nat)
  | ready
  | fenceClear (p : Priv)
  | fenceClearDone (railsOk comparatorsOk : Bool) (secdedBad bad : Option (Nat × Nat)) (stewardStoreOk : Bool)
  /- time and external inputs -/
  | syncEdge
  | gtcStart
  | xtrigEdge
  | inputStuck (x : ExtInput)
  | inputStuckClear (x : ExtInput)
  | xtrigOutEnd
  | clockRestart (elapsed : Nat)
  | gtcBoundary
  | lagLimitTest
  | marginStart (b : BoundaryIn)
  | tickStart (t : TickIn)
  | thermalFractionRise
  | thermalExcursion (tenths : Nat)
  | currentLimitPersist
  | rotation (cmid : Nat)
  | idleBeatSend (slot : Fin 16) (member : Nat)
  | headwaterLoss (slot : Fin 16)
  | slotBoundary (b : BoundaryIn)
  | teardownScrubEnd (slot : Fin 16)
  | startDecision (ilimit railsAgree : Bool)
  | pondCrcResult (lcid : Fin 64) (entry : Bool) (ok : Bool) (crc : BitVec 32)
  | taskEnd (lcid : Fin 64) (r : EndReport)
  | windowClose (lcid : Fin 64)
  | coreHalted (lcid : Fin 64) (drained : Bool)
  /- counters (R164) -/
  | cntInc (lcid : Fin 64) (vid : BitVec 20) (increment : BitVec 32)
  | cntTake (lcid : Fin 64) (vid : BitVec 20)
  | cntRead (lcid : Fin 64) (vid : BitVec 20)
  | cntWait (lcid : Fin 64) (vid : BitVec 20) (target : BitVec 48)
  | cntWaitRelease (lcid : Fin 64)
  | ripple (lcid : Fin 64) (dest : BitVec 32) (vid : BitVec 20) (increment : BitVec 32) (dmv1 : Bool)
  /- channels (R187) -/
  | ringOpen (lcid : Fin 64) (ring : BitVec 10) (persist : Bool)
  | ringClose (lcid : Fin 64) (ring : BitVec 10)
  | send (lcid : Fin 64) (ring : BitVec 10) (units : Nat) (tag : BitVec 8) (check : Bool) (epoch : BitVec 16) (payload : Bytes)
  | sendAccept (lcid : Fin 64)
  | messageWritten (cluster : Fin 8)
  | recv (lcid : Fin 64) (rings : List Nat) (rotation poll : Bool)
  | recvRelease (lcid : Fin 64)
  | release (lcid : Fin 64) (ring : BitVec 10)
  /- confluence commands (R251) and the rest of the command lane (R189) -/
  | cflDrain (lcid : Fin 64) (first count format dest : Nat) (clear : Bool)
  | cflExport (lcid : Fin 64) (first count : Nat) (dest : BitVec 32) (cluster destFirst : Nat) (clear : Bool)
  | cflClear (lcid : Fin 64) (first count : Nat)
  | cflCommandBegin (cluster : Fin 8)
  | fetchHandoff (lcid : Fin 64)
  | traceMark (lcid : Fin 64) (value : BitVec 32) (trigger : Bool)
  | invalidCommand (lcid : Fin 64) (code : BitVec 4)
  | pairRecord (lcid : Fin 64) (pairs : List (BitVec 128))
  | confluenceScrub (cluster : Fin 8)
  | moverEntryComplete (lcid : Fin 64) (index : Nat) (crc : BitVec 16) (block : Bytes)
  /- control threads (R154) -/
  | setFlags (ctid : Fin 8) (nextStep : Bool) (node : Nat) (flags : BitVec 32)
  | waitFlags (ctid : Fin 8) (mask : BitVec 24) (any : Bool)
  | waitCounter (ctid : Fin 8) (vid : BitVec 20) (target : BitVec 48)
  | yield (ctid : Fin 8)
  | endThread (ctid : Fin 8) (status : BitVec 8)
  | breakThread (ctid : Fin 8) (id : BitVec 8)
  | reservedThreadCommand (ctid : Fin 8) (code : BitVec 4)
  /- the inlet (R202) and the pools -/
  | openRecord (lcid : Fin 64) (record : BitVec 64)
  | choiceRecord (lcid : Fin 64) (record : BitVec 64)
  | closeRecord (lcid : Fin 64) (record : BitVec 64)
  | jobPublish (slot : Fin 16)
  | stagingIssue (slot : Fin 16) (node : Nat)
  /- the link -/
  | rippleReceived (h : MsgHdr) (vid : BitVec 20) (increment : BitVec 32)
  | landingNotice (h : MsgHdr) (l : Landing)
  | wideLanding (h : MsgHdr) (cluster index : Nat) (word : BitVec 256)
  | forwardedPair (h : MsgHdr) (cluster : Nat) (record : BitVec 128)
  | tickSeal (h : MsgHdr)
  | controlSeal (h : MsgHdr)
  | beaconSend
  | beacon (port : Fin 5) (gtc : BitVec 48) (refOffset : Nat) (seq : BitVec 16)
  | beaconLoss
  | calibrationResult (lanes delays : List Nat)
  | portChange (port : Fin 5) (far : BitVec 32) (lanes : Nat)
  | fetchRequest (h : MsgHdr) (f : FetchReq)
  | stepStart (h : MsgHdr) (step : Nat) (template : Option Nat) (changes : List Change)
  | stepReport (h : MsgHdr) (step : Nat) (cancelled : Bool) (b r1 r2 : Nat)
  | blockedReport (h : MsgHdr) (blocked : Bool)
  | cancelMessage (h : MsgHdr) (step : Nat)
  | freezeMessage (h : MsgHdr) (tick : Nat)
  | thawMessage (h : MsgHdr)
  | resumeMessage (h : MsgHdr) (gtc : Nat)
  | restoreReport (h : MsgHdr) (serial : Nat) (ok : Bool)
  | teardownMessage (h : MsgHdr) (code member : Nat)
  | idleBeat (h : MsgHdr)
  | joinMessage (h : MsgHdr) (index hash : Nat) (summary : MemberSummary)
  | refuse (h : MsgHdr) (index reason : Nat)
  | confirm (m : ConfirmMsg)
  | abort (h : MsgHdr)
  | lockstepHello (h : MsgHdr) (horizon launch index : Nat)
  | digestMessage (h : MsgHdr) (tick : Nat) (d : BitVec 64)
  | lockstepList (h : MsgHdr) (tick : Nat) (entries : List DigestEntry)
  | lockstepHalt (h : MsgHdr)
  | haltRelay (h : MsgHdr) (cause bp : Nat)
  /- submissions (R451) and the context's life -/
  | load (h : SubHdr) (r : LoadReq)
  | manifest (h : SubHdr) (bytes : Bytes)
  | freeze (h : SubHdr) (addr length : Nat) (release : Bool)
  | freezeSaveBegin (slot : Fin 16)
  | freezeSaveEnd (slot : Fin 16)
  | freezeScrubEnd (slot : Fin 16)
  | thaw (h : SubHdr) (r : ThawReq)
  | restoreEnd (slot : Fin 16) (image : FreezeImageRef)
  | teardown (h : SubHdr)
  | cancel (h : SubHdr) (step : Nat)
  | join (h : SubHdr) (r : JoinReq)
  | leave (h : SubHdr) (r : LeaveReq)
  | importSeq (h : SubHdr) (r : ImportReq)
  | appendCount (h : SubHdr) (globalId tokens : Nat)
  | setFlag (h : SubHdr) (step node : Nat) (flags : BitVec 32)
  | runRecord (h : SubHdr)
  | fwUpdate (h : SubHdr) (image : Bytes)
  | step (h : SubHdr) (template count : Nat)
  /- watchdogs and the steward -/
  | stillWater (slot : Fin 16)
  | waitForGraph (slot : Fin 16)
  | watchdogTeardownLimit (slot : Fin 16)
  | stewardHeartbeat (p : Priv) (value : Word)
  | heartbeatLate
  | stewardWatchdog
  | fwActivate
  | fwReverted
  | sramError (e : SramError)
  /- observation -/
  | pcSample (slot : Fin 16) (samples : List CoreSample)
  | cmdBegin (lcid : Fin 64) (engine : Engine) (opcode : BitVec 32) (latched : List Nat)
  | cmdEnd (lcid : Fin 64) (engine : Engine) (opcode : BitVec 32) (latched : List Nat)
  | chunkDrain (slot : Fin 16)
  | chunkWritten (slot : Fin 16)
  | traceArm (p : Priv) (slot : Fin 16) (value : Word)
  | traceFlush (p : Priv) (slot : Fin 16) (value : Word)
  | dumpSubmit (p : Priv) (slot : Fin 16) (value : Word)
  | debugResume (p : Priv) (slot : Fin 16) (value : Word)
  /- registers -/
  | syncArm (p : Priv)
  | pageEnable (p : Priv) (page : Fin 64)
  | pageDisable (p : Priv) (page : Fin 64)
  | pageDrainEnd (page : Fin 64)
  | evtRawClear (p : Priv) (page : Fin 64) (value : Word)
  | evtForce (p : Priv) (page : Fin 64) (value : Word)
  | pageErrRead (p : Priv) (page : Fin 64)
  | obsPeakRead (p : Priv)
  | catchCommit (p : Priv) (k : Fin 16) (value : Word)
  | catchRelease (p : Priv) (k : Fin 16) (value : Word)
  | registerWrite (a : RegAccess) (value : Word)
  | loadComplete (slot : Fin 16) (cache : BitVec 64) (input : LoadInput)
  | registerRead (a : RegAccess)
  deriving DecidableEq, Repr

end Sys2Proof
end

