-- ==== Sys2Proof/Machine/Bytes.lean ====
section
/-! DEFINITION. Byte order (R8), bit fields of numbers, and the three cyclic redundancy checks the spec defines
(CRC-32C in R92, CRC-16 in R271, CRC-64 in R356). -/

namespace Sys2Proof.Machine

/-- The number a run of bytes holds, little-endian (R8). -/
def leNat : Bytes → Nat
  | [] => 0
  | b :: bs => b.toNat + 256 * leNat bs

/-- The `n` little-endian bytes of a number, its higher bits dropped (R8). -/
def leBytes : Nat → Nat → Bytes
  | 0, _ => []
  | n + 1, v => BitVec.ofNat 8 v :: leBytes n (v / 256)

/-- Big-endian number of a run of bytes (R399). -/
def beNat (bs : Bytes) : Nat := bs.foldl (fun a b => a * 256 + b.toNat) 0

/-- The `n` big-endian bytes of a number. -/
def beBytes (n v : Nat) : Bytes := (leBytes n v).reverse

/-- Bits hi..lo of a number. -/
def bits (v hi lo : Nat) : Nat := v / 2 ^ lo % 2 ^ (hi + 1 - lo)

/-- Bit k of a number. -/
def bit (v k : Nat) : Bool := v.testBit k

/-- 1 for true, 0 for false. -/
def b2n (b : Bool) : Nat := if b then 1 else 0

/-- ⌈a / b⌉. -/
def ceilDiv (a b : Nat) : Nat := (a + b - 1) / b

/-- `len` bytes from offset `off`; bytes past the end read as zero. -/
def slice (bs : Bytes) (off len : Nat) : Bytes :=
  let got := (bs.drop off).take len
  got ++ List.replicate (len - got.length) 0

/-- The little-endian field of `len` bytes at `off`. -/
def field (bs : Bytes) (off len : Nat) : Nat := leNat (slice bs off len)

/-- Whether `len` bytes at `off` are all zero. -/
def zeroField (bs : Bytes) (off len : Nat) : Bool := (slice bs off len).all (· == 0)

/-- `len` zero bytes. -/
def zeros (len : Nat) : Bytes := List.replicate len 0

/-- A wrapping count of width w (R481). -/
def wrap (w v : Nat) : Nat := v % 2 ^ w

/-- A saturating count of width w (R481). -/
def sat (w v : Nat) : Nat := min v (2 ^ w - 1)

/-- Two's complement of an integer in w bits. -/
def twos (w : Nat) (i : Int) : Nat := (i % (2 ^ w : Int)).toNat

/-- The set bits of a mask below n, ascending. -/
def bitList (n : Nat) (mask : Nat) : List Nat := (List.range n).filter fun k => mask.testBit k

/-- One bit of a reflected CRC. -/
def crcStepReflected (poly : Nat) (c : Nat) : Nat :=
  if c % 2 = 1 then (c / 2) ^^^ poly else c / 2

/-- `n` applications of a function. -/
def iterate {α : Type} (f : α → α) : Nat → α → α
  | 0, a => a
  | n + 1, a => iterate f n (f a)

/-- Whether a 32-bit value is an instance address: bits 7:3 are reserved (R7, R11). -/
def validInstance (a : Nat) : Bool := a / 8 % 32 == 0

/-- CRC-32C (R92): polynomial 0x1EDC_6F41 reflected, initial value and final exclusive-or of all ones. -/
def crc32c (bs : Bytes) : BitVec 32 :=
  BitVec.ofNat 32
    ((bs.foldl (fun c b => iterate (crcStepReflected 0x82F63B78) 8 (c ^^^ b.toNat)) 0xFFFFFFFF) ^^^ 0xFFFFFFFF)

/-- One bit of an unreflected CRC of width w. -/
def crcStep (w poly : Nat) (c : Nat) : Nat :=
  if c.testBit (w - 1) then (c * 2 ^^^ poly) % 2 ^ w else c * 2 % 2 ^ w

/-- CRC-16 (R271): polynomial 0x1021, initial value 0xFFFF, no reflection, no final exclusive-or. -/
def crc16 (bs : Bytes) : BitVec 16 :=
  BitVec.ofNat 16 (bs.foldl (fun c b => iterate (crcStep 16 0x1021) 8 (c ^^^ (b.toNat * 2 ^ 8))) 0xFFFF)

/-- CRC-64 (R356): polynomial 0x42F0_E1EB_A9EA_3693, initial value zero, no reflection, no final exclusive-or. -/
def crc64 (bs : Bytes) : BitVec 64 :=
  BitVec.ofNat 64
    (bs.foldl (fun c b => iterate (crcStep 64 0x42F0E1EBA9EA3693) 8 (c ^^^ (b.toNat * 2 ^ 56))) 0)

end Sys2Proof.Machine
end

