-- ==== Sys2Proof/Machine/Crypto.lean ====
section
/-! DEFINITION. The published algorithms the spec names (R80, R84, R325, R399, R403, R404): SHA-384, HMAC and
HKDF over it, AES-256, AES-256-GCM, and P-384 with ECDSA and ECDH. "Standard abbreviations carry their published
meanings" (00_scope.md, Glossary): FIPS 180-4, FIPS 197, SP 800-38D, RFC 5869, FIPS 186-5. -/

namespace Sys2Proof.Machine

/-! ### SHA-384 -/

/-- The primes below 410, of which there are 80. -/
def smallPrimes : List Nat :=
  (List.range 410).filter fun n => 2 ≤ n && (List.range 19).all fun d => n ≤ d + 2 || n % (d + 2) != 0

/-- The largest r below base + 2^n with r^k ≤ v, found bit by bit from the top. -/
def rootBits (k v : Nat) : Nat → Nat → Nat
  | 0, base => base
  | n + 1, base => rootBits k v n (if (base + 2 ^ n) ^ k ≤ v then base + 2 ^ n else base)

/-- The first 64 bits of the fractional part of the k-th root of a prime: how FIPS 180-4 gives its constants. -/
def rootFraction (k p : Nat) : BitVec 64 := BitVec.ofNat 64 (rootBits k (p * 2 ^ (64 * k)) 70 0)

/-- The constants of the 80 rounds: cube roots of the first 80 primes. -/
def shaConstants : List (BitVec 64) := smallPrimes.map (rootFraction 3)

/-- A value of the hash between blocks, and of the working variables within one. -/
structure ShaValue where
  a : BitVec 64
  b : BitVec 64
  c : BitVec 64
  d : BitVec 64
  e : BitVec 64
  f : BitVec 64
  g : BitVec 64
  h : BitVec 64

/-- The value before the first block: square roots of the ninth to the sixteenth prime. -/
def ShaValue.start : ShaValue :=
  let q (i : Nat) := rootFraction 2 (smallPrimes.getD (8 + i) 0)
  ⟨q 0, q 1, q 2, q 3, q 4, q 5, q 6, q 7⟩

/-- The sums Σ and σ of FIPS 180-4: three rotations of a word, or two and a shift. -/
def rotations (x : BitVec 64) (i j k : Nat) : BitVec 64 := x.rotateRight i ^^^ x.rotateRight j ^^^ x.rotateRight k

def rotationsShift (x : BitVec 64) (i j k : Nat) : BitVec 64 := x.rotateRight i ^^^ x.rotateRight j ^^^ (x >>> k)

/-- One round with the sum of its constant and its message word. -/
def ShaValue.turn (v : ShaValue) (kw : BitVec 64) : ShaValue :=
  let into := v.h + kw + rotations v.e 14 18 41 + (v.g ^^^ (v.e &&& (v.f ^^^ v.g)))
  let added := rotations v.a 28 34 39 + (v.a &&& (v.b ||| v.c) ||| v.b &&& v.c)
  { a := into + added, b := v.a, c := v.b, d := v.c, e := v.d + into, f := v.e, g := v.f, h := v.g }

/-- The rounds of one block over a window of the next sixteen message words: each round uses the first of them and adds the word
that follows the window. -/
def ShaValue.rounds : List (BitVec 64) → List (BitVec 64) → ShaValue → ShaValue
  | [], _, v => v
  | k :: ks, window, v =>
    let m (i : Nat) := window.getD i 0
    let following := m 0 + m 9 + rotationsShift (m 1) 1 8 7 + rotationsShift (m 14) 19 61 6
    ShaValue.rounds ks (window.drop 1 ++ [following]) (v.turn (k + m 0))

/-- The value after a block of 128 bytes, its words big-endian. -/
def ShaValue.absorb (v : ShaValue) (block : Bytes) : ShaValue :=
  let t := v.rounds shaConstants ((List.range 16).map fun i => BitVec.ofNat 64 (beNat (slice block (8 * i) 8)))
  ⟨v.a + t.a, v.b + t.b, v.c + t.c, v.d + t.d, v.e + t.e, v.f + t.f, v.g + t.g, v.h + t.h⟩

/-- A message with the bit, the zeros and the length that fill its last block. -/
def shaFilled (m : Bytes) : Bytes :=
  m ++ 0x80 :: zeros ((239 - m.length % 128) % 128) ++ beBytes 16 (m.length * 8)

/-- SHA-384: the first six of the eight words of the last value, 48 bytes. -/
def sha384 (m : Bytes) : Bytes :=
  let all := shaFilled m
  let v := (List.range (all.length / 128)).foldl (fun (v : ShaValue) i => v.absorb (slice all (128 * i) 128)) ShaValue.start
  [v.a, v.b, v.c, v.d, v.e, v.f].flatMap fun w => beBytes 8 w.toNat

/-- HMAC-SHA-384. -/
def hmac384 (key m : Bytes) : Bytes :=
  let k := if key.length > 128 then sha384 key else key
  let k := k ++ zeros (128 - k.length)
  sha384 (k.map (· ^^^ 0x5C) ++ sha384 (k.map (· ^^^ 0x36) ++ m))

/-- First 32 bytes of HKDF-SHA-384 (RFC 5869). -/
def hkdf32 (salt key info : Bytes) : Bytes :=
  let prk := hmac384 (if salt.isEmpty then zeros 48 else salt) key
  (hmac384 prk (info ++ [1])).take 32

/-! ### AES-256 -/

/-- Multiplication by x in GF(2^8). -/
def gfDouble (a : BitVec 8) : BitVec 8 := (a <<< 1) ^^^ (if a.msb then 0x1B else 0)

/-- The S-box of FIPS 197 by rows of sixteen: byte i of a row stands at bits 8i + 7 to 8i. -/
def sboxRows : List Nat :=
  [0x76abd7fe2b670130c56f6bf27b777c63, 0xc072a49cafa2d4adf04759fa7dc982ca, 0x1531d871f1e5a534ccf73f362693fdb7,
   0x75b227ebe28012079a059618c323c704, 0x842fe329b3d63b52a05a6e1b1a2c8309, 0xcf584c4a39becb6a5bb1fc20ed00d153,
   0xa89f3c507f02f94585334d43fbaaefd0, 0xd2f3ff1021dab6bcf5389d928f40a351, 0x73195d643d7ea7c41744975fec130ccd,
   0xdb0b5ede14b8ee4688902a22dc4f8160, 0x79e4959162acd3c25c2406490a3a32e0, 0x08ae7a65eaf4566ca94ed58d6d37c8e7,
   0x8a8bbd4b1f74dde8c6b4a61c2e2578ba, 0x9e1dc186b95735610ef6034866b53e70, 0xdf2855cee9871e9b948ed9691198f8e1,
   0x16bb54b00f2d99416842e6bf0d89a18c]

/-- The S-box of FIPS 197. -/
def sbox (a : BitVec 8) : BitVec 8 := BitVec.ofNat 8 (sboxRows.getD (a.toNat / 16) 0 >>> (8 * (a.toNat % 16)))

/-- Key expansion: words newest first, `i` the index of the next word, n words to make. -/
def aesExpand : Nat → Nat → BitVec 8 → List Bytes → List Bytes
  | 0, _, _, w => w
  | n + 1, i, rcon, w =>
    let prev := w.getD 0 []
    let back := w.getD 7 []
    let t :=
      if i % 8 = 0 then
        let s := (prev.drop 1 ++ prev.take 1).map sbox
        List.zipWith (· ^^^ ·) s [rcon, 0, 0, 0]
      else if i % 8 = 4 then prev.map sbox else prev
    aesExpand n (i + 1) (if i % 8 = 0 then gfDouble rcon else rcon) (List.zipWith (· ^^^ ·) back t :: w)

/-- The fifteen round keys of 16 bytes. -/
def aesKeys (key : Bytes) : List Bytes :=
  let w := (aesExpand 52 8 1 ((List.range 8).map fun i => slice key (4 * i) 4).reverse).reverse
  (List.range 15).map fun r => (List.range 4).flatMap fun j => w.getD (4 * r + j) []

/-- ShiftRows on a column-major state. -/
def aesShift (s : Bytes) : Bytes :=
  (List.range 16).map fun i => s.getD ((i + 4 * (i % 4)) % 16) 0

/-- MixColumns. -/
def aesMix (s : Bytes) : Bytes :=
  (List.range 16).map fun i =>
    let g (k : Nat) := s.getD (i / 4 * 4 + (i + k) % 4) 0
    gfDouble (g 0) ^^^ (gfDouble (g 1) ^^^ g 1) ^^^ g 2 ^^^ g 3

/-- AES-256 encryption of one block of 16 bytes. -/
def aes256 (key block : Bytes) : Bytes :=
  let ks := aesKeys key
  let xor := List.zipWith (fun (a b : Byte) => a ^^^ b)
  let s := (List.range 13).foldl
    (fun s r => xor (aesMix (aesShift (s.map sbox))) (ks.getD (r + 1) [])) (xor block (ks.getD 0 []))
  xor (aesShift (s.map sbox)) (ks.getD 14 [])

/-! ### AES-256-GCM (SP 800-38D) -/

/-- Multiplication in GF(2^128), first bit most significant: n bits of x left. -/
def ghashMul : Nat → BitVec 128 → BitVec 128 → BitVec 128 → BitVec 128
  | 0, _, _, z => z
  | n + 1, x, v, z =>
    ghashMul n (x <<< 1) ((v >>> 1) ^^^ (if v.getLsbD 0 then 0xE1000000000000000000000000000000 else 0))
      (if x.msb then z ^^^ v else z)

/-- Blocks of 16 bytes, the last padded with zeros. -/
def blocks16 : Nat → Bytes → List Bytes
  | 0, _ => []
  | n + 1, m => slice m 0 16 :: blocks16 n (m.drop 16)

/-- GHASH of the authenticated data and the ciphertext. -/
def ghash (h : BitVec 128) (aad ct : Bytes) : BitVec 128 :=
  let parts := blocks16 (ceilDiv aad.length 16) aad ++ blocks16 (ceilDiv ct.length 16) ct
    ++ [beBytes 8 (aad.length * 8) ++ beBytes 8 (ct.length * 8)]
  parts.foldl (fun y b => ghashMul 128 (y ^^^ BitVec.ofNat 128 (beNat b)) h 0) 0

/-- Counter mode from counter block `iv ‖ c`. -/
def gctr (key iv : Bytes) (c : Nat) (m : Bytes) : Bytes :=
  let ks := (List.range (ceilDiv m.length 16)).flatMap fun i => aes256 key (iv ++ beBytes 4 (c + i))
  List.zipWith (· ^^^ ·) m ks

/-- The tag of 16 bytes. -/
def gcmTag (key iv aad ct : Bytes) : Bytes :=
  let h := BitVec.ofNat 128 (beNat (aes256 key (zeros 16)))
  gctr key iv 1 (beBytes 16 (ghash h aad ct).toNat)

/-- Encryption with a 12-byte iv: ciphertext and tag. -/
def gcmEncrypt (key iv aad m : Bytes) : Bytes × Bytes :=
  let ct := gctr key iv 2 m
  (ct, gcmTag key iv aad ct)

/-- Decryption; none where the tag does not verify. -/
def gcmDecrypt (key iv aad ct tag : Bytes) : Option Bytes :=
  if gcmTag key iv aad ct = tag then some (gctr key iv 2 ct) else none

/-! ### P-384 -/

def p384P : Nat := 2 ^ 384 - 2 ^ 128 - 2 ^ 96 + 2 ^ 32 - 1
def p384N : Nat := 0xffffffffffffffffffffffffffffffffffffffffffffffffc7634d81f4372ddf581a0db248b0a77aecec196accc52973
def p384B : Nat := 0xb3312fa7e23ee7e4988e056be3f82d19181d9c6efe8141120314088f5013875ac656398d8a2ed19d2a85c8edd3ec2aef
def p384G : Nat × Nat :=
  (0xaa87ca22be8b05378eb1c71ef320ad746e1d3b628ba79b9859f741e082542a385502f25dbf55296c3a545e3872760ab7,
   0x3617de4a96262c6f5d9e98bf9292dc29f8f41dbd289a147ce9da3113b5f0b8c00a60b1ce1d7e819d7a431d7c90ea0e5f)

/-- a^e mod m, by the bits of e from bit n − 1 down. -/
def powMod (m a e : Nat) : Nat → Nat
  | 0 => 1 % m
  | n + 1 =>
    let r := powMod m a (e / 2) n
    if e % 2 = 1 then r * r % m * a % m else r * r % m

/-- Inverse modulo a prime of at most 384 bits. -/
def invMod (m a : Nat) : Nat := powMod m (a % m) (m - 2) 384

/-- A point of the curve; none is the point at infinity. -/
abbrev Point := Option (Nat × Nat)

/-- Point addition on y² = x³ − 3x + b. -/
def pointAdd : Point → Point → Point
  | none, q => q
  | p, none => p
  | some (x1, y1), some (x2, y2) =>
    if x1 = x2 ∧ (y1 + y2) % p384P = 0 then none
    else
      let l :=
        if x1 = x2 then (3 * x1 * x1 + (p384P - 3)) * invMod p384P (2 * y1) % p384P
        else (y2 + p384P - y1) * invMod p384P (x2 + p384P - x1) % p384P
      let x3 := (l * l + 2 * p384P - x1 - x2) % p384P
      some (x3, (l * (x1 + p384P - x3) + (p384P - y1)) % p384P)

/-- A point in Jacobian coordinates: (X, Y, Z) stands for (X / Z², Y / Z³); Z = 0 for the point at infinity. -/
abbrev JPoint := Nat × Nat × Nat

/-- Doubling in Jacobian coordinates. -/
def jDouble : JPoint → JPoint
  | (x, y, z) =>
    let yy := y * y % p384P
    let zz := z * z % p384P
    let s := 4 * x * yy % p384P
    let m := (3 * x * x + (p384P - 3) * (zz * zz % p384P)) % p384P
    let x' := (m * m + 2 * (p384P - s)) % p384P
    (x', (m * (s + p384P - x') + 8 * (p384P - yy * yy % p384P)) % p384P, 2 * y * z % p384P)

/-- Addition of a point in affine coordinates to one in Jacobian coordinates. -/
def jAdd (p : JPoint) (q : Nat × Nat) : JPoint :=
  match p, q with
  | (x, y, z), (x2, y2) =>
    if z = 0 then (x2, y2, 1)
    else
      let zz := z * z % p384P
      let h := (x2 * zz + (p384P - x)) % p384P
      let r := (y2 * (zz * z % p384P) + (p384P - y)) % p384P
      if h = 0 then (if r = 0 then jDouble p else (1, 1, 0))
      else
        let hh := h * h % p384P
        let v := x * hh % p384P
        let x' := (r * r + (p384P - h * hh % p384P) + 2 * (p384P - v)) % p384P
        (x', (r * (v + p384P - x') + y * (p384P - h * hh % p384P)) % p384P, h * z % p384P)

/-- k·Q in Jacobian coordinates, by the n low bits of k from the highest down. -/
def jMul (q : Nat × Nat) : Nat → Nat → JPoint
  | 0, _ => (1, 1, 0)
  | n + 1, k =>
    let r := jDouble (jMul q n (k / 2))
    if k % 2 = 1 then jAdd r q else r

/-- The affine coordinates of a point. -/
def JPoint.affine : JPoint → Point
  | (x, y, z) =>
    if z = 0 then none
    else
      let i := invMod p384P z
      let ii := i * i % p384P
      some (x * ii % p384P, y * (ii * i % p384P) % p384P)

/-- k·Q by the n low bits of k. -/
def pointMul (n k : Nat) : Point → Point
  | none => none
  | some q => JPoint.affine (jMul q n k)

/-- Whether (x, y) is a valid point of P-384 (R403). -/
def onCurve (x y : Nat) : Bool :=
  decide (x < p384P) && decide (y < p384P) &&
    (y * y % p384P == (x * x * x + (p384P - 3) * x + p384B) % p384P)

/-- ECDSA verification over a SHA-384 digest. -/
def ecdsaVerify (x y : Nat) (digest : Bytes) (r s : Nat) : Bool :=
  if onCurve x y && decide (0 < r ∧ r < p384N ∧ 0 < s ∧ s < p384N) then
    let w := invMod p384N s
    let u1 := beNat digest * w % p384N
    let u2 := r * w % p384N
    match pointAdd (pointMul 384 u1 (some p384G)) (pointMul 384 u2 (some (x, y))) with
    | none => false
    | some (vx, _) => vx % p384N == r
  else false

/-- ECDSA signature of a digest under private key d with nonce k, as (r, s). -/
def ecdsaSign (d k : Nat) (digest : Bytes) : Nat × Nat :=
  match pointMul 384 k (some p384G) with
  | none => (0, 0)
  | some (x, _) =>
    let r := x % p384N
    (r, invMod p384N k * (beNat digest + r * d) % p384N)

/-- ECDH shared x-coordinate (R403). -/
def ecdhX (d x y : Nat) : Nat := ((pointMul 384 d (some (x, y))).getD (0, 0)).1

/-- Bytes of an ASCII string (R399, R403, R404). -/
def ascii (s : String) : Bytes := s.toList.map fun c => BitVec.ofNat 8 c.toNat

end Sys2Proof.Machine
end

