-- ==== Sys2Proof/Machine/Float.lean ====
section
/-! DEFINITION. The element formats of R9, the exact products of R246, the drain rounding of R254 and the
binary32 arithmetic of fast mode (R264). -/

namespace Sys2Proof.Machine

/-- A decoded floating-point value: (−1)^neg × mant × 2^exp, an infinity, or a NaN (R9). -/
inductive FVal where
  | num (neg : Bool) (mant : Nat) (exp : Int)
  | inf (neg : Bool)
  | nan
  deriving DecidableEq, Repr

/-- How a format uses the all-ones exponent (R9). -/
inductive TopExp where
  | ieee
  | nanOnly
  | normal
  deriving DecidableEq, Repr

/-- A format of R9: exponent bits, fraction bits, bias, use of the all-ones exponent. -/
structure FFmt where
  ebits : Nat
  fbits : Nat
  bias : Nat
  top : TopExp
  deriving DecidableEq, Repr

def fp32 : FFmt := ⟨8, 23, 127, .ieee⟩
def fp16 : FFmt := ⟨5, 10, 15, .ieee⟩
def bf16 : FFmt := ⟨8, 7, 127, .ieee⟩
def e4m3 : FFmt := ⟨4, 3, 7, .nanOnly⟩
def e5m2 : FFmt := ⟨5, 2, 15, .ieee⟩
def e2m1 : FFmt := ⟨2, 1, 1, .normal⟩

/-- The value an encoding names (R9). -/
def FFmt.decode (f : FFmt) (v : Nat) : FVal :=
  let neg := v.testBit (f.ebits + f.fbits)
  let e := v / 2 ^ f.fbits % 2 ^ f.ebits
  let m := v % 2 ^ f.fbits
  let top := 2 ^ f.ebits - 1
  if e = top ∧ f.top = .ieee then (if m = 0 then .inf neg else .nan)
  else if e = top ∧ f.top = .nanOnly ∧ m = 2 ^ f.fbits - 1 then .nan
  else if e = 0 then .num neg m (1 - (f.bias : Int) - f.fbits)
  else .num neg (m + 2 ^ f.fbits) ((e : Int) - f.bias - f.fbits)

/-- mant × 2^sh rounded to the nearest integer, ties to even. -/
def roundShift (mant : Nat) (sh : Int) : Nat :=
  if 0 ≤ sh then mant * 2 ^ sh.toNat
  else
    let d := 2 ^ (-sh).toNat
    let q := mant / d
    let r := mant % d
    if 2 * r > d ∨ (2 * r = d ∧ q % 2 = 1) then q + 1 else q

/-- (−1)^neg × mant × 2^exp rounded to a format with infinities, to nearest, ties to even (R254). -/
def FFmt.round (f : FFmt) (neg : Bool) (mant : Nat) (exp : Int) : Nat :=
  let s := if neg then 2 ^ (f.ebits + f.fbits) else 0
  if mant = 0 then s
  else
    let e : Int := (mant.log2 : Int) + exp
    let emin : Int := 1 - f.bias
    let ulp : Int := max e emin - f.fbits
    let n0 := roundShift mant (exp - ulp)
    let carry := n0 = 2 ^ (f.fbits + 1)
    let n := if carry then n0 / 2 else n0
    let ulp := if carry then ulp + 1 else ulp
    if n < 2 ^ f.fbits then s + n
    else
      let ef := (ulp + f.fbits + f.bias).toNat
      if ef ≥ 2 ^ f.ebits - 1 then s + (2 ^ f.ebits - 1) * 2 ^ f.fbits
      else s + ef * 2 ^ f.fbits + (n - 2 ^ f.fbits)

/-- The value format of a pair record (R244). -/
def pairFormat (code : Nat) : FFmt :=
  match code with
  | 0 => fp32
  | 1 => bf16
  | 2 => fp16
  | 3 => e4m3
  | _ => e5m2

/-- Bits a value format occupies (R244). -/
def pairWidth (code : Nat) : Nat :=
  match code with
  | 0 => 32
  | 1 => 16
  | 2 => 16
  | _ => 8

/-- What a pair contributes in exact mode (R246–R248). -/
inductive Contribution where
  | add (p : Int) (flushed : Bool)
  | poison
  | rangeFault
  deriving DecidableEq, Repr

/-- The exact product of two finite values, as sign, magnitude and exponent. -/
def fmul (a b : FVal) : FVal :=
  match a, b with
  | .num n1 m1 e1, .num n2 m2 e2 => .num (n1 != n2) (m1 * m2) (e1 + e2)
  | _, _ => .nan

/-- The integer contribution of a product (R246, R247, R248). -/
def contribution (v w : FVal) : Contribution :=
  match fmul v w with
  | .num neg m e =>
    if m ≠ 0 ∧ (m.log2 : Int) + e ≥ 96 then .rangeFault
    else
      let p := roundShift m (e + 126)
      .add (if neg then -(p : Int) else p) (m ≠ 0 ∧ p = 0)
  | _ => .poison

/-- The poison marker (R241). -/
def poisonWord : BitVec 256 := BitVec.ofNat 256 (2 ^ 255)

/-- A ← A + P (R250): none where the exact sum leaves the range of R241. -/
def addWord (a : BitVec 256) (p : Int) : Option (BitVec 256) :=
  let s := a.toInt + p
  if -(2 ^ 255 : Int) < s ∧ s < 2 ^ 255 then some (BitVec.ofInt 256 s) else none

/-- Drain formats (R251): 0 FP32, 1 BF16, 2 FP16. -/
def drainFormat (code : Nat) : FFmt :=
  match code with
  | 0 => fp32
  | 1 => bf16
  | _ => fp16

/-- Bytes of a drained element (R251). -/
def drainBytes (code : Nat) : Nat := if code = 0 then 4 else 2

/-- The encoding of a poisoned element or a NaN in a drain (R254). -/
def drainNaN (code : Nat) : Nat :=
  match code with
  | 0 => 0x7FC00000
  | 1 => 0x7FC0
  | _ => 0x7E00

/-- Whether an encoding of a drain format is an infinity. -/
def isInf (f : FFmt) (v : Nat) : Bool := v % 2 ^ (f.ebits + f.fbits) == (2 ^ f.ebits - 1) * 2 ^ f.fbits

/-- A drain never produces −0 (R254; log entry 117). -/
def plusZero (f : FFmt) (v : Nat) : Nat := if v % 2 ^ (f.ebits + f.fbits) = 0 then 0 else v

/-- An exact element rounded once to a drain format (R254). -/
def drainWord (code : Nat) (a : BitVec 256) : Nat :=
  if a = poisonWord then drainNaN code
  else
    let i := a.toInt
    plusZero (drainFormat code) ((drainFormat code).round (decide (i < 0)) i.natAbs (-126))

/-! ### Fast mode (R264) -/

/-- Canonical quiet NaN. -/
def qnan32 : Nat := 0x7FC00000

/-- binary32 of a finite or special value, rounded to nearest, ties to even. -/
def toFp32 : FVal → Nat
  | .num n m e => fp32.round n m e
  | .inf n => (if n then 0x80000000 else 0) + 0x7F800000
  | .nan => qnan32

/-- v × w rounded to binary32; infinities follow IEEE 754. -/
def fastMul (v w : FVal) : Nat :=
  match v, w with
  | .nan, _ => qnan32
  | _, .nan => qnan32
  | .inf a, .inf b => toFp32 (.inf (a != b))
  | .inf a, .num b m _ => if m = 0 then qnan32 else toFp32 (.inf (a != b))
  | .num a m _, .inf b => if m = 0 then qnan32 else toFp32 (.inf (a != b))
  | v, w => toFp32 (fmul v w)

/-- Sum of two binary32 numbers, rounded to nearest, ties to even. -/
def fastAdd (x y : Nat) : Nat :=
  match fp32.decode x, fp32.decode y with
  | .nan, _ => qnan32
  | _, .nan => qnan32
  | .inf a, .inf b => if a = b then toFp32 (.inf a) else qnan32
  | .inf a, _ => toFp32 (.inf a)
  | _, .inf b => toFp32 (.inf b)
  | .num n1 m1 e1, .num n2 m2 e2 =>
    let e := min e1 e2
    let s1 : Int := (if n1 then -1 else 1) * (m1 * 2 ^ (e1 - e).toNat : Nat)
    let s2 : Int := (if n2 then -1 else 1) * (m2 * 2 ^ (e2 - e).toNat : Nat)
    let s := s1 + s2
    if s = 0 then (if n1 && n2 then 0x80000000 else 0)
    else fp32.round (decide (s < 0)) s.natAbs e

/-- Quotient of two positive finite binary32 values rounded to binary32 (R221): 64 extra bits and a sticky bit
keep the rounding exact. -/
def fp32Div (x y : Nat) : Nat :=
  match fp32.decode x, fp32.decode y with
  | .num n1 m1 e1, .num n2 m2 e2 =>
    if m2 = 0 then (if m1 = 0 then qnan32 else toFp32 (.inf (n1 != n2)))
    else
      let q := m1 * 2 ^ 64 / m2
      let r := m1 * 2 ^ 64 % m2
      fp32.round (n1 != n2) (2 * q + b2n (decide (r ≠ 0))) (e1 - e2 - 65)
  | .nan, _ => qnan32
  | _, .nan => qnan32
  | .inf _, .inf _ => qnan32
  | .inf a, .num b _ _ => toFp32 (.inf (a != b))
  | .num a _ _, .inf b => if a != b then 0x80000000 else 0

/-- A drained fast element (R264): FP32 copies, BF16 and FP16 round once. -/
def drainFast (code : Nat) (x : Nat) : Nat :=
  match fp32.decode x with
  | .nan => drainNaN code
  | .inf n => if code = 0 then x else (drainFormat code).round n 1 1000
  | .num n m e => if code = 0 then x else plusZero (drainFormat code) ((drainFormat code).round n m e)

end Sys2Proof.Machine
end

