-- ==== Sys2Proof/Machine/State.lean ====
section
/-! DEFINITION. The state of one Puska instance, as plain data. Each field's comment gives its name, width,
rule and reset value; INVENTORY.md lists the same fields under '## State'. -/

namespace Sys2Proof.Machine

/-- Nothing in this model stops with a fault: the spec gives every command an outcome that the die survives. The
one constructor keeps the type inhabited; no meaning raises it (safe). -/
inductive Fault where
  | none
  deriving DecidableEq, Repr

/-- Why a command has no meaning. `notModelled` is raised by the dispatcher alone, for a command not reached yet (safe). -/
inductive Refusal where
  | notModelled (mnemonic : String)
  deriving DecidableEq, Repr

/-- Memory: (address, byte) pairs in rising address order with no zero byte listed; an unlisted address
reads as zero (log entry 1). -/
abbrev Memory := List Host.Cell

/-! ### Records, log entries, tasks -/

/-- The kind-dependent part of a completion record (R456). -/
inductive RecDetail where
  | none
  | loadSlot (slot : Nat)
  | step (step status template startTick ndet mask igauge sequences : Nat)
  | miss (globalId deadline ticks step causes : Nat)
  | lengthLimit (globalId step : Nat)
  | exported (globalId pages frameBytes first : Nat)
  | dumped (reason nameId step dest : Nat)
  | teardown (code : Nat)
  | firmware (event old new : Nat)
  deriving DecidableEq, Repr, Inhabited

/-- The fault that ended a context (R397). -/
structure FaultInfo where
  code : Nat := 0
  scope : Nat := 0
  stamp : Nat := 0
  peer : Bool := false
  fenced : Bool := false
  phase : Nat := 0
  member : Nat := 0
  /-- The CMID of the record: zero for a single-member context or a die record. -/
  cmid : Nat := 0
  /-- Layer and operator id of the task concerned, for the trigger record (R424). -/
  ids : Nat × Nat := (0xFFFF, 0xFFFF)
  task : Nat := 0
  core : Nat := 0xFF
  endStatus : Nat := 0
  later : Nat := 0
  detail1 : Nat := 0
  detail2 : Nat := 0
  deriving DecidableEq, Repr, Inhabited

/-- A completion record before its time-stamp and sequence are known (R455). -/
structure Rec where
  kind : Nat := 1
  reason : Nat := 0
  cxid : Nat := 0
  /-- The context slot the record is filed under; none for a die record (R458). -/
  ctx : Option (Fin 16) := none
  slot : Nat := 0xFF
  tag : BitVec 64 := 0
  taken : Nat := 0
  subKind : Nat := 0
  detail : RecDetail := .none
  payload : Bytes := []
  /-- First die tick at whose start the record may be written. -/
  due : Nat := 0
  /-- A fault record's content, formed into its payload when the record falls due (R397). -/
  fault : Option FaultInfo := none
  /-- A run record is formed when it falls due; whether it is final (R382). -/
  runFinal : Bool := false
  deriving DecidableEq, Repr, Inhabited

/-- A steward log entry (R409). -/
structure LogEntry where
  stamp : Nat := 0
  seq : Nat := 0
  kind : Nat := 0
  severity : Nat := 0
  payload : Bytes := []
  deriving DecidableEq, Repr, Inhabited

/-- What a service task that Puska creates itself does when it ends (R233, R290, R435). -/
inductive Service where
  | node
  | serve (expertId offset length : Nat) (members : List (Nat × Nat × Nat × Nat))
  | staging (node index : Nat)
  | move (seq gen group layer page tier frame : Nat)
  | importPage (seq group layer page : Nat)
  | exportPage (seq group layer page : Nat)
  | dump (nameId dest : Nat)
  deriving DecidableEq, Repr, Inhabited

/-- A task instance as the sequencer carries it: its name (R101), what the ordering key needs (R130), its span,
energy class, flow (R122) and placement, and for service tasks what they do. -/
structure Task where
  slot : Fin 16 := 0
  step : Nat := 0
  template : Nat := 0
  node : Nat := 0
  fanout : Nat := 0
  count : Nat := 1
  kind : NodeKind := .compute
  be : Bool := false
  rank : Nat := 0
  span : Nat := 1
  energy : Nat := 0
  flow : Option Nat := none
  floating : Bool := false
  mask : BitVec 64 := 0
  layer : Nat := 0xFFFF
  operatorId : Nat := 0xFFFF
  service : Service := .node
  epoch : Nat := 0
  deriving DecidableEq, Repr, Inhabited

/-- State of a pond entry (R23–R26, R497). `starting` is a valid entry whose start signal is asserted. -/
inductive EntryState where
  | free
  | loading
  | valid
  | invalid
  | starting
  | inService
  deriving DecidableEq, Repr, Inhabited

/-- A pond entry: state; the task; the order of placement; the slots left of the span in service (R140); the end
report held until the end boundary (R25); whether the window has closed; the 128 B dispatch form and the
64 B argument head Puska supplies itself (R95, R228, R231, R282, R288). -/
structure PondEntry where
  state : EntryState := .free
  task : Task := {}
  order : Nat := 0
  slotsLeft : Nat := 0
  startAc : Nat := 0
  report : Option EndReport := none
  windowClosed : Bool := false
  form : Bytes := []
  argHead : Bytes := []
  /-- The SPAD_WR that carries the argument reads of its load, with the first ac of the reads and the ac after the last (R121, R418). -/
  argPort : Nat × Nat × Nat := (8, 0, 0)
  deriving DecidableEq, Repr, Inhabited

/-- A CNT_WAIT in force (R164): the first ac at which its target was reached, once it is. -/
structure CntWait where
  vid : Nat
  target : Nat
  reached : Option Nat := none
  /-- ac at which the wait came into force. -/
  at_ : Nat := 0
  deriving DecidableEq, Repr, Inhabited

/-- A SEND not yet accepted (R193, R194). -/
structure SendWait where
  ring : Nat
  units : Nat
  tag : Nat
  check : Bool
  epoch : Nat
  payload : Bytes
  /-- ac at which it was issued. -/
  at_ : Nat := 0
  /-- ac of a test for acceptance that is not yet made: the tests of one ac are made in ascending LCID (R193). -/
  test : Option Nat := none
  deriving DecidableEq, Repr, Inhabited

/-- A RECV waiting for a message (R197). -/
structure RecvWait where
  rings : List Nat
  rotation : Bool
  since : Nat
  deriving DecidableEq, Repr, Inhabited

/-- What a counter command between acceptance and effect does (R164). -/
inductive CntKind where
  | inc (n : Nat)
  | take
  | read
  | wait (target : Nat)
  | ripple (dest n : Nat) (dmv1 : Bool)
  /-- A TRACE_MARK before its effect (R428): value, trigger bit, layer and operator of its task. -/
  | mark (value : Nat) (trigger : Bool) (layer op : Nat)
  deriving DecidableEq, Repr, Inhabited

/-- Whether a command in flight changes no counter of its own die. -/
def CntKind.isRipple : CntKind → Bool
  | .ripple _ _ _ => true
  | .mark _ _ _ _ => true
  | _ => false

/-- A counter command between acceptance and effect (R164); `due` is none while R253 keeps it from acceptance. -/
structure CntOp where
  lcid : Nat
  slot : Fin 16
  vid : Nat
  kind : CntKind
  due : Option Nat := none
  epoch : Nat := 0
  /-- Commands of the named mover in progress when a ripple was issued, which it follows (R175). -/
  movers : List Nat := []
  /-- Pairs its core had offered when it was issued (R253). -/
  after : Nat := 0
  deriving DecidableEq, Repr, Inhabited

/-- A channel command between acceptance and effect, 1 ac later (R190, R191, R197, R198). -/
inductive ChanKind where
  | open_ (persist : Bool)
  | close
  | recv (rings : List Nat) (rotation poll : Bool)
  | release
  deriving DecidableEq, Repr, Inhabited

/-- A command of the command lane of CHAN_SEND that waits behind a stalled SEND (R164, R187, R194): a counter command with the pairs its core
had offered and the mover commands in progress at its issue, a receiver's command with its code, a SEND, a marker. -/
inductive LaneCmd where
  | counter (code vid : Nat) (translate zero : Bool) (kind : CntKind) (after : Nat) (movers : List Nat)
  | receiver (code : Nat) (rings : List Nat) (kind : ChanKind)
  | send (w : SendWait)
  | mark (value : Nat) (trigger : Bool)
  deriving DecidableEq, Repr, Inhabited

/-- One compute core as Puska sees it over POND_IF, CORE_CTL, CHAN_SEND and INLET_WR. -/
structure Core where
  /-- Pond entries 0 and 1 (R497); reset free. -/
  e0 : PondEntry := {}
  e1 : PondEntry := {}
  /-- Halted through CORE_CTL (R26, R497); the boundary acknowledgement and the drained acknowledgement. -/
  halted : Bool := false
  boundaryReached : Bool := false
  drained : Bool := false
  /-- Waits of the task in service. -/
  cntWait : Option CntWait := none
  sendWait : Option SendWait := none
  recvWait : Option RecvWait := none
  /-- Commands behind a SEND that stalls DMV0 (R194). -/
  laneQueue : List LaneCmd := []
  /-- List position at which the task's next rotation-mode RECV begins (R197). -/
  rotNext : Nat := 0
  /-- Pairs offered on CFL_IN and not yet accepted (R263), and how many have been offered in all (R253). -/
  offers : List (BitVec 128) := []
  offered : Nat := 0
  /-- Records the inlet has not accepted (R208, R309). -/
  inletWait : List (BitVec 64) := []
  /-- Engine commands the task has issued, and those in progress with their numbers, for R426. -/
  commands : Nat := 0
  engines : List (Engine × Nat) := []
  /-- Pairs and inlet records of the task, for soundings 7 and 8 (R429). -/
  inletCount : Nat := 0
  pairCount : Nat := 0
  /-- Mover service task in service: its argument block as its routine read it, and the entries completed (R30–R34, R512). -/
  moverBlock : Option Bytes := none
  moved : List Nat := []
  /-- The CRC the mover has reported for the page its task copies; the ledger takes it if the task ends normally (R291). -/
  crc : Option (BitVec 16) := none
  /-- The generator key register (R378): the context seed, or nothing. -/
  genKey : Bytes := []
  deriving DecidableEq, Repr, Inhabited

/-- State of a thread frame (R497). -/
inductive FrameState where
  | free
  | loading
  | ready
  | running
  | onFlags (mask : BitVec 24) (any : Bool)
  | onCounter (vid target : Nat)
  | halted
  | ending
  deriving DecidableEq, Repr, Inhabited

/-- A command a thread has issued and that takes effect at the next slot boundary (R154). -/
inductive ThreadCmd where
  | setFlags (nextStep : Bool) (node : Nat) (flags : BitVec 32)
  | waitFlags (mask : BitVec 24) (any : Bool)
  | waitCounter (vid target : Nat)
  | yield
  | endThread (status : Nat)
  | break_ (id : Nat)
  | reserved (code : Nat)
  deriving DecidableEq, Repr, Inhabited

/-- A thread frame (R153): state, thread, slots left of its slice (R157), commands not yet in effect. -/
structure Frame where
  state : FrameState := .free
  task : Task := {}
  slice : Nat := 0
  /-- Whether the thread has been switched in since it was placed. -/
  started : Bool := false
  commands : List ThreadCmd := []
  /-- The slot count at which its last wait began (R440). -/
  since : Nat := 0
  deriving DecidableEq, Repr, Inhabited

/-! ### Graph state of a context -/

/-- State of a node instance (the table after R101). -/
inductive InstState where
  | waiting
  | resolved
  | inService
  | complete
  | retired
  deriving DecidableEq, Repr, Inhabited

/-- A node instance (R98): its dependency count, flag word, armed watch target, resolved count, the next
unplaced fan-out index, the instances ended, and the extra dump edges it must release (R435). -/
structure NodeInst where
  state : InstState := .waiting
  deps : Nat := 0
  flags : BitVec 32 := 0
  watch : Option Nat := none
  /-- The boundary count at which the watch was armed (R113). -/
  armedAt : Nat := 0
  count : Nat := 0
  placed : Nat := 0
  /-- Fan-out indices whose pond entry was flushed and that await placement again (R26). -/
  returned : List Nat := []
  ended : Nat := 0
  deriving DecidableEq, Repr, Inhabited

/-- A sequence of a die batch as a step sees it (R276, R282). -/
structure BatchSeq where
  seq : Nat
  globalId : Nat
  before : Nat
  tokens : Nat
  first : Bool
  last : Bool
  deriving DecidableEq, Repr, Inhabited

/-- What began a context's halt and its waits: layer and operator id of the breaking thread, for the records of the halt and of the
resume (R424), the slot count at which the ready-pool stall began, and the ac at which the wait for horizon credits did (R440). -/
structure Began where
  haltIds : Nat × Nat := (0xFFFF, 0xFFFF)
  pool : Nat := 0
  credits : Nat := 0
  /-- The rates of its pages as an Empty slot keeps them (R479, R490). -/
  rates : Nat × Nat × Nat × Nat := (0, 0, 0, 0)
  deriving DecidableEq, Repr, Inhabited

/-- A wait in force, as the wait-for graph names it (R439, R440): waiter, kind, object, the ac or count that sets it apart from a
later wait of the same kind, and the context tick at which it began. -/
structure WaitMark where
  waiter : Nat
  kind : Nat
  object : Nat
  mark : Nat
  since : Nat
  deriving DecidableEq, Repr, Inhabited

/-- A step in flight (R99): its template, instances, cancellation, batch, and what its completion record needs
(R370, R456, R457). -/
structure StepRun where
  step : Nat := 0
  template : Nat := 0
  insts : List NodeInst := []
  cancelled : Bool := false
  startTick : Nat := 0
  /-- Boundary count of the step's first slot. -/
  startSlot : Nat := 0
  ndetStart : Nat := 0
  mask : BitVec 16 := 0
  igaugeStart : Nat := 0
  causes : BitVec 16 := 0
  batch : List BatchSeq := []
  deriving DecidableEq, Repr, Inhabited

/-- A service task not yet placed: `ready` once it may take a ready-pool entry. -/
structure Aux where
  task : Task
  ready : Bool := true
  /-- Whether it holds a ready-pool entry (R129). -/
  pooled : Bool := false
  /-- Dump tasks: the node whose completion frees it. -/
  after : Option Nat := none
  deriving DecidableEq, Repr, Inhabited

/-- A counter of a context (R161, R162): virtual id, declaration, and its value (48 bits) in two copies. -/
structure Counter where
  decl : CounterDecl := {}
  physical : Nat := 0
  value : Nat := 0
  copy : Nat := 0
  deriving DecidableEq, Repr, Inhabited

/-- A message in a ring, from the release pointer on (R186). -/
structure RingMsg where
  units : Nat
  header : Nat
  written : Bool := false
  delivered : Bool := false
  /-- ac of the write pointer advance over it (R195). -/
  writtenAt : Nat := 0
  deriving DecidableEq, Repr, Inhabited

/-- A ring (R185). -/
structure Ring where
  decl : RingDecl := {}
  isOpen : Bool := false
  persist : Bool := false
  epoch : Nat := 0
  reserve : Nat := 0
  write : Nat := 0
  delivery : Nat := 0
  release : Nat := 0
  seq : Nat := 0
  msgs : List RingMsg := []
  deriving DecidableEq, Repr, Inhabited

/-! ### Routing, confluence, ledger -/

/-- State of a residency slot (R229). -/
inductive ResState where
  | empty
  | arriving
  | resident
  deriving DecidableEq, Repr, Inhabited

/-- A residency entry: its group (LCID and base, R213), index, state, expert and last-use step. -/
structure ResEntry where
  lcid : Nat
  base : Nat
  index : Nat
  state : ResState := .empty
  expertId : Nat := 0
  lastUse : Nat := 0
  /-- Step and layer of the job that made it arriving (R230, R238). -/
  job : Option (Nat × Nat) := none
  deriving DecidableEq, Repr, Inhabited

/-- An entry of a published list (R225). -/
structure ListEntry where
  token : Nat
  rank : Nat
  spill : Bool
  weight : BitVec 16
  deriving DecidableEq, Repr, Inhabited

/-- One expert's published list (R224): entries, and for a local expert whether it kept a resident slot
(subset 1 of R226), and the slot index. -/
structure PubList where
  expertId : Nat
  entries : List ListEntry
  resident : Bool := false
  victim : Bool := false
  slot : Nat := 0
  deriving DecidableEq, Repr, Inhabited

/-- An inlet packet (R203–R206). -/
structure Packet where
  slot : Fin 16 := 0
  step : Nat := 0
  epoch : Nat := 0
  lcid : Nat := 0
  openRec : BitVec 64 := 0
  records : List (BitVec 64) := []
  closed : Bool := false
  dropped : Bool := false
  deriving DecidableEq, Repr, Inhabited

/-- A routing job (R214): its layer, step, token count and collection boundary; its packets; from its start on the ac
of the start, the words its engine reads, the context slots left to publication (R215) and the pass's outcome (R217):
lists, spills, drops, tokens without assignment, a failed renormalisation count; once published the fetch list (R231). -/
structure Job where
  layer : Nat
  step : Nat
  tokens : Nat
  collected : Nat
  packets : List Packet := []
  started : Bool := false
  startAc : Nat := 0
  words : Nat := 0
  slotsLeft : Nat := 0
  /-- Whether the engine has written the lists (R215). -/
  written : Bool := false
  published : Bool := false
  lists : List PubList := []
  spills : Nat := 0
  dropped : Nat := 0
  unassigned : Nat := 0
  renormSkipped : Nat := 0
  fetch : List Nat := []
  deriving DecidableEq, Repr, Inhabited

/-- A confluence region of a context (R242): non-zero accumulator words by element index (R240); in fast mode the
binary32 element stands in bits 31:0 (R264). -/
structure Region where
  cluster : Fin 8 := 0
  cores : List Nat := []
  address : Nat := 0
  length : Nat := 0
  elements : Nat := 0
  words : List (Nat × BitVec 256) := []
  deriving DecidableEq, Repr, Inhabited

/-- An entry of an intake (R244): owner slot, epoch, issuing LCID for a local entry, element index, contribution;
a local pair with remote set carries its destination. -/
structure IntakeEntry where
  slot : Fin 16 := 0
  epoch : Nat := 0
  lcid : Nat := 0
  index : Nat := 0
  item : CflItem := .wide 0
  /-- Sender and virtual channel of a remote entry (R258), and its order of arrival. -/
  sender : Nat := 0
  vc : Nat := 0
  order : Nat := 0
  /-- ac of acceptance of a local entry (R252). -/
  accepted : Nat := 0
  /-- Place of a pair among those its core has offered (R253). -/
  seq : Option Nat := none
  /-- An entry for the own instance that waits for a credit of the remote part (R515). -/
  waits : Bool := false
  deriving DecidableEq, Repr, Inhabited

/-- What a confluence command does (R251). -/
inductive CflOp where
  | drain (format dest : Nat) (clear : Bool)
  | exportTo (dest cluster first : Nat) (clear : Bool)
  | clear
  deriving DecidableEq, Repr, Inhabited

/-- A confluence command waiting or running (R252). -/
structure CflCmd where
  slot : Fin 16 := 0
  lcid : Nat := 0
  first : Nat := 0
  count : Nat := 0
  op : CflOp := .clear
  epoch : Nat := 0
  effective : Nat := 0
  /-- Pairs its core had offered when it was issued (R263). -/
  after : Nat := 0
  deriving DecidableEq, Repr, Inhabited

/-- A cluster's confluence unit: the two parts of its intake, their stalls and the credits granted for the remote part (R263, R149,
R515), commands behind pairs not yet accepted, waiting commands, the command or scrub that runs, with the ac at which it ends
(R252, R261); a scrub asked for, with the ac of its boundary. -/
structure CflUnit where
  localPart : List IntakeEntry := []
  remotePart : List IntakeEntry := []
  localStalled : Bool := false
  remoteStalled : Bool := false
  remoteCredit : Nat := 2048
  behind : List CflCmd := []
  waiting : List CflCmd := []
  running : Option Nat := none
  /-- What is left of the command that runs, and the poisoned elements it has met (R252). -/
  current : Option CflCmd := none
  poisoned : Nat := 0
  scrubFor : Option (Fin 16) := none
  scrubMark : Nat := 0
  scrubUntil : Option Nat := none
  deriving DecidableEq, Repr, Inhabited

/-- A page of a sequence (R271). -/
structure Page where
  group : Nat := 0
  layer : Nat := 0
  page : Nat := 0
  tier : Nat := 0
  frame : Nat := 0
  address : Nat := 0
  valid : Nat := 0
  crcValid : Bool := false
  crc : BitVec 16 := 0
  moving : Bool := false
  deriving DecidableEq, Repr, Inhabited

/-- A table block: the layer map, a root or a leaf (R269), with what it stands for. -/
structure Block where
  number : Nat
  /-- 0 layer map, 1 root, 2 leaf. -/
  level : Nat
  group : Nat := 0
  layer : Nat := 0
  index : Nat := 0
  deriving DecidableEq, Repr, Inhabited

/-- A sequence of the ledger (R270) with its pages and table blocks, its deadline if admitted LC (R315), its
placement group position data for an export (R453). -/
structure Seq where
  id : Nat := 0
  globalId : Nat := 0
  /-- 0 free (an import in progress), 1 active, 2 leaving, 3 exporting. -/
  state : Nat := 1
  imported : Bool := false
  use : Nat := 0
  maxTokens : Nat := 1
  tokens : Nat := 0
  joinStep : Nat := 0
  lastStep : Nat := 0
  resFrames : Nat := 0
  resBlocks : Nat := 0
  deadline : Option Nat := none
  pages : List Page := []
  blocks : List Block := []
  /-- Export: host base and stride of its leave, if it exports. -/
  export_ : Option (Nat × Nat) := none
  hostAddr : Nat := 0
  position : Nat := 0
  leaving : Bool := false
  /-- The submission that imports it, until import complete (R280), and the die tick it was taken. -/
  importSub : Option (SubHdr × Nat) := none
  /-- Import or export tasks not yet ended. -/
  pendingTasks : Nat := 0
  /-- Which of the sequences that have had this id it is (R299). -/
  gen : Nat := 0
  deriving DecidableEq, Repr, Inhabited

/-- A planned staging task (R292): the node, its index, sequence, pages, stage bytes, position; whether its task has
been made ready and whether the block is staged (R294) and released (R295). -/
structure Stage where
  step : Nat
  node : Nat
  index : Nat
  seq : Nat
  block : Nat
  firstPage : Nat
  pages : Nat
  bytes : Nat
  tokens : Nat
  position : Nat
  /-- The span of its task, as its node gives it. -/
  span : Nat := 1
  /-- Context slots left to the issue offset (R292). -/
  issueIn : Nat
  issued : Bool := false
  /-- Its task has ended, with whatever status (R298 step 3). -/
  ended : Bool := false
  staged : Bool := false
  released : Bool := false
  deriving DecidableEq, Repr, Inhabited

/-- A pool of page frames (R266, R268). -/
structure Pool where
  tier : Nat
  lcid : Nat := 0
  address : Nat
  frames : Nat
  length : Nat := 0
  deriving DecidableEq, Repr, Inhabited

/-- The ledger of a context (R266–R301). -/
structure Ledger where
  /-- Ledger area address and its table blocks (R266). -/
  area : Nat := 0
  /-- The area's length as declared, which the scrub covers whole (R301). -/
  areaLength : Nat := 0
  blocks : Nat := 0
  pageTokens : Nat := 64
  /-- (layers, bytes per token per layer) of each state group. -/
  groups : List (Nat × Nat) := []
  pools : List Pool := []
  frameBytes : Nat := 0
  seqs : List Seq := []
  /-- Sequences entered so far. -/
  entered : Nat := 0
  stages : List Stage := []
  /-- Next position of each staging region, as (LCID, region, position) (R288). -/
  positions : List (Nat × Nat × Nat) := []
  /-- Ledger tasks created, as (node index, step, count) (R290). -/
  created : List (Nat × Nat × Nat) := []
  deriving DecidableEq, Repr, Inhabited

/-! ### Observation -/

/-- Capture state (R431, R492). -/
inductive Capture where
  | idle
  | armed
  | triggered
  | stopped
  deriving DecidableEq, Repr, Inhabited

/-- A chunk being written (R420): serial, payload, used bytes, flags, the slot count at which its write ends. -/
structure Chunk where
  serial : Nat
  used : Nat
  trigger : Bool
  final : Bool
  padded : Bool
  bytes : Bytes
  ends : Nat := 0
  deriving DecidableEq, Repr, Inhabited

/-- A record in a capture queue (R418): its stamp, its place among records of one stamp, whether it is the trigger
record of the capture, its bytes. -/
structure TraceRec where
  stamp : Nat
  order : Nat
  trigger : Bool
  bytes : Bytes
  deriving DecidableEq, Repr, Inhabited

/-- The trace unit of a context (R416–R432). A record is its bytes. -/
structure Trace where
  /-- Controls in force since the last context tick start (R415). -/
  effective : BitVec 64 := 0
  /-- The written value of CTX_TRACE_CTRL; reset sample_log2 10, post_share 8 (R492). -/
  ctrl : BitVec 64 := 0x1028
  armPending : Bool := false
  flushPending : Bool := false
  capture : Capture := .idle
  drainSlot : Bool := false
  nextSerial : Nat := 1
  /-- First serial of the capture, and the serial of the chunk with the trigger (c_t). -/
  startSerial : Nat := 1
  centre : Option Nat := none
  /-- The capture queue (R418, 256 records), and the bytes of its front record already written to the ring. -/
  queue : List TraceRec := []
  queued : Nat := 0
  /-- Undrained records, oldest first; true marks a trigger record. -/
  ring : List (Bool × Bytes) := []
  written : Nat := 0
  chunk : Option Chunk := none
  lost : Nat := 0
  lossRecords : Nat := 0
  /-- Losses since the last loss record: count, first and last stamp, causes. -/
  pendingLoss : Option (Nat × Nat × Nat × Nat) := none
  /-- Sample count of R425. -/
  samples : Nat := 0
  sel : List Nat := [0, 0, 0, 0, 0, 0, 0, 0]
  selEffective : List Nat := [0, 0, 0, 0, 0, 0, 0, 0]
  /-- Observation value (R494), 48 B. -/
  digest : Bytes := List.replicate 48 0
  /-- A trigger record falls in the chunk being collected (R421). -/
  triggered : Bool := false
  deriving DecidableEq, Repr, Inhabited

/-- A dump request (R434). -/
structure DumpReq where
  nameId : Nat
  step : Nat
  dest : Nat
  length : Nat
  taken : Bool := false
  deriving DecidableEq, Repr, Inhabited

/-! ### Headwater, freeze, lock-step -/

/-- A sequence the headwater has admitted (R315). -/
structure Admitted where
  globalId : Nat
  maxTokens : Nat
  be : Bool
  deadline : Nat
  group : Nat
  leaving : Bool := false
  /-- tokens_step of its next step (R350). -/
  tokens : Nat := 1
  deriving DecidableEq, Repr, Inhabited

/-- A step submission with steps left (R352). -/
structure StepSub where
  hdr : SubHdr
  taken : Nat
  template : Nat
  left : Nat
  deriving DecidableEq, Repr, Inhabited

/-- A submission whose outcome record waits for a later tick start. -/
structure Waiting where
  hdr : SubHdr
  taken : Nat
  sub : Sub
  /-- The step it was named in, where it waits for a step to take effect. -/
  step : Nat := 0
  /-- A rotation asked for it, not firmware: it has no outcome record (R337). -/
  auto : Bool := false
  /-- The payload bytes as received; none where a command brings the submission itself (R384). -/
  payload : Bytes := []
  deriving DecidableEq, Repr, Inhabited

/-- The headwater's state for a context (R347–R353). -/
structure Headwater where
  nextStep : Nat := 0
  stepSubs : List StepSub := []
  changes : List Waiting := []
  admitted : List Admitted := []
  /-- Sequences that leave, with the step they leave at, until every member has reported it (R277, R279). -/
  gone : List (Nat × Admitted) := []
  /-- (member index, step) of the reports in effect. -/
  reports : List (Nat × Nat) := []
  /-- (member index, b, r1, r2) of the latest report. -/
  rates : List (Nat × Nat × Nat × Nat) := []
  /-- (member index, blocked). -/
  blocked : List (Nat × Bool) := []
  /-- (member index, context tick of the last control message sent). -/
  lastSent : List (Nat × Nat) := []
  summaries : List (Nat × MemberSummary) := []
  /-- Joins in effect: (member index, hash equal); refusals: (member index, code). -/
  joins : List (Nat × Bool) := []
  refusals : List (Nat × Nat) := []
  restored : List (Nat × Bool) := []
  /-- Cancelled steps whose reports are awaited (R351). -/
  cancelWait : List Nat := []
  started : List Nat := []
  decided : Bool := false
  deriving DecidableEq, Repr, Inhabited

/-- Stages of a freeze (R320–R323) and of a thaw (R329). -/
inductive FreezeStage where
  | none
  | scheduled (tick : Nat)
  | draining
  | saving (ends : Nat)
  | scrubbing (ends : Nat)
  | restoring (ends : Nat)
  | restored
  deriving DecidableEq, Repr, Inhabited

/-- Lock-step state of a context (R355–R358, R506). -/
structure LockState where
  active : Bool := false
  peer : Nat := 0
  peerCmid : Nat := 0
  lists : List (Nat × List DigestEntry) := []
  /-- Entries of the tick in progress, each behind its place in the order of R356. -/
  current : List (Nat × DigestEntry) := []
  peerDigests : List (Nat × BitVec 64) := []
  peerLists : List (Nat × List DigestEntry) := []
  compared : Nat := 0
  /-- Tick at which the digests differed. -/
  diverged : Option Nat := none
  /-- Completion records of steps that completed in a context tick, until its digest has compared equal (R357). -/
  waitRecs : List (Nat × Rec) := []
  deriving DecidableEq, Repr, Inhabited

/-- Work that takes effect at a given context tick, in step 3 of R40. -/
structure DueAct where
  tick : Nat
  sender : Nat := 0
  ctrl : Ctrl
  /-- Late under R65. -/
  late : Bool := false
  deriving DecidableEq, Repr, Inhabited

/-- A landing window of a core (R27). -/
structure Window where
  lcid : Nat
  id : Nat
  lo : Nat
  hi : Nat
  committed : Nat
  deriving DecidableEq, Repr, Inhabited

/-- A message held until its context tick (R61, R515). -/
structure Held where
  hdr : MsgHdr
  body : MsgBody
  slot : Fin 16
  order : Nat
  /-- Arrived while the context was Frozen, and whether it has thawed since (R37). -/
  whileFrozen : Bool := false
  thawed : Bool := false
  /-- Arrived after its tick had started (R65, R66). -/
  late : Bool := false
  deriving DecidableEq, Repr, Inhabited

/-- Statistics of a context page (R488–R491), each a wrapping or saturating count of the width given there. -/
structure Stats where
  lateFlags : Nat := 0
  noticeDiscards : Nat := 0
  poolStalls : Nat := 0
  balanceMoves : Nat := 0
  deferredStarts : Nat := 0
  completionStalls : Nat := 0
  overrun : Bool := false
  underrun : Bool := false
  saturated : Bool := false
  firstVid : Option Nat := none
  spills : Nat := 0
  dropped : Nat := 0
  unassigned : Nat := 0
  renormSkipped : Nat := 0
  rangeFault : Bool := false
  rangeCluster : Nat := 0
  rangeElement : Nat := 0
  flushed : Nat := 0
  nonfinite : Nat := 0
  drainOverflow : Nat := 0
  epochDiscards : Nat := 0
  fastCommands : Nat := 0
  stageWaits : Nat := 0
  promotions : Nat := 0
  demotions : Nat := 0
  estimateFaults : Nat := 0
  igaugeTicks : Nat := 0
  igaugeCause : Nat := 0
  deriving DecidableEq, Repr, Inhabited

/-- Per-context controls of the context page (R489–R495), with their reset values. -/
structure Controls where
  balEn : Bool := false
  balThreshold : Nat := 4
  stillTicks : Nat := 4096
  fastEn : Bool := false
  movesPerStep : Nat := 64
  marginPct : Nat := 25
  dumpArg : Word := 0
  dumpDest : Word := 0
  dumpStepHi : Nat := 0
  deriving DecidableEq, Repr, Inhabited

/-- A context slot (R302): everything Puska holds for one context on this die. -/
structure Ctx where
  /-- Phase; R302; Empty. -/
  phase : Phase := .empty
  /-- PAGE_STATUS.enable_pending of the context page and the held load or thaw (R332). -/
  enablePending : Option Waiting := none
  cxid : Nat := 0
  mode : Mode := .scheduleExact
  rota : Nat := 0
  multiMember : Bool := false
  headwater : Bool := false
  fast : Bool := false
  cmid : Nat := 0
  /-- Index of the catchment table entry. -/
  catchment : Fin 16 := 0
  /-- LCIDs, CTIDs and clusters of the catchment on this die, and its resources (R305). -/
  lcids : BitVec 64 := 0
  ctids : BitVec 8 := 0
  clusters : BitVec 8 := 0
  share : Nat := 0
  horizon : Nat := 2
  be : Bool := false
  outSlots : Nat := 0
  memSlots : Nat := 0
  /-- Manifest hash of a multi-member context with launch_gtc as zero (R383). -/
  manifestHash : Bytes := List.replicate 48 0
  memberIndex : Nat := 0
  /-- Launch GTC (R58), the one first set (R383), hold count, context tick, and whether launched. -/
  launchGtc : Nat := 0
  firstLaunch : Nat := 0
  holdCount : Nat := 0
  tick : Nat := 0
  /-- Die tick at which the context tick began. -/
  tickDie : Nat := 0
  launched : Bool := false
  confirmed : Bool := false
  aborted : Bool := false
  /-- A single-member context whose load has completed and that launches at the next tick start (R60). -/
  loadDone : Bool := false
  /-- The load submission, until its result record (R451). -/
  loadSub : Option Waiting := none
  /-- Held under R64; halted under R437, with cause, breakpoint, tick, slot and die tick of the halt. -/
  held : Bool := false
  halted : Bool := false
  haltCause : Nat := 0
  haltBreakpoint : Nat := 0
  haltTick : Nat := 0
  haltDieTick : Nat := 0
  haltSlot : Nat := 0
  /-- Pond entries flushed by a hold or a halt, until they are reloaded, as (LCID, entry 1, entry) (R141). -/
  parked : List (Nat × Bool × PondEntry) := []
  resumeGtc : Option Nat := none
  resumeTaken : Bool := false
  /-- Controls as written, and those in force since the last die tick start (R466). -/
  controls : Controls := {}
  inForce : Controls := {}
  stats : Stats := {}
  /-- Non-determinism total (48 bits) and counts by kind (32 bits each), R367. -/
  ndetTotal : Nat := 0
  ndetKinds : List Nat := List.replicate 16 0
  laneChanges : Nat := 0
  /-- Graph store (R82–R113). -/
  image : Image := {}
  graphStoreEntries : Nat := 0
  steps : List StepRun := []
  aux : List Aux := []
  nextStep : Nat := 0
  lastTemplate : Option Nat := none
  lastCancelled : Bool := false
  lastCompleted : Option Nat := none
  exhausted : Bool := false
  /-- Tallies and pending flags of R100 as (template, node, count, flags). -/
  tallies : List (Nat × Nat × Nat × BitVec 32) := []
  /-- Watch targets of R112 as (template, node, target). -/
  watchTargets : List (Nat × Nat × Nat) := []
  /-- Cancelled steps awaiting their watch rebase and report (R103, R112); a confluence scrub not yet begun (R261). -/
  rebase : List Nat := []
  /-- Every step cancelled so far: their epochs are cancelled (R36, R103). -/
  cancelled : List Nat := []
  scrubPending : Bool := false
  /-- Affinity records of R135 as (template, node, core). -/
  affinity : List (Nat × Nat × Nat) := []
  flowsHeld : List Nat := []
  /-- Resolution withheld until occupancy falls to 448 (R129). -/
  poolStalled : Bool := false
  counters : List Counter := []
  rings : List Ring := []
  residency : List ResEntry := []
  jobs : List Job := []
  /-- Flag 26 already given, as (step, layer) (R230); serve tasks created, as (step, count) (R233). -/
  flag26 : List (Nat × Nat) := []
  serveCount : List (Nat × Nat) := []
  regions : List Region := []
  ledger : Ledger := {}
  trace : Trace := {}
  dumps : List DumpReq := []
  dumpSerial : Nat := 1
  /-- Progress in the tick in progress (R179), still count (R180), a fired watchdog's die tick (R407), its graph's
  first log sequence number (R439). -/
  progress : Bool := false
  stillCount : Nat := 0
  firedTick : Option Nat := none
  graphSeq : Nat := 0
  /-- Waits in force at the last tick start (R440), and the payloads of a fired watchdog's graph until they are posted. -/
  waits : List WaitMark := []
  began : Began := {}
  graph : List Bytes := []
  /-- Tick seals (sender, virtual channel, tick) and control seals (sender, tick): the latest received (R62, R516). -/
  seals : List (Nat × Nat × Nat) := []
  controlSeals : List (Nat × Nat) := []
  partners : List Nat := []
  /-- Control work due at a context tick (R349), and waiting outcome records. -/
  due : List DueAct := []
  outcomes : List Waiting := []
  setFlagsDue : List Waiting := []
  lastControl : Nat := 0
  hw : Headwater := {}
  lock : LockState := {}
  inputDigest : Bytes := List.replicate 48 0
  /-- Freeze and thaw (R319–R333). -/
  freezeStage : FreezeStage := .none
  freezePending : Bool := false
  /-- The seals of tick F − 1 wait until the cores' accepted writes have left (R320). -/
  sealDue : Bool := false
  freezeSub : Option Waiting := none
  thawSub : Option Waiting := none
  /-- A thaw message took effect during Freezing and waits for the freeze's end (R332). -/
  thawHeld : Bool := false
  freezeSerial : Nat := 1
  freezeTick : Nat := 0
  freezeRelease : Bool := false
  heldCancels : List Waiting := []
  /-- Imports held for the next step start after the resume (R333). -/
  heldImports : List Waiting := []
  /-- Die tick of the launch or the latest resume of a thaw (R333). -/
  beganDie : Nat := 0
  /-- Bytes the latest save stored (R323, R329). -/
  savedBytes : Nat := 0
  /-- Bytes the freeze kept of the scratchpads (R322). -/
  saved : Memory := []
  /-- Notices for the own instance that wait for a credit of the horizon queue, as (virtual channel, epoch, body) (R515). -/
  ownWait : List (Nat × Nat × MsgBody) := []
  /-- Counter commands that were not accepted when a freeze halted their cores (R201, R253). -/
  savedOps : List CntOp := []
  /-- What the freeze kept of the cores, frames, windows, staging regions, packets and notices (R322). -/
  savedCores : List (Nat × Core) := []
  savedFrames : List (Nat × Nat × Frame) := []
  savedWindows : List Window := []
  savedRegions : List RegionIn := []
  savedPackets : List Packet := []
  savedNotices : List Held := []
  /-- Whether the freeze was released and the slot holds a thaw of it (R329, R331). -/
  thawReleased : Bool := false
  /-- Teardown (R334): the fault, the slot count at which the scrub ends, whether teardown has begun. -/
  fault : Option FaultInfo := none
  scrubEnd : Option Nat := none
  /-- The teardown touches no core: they belong to another rota member (R335). -/
  offCores : Bool := false
  /-- Steps 1 to 3 of R334 are complete; the records remain. -/
  released : Bool := false
  withheld : Bool := false
  relayed : Bool := false
  teardownSub : Option Waiting := none
  finalRecord : Bool := false
  /-- Completion backlog (R152) and its deferral. -/
  backlog : List Rec := []
  deferring : Bool := false
  deriving DecidableEq, Repr, Inhabited

/-! ### Die state -/

/-- A page's header registers (R471–R476): EVT_RAW, EVT_MASK, PAGE_ERR code, count and detail. -/
structure PageHdr where
  raw : BitVec 32 := 0
  mask : BitVec 32 := 0
  errCode : Nat := 0
  /-- Errors since the last read; a read returns it saturated (R476). -/
  errCount : Nat := 0
  errDetail : Nat := 0
  /-- EVT_RAW at the start of ac `rawAc`, and the bits the hardware set in that ac (R16, R465). -/
  rawAc : Nat := 0
  rawOld : BitVec 32 := 0
  fresh : BitVec 32 := 0
  /-- The errors of ac `errAc`: the first one and their number (R17). -/
  errAc : Nat := 0
  newCode : Nat := 0
  newCount : Nat := 0
  newDetail : Nat := 0
  /-- ac in which the page's latest access was served (R465). -/
  served : Option Nat := none
  deriving DecidableEq, Repr, Inhabited

/-- State of a switchable page (R473). -/
inductive PageRun where
  | off
  | starting
  | on
  | draining (ends : Nat)
  deriving DecidableEq, Repr, Inhabited

/-- Where start-up stands (R461). -/
structure Boot where
  /-- Stages 1 to 3 passed; or stage 1 or 2 failed and the die stays OFF. -/
  configured : Bool := false
  failed : Bool := false
  selfTest : Bool := false
  scrub : Bool := false
  /-- none until stage 6 ends. -/
  key : Option Bool := none
  topology : Bool := false
  ready : Bool := false
  readyGtc : Nat := 0
  /-- A fence clear runs stages 4 and 5 again (R464); stage 4 of it has passed. -/
  clearing : Bool := false
  deriving DecidableEq, Repr, Inhabited

/-- The time unit (R38–R57). -/
structure TimeUnit where
  /-- ac cycles since reset, and reference cycles since reset (R41). -/
  ac : Nat := 0
  ref : Nat := 0
  /-- GTC (48 bits), whether it runs, the reference position of its latest boundary. -/
  gtc : Nat := 0
  running : Bool := false
  boundaryRef : Nat := 0
  /-- Positions of the boundaries before it, newest first (at most 9), for the lag (R43). -/
  boundaries : List Nat := []
  /-- Alignment error still to be trimmed (R54), signed. -/
  trimLeft : Int := 0
  /-- Local tick, slot, ac offset within the slot or margin, whether in the margin, whether a tick has begun. -/
  localTick : Nat := 0
  slot : Nat := 0
  offset : Nat := 0
  inMargin : Bool := false
  tickRunning : Bool := false
  /-- Slot boundaries since reset. -/
  slotCount : Nat := 0
  lag : Nat := 0
  lagTicks : Nat := 0
  stretchedTick : Bool := false
  /-- Offsets of the stretched cycles of the slot or margin in progress (R42). -/
  stretch : List Nat := []
  /-- While the work of a tick start comes before the ends of the context ticks: the die tick that closes. -/
  closing : Option Nat := none
  /-- Set by the lag limit test: the next tick starts at a GTC boundary and raises no lag (R45). -/
  jumping : Bool := false
  /-- Set by a clock restart with no context running: the local tick takes the GTC at the next GTC boundary (R47). -/
  resync : Bool := false
  /-- A gap record that waits for the first ac after a restart: the last stamp before the stop and the cycles elapsed (R47). -/
  gapFrom : Option (Nat × Nat) := none
  syncArm : Bool := false
  /-- ac in which sync_arm was last written (R484). -/
  armedAc : Nat := 0
  /-- Reference count at which the armed start takes effect (R52). -/
  startAt : Option Nat := none
  aligned : Bool := false
  firstBeacon : Bool := false
  beaconLost : Bool := false
  lastBeaconTick : Nat := 0
  lastError : Int := 0
  beaconSeq : Nat := 0
  sendSeq : Nat := 0
  /-- GTC of the latest beacon sent (R53). -/
  lastSent : Option Nat := none
  linkDelay : List Nat := [0, 0, 0, 0, 0]
  lanes : List Nat := [0, 0, 0, 0, 0]
  /-- Lane counts that take effect at the next tick start (R71). -/
  nextLanes : Option (List Nat) := none
  /-- The trained lanes before the latest change and its ac, in which a read still returns them (R509). -/
  lanesBefore : List Nat := []
  lanesAc : Option Nat := none
  /-- Observed far ends (R343). -/
  far : List Nat := []
  lastChangePort : Nat := 0
  lastChangeLanes : Nat := 0
  lastChangeGtc : Nat := 0
  calDone : Nat := 0
  deriving DecidableEq, Repr, Inhabited

/-- One external input (R72–R75, R507). -/
structure ExtIn where
  level : Bool := false
  stuck : Bool := false
  chatter : Nat := 0
  /-- Slot-length count of the last counted edge, in ac. -/
  lastEdge : Option Nat := none
  /-- Whether the accepted level has been seen since reset: one held through reset yields no edge (R74). -/
  seen : Bool := false
  /-- Reference count at which the level is last known to have become active; zero for a level held through reset (R74). -/
  since : Nat := 0
  /-- The level behind the synchroniser, and the ac at which it last changed (R72). -/
  raw : Bool := false
  rawAt : Nat := 0
  lastStamp : Nat := 0
  deriving DecidableEq, Repr, Inhabited

/-- Page 0x38 (R507): the two inputs, the configurations written and in force, XTRIG_OUT. -/
structure ExtUnit where
  sync : ExtIn := {}
  xtrig : ExtIn := {}
  cfg : Word := 0
  cfgEffective : Word := 0
  outCfg : Word := 4
  outCfgEffective : Word := 4
  /-- ac at which the XTRIG_OUT pulse ends; none while inactive (R77). -/
  outUntil : Option Nat := none
  /-- Actions that wait for the next slot boundary (R76): a trace trigger, a halt of a CMID. -/
  tracePending : Bool := false
  haltPending : Option Nat := none
  deriving DecidableEq, Repr, Inhabited

/-- The energy governor of the die (R146–R148, R394, R496). -/
structure Governor where
  fraction : Nat := 16
  maxTemp : Nat := 0
  ilimitSlots : Nat := 0
  hotRun : Nat := 0
  coldRun : Nat := 0
  /-- Consecutive hot tick starts at fraction 4 (R394). -/
  hotAtFloor : Nat := 0
  /-- Consecutive ticks with ILIMIT at every start decision; whether every decision of this tick had it. -/
  ilimitRun : Nat := 0
  ilimitAll : Bool := true
  ilimitAny : Bool := false
  deriving DecidableEq, Repr, Inhabited

/-- A key slot (R401). -/
structure KeySlot where
  contextKey : Bytes
  tenantX : Nat
  tenantY : Nat
  freezeKey : Bytes
  dumpKey : Bytes
  deriving DecidableEq, Repr, Inhabited

/-- The steward (R399–R414, R486). -/
structure Steward where
  heartbeat : Nat := 0
  lastHeartbeat : Nat := 0
  lastHeartbeatGtc : Nat := 0
  lateRaised : Bool := false
  /-- 0 stopped, 1 image firmware, 2 activation window, 3 reverted. -/
  state : Nat := 0
  running : Nat := 0
  previous : Nat := 0
  staged : Option Nat := none
  stagedSub : Option Waiting := none
  activatedTick : Nat := 0
  keyOk : Bool := false
  privateKey : Nat := 0
  publicX : Nat := 0
  publicY : Nat := 0
  keys : Vector (Option KeySlot) 16 := Vector.replicate 16 none
  /-- Log ring: entries kept, bytes used, entries overwritten, next sequence (R409, R410). -/
  log : List LogEntry := []
  logHead : Nat := 0
  overwritten : Nat := 0
  nextSeq : Nat := 0
  /-- Log area of the window: head, tail, and the sequence numbers skipped (R410, R459). -/
  areaHead : Nat := 0
  areaTail : Nat := 0
  skipped : Option (Nat × Nat × Nat) := none
  /-- Die tick of the last temperature entry of each block (R406), and of the last summary. -/
  tempLogged : List (Nat × Nat) := []
  summaryTick : Nat := 0
  summaryCounts : List Nat := List.replicate 19 0
  /-- Wait-for graphs posted since power-up (R440). -/
  graphSerial : Nat := 0
  deriving DecidableEq, Repr, Inhabited

/-- A submission taken by the poll, acting at the next tick start (R448). -/
structure Taken where
  hdr : SubHdr
  sub : Sub
  tick : Nat
  /-- The payload bytes as received (R384). -/
  payload : Bytes := []
  deriving DecidableEq, Repr, Inhabited

/-- The sluice (R443–R458, R485). -/
structure Sluice where
  head : Nat := 0
  tail : Nat := 0
  seq : Nat := 0
  gtcPoll : Nat := 0
  ownerSeen : BitVec 16 := 0
  /-- CXIDs of the slots the latest poll left in place, their take tick ahead (R336, R448). -/
  ahead : List Nat := []
  taken : List Taken := []
  takenCount : Nat := 0
  records : Nat := 0
  /-- Records due, not yet offered to the ring, in the order they fell due. -/
  due : List Rec := []
  dieBacklog : List Rec := []
  dieLost : Nat := 0
  /-- Window state byte: 0 starting, 1 ready, 2 fenced. -/
  windowState : Nat := 0
  deriving DecidableEq, Repr, Inhabited

/-- Safety page (R504). -/
structure Safety where
  fenced : Bool := false
  fenceCode : Nat := 0
  fenceGtc : Nat := 0
  /-- Details of the fence's fault record, which the record of a failed clear repeats (R396). -/
  fenceDetail1 : Nat := 0
  fenceDetail2 : Nat := 0
  /-- A clear found an error in the key store or the steward memory: only a power-up ends the fence (R464). -/
  powerOnly : Bool := false
  /-- The fence's cause lies in the time unit: no beacon is sent (R395). -/
  timeFault : Bool := false
  selfTestPass : Bool := false
  selfTestGtc : Nat := 0
  strays : Nat := 0
  corrected : List Nat := List.replicate 19 0
  uncorrected : List Nat := List.replicate 19 0
  deriving DecidableEq, Repr, Inhabited

/-- A catchment table entry (R499), with the manifest that filled it. -/
structure Catch where
  cmid : Nat := 0
  be : Bool := false
  isLocal : Bool := false
  headwater : Bool := false
  horizon : Nat := 0
  ctids : BitVec 8 := 0
  clusters : BitVec 8 := 0
  share : Nat := 0
  valid : Bool := false
  staged : Bool := false
  commitDue : Bool := false
  releaseDue : Bool := false
  /-- The privilege of the write that asked for the release, as PAGE_ERR codes it (R476). -/
  releaseBy : Nat := 0
  lcids : BitVec 64 := 0
  outSlots : BitVec 64 := 0
  inSlots : BitVec 64 := 0
  memSlots : BitVec 64 := 0
  inletQuota : Nat := 0
  horizonQuota : Nat := 0
  /-- ROTA_CFG as written, and in force since the last die tick start (R466). -/
  autoEn : Bool := false
  rotateTicks : Nat := 1024
  autoNow : Bool := false
  rotateNow : Nat := 1024
  resident : Nat := 0
  blocked : Bool := false
  stagnant : Bool := false
  manifest : Option Manifest := none
  /-- This instance's entry index in the manifest. -/
  index : Nat := 0
  /-- Rotation in progress: the context slot to thaw when the freeze ends (R337). -/
  thawNext : Option (Fin 16) := none
  /-- The headwater's launch messages before a context is loaded (R347, R348). -/
  hw : Headwater := {}
  confirmed : Bool := false
  /-- The batch of step 0 that the confirm carries (R349). -/
  batch : List Change := []
  aborted : Bool := false
  joinSent : Bool := false
  /-- Launch messages before their GTC of effect, as (GTC, sender, message) (R347). -/
  held : List (Nat × Nat × Ctrl) := []
  deriving DecidableEq, Repr, Inhabited

/-- A message being written into a ring (R195): the place of its ring, and the ac at which its write pointer advance takes effect. -/
structure WriteJob where
  receiver : Nat := 0
  base : Nat := 0
  size : Nat := 1
  cluster : Fin 8
  slot : Fin 16
  ring : Nat
  lcid : Nat
  units : Nat
  pointer : Nat
  header : Nat
  payload : Bytes
  epoch : Nat
  accepted : Nat
  done : Nat
  deriving DecidableEq, Repr, Inhabited

structure ChanOp where
  lcid : Nat
  slot : Fin 16
  ring : Nat
  kind : ChanKind
  due : Nat
  deriving DecidableEq, Repr, Inhabited

/-- What a status lane returns (R164, R187, R251). -/
inductive ResultBody where
  | value (v : Nat)
  | released
  | epoch (e : Nat)
  | sent (epoch seq : Nat)
  | closed
  | received (ring offset header : Nat)
  | empty
  | done (n : Nat)
  deriving DecidableEq, Repr, Inhabited

/-- A result returned to a core, with the ac at which it is returned. -/
structure CoreResult where
  lcid : Nat
  at_ : Nat
  body : ResultBody
  deriving DecidableEq, Repr, Inhabited

/-- The peaks of OBS_PEAK (R503): horizon-queue notices, inlet words, ready-pool entries. -/
structure Peaks where
  horizon : Nat := 0
  inlet : Nat := 0
  pool : Nat := 0
  deriving DecidableEq, Repr, Inhabited

/-- Die-wide observation counters (R503). The peaks of ac `peakAc` are apart from those before it (R17). -/
structure ObsUnit where
  run : PageRun := .starting
  coreBusy : List Nat := List.replicate 64 0
  coreIdle : List Nat := List.replicate 64 0
  ctrlBusy : List Nat := List.replicate 8 0
  ctrlIdle : List Nat := List.replicate 8 0
  cfl : List Nat := List.replicate 8 0
  portOut : List Nat := List.replicate 5 0
  portIn : List Nat := List.replicate 5 0
  weir : List Nat := List.replicate 6 0
  place : Nat := 0
  threadPlace : Nat := 0
  defer : Nat := 0
  peaks : Peaks := {}
  peakAc : Nat := 0
  newPeaks : Peaks := {}
  deriving DecidableEq, Repr, Inhabited

/-- A freeze image in external memory, as the save stored it (R322, R326). The parcels' encoding is not given by
the spec, so the image keeps the context it holds. -/
structure FreezeImage where
  address : Nat
  cxid : Nat
  cmid : Nat
  instanceAddr : Nat
  serial : Nat
  /-- The image as it was stored. -/
  bytes : Bytes
  ctx : Ctx
  deriving DecidableEq, Repr, Inhabited

end Sys2Proof.Machine

namespace Sys2Proof

/-- Free value (log entry 44): the context that a freeze image holds which this die has not stored itself (R329, R331). -/
opaque Config.imageContext : Bytes → Machine.Ctx

end Sys2Proof

namespace Sys2Proof.Machine

/-- The state of one Puska instance. -/
structure State where
  /-- Commands that are waiting, first in, first out. -/
  pending : List Instr := []
  /-- The configuration image kept; none until stage 1 passes (R461). -/
  config : Option ConfigImage := none
  boot : Boot := {}
  time : TimeUnit := {}
  /-- Page headers, one for each of the 64 pages (R469). -/
  pages : Vector PageHdr 64 := Vector.replicate 64 {}
  ext : ExtUnit := {}
  extRun : PageRun := .off
  extEnablePending : Bool := false
  obsEnablePending : Bool := false
  /-- PAGE_CTRL.enable of pages 0x38 and 0x30 as written (R472). -/
  extEnable : Bool := true
  obsEnable : Bool := true
  gov : Governor := {}
  steward : Steward := {}
  sluice : Sluice := {}
  safety : Safety := {}
  ctxs : Vector Ctx 16 := Vector.replicate 16 {}
  catches : Vector Catch 16 := Vector.replicate 16 {}
  cores : Vector Core 64 := Vector.replicate 64 {}
  /-- Thread frames of each control core (R153). -/
  ctrl : Vector (Vector Frame 8) 8 := Vector.replicate 8 (Vector.replicate 8 {})
  units : Vector CflUnit 8 := Vector.replicate 8 {}
  /-- Order number of the next placement in a pond. -/
  placeOrder : Nat := 0
  /-- Counter commands in flight, and messages being written. -/
  cntOps : List CntOp := []
  chanOps : List ChanOp := []
  writes : List WriteJob := []
  /-- The horizon queue (R61) with its order number, and whether credits are withheld: die, each LC slot, BE pool. -/
  horizon : List Held := []
  arrivals : Nat := 0
  horizonStalled : Bool := false
  quotaStalled : BitVec 16 := 0
  beHorizonStalled : Bool := false
  /-- Credits granted and not yet used: die horizon queue, each LC quota, BE pool (R515; log entry 141). -/
  horizonCredit : Nat := 4096
  quotaCredit : List Nat := List.replicate 16 0
  beCredit : Nat := 3839
  /-- The contexts a BE pool stalled in the tick in progress while another held part of it (R317): inlet, horizon. -/
  beInletDelay : BitVec 16 := 0
  beHorizonDelay : BitVec 16 := 0
  /-- The inlet (R203–R209): its packets, the die weir, the LC quota weirs, the BE pool weir, corrections. -/
  packets : List Packet := []
  inletStalled : Bool := false
  inletQuotaStalled : BitVec 16 := 0
  beInletStalled : Bool := false
  inletCorrected : Nat := 0
  windows : List Window := []
  /-- Circular regions the cores have configured (R289, R322). -/
  stagingRegions : List RegionIn := []
  /-- Low-water marks of the counter and ring pools (R498). -/
  counterLow : Nat := 16384
  ringLow : Nat := 1024
  jobsPublished : Nat := 0
  served : Nat := 0
  movesCreated : Nat := 0
  obs : ObsUnit := {}
  /-- External memory of the package as Puska has written it, and the scratchpads (address LCID × 2^26 + offset). -/
  mem : Memory := []
  spad : Memory := []
  images : List FreezeImage := []
  /-- Outputs: messages handed to the link fabric, results on the status lanes, the word a register read returned. -/
  linkOut : List Msg := []
  results : List CoreResult := []
  readData : Word := 0
  deriving DecidableEq, Repr

/-- Events each page defines (R477). -/
def eventMask (page : Nat) : BitVec 32 :=
  match page with
  | 0x01 => 0x7
  | 0x02 => 0x3F
  | 0x03 => 0x7
  | 0x04 => 0x3F
  | 0x18 => 0x7
  | 0x20 => 0x3
  | 0x2C => 0x7
  | 0x34 => 0xF
  | 0x36 => 0x1
  | 0x38 => 0x7F
  | 0x3C => 0x3
  | n => if 0x08 ≤ n ∧ n ≤ 0x17 then 0x3FF else 0

/-- The machine right after die reset (R461, R478): nothing configured, every mask bit set (R474). -/
def State.reset : State :=
  { pages := Vector.ofFn fun p => { mask := eventMask p.val } }

end Sys2Proof.Machine
end

