-- ==== Sys2Proof/Machine/Ops.lean ====
section
/-! DEFINITION. The named operations over memory, registers and records that every family shares: memory reads
and writes, time-stamps (R48), page events and errors (R474–R476), the non-determinism counter (R367), the
steward log (R409, R410), completion records (R455), phases (R302), faults and fences (R387–R398). -/

namespace Sys2Proof

/-- The submission kind code of R451. -/
def Sub.kind : Sub → Nat
  | .load _ => 1
  | .manifest _ _ => 2
  | .freeze _ _ _ => 3
  | .thaw _ => 4
  | .teardown => 5
  | .cancel _ => 6
  | .join _ => 7
  | .leave _ => 8
  | .importSeq _ => 9
  | .appendCount _ _ => 10
  | .setFlag _ _ _ => 11
  | .runRecord => 12
  | .fwUpdate _ _ => 13
  | .step _ _ => 14

/-- Phase code of R397. -/
def Phase.code : Phase → Nat
  | .empty => 0
  | .loading => 1
  | .running => 2
  | .freezing => 3
  | .frozen => 4
  | .thawing => 5
  | .tearingDown => 6

/-- End status code (R25). -/
def EndStatus.code : EndStatus → Nat
  | .normal => 0
  | .spanOverrun => 1
  | .engineFault => 2
  | .halted => 3

end Sys2Proof

namespace Sys2Proof.Machine

/-! ### Memory -/

/-- The canonical form: addresses strictly rising, no zero byte listed (log entry 1). -/
abbrev Memory.wf (m : Memory) : Prop :=
  List.Pairwise (fun a b : Host.Cell => a.1 < b.1) m ∧ ∀ c ∈ m, c.2 ≠ 0#8

/-- The byte at an address; zero where none is listed (log entry 1). -/
def Memory.read : Memory → Nat → Byte
  | [], _ => 0
  | (k, v) :: m, a => if a = k then v else if a < k then 0 else Memory.read m a

/-- One byte written, the canonical form kept. -/
def Memory.write : Memory → Nat → Byte → Memory
  | [], a, v => if v = 0 then [] else [(a, v)]
  | (k, w) :: m, a, v =>
    if a < k then (if v = 0 then (k, w) :: m else (a, v) :: (k, w) :: m)
    else if a = k then (if v = 0 then m else (a, v) :: m)
    else (k, w) :: Memory.write m a v

/-- A run of bytes written from an address up. -/
def Memory.writeBytes (m : Memory) (a : Nat) : Bytes → Memory
  | [] => m
  | b :: bs => Memory.writeBytes (m.write a b) (a + 1) bs

/-- Addresses lo to hi − 1 set to zero. -/
def Memory.scrub (m : Memory) (lo hi : Nat) : Memory :=
  m.filter fun c => c.1 < lo || hi ≤ c.1

/-- `n` bytes from an address. -/
def Memory.readBytes (m : Memory) (a n : Nat) : Bytes := (List.range n).map fun i => m.read (a + i)

/-- The cells of addresses lo to hi − 1. -/
def Memory.cells (m : Memory) (lo hi : Nat) : Memory :=
  m.filter fun c => lo ≤ c.1 && c.1 < hi

/-- Scratchpad address of a core's byte offset. -/
def spadAddr (lcid offset : Nat) : Nat := lcid * 2 ^ 26 + offset

/-- Bytes of one scratchpad (56 MiB). -/
def spadSize : Nat := 56 * 2 ^ 20

/-! ### Access to the parts of the state -/

/-- The configuration image, with the defaults of R460 before stage 1. -/
def State.cfg (s : State) : ConfigImage := s.config.getD {}

/-- Tick length in ac (R38). -/
def State.tickLength (s : State) : Nat := s.cfg.slotsPerTick * 256 + s.cfg.tickMargin

def State.ctx (s : State) (k : Fin 16) : Ctx := s.ctxs[k.val]

def State.setCtx (s : State) (k : Fin 16) (c : Ctx) : State := { s with ctxs := s.ctxs.set k.val c }

def State.modCtx (s : State) (k : Fin 16) (f : Ctx → Ctx) : State := s.setCtx k (f (s.ctx k))

def State.core (s : State) (l : Fin 64) : Core := s.cores[l.val]

def State.setCore (s : State) (l : Fin 64) (c : Core) : State := { s with cores := s.cores.set l.val c }

def State.modCore (s : State) (l : Fin 64) (f : Core → Core) : State := s.setCore l (f (s.core l))

def State.unit (s : State) (k : Fin 8) : CflUnit := s.units[k.val]

def State.setUnit (s : State) (k : Fin 8) (u : CflUnit) : State := { s with units := s.units.set k.val u }

def State.catch_ (s : State) (k : Fin 16) : Catch := s.catches[k.val]

def State.setCatch (s : State) (k : Fin 16) (c : Catch) : State := { s with catches := s.catches.set k.val c }

def State.frame (s : State) (c : Fin 8) (f : Fin 8) : Frame := (s.ctrl[c.val])[f.val]

def State.setFrame (s : State) (c : Fin 8) (f : Fin 8) (v : Frame) : State :=
  { s with ctrl := s.ctrl.set c.val ((s.ctrl[c.val]).set f.val v) }

/-- Every context slot, ascending. -/
def allSlots : List (Fin 16) := List.finRange 16

def allCores : List (Fin 64) := List.finRange 64

def allCtrl : List (Fin 8) := List.finRange 8

/-- A core id as an LCID; ids of 64 and above fold to 0 and are tested by their callers. -/
def lcidOf (n : Nat) : Fin 64 := Fin.ofNat 64 n

/-- The context slot that holds a CXID in any phase but Empty (R36, R303). -/
def State.findCxid (s : State) (cxid : Nat) : Option (Fin 16) :=
  allSlots.find? fun k => (s.ctx k).phase ≠ .empty && (s.ctx k).cxid == cxid

/-- Contexts live on the die: phase Running (R368). -/
def State.live (s : State) : List (Fin 16) := allSlots.filter fun k => (s.ctx k).phase == .running

/-- The LCIDs of a context's catchment on the die, ascending. -/
def Ctx.cores (c : Ctx) : List Nat := bitList 64 c.lcids.toNat

def Ctx.ctrls (c : Ctx) : List Nat := bitList 8 c.ctids.toNat

/-- The epoch of a step (R311). -/
def epochOf (step : Nat) : Nat := step % 2 ^ 16

/-- Whether a context's slots count: Running, and neither held nor halted (R64, R437). -/
def Ctx.runs (c : Ctx) : Bool := c.phase == .running && c.launched && !c.held && !c.halted

/-- Changes the statistics of a context. -/
def Ctx.modStats (c : Ctx) (f : Stats → Stats) : Ctx := { c with stats := f c.stats }

/-! ### Time-stamps -/

/-- The time-stamp of the current ac (R48, R49). -/
def State.stamp (s : State) : Nat :=
  let t := s.time
  t.localTick % 2 ^ 48 * 2 ^ 16 + b2n t.stretchedTick * 2 ^ 15 + b2n t.inMargin * 2 ^ 14
    + (if t.inMargin then min t.offset 0x3FFF else t.slot % 64 * 256 + t.offset % 256)

/-! ### Page events and errors -/

def State.page (s : State) (p : Fin 64) : PageHdr := s.pages[p.val]

def State.setPage (s : State) (p : Fin 64) (h : PageHdr) : State := { s with pages := s.pages.set p.val h }

/-- The hardware sets event bits in an ac (R16, R474). -/
def PageHdr.set (h : PageHdr) (ac : Nat) (b : BitVec 32) : PageHdr :=
  if h.rawAc = ac then { h with raw := h.raw ||| b, fresh := h.fresh ||| b }
  else { h with raw := h.raw ||| b, rawAc := ac, rawOld := h.raw, fresh := b }

/-- Sets an event bit of a page that defines it (R474, R477). -/
def State.raise (s : State) (p : Fin 64) (bitNo : Nat) : State :=
  s.setPage p ((s.page p).set s.time.ac (BitVec.ofNat 32 (2 ^ bitNo) &&& eventMask p.val))

/-- Records an error in PAGE_ERR: the first error's code and detail, and the count (R476). -/
def PageHdr.error (h : PageHdr) (ac code detail : Nat) : PageHdr :=
  let again := h.errAc == ac && h.newCount != 0
  { h with
    errAc := ac
    newCode := if again then h.newCode else code
    newDetail := if again then h.newDetail else detail % 2 ^ 32
    newCount := if again then h.newCount + 1 else 1
    errCode := if h.errCount = 0 then code else h.errCode
    errDetail := if h.errCount = 0 then detail % 2 ^ 32 else h.errDetail
    errCount := h.errCount + 1 }

def State.pageError (s : State) (p : Fin 64) (code detail : Nat) : State :=
  s.setPage p ((s.page p).error s.time.ac code detail)

/-- Takes new occupancies into the peaks while page 0x30 is ON (R503). -/
def State.peak (s : State) (p : Peaks) : State :=
  if s.obs.run = .on then
    let top (a b : Peaks) : Peaks := ⟨max a.horizon b.horizon, max a.inlet b.inlet, max a.pool b.pool⟩
    let o := s.obs
    { s with obs := if o.peakAc = s.time.ac then { o with newPeaks := top o.newPeaks p }
        else { o with peaks := top o.peaks o.newPeaks, peakAc := s.time.ac, newPeaks := p } }
  else s

/-- The context page of a slot: 0x08 + slot (R469). -/
def ctxPage (k : Fin 16) : Fin 64 := ⟨8 + k.val, by omega⟩

/-- Drives XTRIG_OUT for 64 ac when XTRIG_OUT_CFG selects the event and page 0x38 is ON (R77, R507, R508). -/
def State.signalOut (s : State) (cfgBit : Nat) : State :=
  if s.extRun = .on ∧ s.ext.outCfgEffective.getLsbD cfgBit then
    { s with ext := { s.ext with outUntil := some (s.time.ac + 64) } }
  else s

/-! ### The non-determinism counter -/

/-- Counts one event of a kind in a context: total, kind and the masks of the steps in flight (R367, R370). -/
def Ctx.count (c : Ctx) (kind : Nat) : Ctx :=
  { c with
    ndetTotal := sat 48 (c.ndetTotal + 1)
    ndetKinds := c.ndetKinds.set kind (sat 32 (c.ndetKinds.getD kind 0 + 1))
    steps := c.steps.map fun r => { r with mask := r.mask ||| BitVec.ofNat 16 (2 ^ kind) } }

/-- Notes a reported cause of lateness on the steps in flight (R316, R457). -/
def Ctx.cause (c : Ctx) (bitNo : Nat) : Ctx :=
  { c with steps := c.steps.map fun r => { r with causes := r.causes ||| BitVec.ofNat 16 (2 ^ bitNo) } }

/-- Counts one event in every context live on the die (R368). -/
def State.countLive (s : State) (kind : Nat) : State :=
  s.live.foldl (fun s k => s.modCtx k (·.count kind)) s

def State.causeLive (s : State) (bitNo : Nat) : State :=
  s.live.foldl (fun s k => s.modCtx k (·.cause bitNo)) s

/-! ### The steward log -/

/-- A log entry's bytes: header and payload, to a multiple of 64 (R409). -/
def LogEntry.bytes (e : LogEntry) : Bytes :=
  let b := leBytes 8 e.stamp ++ leBytes 4 e.seq ++ leBytes 1 e.kind ++ leBytes 1 e.severity
    ++ leBytes 2 e.payload.length ++ e.payload
  b ++ zeros (ceilDiv b.length 64 * 64 - b.length)

/-- Bytes written into a circular area of a given size from a running count. -/
def writeRing (m : Memory) (base size count : Nat) : Bytes → Memory
  | [] => m
  | b :: bs => writeRing (m.write (base + count % size) b) base size (count + 1) bs

/-- Completion ring size C and log area size L (R443). -/
def State.ringSize (s : State) : Nat := 2 ^ 16 * 2 ^ s.cfg.completionLog2
def State.areaSize (s : State) : Nat := 2 ^ 16 * 2 ^ s.cfg.logAreaLog2

/-- The bytes of the log area in use: its two 32-bit positions apart (R444, R459). -/
def State.areaUsed (s : State) : Nat := (((s.steward.areaHead : Int) - s.steward.areaTail) % 2 ^ 32).toNat

/-- Writes one entry into the log area when it has room with its filler (R459); true when it was written. -/
def State.mirror (s : State) (e : LogEntry) : State × Bool :=
  let size := s.areaSize
  let b := e.bytes
  let pos := s.steward.areaHead % size
  let gap := if pos + b.length > size then size - pos else 0
  let base := s.cfg.window + 0x8000 + s.ringSize
  if s.areaUsed + gap + b.length ≤ size then
    let filler := if gap = 0 then [] else leBytes 8 e.stamp ++ zeros 6 ++ leBytes 2 (gap - 16) ++ zeros (gap - 16)
    let head := wrap 32 (s.steward.areaHead + gap + b.length)
    ({ s with
      mem := writeRing s.mem base size s.steward.areaHead (filler ++ b)
      steward := { s.steward with areaHead := head } }, true)
  else (s, false)

/-- Entries left after the oldest are overwritten, and how many were (R410). -/
def trimLog (size : Nat) : List LogEntry → List LogEntry × Nat
  | [] => ([], 0)
  | e :: es =>
    if ((e :: es).map fun x => x.bytes.length).sum ≤ size then (e :: es, 0)
    else let (r, n) := trimLog size es; (r, n + 1)

/-- Adds a log entry: ring, overwriting, mirror and loss entry (R409, R410). -/
def State.log (s : State) (kind severity : Nat) (payload : Bytes) : State :=
  let w := s.steward
  let e : LogEntry := ⟨s.stamp, w.nextSeq % 2 ^ 32, kind, severity, payload.take 240⟩
  let size := 2 ^ 16 * 2 ^ s.cfg.logLog2
  let (kept, lost) := trimLog size (w.log ++ [e])
  let s := { s with
    mem := writeRing s.mem s.cfg.logAddr size w.logHead e.bytes
    steward := { w with
      log := kept
      logHead := w.logHead + e.bytes.length
      overwritten := sat 32 (w.overwritten + lost)
      nextSeq := w.nextSeq + 1 } }
  let s := if lost = 0 then s else s.raise 0x04 5
  let skip (s : State) : State :=
    let k := match s.steward.skipped with
      | none => (1, e.seq, e.seq)
      | some (n, f, _) => (n + 1, f, e.seq)
    { s with steward := { s.steward with skipped := some k } }
  match s.steward.skipped with
  | none => let (s', ok) := s.mirror e; if ok then s' else skip s
  | some (n, f, l) =>
    let loss : LogEntry := ⟨s.stamp, l, 0x0A, 1, (Config.logPayload 0x0A [n, f, l]).take 240⟩
    let (s', ok) := s.mirror loss
    if ok then
      let s' := { s' with steward := { s'.steward with skipped := none } }
      let (s'', ok2) := s'.mirror e
      if ok2 then s'' else skip s'
    else skip s

/-! ### Completion records -/

/-- SLUICE_COUNTS.taken counts a submission (R485). -/
def State.countTaken (s : State) : State := { s with sluice := { s.sluice with takenCount := wrap 32 (s.sluice.takenCount + 1) } }

/-- Files a record to be written at a coming tick start (R458). -/
def State.pushRec (s : State) (r : Rec) : State := { s with sluice := { s.sluice with due := s.sluice.due ++ [r] } }

/-- The next die tick. -/
def State.nextTick (s : State) : Nat := s.time.localTick + 1

/-- A result record of a submission (R454, R455). -/
def State.result (s : State) (h : SubHdr) (kind taken reason : Nat) (k : Option (Fin 16)) (due : Nat) : State :=
  s.pushRec
    { kind := 1, reason := reason, cxid := h.cxid, ctx := k, slot := h.slot.val, tag := h.tag, taken := taken,
      subKind := kind, due := due,
      detail := if kind = 1 then .loadSlot (match k with | some j => j.val | none => 0xFF) else .none }

/-- The result record of a submission that waited, if firmware made it. -/
def State.outcome (s : State) (w : Waiting) (reason : Nat) (k : Fin 16) (due : Nat) : State :=
  if w.auto then s else s.result w.hdr w.sub.kind w.taken reason (some k) due

/-! ### Phases -/

/-- Moves a slot to a phase and raises the phase events (R302, R477). -/
def State.setPhase (s : State) (k : Fin 16) (p : Phase) : State :=
  ((s.modCtx k fun c => { c with phase := p }).raise 0x01 2).raise (ctxPage k) 0

/-! ### Tasks -/

/-- The ordering key (R130). -/
def Task.key (t : Task) : Nat :=
  b2n t.be * 2 ^ 86 + t.rank % 16 * 2 ^ 82 + t.step % 2 ^ 40 * 2 ^ 42 + t.template % 1024 * 2 ^ 32
    + t.node % 2 ^ 16 * 2 ^ 16 + t.fanout % 2 ^ 16

/-- The packed task name (R101). -/
def packName (cxid step template node fanout : Nat) : Nat :=
  cxid % 2 ^ 16 + step % 2 ^ 40 * 2 ^ 16 + template % 1024 * 2 ^ 56 + node % 2 ^ 16 * 2 ^ 66 + fanout % 2 ^ 16 * 2 ^ 82

def Task.name (t : Task) (cxid : Nat) : Nat := packName cxid t.step t.template t.node t.fanout

/-- Whether an entry belongs to a context and holds a task. -/
def PondEntry.holds (e : PondEntry) (k : Fin 16) : Bool := e.state ≠ .free && e.task.slot == k

/-- The task in service on a core, if any. -/
def Core.serving (c : Core) : Option PondEntry :=
  if c.e0.state = .inService then some c.e0
  else if c.e1.state = .inService then some c.e1
  else none

/-- Applies a function to both entries. -/
def Core.mapEntries (c : Core) (f : PondEntry → PondEntry) : Core := { c with e0 := f c.e0, e1 := f c.e1 }

/-- The context slot, step and epoch of the task in service on a core. -/
def State.serving (s : State) (l : Fin 64) : Option Task := (s.core l).serving.map (·.task)

/-- Clears what the task in service left on its core when it ends or is reset. -/
def Core.clearTask (c : Core) : Core :=
  { c with
    cntWait := none, sendWait := none, recvWait := none, laneQueue := [], rotNext := 0, offers := [], inletWait := [],
    commands := 0, engines := [], inletCount := 0, pairCount := 0, moverBlock := none, moved := [], crc := none }

/-- Marks the core's in-service entry with an end report its end boundary will take (R25, R140). -/
def Core.report (c : Core) (r : EndReport) : Core :=
  let f (e : PondEntry) := if e.state = .inService ∧ e.report.isNone then { e with report := some r } else e
  c.mapEntries f

/-- The core's own report of its task's end (R25): a status that Puska has found stands, a task whose window has closed ended with
span overrun (R140), and the checksum and the cache use (R21) are the core's. -/
def PondEntry.reported (e : PondEntry) (r : EndReport) : PondEntry :=
  { e with report := some (match e.report with
      | some q => { q with checksum := r.checksum, cache := q.cache || r.cache }
      | none => if e.windowClosed then { r with status := .spanOverrun, code := 0, detail := 0 } else r) }

/-- An engine fault of the task in service: command code and detail; it performs no further command (R165, R188). -/
def State.engineFault (s : State) (l : Fin 64) (code detail : Nat) : State :=
  s.modCore l (·.report { status := .engineFault, code := code, detail := detail })

/-- Whether the task in service on a core still issues commands: no end reported, window open, core not halted. -/
def State.issues (s : State) (l : Fin 64) : Option Task :=
  match (s.core l).serving with
  | none => none
  | some e =>
    if e.report.isSome || e.windowClosed || (s.core l).halted then none else some e.task

/-! ### Faults -/

/-- Scope of a fault code (R398): 0 context teardown, 1 record only, 2 die fence. -/
def faultScope (code : Nat) : Nat :=
  if code ≥ 0x80 then 2 else if code = 0x1E ∨ code = 0x1F ∨ code = 0x20 then 1 else 0

/-- Whether the block stands at the first ac of a local tick. -/
def State.atTickStart (s : State) : Bool := s.time.tickRunning && !s.time.inMargin && s.time.slot == 0 && s.time.offset == 0

/-- Whether another context of the catchment is resident on the die (R452). A rota member that is torn down beside the resident one is
not (R335). -/
def State.rivalHere (s : State) (k : Fin 16) : Bool :=
  let c := s.ctx k
  allSlots.any fun j =>
    let d := s.ctx j
    j != k && d.catchment == c.catchment && !d.offCores
      && (d.phase == .running || d.phase == .freezing || d.phase == .thawing || d.phase == .tearingDown)

/-- The cores of a catchment that are a context's own now: none of a Frozen member, and none of one that is Loading beside the resident
member, whose cores they are (R335, R452). -/
def State.coresOf (s : State) (k : Fin 16) : List Nat :=
  let c := s.ctx k
  if c.offCores || c.phase == .frozen || (c.phase == .loading && s.rivalHere k) then [] else c.cores

/-- Halts the cores of a context through CORE_CTL (R173, R513). -/
def State.haltCores (s : State) (k : Fin 16) : State :=
  (s.coresOf k).foldl (fun s l => s.modCore (lcidOf l) fun c => { c with halted := true }) s

/-- Releases the cores of a context. A SEND that was stalled at the halt is issued again (R201). -/
def State.runCores (s : State) (k : Fin 16) : State :=
  (s.ctx k).cores.foldl
    (fun s l => s.modCore (lcidOf l) fun c => { c with
      halted := false, boundaryReached := false, drained := false, sendWait := c.sendWait.map fun w => { w with test := some s.time.ac } }) s

/-! ### Trace capture -/

/-- The symbol that declares a reserved structure (R510). -/
def Ctx.symbol? (c : Ctx) (layer op : Nat) : Option Symbol := c.image.symbols.find? fun x => x.layer == layer && x.operatorId == op

/-- Length of the trace ring (R416); zero where the image declares none. -/
def Ctx.traceRing (c : Ctx) : Nat := ((c.symbol? 0xFFFF 0xFFD0).map (·.length)).getD 0

/-- Whether a capture is in progress (R431). -/
def Trace.capturing (t : Trace) : Bool := t.capture == .armed || t.capture == .triggered

/-- Bytes written into the ring and not yet drained, those of the record under way with them (R419). -/
def Trace.undrained (t : Trace) : Nat :=
  (t.ring.map fun r => r.2.length).sum + t.queued + match t.chunk with | some k => k.used | none => 0

/-- Puts a record into the queue at its place: ascending stamp, then the order of R418. -/
def insertRec (r : TraceRec) : List TraceRec → List TraceRec
  | [] => [r]
  | q :: qs => if q.stamp < r.stamp || (q.stamp == r.stamp && q.order ≤ r.order) then q :: insertRec r qs else r :: q :: qs

/-- Puts a record into the capture queue, behind the one that is being written. -/
def Trace.insert (t : Trace) (r : TraceRec) : Trace :=
  match t.queue with
  | q :: qs => { t with queue := if t.queued = 0 then insertRec r (q :: qs) else q :: insertRec r qs }
  | [] => { t with queue := [r] }

/-- A loss record (R419, R427 type 0x06). -/
def lossRecord (n first last causes : Nat) : Bytes :=
  leBytes 8 first ++ leBytes 1 0x06 ++ leBytes 1 causes ++ leBytes 2 0xFFFF ++ leBytes 2 0xFFFF ++ zeros 2
    ++ leBytes 8 last ++ leBytes 6 n ++ zeros 2

/-- Order of Puska's own records among those of one stamp (R418). -/
def puskaOrder : Nat := 1000

/-- Offers a record to the capture queue: kept, or dropped and counted; the loss record that is due goes before the next record that is
kept and leaves room for both (R418, R419). -/
def Trace.offer (t : Trace) (room : Nat) (r : TraceRec) : Trace :=
  if !t.capturing then t
  else
    let full := decide (t.queue.length ≥ 256)
    let short := decide (room < t.undrained + r.bytes.length)
    if full || short then
      let cause := b2n full + 2 * b2n short
      { t with
        lost := wrap 32 (t.lost + 1)
        pendingLoss := match t.pendingLoss with
          | none => some (1, r.stamp, r.stamp, cause)
          | some (n, f, _, c) => some (n + 1, f, r.stamp, c ||| cause) }
    else
      let t := match t.pendingLoss with
        | none => t
        | some (n, f, l, c) =>
          if t.queue.length + 1 ≥ 256 ∨ room < t.undrained + r.bytes.length + 32 then t
          else { t with pendingLoss := none, lossRecords := wrap 32 (t.lossRecords + 1) }.insert ⟨r.stamp, 0, false, lossRecord n f l c⟩
      t.insert r

/-- Offers a record of a context to its trace. -/
def Ctx.capture (c : Ctx) (stamp order : Nat) (trigger : Bool) (b : Bytes) : Ctx :=
  { c with trace := c.trace.offer c.traceRing ⟨stamp, order, trigger, b⟩ }

/-- Moves whole records from the queue to the ring for `n` written bytes. -/
def Trace.flow : Trace → Nat → List TraceRec → Trace
  | t, _, [] => { t with queue := [], queued := 0 }
  | t, n, r :: rs =>
    if r.bytes.length ≤ n then
      Trace.flow { t with ring := t.ring ++ [(r.trigger, r.bytes)], written := t.written + r.bytes.length } (n - r.bytes.length) rs
    else { t with queue := r :: rs, queued := n }

/-- The bytes of the queue's next 64 B unit. -/
def Trace.unitBytes (t : Trace) : Bytes := ((t.queue.flatMap (·.bytes)).drop t.queued).take 64

/-- One 64 B unit of the queue is written into the ring (R418). -/
def Trace.unit (t : Trace) : Trace := if t.queue.isEmpty then t else t.flow (t.queued + 64) t.queue

/-- A trigger of the context's trace (R431, R432): the record, and whether it is the first of a trigger-centred capture. -/
def Ctx.traceTrigger (c : Ctx) (stamp source detail layer op : Nat) : Ctx :=
  let t := c.trace
  if t.effective.getLsbD (13 + source) && t.capturing then
    let first := t.capture == .armed && bits t.effective.toNat 8 7 == 2
    let b := leBytes 8 stamp ++ leBytes 1 0x0A ++ leBytes 1 source ++ leBytes 2 layer ++ leBytes 2 op ++ zeros 2
      ++ leBytes 4 detail ++ leBytes 1 (b2n (!first)) ++ zeros 11
    let c := c.capture stamp puskaOrder first b
    if first then { c with trace := { c.trace with capture := .triggered } } else c
  else c

/-- Raises a trigger of a context: the record, the event, and XTRIG_OUT for the first one (R432, R477). -/
def State.trigger (s : State) (k : Fin 16) (source detail layer op : Nat) : State :=
  let c := s.ctx k
  if c.trace.effective.getLsbD (13 + source) && c.trace.capturing then
    let c' := c.traceTrigger s.stamp source detail layer op
    let s := (s.setCtx k c').raise (ctxPage k) 5
    if c.trace.capture = .armed ∧ c'.trace.capture = .triggered ∧ c.trace.effective.getLsbD 19 then s.signalOut 0 else s
  else s

/-- The CMID records of a context carry: zero for a single-member context (R383, R397). -/
def Ctx.recordCmid (c : Ctx) : Nat := if c.multiMember then c.cmid else 0

/-- Detection of a fault of a context (R387, R390, R513): the first one is kept, or of one ac the one with the lowest
code; later ones are counted; cores halt, records of steps are withheld. Record-only faults file their record. -/
def State.fault (s : State) (k : Fin 16) (f : FaultInfo) : State :=
  let c := s.ctx k
  let f := { f with scope := faultScope f.code, stamp := s.stamp, phase := c.phase.code, cmid := c.recordCmid }
  let f := if f.peer then f else { f with member := c.memberIndex }
  if c.phase = .empty then s
  else if f.scope = 1 then
    (((s.modCtx k (·.cause 8)).pushRec { kind := 8, cxid := c.cxid, ctx := some k, fault := some f, due := s.nextTick }).raise (ctxPage k) 1).trigger
      k 2 f.code f.ids.1 f.ids.2
  else
    match c.fault with
    | none =>
      let s := (s.modCtx k fun c => { (c.cause 8) with fault := some f, withheld := true }).haltCores k
      (s.raise (ctxPage k) 1).trigger k 2 f.code f.ids.1 f.ids.2
    | some g =>
      let g' := if g.stamp = f.stamp then (if f.code < g.code then { f with fenced := g.fenced, phase := g.phase } else g)
        else { g with later := sat 16 (g.later + 1) }
      ((s.modCtx k fun c => { c with fault := some g' }).raise (ctxPage k) 1).trigger k 2 f.code f.ids.1 f.ids.2

/-- A fault with only its details. -/
def State.faultCode (s : State) (k : Fin 16) (code d1 d2 : Nat) : State :=
  s.fault k { code := code, detail1 := d1, detail2 := d2 }

/-! ### Link messages -/

/-- The data virtual channels Puska uses (log entry 6): 0 for DMV0, 1 for DMV1; 2 control; 3 time. -/
def vcData (dmv1 : Bool) : Nat := b2n dmv1

/-- The outbound port an entry's routes name for a destination (R341). -/
def portTo (e : ManifestEntry) (d : Nat) : Option Nat := (e.routes.find? fun r => r.1 == d).map (·.2)

/-- The routing table of a catchment on this die: the routes of its accepted manifest's entry (R344). -/
def State.routeTo (s : State) (cmid dest : Nat) : Option Nat :=
  (allSlots.find? fun k => (s.catch_ k).valid && (s.catch_ k).cmid == cmid).bind fun k =>
    (((s.catch_ k).manifest).bind fun m => m.entries[(s.catch_ k).index]?).bind (portTo · dest)

/-- Discards a message as stray (R36): the count, the error with the sender, the event. -/
def State.stray (s : State) (sender : Nat) : State :=
  (({ s with safety := { s.safety with strays := wrap 32 (s.safety.strays + 1) } }).pageError 0x34 0x07 sender).raise 0x34 2

/-- Hands a message to the link fabric on a port (R35). -/
def State.linkSend (s : State) (port dest : Nat) (hdr : MsgHdr) (body : MsgBody) : State :=
  { s with linkOut := s.linkOut ++ [{ dest := dest, port := port, hdr := hdr, body := body }] }

/-- Sends a message of a catchment: out of the port its CMID's table names, or discarded as stray where the table holds no route
(R36, R344, R345). A fenced die sends nothing for its contexts (R395). -/
def State.sendMsg (s : State) (dest : Nat) (hdr : MsgHdr) (body : MsgBody) : State :=
  if s.safety.fenced then s
  else match s.routeTo hdr.cmid dest with
  | some port => s.linkSend port dest hdr body
  | none => s.stray hdr.sender

/-- The number of the context tick of this die tick (R58). -/
def State.dueTick (s : State) (k : Fin 16) : Nat :=
  let c := s.ctx k
  s.time.localTick - c.launchGtc - c.holdCount

/-- The tick control messages and notices of a context are stamped with: its context tick while it runs, the die tick before
its launch and while it is frozen (R58, R59, R347; log entry 10). What a tick start does before the ends of the context ticks carries
the tick that closes (R312, R319, R329). -/
def State.stampTick (s : State) (k : Fin 16) : Nat :=
  let c := s.ctx k
  if c.phase = .running ∧ c.launched then
    (if c.halted || c.held || s.time.closing.isSome then c.tick else max c.tick (s.dueTick k))
  else s.time.closing.getD s.time.localTick

/-- The header of a message of a context (R59). -/
def State.hdrOf (s : State) (k : Fin 16) (vc epoch : Nat) : MsgHdr :=
  let c := s.ctx k
  { sender := s.cfg.instanceAddr, cmid := c.cmid, cxid := c.cxid, tick := s.stampTick k, epoch := epoch, vc := vc }

/-- Members of a context's catchment: (entry index, instance address), headwater and workers (R340). -/
def State.members (s : State) (k : Fin 16) : List (Nat × Nat) :=
  match (s.catch_ (s.ctx k).catchment).manifest with
  | none => [(0, s.cfg.instanceAddr)]
  | some m =>
    ((List.range m.entries.length).zip m.entries).filterMap fun (i, e) =>
      if e.role = 2 then none else some (i, e.instanceAddr)

/-- The headwater's instance address. -/
def State.headwaterAddr (s : State) (k : Fin 16) : Nat :=
  match (s.catch_ (s.ctx k).catchment).manifest with
  | none => s.cfg.instanceAddr
  | some m => ((m.entries[m.headwater]?).map (·.instanceAddr)).getD 0

/-- Sends a control message; one a member addresses to itself takes effect at T + H like the others (R176, R349). -/
def State.sendCtrl (s : State) (k : Fin 16) (dest : Nat) (body : Ctrl) : State :=
  if dest = s.cfg.instanceAddr then
    s.modCtx k fun c => { c with due := c.due ++ [{ tick := s.stampTick k + c.horizon, sender := dest, ctrl := body }] }
  else s.sendMsg dest (s.hdrOf k 2 0) (.ctrl body)

/-- Notes the context tick of the last control message to a member, for the idle beat (R353). -/
def Ctx.sentTo (c : Ctx) (i : Nat) : Ctx :=
  { c with hw := { c.hw with lastSent := (i, c.tick) :: c.hw.lastSent.filter fun p => p.1 ≠ i } }

/-- Sends a control message to every other member. -/
def State.sendOthers (s : State) (k : Fin 16) (body : Ctrl) : State :=
  ((s.members k).filter fun p => p.2 != s.cfg.instanceAddr).foldl (fun s p => s.sendCtrl k p.2 body) s

/-- Sends a control message to every member (R349). -/
def State.sendAll (s : State) (k : Fin 16) (body : Ctrl) : State :=
  (s.members k).foldl (fun s p => (s.sendCtrl k p.2 body).modCtx k fun c => c.sentTo p.1) s

/-! ### The fence -/

/-- Step 2 of R395 for one multi-member context: a teardown message to the headwater, or from it to every member (R353). -/
def State.fenceNotice (s : State) (code : Nat) (k : Fin 16) : State :=
  let c := s.ctx k
  if c.phase ≠ .empty ∧ c.phase ≠ .tearingDown ∧ c.multiMember then
    let s := if c.headwater then s.sendAll k (.teardown code c.memberIndex)
      else s.sendCtrl k (s.headwaterAddr k) (.teardown code c.memberIndex)
    s.modCtx k fun c => { c with relayed := true }
  else s

/-- Step 3 of R395 for one context: the fence's code, or its own earlier fault, with the fenced flag; the fence is then one of its later
faults (R390). -/
def State.fenceCtx (s : State) (code d1 d2 : Nat) (k : Fin 16) : State :=
  let c := s.ctx k
  if c.phase = .empty then s
  else
    let s := s.fault k { code := code, detail1 := d1, detail2 := d2 }
    s.modCtx k fun c => { c with fault := c.fault.map fun f => { f with fenced := true }, withheld := true }

/-- Fences the die (R395): the teardown messages are the last that it sends for its contexts. A further cause while fenced adds
nothing. -/
def State.fence (s : State) (code d1 d2 : Nat) : State :=
  if s.safety.fenced then s
  else
    let s := { s with cores := s.cores.map fun (c : Core) => { c with halted := true } }
    let s := allSlots.foldl (·.fenceNotice code ·) s
    let s := { s with
      safety := { s.safety with fenced := true, fenceCode := code, fenceGtc := s.time.localTick, fenceDetail1 := d1, fenceDetail2 := d2 }
      sluice := { s.sluice with windowState := 2 } }
    let s := allSlots.foldl (·.fenceCtx code d1 d2 ·) s
    let s := ((s.raise 0x01 1).raise 0x34 0).signalOut 2
    s.pushRec
      { kind := 8, due := s.nextTick
        fault := some { code := code, scope := 2, stamp := s.stamp, fenced := true, detail1 := d1, detail2 := d2 } }

end Sys2Proof.Machine
end

