-- ==== Sys2Proof/Machine/Counters.lean ====
section
/-! DEFINITION. Synchronisation counters (R159–R178): the commands of R164, their acceptance and effect, the order of
R167, producer and consumer pairs, saturation, and ripples. -/

namespace Sys2Proof.Machine

/-! ### Clusters of cores -/

/-- The cluster of an LCID: that of the PCID its core map entry names (R20). -/
def State.clusterOf (s : State) (l : Nat) : Nat :=
  match s.cfg.coreMap[l]? with
  | some p => p / 9 % 8
  | none => l / 8 % 8

/-- The unit number of a core's cluster. -/
def State.unitOf (s : State) (l : Nat) : Fin 8 := Fin.ofNat 8 (s.clusterOf l)

/-- Pairs of a core that its cluster's unit has accepted. -/
def Core.accepted (c : Core) : Nat := c.offered - c.offers.length

/-- Whether an entry is one of the first `after` pairs a core offered. -/
def IntakeEntry.isPair (e : IntakeEntry) (l after : Nat) : Bool :=
  e.lcid == l && (match e.seq with | some n => decide (n < after) | none => false)

/-- Whether one of the first `after` pairs a core offered is not yet accepted, or not yet added (R253): it waits in the core's own
cluster, or, sent to the own instance, in a remote part (R255). -/
def State.pairsOutstanding (s : State) (l after : Nat) : Bool :=
  decide ((s.core (lcidOf l)).accepted < after) || (s.unit (s.unitOf l)).localPart.any (·.isPair l after)
    || s.units.toList.any fun u => u.remotePart.any fun e => e.sender == s.cfg.instanceAddr && e.isPair l after

/-! ### Counter values -/

/-- The counter a virtual id translates to in a context (R161). -/
def Ctx.counter? (c : Ctx) (vid : Nat) : Option Counter := c.counters.find? fun q => q.decl.vid == vid

def Ctx.counterValue (c : Ctx) (vid : Nat) : Nat := ((c.counter? vid).map (·.value)).getD 0

/-- The largest counter value (R174). -/
def counterMax : Nat := 2 ^ 48 - 1

/-- Sets a counter, in both copies (R162). -/
def Ctx.setCounter (c : Ctx) (vid v : Nat) : Ctx :=
  { c with counters := c.counters.map fun q => if q.decl.vid == vid then { q with value := v, copy := v } else q }

/-- Reads of counters compare the two copies: a mismatch is a fault of the context (R162). -/
def State.compareCopies (s : State) (k : Fin 16) (vids : List Nat) : State :=
  match vids.find? fun v => match (s.ctx k).counter? v with | some q => q.value != q.copy | none => false with
  | some v => s.faultCode k 0x09 v 0
  | none => s

/-- The changes of one ac to a context's counters, with the results returned and the counters that saturated. -/
structure CntAcc where
  ctx : Ctx
  results : List (Nat × Nat) := []
  saturated : List Nat := []

/-- Adds to a counter, saturating (R167 step 1, R174). -/
def CntAcc.add (a : CntAcc) (vid n : Nat) : CntAcc :=
  let v := a.ctx.counterValue vid + n
  if n = 0 ∨ (a.ctx.counter? vid).isNone then a
  else if v > counterMax then { a with ctx := a.ctx.setCounter vid counterMax, saturated := a.saturated ++ [vid] }
  else { a with ctx := a.ctx.setCounter vid v }

/-- Serves one CNT_TAKE (R167 step 2). -/
def CntAcc.take (a : CntAcc) (lcid vid : Nat) : CntAcc :=
  let v := a.ctx.counterValue vid
  { a.add vid 1 with results := a.results ++ [(lcid, v)] }

/-- The pairs out of bounds after the changes of an ac (R172): overrun or underrun, producer id, the excess. Where several flag in one ac
with one code, the first in the image's order of declaration gives the record and first_vid (DESIGN CHOICE, log entry 133). -/
def pairFaults (old new : Ctx) : List (Bool × Nat × Nat) :=
  new.counters.filterMap fun q =>
    let p := q.value
    let c := new.counterValue q.decl.partner
    if q.decl.role ≠ 1 then none
    else if p = old.counterValue q.decl.vid ∧ c = old.counterValue q.decl.partner then none
    else if p > c + q.decl.buffers then some (true, q.decl.vid, p - c)
    else if c > p then some (false, q.decl.vid, c - p)
    else none

/-- Marks a pair flag in CTX_COUNTER_STATUS (R173, R490). -/
def Ctx.pairFlag (c : Ctx) (isOver : Bool) (vid : Nat) : Ctx :=
  { c with stats := { c.stats with
      overrun := c.stats.overrun || isOver
      underrun := c.stats.underrun || !isOver
      firstVid := if c.stats.firstVid.isNone then some vid else c.stats.firstVid } }

/-- The four actions of R173 for one pair. -/
def State.pairFault (s : State) (k : Fin 16) (f : Bool × Nat × Nat) : State :=
  ((s.modCtx k (·.pairFlag f.1 f.2.1)).raise (ctxPage k) 4).faultCode k (if f.1 then 0x0A else 0x0B) f.2.1 f.2.2

/-- The actions of R174 for one counter. -/
def State.saturation (s : State) (k : Fin 16) (vid : Nat) : State :=
  ((s.modCtx k fun c => { c with stats := { c.stats with saturated := true } }).raise (ctxPage k) 4).faultCode k 0x0C vid 0

/-- Marks the waits of a context that the values now reach (R167 step 4, R170). -/
def State.reachWaits (s : State) (k : Fin 16) : State :=
  let c := s.ctx k
  c.cores.foldl (fun s l => s.modCore (lcidOf l) fun r =>
    { r with cntWait := r.cntWait.map fun w =>
        if w.reached.isNone ∧ c.counterValue w.vid ≥ w.target then { w with reached := some s.time.ac } else w }) s

/-- The counters whose pairs with those of a list are checked (R172). -/
def Ctx.partnersOf (c : Ctx) (vids : List Nat) : List Nat := vids.filterMap fun v => (c.counter? v).map (·.decl.partner)

/-- The counters that the waits in force on a context's cores read (R167 step 4); none is read once the context has a fault. -/
def State.waitedOn (s : State) (k : Fin 16) : List Nat :=
  if (s.ctx k).fault.isSome then [] else (s.ctx k).cores.filterMap fun l => (s.core (lcidOf l)).cntWait.map (·.vid)

/-- Puts a result on a core's status lane, returned `late` ac from now. -/
def State.giveResult (s : State) (lcid late : Nat) (r : ResultBody) : State :=
  { s with results := s.results ++ [⟨lcid, s.time.ac + late, r⟩] }

/-- Counter commands of a context that are effective in this ac. -/
def State.dueOps (s : State) (k : Fin 16) : List CntOp :=
  s.cntOps.filter fun o => o.slot == k && !o.kind.isRipple && (match o.due with | some d => d ≤ s.time.ac | none => false)

/-- Puts the waits that become effective into force. -/
def State.beginWait (s : State) (o : CntOp) : State :=
  match o.kind with
  | .wait t => s.modCore (lcidOf o.lcid) fun c => { c with cntWait := some { vid := o.vid, target := t, at_ := s.time.ac } }
  | _ => s

/-- Serves a CNT_READ (R164). -/
def State.serveRead (s : State) (k : Fin 16) (o : CntOp) : State :=
  match o.kind with
  | .read => s.giveResult o.lcid 4 (.value ((s.ctx k).counterValue o.vid))
  | _ => s

/-- Resolves the changes of one ac on a context's counters in the order of R167. `notices` are the increments of
ripples and landing notices applied in it. -/
def State.resolveCounters (s : State) (k : Fin 16) (notices : List (Nat × Nat)) : State :=
  let due := s.dueOps k
  let read := notices.map (·.1) ++ due.map (·.vid) ++ s.waitedOn k
  let s := s.compareCopies k (read ++ (s.ctx k).partnersOf read)
  if due.isEmpty && notices.isEmpty then s
  else
    let old := s.ctx k
    let incs := due.filterMap fun o => match o.kind with | .inc n => some (o.vid, n) | _ => none
    let takes := (due.filter fun o => decide (o.kind = .take)).mergeSort fun a b => a.lcid ≤ b.lcid
    let a := (notices ++ incs).foldl (fun (a : CntAcc) p => a.add p.1 p.2) { ctx := old }
    let a := takes.foldl (fun (a : CntAcc) o => a.take o.lcid o.vid) a
    let new := if a.ctx.counters = old.counters then a.ctx else { a.ctx with progress := true }
    let s := s.setCtx k new
    let s := { s with cntOps := s.cntOps.filter fun o => !(due.contains o) }
    let s := a.results.foldl (fun s r => s.giveResult r.1 4 (.value r.2)) s
    let s := due.foldl (·.beginWait ·) s
    let pairs := pairFaults old new
    let quiet := old.fault.isNone && pairs.isEmpty
    let s := pairs.foldl (·.pairFault k ·) s
    let s := a.saturated.foldl (·.saturation k ·) s
    let s := due.foldl (·.serveRead k ·) s
    if quiet then s.reachWaits k else s

/-! ### The horizon queue's weirs (R149, R309) -/

/-- A high and a low weir (R149). -/
def weir (high low held : Nat) (stalled : Bool) : Bool := if held ≥ high then true else if held ≤ low then false else stalled

/-- A context's share of the horizon queue, with what arrived while it was Frozen (R37). -/
def State.horizonHeld (s : State) (k : Fin 16) : Nat := (s.horizon.filter fun h => h.slot == k).length

/-- A context's messages in the horizon queue whose credits are still out: those of what arrives after a freeze's save went back on
receipt (R37). -/
def State.horizonMetered (s : State) (k : Fin 16) : Nat := (s.horizon.filter fun h => h.slot == k && !h.whileFrozen).length

/-- The BE horizon pool (R309). -/
def State.beHorizonPool (s : State) : Nat :=
  3839 - ((s.catches.toList.filter fun c => c.valid && !c.be).map (·.horizonQuota)).sum

/-- Whether a BE context's senders lack credits while another BE context holds part of the horizon pool (R317). -/
def State.horizonDelayed (s : State) (k : Fin 16) : Bool :=
  (s.ctx k).phase != .empty && (s.ctx k).be && allSlots.any fun j => j != k && (s.ctx j).be && decide (s.horizonHeld j > 0)

/-- Credits granted for a space and not yet used (R515): none is granted while they are withheld; else they fill the space up to its
limit. How soon the link fabric takes them is its matter (DESIGN CHOICE, log entry 141). -/
def grant (limit held credit : Nat) (withheld : Bool) : Nat := if withheld then min credit (limit - held) else limit - held

/-- One entry of the horizon queue uses a credit of each space it enters (R515). -/
def State.useCredit (s : State) (k : Fin 16) : State :=
  { s with
    horizonCredit := s.horizonCredit - 1
    quotaCredit := if (s.ctx k).be then s.quotaCredit else s.quotaCredit.modify k.val (· - 1)
    beCredit := if (s.ctx k).be then s.beCredit - 1 else s.beCredit }

/-- Whether a context waits for horizon credits: a weir that holds its senders (R149, R309). -/
def State.creditWait (s : State) (k : Fin 16) : Bool := s.horizonStalled || s.quotaStalled.getLsbD k.val || ((s.ctx k).be && s.beHorizonStalled)

/-- Notes the ac at which a wait for credits begins, by the weirs before a change (R440). -/
def State.markCredits (s old : State) : State :=
  let rise := allSlots.filter fun k => s.creditWait k && !old.creditWait k
  rise.foldl (fun s k => s.modCtx k fun c => { c with began := { c.began with credits := s.time.ac } }) s

/-- Takes the horizon's weirs anew, with the credits they grant. -/
def State.horizonWeirs (s : State) : State :=
  let total := s.horizon.length
  let pool := s.beHorizonPool
  let be := ((allSlots.filter fun k => (s.ctx k).be).map s.horizonHeld).sum
  let quota := allSlots.foldl (fun (m : BitVec 16) k =>
    let c := s.ctx k
    let q := (s.catch_ c.catchment).horizonQuota
    if c.phase = .empty ∨ c.be then m &&& ~~~ (1#16 <<< k.val)
    else if weir q (3 * q / 4) (s.horizonHeld k) (s.quotaStalled.getLsbD k.val) then m ||| (1#16 <<< k.val)
    else m &&& ~~~ (1#16 <<< k.val)) s.quotaStalled
  let beNow := weir pool (3 * pool / 4) be s.beHorizonStalled && be != 0
  let full := weir 3840 3328 total s.horizonStalled
  let now : State := { s with
    horizonStalled := full
    horizonCredit := grant 4096 (s.horizon.filter (!·.whileFrozen)).length s.horizonCredit full
    quotaCredit := allSlots.map fun k =>
      if (s.ctx k).phase = .empty ∨ (s.ctx k).be then 0
      else grant (s.catch_ (s.ctx k).catchment).horizonQuota (s.horizonMetered k) (s.quotaCredit.getD k.val 0) (quota.getLsbD k.val)
    beCredit := grant pool ((allSlots.filter fun k => (s.ctx k).be).map s.horizonMetered).sum s.beCredit beNow
    quotaStalled := quota
    beHorizonStalled := beNow
    beHorizonDelay := if beNow then allSlots.foldl (fun (m : BitVec 16) k => if s.horizonDelayed k then m ||| (1#16 <<< k.val) else m) s.beHorizonDelay
      else s.beHorizonDelay }
  (now.markCredits s).peak { horizon := total }

/-- The delays that stand when a tick has begun (R317). -/
def State.seedDelays (s : State) : State :=
  { s with beHorizonDelay :=
      if s.beHorizonStalled then allSlots.foldl (fun (m : BitVec 16) k => if s.horizonDelayed k then m ||| (1#16 <<< k.val) else m) 0 else 0 }

/-! ### Ripples -/

/-- The header of a ripple or a remote entry: what was accepted before the halt of a freeze and leaves after it carries tick F − 1
(R59, R320). -/
def State.dataHdr (s : State) (k : Fin 16) (vc epoch : Nat) : MsgHdr :=
  let h := s.hdrOf k vc epoch
  if (s.ctx k).phase = .freezing then { h with tick := (s.ctx k).freezeTick - 1 } else h

/-- Whether a context holds a credit of each space of the horizon queue that its messages enter (R515). -/
def State.hasCredit (s : State) (k : Fin 16) : Bool :=
  decide (0 < s.horizonCredit) && decide (0 < if (s.ctx k).be then s.beCredit else s.quotaCredit.getD k.val 0)

/-- Sends a notice of a context: over the link, or for its own instance into the horizon queue (R175, R176). Such a one takes a credit
like every other (R515), and waits in order where there is none. (DESIGN CHOICE, log entry 158.) -/
def State.sendNotice (s : State) (k : Fin 16) (dest vc epoch : Nat) (body : MsgBody) : State :=
  let h := s.dataHdr k vc epoch
  if dest = s.cfg.instanceAddr then
    (if s.hasCredit k && (s.ctx k).ownWait.isEmpty then
      State.horizonWeirs
        { s.useCredit k with horizon := s.horizon ++ [{ hdr := h, body := body, slot := k, order := s.arrivals }], arrivals := s.arrivals + 1 }
     else s.modCtx k fun c => { c with ownWait := c.ownWait ++ [(vc, epoch, body)] })
  else s.sendMsg dest h body

/-- The notices of a context for its own instance that have waited for a credit (R515). -/
def State.sendWaiting (s : State) (k : Fin 16) : State :=
  let c := s.ctx k
  if c.ownWait.isEmpty || !s.hasCredit k then s
  else c.ownWait.foldl (fun s w => s.sendNotice k s.cfg.instanceAddr w.1 w.2.1 w.2.2) (s.setCtx k { c with ownWait := [] })

/-- Sends the ripples that are effective in this ac (R164, R175). -/
def State.sendRipple (s : State) (o : CntOp) : State :=
  match o.kind with
  | .ripple dest n dmv1 => s.sendNotice o.slot dest (vcData dmv1) o.epoch (.ripple o.vid n)
  | _ => s

/-- The engine of a data mover. -/
def moverEngine (dmv1 : Bool) : Engine := if dmv1 then .dmv1 else .dmv0

/-- Commands of a mover in progress on a core. -/
def Core.moverBusy (c : Core) (dmv1 : Bool) : List Nat := (c.engines.filter fun e => e.1 == moverEngine dmv1).map (·.2)

/-- Whether the named mover still has a remote write to hand over that it accepted before a ripple (R175); the exports of a core
count as remote writes of its DMV1 (R255). -/
def State.rippleHeld (s : State) (o : CntOp) (dmv1 : Bool) (due : Nat) : Bool :=
  let q := s.core (lcidOf o.lcid)
  (!q.drained && o.movers.any (q.moverBusy dmv1).contains) ||
    (dmv1 && s.units.toList.any fun u => (u.behind ++ u.waiting ++ u.current.toList).any fun m =>
      m.slot == o.slot && m.lcid == o.lcid && decide (m.effective ≤ due) && (match m.op with | .exportTo _ _ _ _ => true | _ => false))

/-- Whether an operation in flight is a ripple that leaves in this ac. -/
def State.rippleDue (s : State) (o : CntOp) : Bool :=
  match o.kind, o.due with
  | .ripple _ _ dmv1, some d => decide (d ≤ s.time.ac) && !s.rippleHeld o dmv1 d
  | _, _ => false

def State.sendRipples (s : State) : State :=
  let due := s.cntOps.filter s.rippleDue
  let s' := due.foldl (·.sendRipple ·) s
  { s' with cntOps := s'.cntOps.filter fun o => !(due.contains o) }

/-- Accepts the held counter commands of which no earlier pair of the core is outstanding (R253); those of a halted core wait for its
resume (R201). -/
def State.acceptHeld (s : State) : State :=
  { s with cntOps := s.cntOps.map fun o =>
      if o.due.isNone && !(s.core (lcidOf o.lcid)).halted && !s.pairsOutstanding o.lcid o.after then { o with due := some (s.time.ac + 8) } else o }

/-! ### The commands -/

/-- A counter command of the task in service on a core is performed: refused under R165, or accepted at once, or held until the
core's pairs have been added (R253). -/
def State.performCounter (s : State) (l : Fin 64) (t : Task) (code vid : Nat) (translate zero : Bool) (kind : CntKind) (after : Nat)
    (movers : List Nat) : State :=
  if vid = 0xFFFFF ∨ zero = true ∨ (translate = true ∧ ((s.ctx t.slot).counter? vid).isNone) then s.engineFault l code vid
  else
    let held := s.pairsOutstanding l.val after || s.cntOps.any fun o => o.lcid == l.val && o.due.isNone
    let due := if held then none else some (s.time.ac + 8)
    { s with cntOps := s.cntOps ++
        [{ lcid := l.val, slot := t.slot, vid := vid, kind := kind, due := due, epoch := t.epoch, movers := movers, after := after }] }

/-- Whether a stalled SEND holds the command lane of a core's DMV0 (R194). -/
def Core.laneStalled (c : Core) : Bool := c.sendWait.isSome || !c.laneQueue.isEmpty

/-- A command goes behind the stalled SEND of its core. -/
def State.laneWaits (s : State) (l : Fin 64) (c : LaneCmd) : State := s.modCore l fun q => { q with laneQueue := q.laneQueue ++ [c] }

/-- A counter command of the task in service on a core, behind a stalled SEND where there is one (R194). -/
def State.counterCommand (s : State) (l : Fin 64) (code vid : Nat) (translate zero : Bool) (kind : CntKind) : State :=
  match s.issues l with
  | none => s
  | some t =>
    let q := s.core l
    let movers := match kind with | .ripple _ _ dmv1 => q.moverBusy dmv1 | _ => []
    if q.laneStalled then s.laneWaits l (.counter code vid translate zero kind q.offered movers)
    else s.performCounter l t code vid translate zero kind q.offered movers

/-- CNT_INC (R164, R165). -/
def execCntInc (lcid : Fin 64) (vid : BitVec 20) (increment : BitVec 32) (s : State) : Host.Outcome State Fault Refusal :=
  .next (s.counterCommand lcid 1 vid.toNat true (increment == 0) (.inc increment.toNat))

/-- CNT_TAKE (R164, R167). -/
def execCntTake (lcid : Fin 64) (vid : BitVec 20) (s : State) : Host.Outcome State Fault Refusal :=
  .next (s.counterCommand lcid 2 vid.toNat true false .take)

/-- CNT_READ (R164). -/
def execCntRead (lcid : Fin 64) (vid : BitVec 20) (s : State) : Host.Outcome State Fault Refusal :=
  .next (s.counterCommand lcid 3 vid.toNat true false .read)

/-- CNT_WAIT (R164, R170). -/
def execCntWait (lcid : Fin 64) (vid : BitVec 20) (target : BitVec 48) (s : State) : Host.Outcome State Fault Refusal :=
  .next (s.counterCommand lcid 4 vid.toNat true false (.wait target.toNat))

/-- RIPPLE (R164, R165, R175, R176). -/
def execRipple (lcid : Fin 64) (dest : BitVec 32) (vid : BitVec 20) (increment : BitVec 32) (dmv1 : Bool) (s : State) :
    Host.Outcome State Fault Refusal :=
  .next (s.counterCommand lcid 5 vid.toNat false (increment == 0) (.ripple dest.toNat increment.toNat dmv1))

/-- A CNT_WAIT is released 4 ac after the first ac at which its target was reached (R164, R170); on a halted core when it resumes (R201). -/
def State.cntWaitRelease (s : State) (l : Fin 64) : State :=
  match (s.core l).cntWait with
  | some ⟨_, _, some r, _⟩ =>
    if r + 4 ≤ s.time.ac ∧ (s.core l).halted = false then
      let s := s.modCore l fun c => { c with cntWait := none }
      { s with results := s.results ++ [⟨l.val, r + 4, .released⟩] }
    else s
  | _ => s

def execCntWaitRelease (lcid : Fin 64) (s : State) : Host.Outcome State Fault Refusal := .next (s.cntWaitRelease lcid)

end Sys2Proof.Machine
end

