-- ==== Sys2Proof/Machine/Graph.lean ====
section
/-! DEFINITION. Task graphs (R97–R116, R122): instantiation of a step, dependency counts, successor lists, event
flags, counter watches, cancellation of a step, and effective flows. -/

namespace Sys2Proof.Machine

/-! ### Lookup -/

def Ctx.template (c : Ctx) (t : Nat) : Template := c.image.templates.getD t {}

def Ctx.node (c : Ctx) (t n : Nat) : NodeDesc := (c.template t).nodes.getD n {}

def Ctx.run? (c : Ctx) (step : Nat) : Option StepRun := c.steps.find? fun r => r.step == step

/-- Whether a stored descriptor's CRC-32C matches (R92, R96). -/
def NodeDesc.crcOk (d : NodeDesc) : Bool := (crc32c (d.raw.take 124)).toNat == field d.raw 124 4

/-- Whether every descriptor a step reads at its instantiation has a matching CRC (R96). -/
def Template.crcsOk (t : Template) : Bool := t.nodes.all NodeDesc.crcOk

/-- Applies a function to the run of a step. -/
def Ctx.modRun (c : Ctx) (step : Nat) (f : StepRun → StepRun) : Ctx :=
  { c with steps := c.steps.map fun r => if r.step == step then f r else r }

/-- Applies a function to one node instance. -/
def StepRun.modInst (r : StepRun) (n : Nat) (f : NodeInst → NodeInst) : StepRun :=
  { r with insts := r.insts.modify n f }

def StepRun.inst (r : StepRun) (n : Nat) : NodeInst := r.insts.getD n {}

/-- The index of the last entry a successor list may hold (R106). -/
def succMax : Nat := 4096

/-- The entries of a list from an index through the first that is last (R106). -/
def succFrom (es : List SuccEntry) : List SuccEntry :=
  match es with
  | [] => []
  | e :: es => if e.last then [e] else e :: succFrom es

/-- A node's successor list (R106). -/
def succOf (i : Image) (d : NodeDesc) : List SuccEntry :=
  match d.succ with
  | none => []
  | some k => (succFrom (i.successors.drop k)).take succMax

/-! ### Flags -/

/-- What setting flags does to an instance, and whether it counts as a late flag (R111). -/
def NodeInst.flagged (i : NodeInst) (kind : NodeKind) (f : BitVec 32) : NodeInst × Bool :=
  match i.state with
  | .waiting => ({ i with flags := i.flags ||| f }, false)
  | .inService => if kind = .control then ({ i with flags := i.flags ||| f }, false) else (i, true)
  | .resolved => (i, true)
  | .complete => (i, true)
  | .retired => (i, false)

/-- Sets flags on a node instance of a step in flight (R109–R111). One setting action adds one to the late-flag count however many
flag bits it carries (DESIGN CHOICE, log entry 126). -/
def Ctx.flagNode (c : Ctx) (step n : Nat) (f : BitVec 32) : Ctx :=
  match c.run? step with
  | none => c
  | some r =>
    if n < r.insts.length then
      let (i, late) := (r.inst n).flagged (c.node r.template n).kind f
      let c := c.modRun step (·.modInst n fun _ => i)
      if late then { c with stats := { c.stats with lateFlags := c.stats.lateFlags + 1 } } else c
    else c

/-- Sets flags on every instance of a step whose node satisfies a test. -/
def Ctx.flagNodes (c : Ctx) (step : Nat) (p : NodeDesc → Bool) (f : BitVec 32) : Ctx :=
  match c.run? step with
  | none => c
  | some r =>
    if r.cancelled then c
    else
      let ns := (List.range r.insts.length).filter fun n => p (c.node r.template n)
      ns.foldl (fun c n => c.flagNode step n f) c

/-! ### Tallies (R100) -/

/-- The tally and pending flags of a node. -/
def Ctx.tally (c : Ctx) (t n : Nat) : Nat × BitVec 32 :=
  match c.tallies.find? fun q => q.1 == t && q.2.1 == n with
  | some q => q.2.2
  | none => (0, 0)

/-- Adds to the tally and the pending flags of a node. -/
def Ctx.addTally (c : Ctx) (t n dec : Nat) (f : BitVec 32) : Ctx :=
  let (k, g) := c.tally t n
  { c with tallies := (t, n, k + dec, g ||| f) :: c.tallies.filter fun q => !(q.1 == t && q.2.1 == n) }

/-! ### Successor lists -/

/-- One decrement of a node instance's dependency count. -/
def NodeInst.dec (i : NodeInst) : NodeInst := { i with deps := i.deps - 1 }

/-- Applies one successor entry of a node of a step (R100, R105, R108). -/
def Ctx.applyEntry (c : Ctx) (step t : Nat) (e : SuccEntry) : Ctx :=
  let here (c : Ctx) (s : Nat) : Ctx :=
    let c := if e.decrement then c.modRun s (·.modInst e.target (·.dec)) else c
    if e.setFlags = 0 then c else c.flagNode s e.target e.setFlags
  if !e.nextStep then here c step
  else match c.run? (step + 1) with
    | some r => if r.template = t ∧ r.cancelled = false then here c (step + 1) else c
    | none => if c.nextStep = step + 1 then c.addTally t e.target (b2n e.decrement) e.setFlags else c

/-- Applies a node's whole list once (R108). -/
def Ctx.applyList (c : Ctx) (step t n : Nat) : Ctx :=
  (succOf c.image (c.node t n)).foldl (·.applyEntry step t ·) c

/-- A node instance becomes complete and its list is applied (R108). -/
def Ctx.completeNode (c : Ctx) (step n : Nat) : Ctx :=
  match c.run? step with
  | none => c
  | some r =>
    if r.cancelled then c
    else (c.modRun step (·.modInst n fun i => { i with state := .complete })).applyList step r.template n

/-- Whether every node of a step is complete (R102). -/
def StepRun.finished (r : StepRun) : Bool := !r.cancelled && r.insts.all fun i => i.state == .complete

/-! ### Watches -/

def Ctx.watchTarget (c : Ctx) (t n : Nat) : Nat :=
  match c.watchTargets.find? fun q => q.1 == t && q.2.1 == n with
  | some q => q.2.2
  | none => 0

def Ctx.setWatchTarget (c : Ctx) (t n v : Nat) : Ctx :=
  { c with watchTargets := (t, n, v) :: c.watchTargets.filter fun q => !(q.1 == t && q.2.1 == n) }

/-- Arms an instance's watch: the step's delta joins the target (R112). -/
def Ctx.arm (c : Ctx) (step n delta now : Nat) : Ctx :=
  match c.run? step with
  | none => c
  | some r =>
    if r.cancelled then c
    else
      let v := c.watchTarget r.template n + delta
      (c.setWatchTarget r.template n v).modRun step (·.modInst n fun i => { i with watch := some v, armedAt := now })

/-- Arms the watches that follow a node's resolved count (R112, delta source 1). -/
def Ctx.armFollowers (c : Ctx) (step t m count now : Nat) : Ctx :=
  let nodes := (c.template t).nodes
  let ns := (List.range nodes.length).filter fun n =>
    let d := c.node t n
    d.watchEnable && d.watchDeltaSource == 1 && d.watchNode == m
  ns.foldl (fun c n => c.arm step n (count * (c.node t n).watchDelta) now) c

/-- Compares one armed watch (R113). -/
def Ctx.compareWatch (c : Ctx) (step n now : Nat) : Ctx :=
  match c.run? step with
  | none => c
  | some r =>
    let i := r.inst n
    match i.watch with
    | none => c
    | some v =>
      let d := c.node r.template n
      if i.armedAt < now ∧ r.cancelled = false ∧ c.counterValue d.watchCounter ≥ v then
        (c.modRun step (·.modInst n fun i => { i with watch := none })).flagNode step n (BitVec.ofNat 32 (2 ^ d.watchFlag))
      else c

/-- Compares every armed watch of a context (R113). -/
def Ctx.compareWatches (c : Ctx) (now : Nat) : Ctx :=
  c.steps.foldl
    (fun c r => ((List.range r.insts.length).filter fun n => (r.inst n).watch.isSome).foldl (fun c n => c.compareWatch r.step n now) c) c

/-- The counters the watches of a context read (R112). -/
def Ctx.watchedCounters (c : Ctx) : List Nat :=
  c.image.templates.flatMap fun t => t.nodes.filterMap fun d => if d.watchEnable then some d.watchCounter else none

/-- Sets every watch target to its counter's value (R112). -/
def Ctx.rebaseWatches (c : Ctx) : Ctx :=
  let ts := c.image.templates
  let pairs := ((List.range ts.length).zip ts).flatMap fun p =>
    ((List.range p.2.nodes.length).zip p.2.nodes).filterMap fun q =>
      if q.2.watchEnable then some (p.1, q.1, c.counterValue q.2.watchCounter) else none
  { c with watchTargets := pairs }

/-! ### Instantiation -/

/-- A fresh instance of a node (R98, R100). -/
def Ctx.freshInst (c : Ctx) (t n : Nat) (carry : Bool) (d : NodeDesc) : NodeInst :=
  let (k, f) := c.tally t n
  { deps := if carry then d.depCount + d.carryIn - k else d.depCount, flags := f }

/-- Instantiates a step from a template (R97–R100, R112). `tick` is the context tick, `now` the boundary count. -/
def Ctx.instantiate (c : Ctx) (step t tick now : Nat) (batch : List BatchSeq) : Ctx :=
  let nodes := (c.template t).nodes
  let carry := c.lastTemplate == some t && !c.lastCancelled
  let insts := ((List.range nodes.length).zip nodes).map fun p => c.freshInst t p.1 carry p.2
  let run : StepRun :=
    { step := step, template := t, insts := insts, startTick := tick, startSlot := now, ndetStart := c.ndetTotal
      igaugeStart := c.stats.igaugeTicks, batch := batch }
  let c := { c with
    steps := c.steps ++ [run], tallies := [], nextStep := step + 1, lastTemplate := some t, lastCancelled := false
    progress := true }
  let ns := (List.range nodes.length).filter fun n => let d := c.node t n; d.watchEnable && d.watchDeltaSource == 0
  ns.foldl (fun c n => c.arm step n (c.node t n).watchDelta now) c

/-! ### Cancellation -/

/-- Retires a step's instances (R103). -/
def StepRun.cancel (r : StepRun) : StepRun :=
  { r with cancelled := true, insts := r.insts.map fun i => { i with state := .retired, watch := none } }

/-- Cancels a step and every later step in flight (R103). The pending flags stay, for the step that is instantiated next; its carry
and tally are zero because the step before it was cancelled (R100). -/
def Ctx.cancelFrom (c : Ctx) (step : Nat) : Ctx :=
  { c with
    steps := c.steps.map fun r => if r.step ≥ step then r.cancel else r
    rebase := c.rebase ++ (c.steps.filter fun r => decide (r.step ≥ step) && !r.cancelled).map (·.step)
    lastCancelled := c.lastCancelled || c.steps.any fun r => decide (r.step ≥ step ∧ r.step + 1 = c.nextStep) }

/-! ### Eligibility and flows -/

/-- The wait condition (R109). -/
def waitHolds (any : Bool) (mask flags : BitVec 32) : Bool :=
  if mask = 0 then true else if any then mask &&& flags != 0 else mask &&& flags == mask

/-- Whether a waiting instance is eligible. -/
def NodeInst.eligible (i : NodeInst) (d : NodeDesc) : Bool :=
  i.state == .waiting && i.deps == 0 && waitHolds d.waitAny d.waitMask i.flags

/-- The batch sequence of a fan-out index of a source-6 or source-7 node; defined with the ledger. -/
def StepRun.batchSeq (r : StepRun) (i : Nat) : Option BatchSeq := r.batch[i]?

/-- Effective flow (R122): none without a flow; `seq` is the die sequence id of the instance. -/
def nodeFlow (d : NodeDesc) (fanout seq : Nat) : Option Nat :=
  match d.flowMode with
  | 0 => none
  | 1 => some d.flowId
  | 2 => some (d.flowId + fanout)
  | _ => some (d.flowId + seq)

/-- Argument block address of an instance (R121). -/
def argAddress (d : NodeDesc) (step fanout : Nat) : Nat :=
  d.argPointer + (step % max d.argStepRing 1 * d.argStepStride + fanout * d.argFanoutStride) * 64

end Sys2Proof.Machine
end

