-- ==== Sys2Proof/Machine/Routing.lean ====
section
/-! DEFINITION. Expert routing (R202–R239): the inlet and its misuse, routing jobs, the routing pass, published lists,
residency, the fetch planner, borrowing, and what a cancellation does to them. -/

namespace Sys2Proof

open Machine (bits)

/-- Fields of a slot group (R211): base, LCID, slot size in bytes, slot count, window. -/
def Expert.base (x : Expert) : Nat := bits x.slotGroup 25 0
def Expert.groupLcid (x : Expert) : Nat := bits x.slotGroup 31 26
def Expert.slotBytes (x : Expert) : Nat := bits x.slotGroup 50 32 * 64
def Expert.slotCount (x : Expert) : Nat := bits x.slotGroup 59 51 + 1
def Expert.windowId (x : Expert) : Nat := bits x.slotGroup 63 60

/-- Byte offset of an expert's slot in its core's scratchpad. -/
def Expert.slotOffset (x : Expert) (slot : Nat) : Nat := x.base + slot * x.slotBytes

/-- Fan-out parameters of sources 3 to 5 (R226). -/
def NodeDesc.routeLayer (d : NodeDesc) : Nat := bits d.fanoutParam 15 0
def NodeDesc.routeSubset (d : NodeDesc) : Nat := bits d.fanoutParam 17 16

end Sys2Proof

namespace Sys2Proof.Machine

/-! ### Inlet records (R202) -/

def recType (r : BitVec 64) : Nat := bits r.toNat 57 56
def recToken (r : BitVec 64) : Nat := bits r.toNat 19 0
def recRank (r : BitVec 64) : Nat := bits r.toNat 23 20
def recExpert (r : BitVec 64) : Nat := bits r.toNat 39 24
def recGate (r : BitVec 64) : Nat := bits r.toNat 55 40
def recSpill (r : BitVec 64) : Bool := r.getLsbD 58
def recLast (r : BitVec 64) : Bool := r.getLsbD 20
def recLayer (r : BitVec 64) : Nat := bits r.toNat 39 24
def recTokens (r : BitVec 64) : Nat := bits r.toNat 55 40
def recCount (r : BitVec 64) : Nat := bits r.toNat 23 0

/-- The field checks of R210, row 5, for each record type. -/
def choiceOk (r : BitVec 64) : Bool := recType r == 0 && bits r.toNat 63 59 == 0 && recRank r ≤ 7
def openOk (r : BitVec 64) : Bool :=
  recType r == 1 && bits r.toNat 23 21 == 0 && bits r.toNat 63 58 == 0 && 1 ≤ recTokens r && recTokens r ≤ 16384
def closeOk (r : BitVec 64) : Bool := recType r == 2 && bits r.toNat 55 24 == 0 && bits r.toNat 63 58 == 0

/-! ### Words of a packet (R205, R206) -/

/-- A word as the read side delivers it: its tag and its eight 64-bit lanes. -/
structure InletWord where
  tag : Nat
  lanes : List (BitVec 64)

/-- The header word of a packet (R205). -/
def Packet.header (p : Packet) : InletWord :=
  let lane1 := p.step % 2 ^ 40 + p.epoch % 2 ^ 16 * 2 ^ 40 + p.lcid % 64 * 2 ^ 56
  let lane2 := p.records.length % 2 ^ 24 + b2n p.closed * 2 ^ 24 + b2n p.dropped * 2 ^ 25 + p.slot.val * 2 ^ 26
  { tag := 0x80 + 64, lanes := [p.openRec, BitVec.ofNat 64 lane1, BitVec.ofNat 64 lane2, 0, 0, 0, 0, 0] }

/-- What fills an unused lane of a partial record word (R206). -/
def padLane : BitVec 64 := 0x0300000000000000

/-- The record words of a packet, eight records to a word in the order written (R206); `n` bounds their number. -/
def recordWords : Nat → List (BitVec 64) → List InletWord
  | 0, _ => []
  | _, [] => []
  | n + 1, rs =>
    let here := rs.take 8
    { tag := 8 * here.length, lanes := here ++ List.replicate (8 - here.length) padLane } :: recordWords n (rs.drop 8)

/-- The words of a packet in the order of the read side, header first (R206). -/
def Packet.readWords (p : Packet) : List InletWord := p.header :: recordWords p.records.length p.records

/-- The records a reader finds in a word: of a record word as many lanes as its tag says (R206). -/
def InletWord.records (w : InletWord) : List (BitVec 64) := if w.tag ≥ 0x80 then [] else w.lanes.take (w.tag / 8)

/-! ### Occupancy (R208, R309) -/

/-- Words a packet holds. -/
def Packet.words (p : Packet) : Nat := if p.dropped then 0 else 1 + ceilDiv p.records.length 8

/-- Words of a started job its engine has not read yet, one word an ac (R215). -/
def Job.unread (j : Job) (ac : Nat) : Nat :=
  if j.published then 0 else if j.started then j.words - (ac - j.startAc) else (j.packets.map (·.words)).sum

/-- Inlet words a context holds. -/
def State.inletHeld (s : State) (k : Fin 16) : Nat :=
  ((s.packets.filter fun p => p.slot == k).map (·.words)).sum + ((s.ctx k).jobs.map (·.unread s.time.ac)).sum

/-- Inlet words held on the die. -/
def State.inletWords (s : State) : Nat := (allSlots.map s.inletHeld).sum

/-- The BE inlet pool (R309). -/
def State.beInletPool (s : State) : Nat :=
  7167 - ((s.catches.toList.filter fun c => c.valid && !c.be).map (·.inletQuota)).sum

/-- Whether a writing VXE of a BE context waits while another BE context holds part of the inlet pool (R317). -/
def State.inletDelayed (s : State) (k : Fin 16) : Bool :=
  (s.ctx k).be && (s.cores.toList.any fun c => !c.inletWait.isEmpty && (match c.serving with | some e => e.task.slot == k | none => false))
    && allSlots.any fun j => j != k && (s.ctx j).be && decide (s.inletHeld j > 0)

/-- The inlet's weirs as its occupancy now stands (R208, R309). -/
def State.inletWeirs (s : State) : State :=
  let total := s.inletWords
  let pool := s.beInletPool
  let be := ((allSlots.filter fun k => (s.ctx k).be).map s.inletHeld).sum
  let quota := allSlots.foldl (fun (m : BitVec 16) k =>
    let q := (s.catch_ (s.ctx k).catchment).inletQuota
    let c := s.ctx k
    if c.phase = .empty ∨ c.be then m &&& ~~~ (1#16 <<< k.val)
    else if weir q (3 * q / 4) (s.inletHeld k) (s.inletQuotaStalled.getLsbD k.val) then m ||| (1#16 <<< k.val)
    else m &&& ~~~ (1#16 <<< k.val)) s.inletQuotaStalled
  let beNow := weir pool (3 * pool / 4) be s.beInletStalled && be != 0
  let die := weir 7168 5120 total s.inletStalled
  let s := if die && !s.inletStalled then s.raise 0x20 1 else s
  State.peak { s with
    inletStalled := die
    inletQuotaStalled := quota
    beInletStalled := beNow
    beInletDelay := if beNow then allSlots.foldl (fun (m : BitVec 16) k => if s.inletDelayed k then m ||| (1#16 <<< k.val) else m) s.beInletDelay
      else s.beInletDelay } { inlet := total }

/-- Whether a context's VXEs are stalled at the inlet. -/
def State.inletBlocked (s : State) (k : Fin 16) : Bool :=
  s.inletStalled || (if (s.ctx k).be then s.beInletStalled else s.inletQuotaStalled.getLsbD k.val)

/-! ### Writing records -/

/-- A routing-record fault of the task in service on a core (R210). -/
def State.recordFault (s : State) (t : Task) (lcid row : Nat) (r : BitVec 64) : State :=
  s.fault t.slot { code := 0x11, detail1 := row, detail2 := r.toNat, core := lcid, task := t.name (s.ctx t.slot).cxid, ids := (t.layer, t.operatorId) }

/-- The open packet of a core. -/
def State.openPacket (s : State) (lcid : Nat) : Option Packet := s.packets.find? fun p => p.lcid == lcid && !p.closed

/-- Replaces the open packet of a core. -/
def State.setOpen (s : State) (lcid : Nat) (f : Packet → Option Packet) : State :=
  { s with packets := s.packets.filterMap fun p => if p.lcid == lcid && !p.closed then f p else some p }

/-- Whether a step in flight has been cancelled. -/
def Ctx.stepCancelled (c : Ctx) (step : Nat) : Bool := c.steps.any fun r => r.cancelled && r.step == step

/-- An open record accepted by the inlet (R203, R210). A packet of a cancelled step is dropped from the start (R238). -/
def State.writeOpen (s : State) (lcid : Nat) (t : Task) (r : BitVec 64) : State :=
  if !openOk r then s.recordFault t lcid 5 r
  else if (s.openPacket lcid).isSome then s.recordFault t lcid 2 r
  else { s with packets := s.packets ++ [
      { slot := t.slot, step := t.step, epoch := t.epoch, lcid := lcid, openRec := r, dropped := (s.ctx t.slot).stepCancelled t.step }] }

/-- A choice record accepted by the inlet (R203, R210). -/
def State.writeChoice (s : State) (lcid : Nat) (t : Task) (r : BitVec 64) : State :=
  if !choiceOk r then s.recordFault t lcid 5 r
  else match s.openPacket lcid with
    | none => s.recordFault t lcid 1 r
    | some p =>
      if recToken r < recToken p.openRec ∨ recToken p.openRec + recTokens p.openRec ≤ recToken r then s.recordFault t lcid 6 r
      else s.setOpen lcid fun p => some { p with records := p.records ++ [r] }

/-- A close record accepted by the inlet (R203, R204, R210). -/
def State.writeClose (s : State) (lcid : Nat) (t : Task) (r : BitVec 64) : State :=
  if !closeOk r then s.recordFault t lcid 5 r
  else match s.openPacket lcid with
    | none => s.recordFault t lcid 1 r
    | some p =>
      if recCount r ≠ p.records.length then s.recordFault t lcid 3 r
      else s.setOpen lcid fun p => some { p with closed := true }

/-- Whether a core's open packet has been dropped. -/
def State.dropsRecords (s : State) (lcid : Nat) : Bool := (s.openPacket lcid).any (·.dropped)

/-- Any record accepted by the inlet; type 0b11 is a misuse (R210). Every record but an open one for a packet that has been dropped is
discarded, and the close record ends the packet (R209). -/
def State.writeRecord (s : State) (lcid : Nat) (t : Task) (r : BitVec 64) : State :=
  let s := s.modCore (lcidOf lcid) fun c => { c with inletCount := c.inletCount + 1 }
  let s :=
    if s.dropsRecords lcid && recType r != 1 then (if recType r == 2 then s.setOpen lcid fun _ => none else s)
    else match recType r with
      | 0 => s.writeChoice lcid t r
      | 1 => s.writeOpen lcid t r
      | 2 => s.writeClose lcid t r
      | _ => s.recordFault t lcid 5 r
  s.inletWeirs

/-- A record offered on INLET_WR: accepted, or it waits while a weir stalls the core's VXE (R208, R309). -/
def State.offerRecord (s : State) (l : Fin 64) (r : BitVec 64) : State :=
  match s.issues l with
  | none => s
  | some t =>
    let s := s.inletWeirs
    if s.inletBlocked t.slot || !(s.core l).inletWait.isEmpty then s.modCore l fun c => { c with inletWait := c.inletWait ++ [r] }
    else s.writeRecord l.val t r

/-- One ac of the inlet: the weirs are taken anew and each stalled core that may go on writes one record (R208). -/
def State.inletAc (s : State) : State :=
  if s.cores.toList.all (·.inletWait.isEmpty) && !s.inletStalled && s.inletQuotaStalled == 0 && !s.beInletStalled then s
  else
    allCores.foldl (fun s l =>
      match (s.core l).inletWait, (s.core l).serving with
      | r :: rs, some e =>
        if s.inletBlocked e.task.slot then s
        else (s.modCore l fun c => { c with inletWait := rs }).writeRecord l.val e.task r
      | _, _ => s) s.inletWeirs

/-- OPEN_RECORD (R203). -/
def execOpenRecord (lcid : Fin 64) (record : BitVec 64) (s : State) : Host.Outcome State Fault Refusal :=
  .next (s.offerRecord lcid record)

/-- CHOICE_RECORD (R203). -/
def execChoiceRecord (lcid : Fin 64) (record : BitVec 64) (s : State) : Host.Outcome State Fault Refusal :=
  .next (s.offerRecord lcid record)

/-- CLOSE_RECORD (R203, R204). -/
def execCloseRecord (lcid : Fin 64) (record : BitVec 64) (s : State) : Host.Outcome State Fault Refusal :=
  .next (s.offerRecord lcid record)

/-! ### The directory -/

def Ctx.expert? (c : Ctx) (layer e : Nat) : Option Expert := c.image.experts.find? fun x => x.layer == layer && x.expertId == e

/-- Experts of a layer in ascending id. -/
def Ctx.layerExperts (c : Ctx) (layer : Nat) : List Expert :=
  (c.image.experts.filter fun x => x.layer == layer).mergeSort fun a b => a.expertId ≤ b.expertId

def sameGroup (x y : Expert) : Bool := x.base == y.base && x.groupLcid == y.groupLcid

/-! ### The pass (R217–R221) -/

/-- An assignment of the pass: token, expert, and the record that made it. -/
structure Assigned where
  token : Nat
  expert : Nat
  rec_ : BitVec 64

/-- The pass in progress: assignments newest first, spill candidates used as (token, rank), and its counts. -/
structure Pass where
  done : List Assigned := []
  used : List (Nat × Nat) := []
  dropped : Nat := 0
  spills : Nat := 0

def Pass.count (p : Pass) (e : Nat) : Nat := (p.done.filter fun a => a.expert == e).length

def Pass.chosen (p : Pass) (t e : Nat) : Bool := p.done.any fun a => a.token == t && a.expert == e

/-- Slots of a group claimed so far: the protected experts of the group, and each other one that holds a token. -/
def Pass.claimed (p : Pass) (xs : List Expert) (prot : List Nat) (x : Expert) : Nat :=
  (xs.filter fun y => y.exec == 0 && sameGroup x y && (prot.contains y.expertId || p.count y.expertId != 0)).length

/-- admits (R217). -/
def Pass.admits (p : Pass) (xs : List Expert) (prot : List Nat) (e : Nat) : Bool :=
  match xs.find? fun x => x.expertId == e with
  | none => false
  | some x =>
    if x.exec = 2 ∨ p.count e ≥ x.capacity then false
    else if x.exec = 0 ∧ p.count e = 0 ∧ prot.contains e = false then decide (p.claimed xs prot x < x.slotCount)
    else true

def Pass.assign (p : Pass) (t : Nat) (r : BitVec 64) : Pass := { p with done := ⟨t, recExpert r, r⟩ :: p.done }

/-- The spill candidates of a token, by rank (R217). -/
def spillsOf (recs : List (BitVec 64)) (t : Nat) : List (BitVec 64) :=
  (recs.filter fun r => recSpill r && recToken r == t).mergeSort fun a b => recRank a ≤ recRank b

/-- Tries the spill candidates of a token in order (R217, R218). -/
def Pass.spill (p : Pass) (xs : List Expert) (prot : List Nat) (recs : List (BitVec 64)) (t : Nat) : List (BitVec 64) → Option Pass
  | [] => none
  | r :: rs =>
    if p.used.contains (t, recRank r) || p.chosen t (recExpert r)
        || recs.any (fun q => !recSpill q && recToken q == t && recExpert q == recExpert r) then Pass.spill p xs prot recs t rs
    else if p.admits xs prot (recExpert r) then
      some { p.assign t r with used := (t, recRank r) :: p.used, spills := p.spills + 1 }
    else Pass.spill p xs prot recs t rs

/-- Visits one primary choice. -/
def Pass.visit (xs : List Expert) (prot : List Nat) (spillEnable : Bool) (recs : List (BitVec 64)) (p : Pass) (r : BitVec 64) : Pass :=
  let t := recToken r
  if p.chosen t (recExpert r) then { p with dropped := p.dropped + 1 }
  else if p.admits xs prot (recExpert r) then p.assign t r
  else if spillEnable then
    match p.spill xs prot recs t (spillsOf recs t) with
    | some q => q
    | none => { p with dropped := p.dropped + 1 }
  else { p with dropped := p.dropped + 1 }

/-- The visiting order: rank by rank, then token by token (R217). -/
def visitOrder (recs : List (BitVec 64)) : List (BitVec 64) :=
  (recs.filter fun r => !recSpill r).mergeSort fun a b =>
    recRank a < recRank b || (recRank a == recRank b && recToken a ≤ recToken b)

def route (xs : List Expert) (prot : List Nat) (recs : List (BitVec 64)) : Pass :=
  (visitOrder recs).foldl (Pass.visit xs prot (xs.any (·.spillEnable)) recs) {}

/-- Whether an FP32 encoding is a positive finite number. -/
def posFinite (x : Nat) : Bool := match fp32.decode x with | .num neg m _ => !neg && m != 0 | _ => false

/-- The BF16 quotient of a gate value and a sum (R221). -/
def renorm (gate sum : Nat) : Nat :=
  match fp32.decode (fp32Div (gate * 2 ^ 16) sum) with
  | .num neg m e => bf16.round neg m e
  | .inf neg => (if neg then 0x8000 else 0) + 0x7F80
  | .nan => 0x7FC0

/-- FP32 sum of a token's gate values, in the order the pass made the assignments (R221). -/
def tokenSum (as : List Assigned) : Nat :=
  match as with
  | [] => 0
  | a :: rest => rest.foldl (fun x b => fastAdd x (recGate b.rec_ * 2 ^ 16)) (recGate a.rec_ * 2 ^ 16)

/-- The weight of an assignment (R221). -/
def weightOf (renormalise : Bool) (ordered : List Assigned) (a : Assigned) : Nat :=
  if renormalise then
    let sum := tokenSum (ordered.filter fun b => b.token == a.token)
    if posFinite sum then renorm (recGate a.rec_) sum else recGate a.rec_
  else recGate a.rec_

/-- The protected set of a job (R219); a cancelled job is never its source (R238). -/
def Ctx.protectedSet (c : Ctx) (layer step : Nat) : List Nat :=
  if c.image.stepsInFlight = 2 then
    match c.jobs.find? fun j => j.layer == layer && j.step + 1 == step && j.published && !c.cancelled.contains j.step with
    | some j => (j.lists.filter fun l => !l.entries.isEmpty).map (·.expertId)
    | none => []
  else []

/-- The first record the pass refuses: a repeated token, spill bit and rank, or an expert without an entry (R210). -/
def badRecord (xs : List Expert) : List (BitVec 64) → List (BitVec 64) → Option (Nat × BitVec 64)
  | _, [] => none
  | seen, r :: rs =>
    if seen.any fun q => recToken q == recToken r && recSpill q == recSpill r && recRank q == recRank r then some (7, r)
    else if xs.all fun x => x.expertId != recExpert r then some (8, r)
    else badRecord xs (r :: seen) rs

/-- The choice records of a job in the order the unit reads them (R206). -/
def Job.records (j : Job) : List (BitVec 64) := j.packets.flatMap fun p => p.readWords.flatMap (·.records)

/-- Runs the pass of a job that starts now (R215, R217–R221). -/
def Ctx.startJob (c : Ctx) (ac : Nat) (j : Job) : Job :=
  let xs := c.layerExperts j.layer
  let recs := j.records
  let p := route xs (c.protectedSet j.layer j.step) recs
  let ordered := p.done.reverse
  let renormalise := xs.any (·.renormalise)
  let lists := (xs.filter fun x => x.capacity != 0).map fun x =>
    let mine := (ordered.filter fun a => a.expert == x.expertId).mergeSort fun a b => a.token ≤ b.token
    ({ expertId := x.expertId
       entries := mine.map fun a => ⟨a.token, recRank a.rec_, recSpill a.rec_, BitVec.ofNat 16 (weightOf renormalise ordered a)⟩ } : PubList)
  let tokens := (List.range j.tokens).filter fun t => ordered.any fun a => a.token == t
  let w := (j.packets.map (·.words)).sum
  let x := ((lists.filter fun l => !l.entries.isEmpty).map fun l => 1 + ceilDiv l.entries.length 8).sum
  let t := w + ceilDiv recs.length 8 + x + 64
  { j with
    started := true, startAc := ac, words := w, slotsLeft := max 1 (ceilDiv t 256), lists := lists
    spills := p.spills, dropped := p.dropped, unassigned := j.tokens - tokens.length
    renormSkipped := if renormalise
      then (tokens.filter fun t => !posFinite (tokenSum (ordered.filter fun a => a.token == t))).length else 0 }

/-! ### Collection and start (R214, R215) -/

/-- Whether packets, in ascending base, cover 0 to n − 1 without gap from a position on. -/
def covers (n : Nat) : Nat → List Packet → Bool
  | at_, [] => decide (n ≤ at_)
  | at_, p :: ps => decide (recToken p.openRec ≤ at_) && covers n (max at_ (recToken p.openRec + recTokens p.openRec)) ps

/-- A block that overlaps the one before it, or a second last block (R210, row 9). -/
def badBlock : Nat → Bool → List Packet → Option Packet
  | _, _, [] => none
  | at_, last, p :: ps =>
    if recToken p.openRec < at_ || (last && recLast p.openRec) then some p
    else badBlock (recToken p.openRec + recTokens p.openRec) (last || recLast p.openRec) ps

/-- The fault of a job's packets found at collection. -/
def State.packetFault (s : State) (p : Packet) : State :=
  s.fault p.slot { code := 0x11, detail1 := 9, detail2 := p.openRec.toNat, core := p.lcid }

/-- Tries to collect the job of a step and layer (R214). Misuse of its blocks is found when it is collected, a packet too many once the job
is published (R210 row 9). A job of more than 16,384 tokens, for which the spec gives no outcome, is that fault too (DESIGN CHOICE, log
entry 135). -/
def State.collectJob (s : State) (k : Fin 16) (step layer : Nat) : State :=
  let mine (p : Packet) : Bool := p.slot == k && p.step == step && recLayer p.openRec == layer && p.closed && !p.dropped
  let ps := (s.packets.filter mine).mergeSort fun a b => recToken a.openRec ≤ recToken b.openRec
  match ps, (s.ctx k).jobs.find? fun j => j.step == step && j.layer == layer with
  | [], _ => s
  | q :: _, some j => if j.published then s.packetFault q else s
  | _, none =>
    match ps.find? fun p => recLast p.openRec with
    | none => s
    | some l =>
      let n := recToken l.openRec + recTokens l.openRec
      let used := ps.filter fun p => recToken p.openRec < n
      if !covers n 0 used then s
      else match badBlock 0 false ps with
        | some p => s.packetFault p
        | none =>
          if n > 16384 then s.packetFault l
          else
            let j : Job := { layer := layer, step := step, tokens := n, collected := s.time.slotCount, packets := used }
            ({ s with packets := s.packets.filter fun p => !used.contains p }).modCtx k fun c => { c with jobs := c.jobs ++ [j] }

/-- Step and layer pairs that have a closed packet in a context. -/
def State.packetKeys (s : State) (k : Fin 16) : List (Nat × Nat) :=
  ((s.packets.filter fun p => p.slot == k && p.closed && !p.dropped).map fun p => (p.step, recLayer p.openRec)).eraseDups

/-- Whether a step routes a layer: a node of it expands from the layer's lists (R226). -/
def Ctx.routes (c : Ctx) (r : StepRun) (layer : Nat) : Bool :=
  (c.template r.template).nodes.any fun d =>
    (d.fanoutSource == 3 || d.fanoutSource == 4 || d.fanoutSource == 5) && d.routeLayer == layer

/-- Whether the job of an earlier step for the same layer is still to be published, collected or not (R215). -/
def Ctx.behindJob (c : Ctx) (j : Job) : Bool :=
  (c.jobs.any fun q => q.layer == j.layer && decide (q.step < j.step) && !q.published) ||
    c.steps.any fun r => !r.cancelled && decide (r.step < j.step) && c.routes r j.layer
      && !(c.jobs.any fun q => q.layer == j.layer && q.step == r.step && q.published)

/-- The same with the packets of earlier steps that are still in the inlet (R215). -/
def State.behindJob (s : State) (k : Fin 16) (j : Job) : Bool :=
  (s.ctx k).behindJob j ||
    s.packets.any fun p => p.slot == k && recLayer p.openRec == j.layer && decide (p.step < j.step) && !p.dropped

/-- The job an idle engine takes next (R215). -/
def State.nextJob (s : State) (k : Fin 16) : Option Job :=
  (((s.ctx k).jobs.filter fun j => !j.started && !s.behindJob k j).mergeSort fun a b =>
    a.collected < b.collected || (a.collected == b.collected && (a.step < b.step || (a.step == b.step && a.layer ≤ b.layer)))).head?

def Ctx.modJob (c : Ctx) (step layer : Nat) (f : Job → Job) : Ctx :=
  { c with jobs := c.jobs.map fun j => if j.step == step && j.layer == layer then f j else j }

/-- The engine of a context starts its next job if it is idle (R215). -/
def State.startNextJob (s : State) (k : Fin 16) : State :=
  let c := s.ctx k
  if c.jobs.any fun j => j.started && !j.published then s
  else match s.nextJob k with
    | none => s
    | some j =>
      match badRecord (c.layerExperts j.layer) [] j.records with
      | some (row, r) =>
        let lcid := ((j.packets.find? fun p => p.records.contains r).map (·.lcid)).getD 0xFF
        (s.modCtx k fun c => { c with jobs := c.jobs.filter fun q => !(q.step == j.step && q.layer == j.layer) }).fault k
          { code := 0x11, detail1 := row, detail2 := r.toNat, core := lcid }
      | none => s.setCtx k (c.modJob j.step j.layer (c.startJob s.time.ac))

/-! ### List areas (R223–R225) -/

/-- Address of an expert's list header for a step (R223). -/
def Ctx.listAddress (c : Ctx) (layer step e : Nat) : Nat :=
  let base := ((c.symbol? layer 0xFFFF).map fun x => x.address + step % max x.stepRing 1 * x.stepStride * 64).getD 0
  let before := (c.layerExperts layer).filter fun x => x.capacity != 0 && decide (x.expertId < e)
  base + (before.map fun x => 64 + ceilDiv x.capacity 8 * 64).sum

/-- A list header (R224). -/
def listHeader (layer step : Nat) (l : PubList) : Bytes :=
  leBytes 2 l.expertId ++ leBytes 2 layer ++ leBytes 2 l.entries.length ++ leBytes 2 (ceilDiv l.entries.length 64)
    ++ leBytes 5 step ++ zeros 3 ++ leBytes 2 (step % 2 ^ 16) ++ zeros 46

/-- A list entry (R225). -/
def ListEntry.bytes (e : ListEntry) : Bytes :=
  leBytes 8 (e.token % 2 ^ 20 + e.rank % 16 * 2 ^ 20 + b2n e.spill * 2 ^ 24 + e.weight.toNat * 2 ^ 32)

/-- Writes a job's lists into its area (R223). -/
def Ctx.writeLists (c : Ctx) (j : Job) (m : Memory) : Memory :=
  j.lists.foldl (fun m l =>
    m.writeBytes (c.listAddress j.layer j.step l.expertId) (listHeader j.layer j.step l ++ l.entries.flatMap (·.bytes))) m

/-! ### Residency (R229, R230) -/

def ResEntry.inGroup (r : ResEntry) (x : Expert) : Bool := r.lcid == x.groupLcid && r.base == x.base

/-- The victim slot of a group (R229). -/
def victim (res : List ResEntry) (x : Expert) (busy : List Nat) : Option ResEntry :=
  let mine := res.filter (·.inGroup x)
  match (mine.filter fun r => r.state == .empty).mergeSort (fun a b => a.index ≤ b.index) with
  | r :: _ => some r
  | [] =>
    ((mine.filter fun r => !busy.contains r.expertId).mergeSort fun a b =>
      a.lastUse < b.lastUse || (a.lastUse == b.lastUse && a.expertId ≤ b.expertId)).head?

def setRes (res : List ResEntry) (r : ResEntry) : List ResEntry :=
  res.map fun q => if q.lcid == r.lcid && q.base == r.base && q.index == r.index then r else q

/-- The residency step of one active expert: its list annotated, and the table (R229, R230). -/
def placeExpert (step layer : Nat) (x : Expert) (busy : List Nat) (res : List ResEntry) (l : PubList) : List ResEntry × PubList :=
  match res.find? fun r => r.inGroup x && r.state != .empty && r.expertId == x.expertId with
  | some r => (setRes res { r with lastUse := step }, { l with resident := r.state == .resident, slot := r.index })
  | none =>
    match victim res x busy with
    | some r =>
      (setRes res { r with state := .arriving, expertId := x.expertId, lastUse := step, job := some (step, layer) },
        { l with victim := true, slot := r.index })
    | none => (res, l)

/-- The residency update of a publication: lists annotated, table, experts that took a victim (R229). -/
def Ctx.updateResidency (c : Ctx) (j : Job) : List ResEntry × List PubList :=
  let active := (j.lists.filter fun l => !l.entries.isEmpty).map (·.expertId)
  let busy := active ++ c.protectedSet j.layer j.step
  j.lists.foldl (fun (acc : List ResEntry × List PubList) l =>
    match c.expert? j.layer l.expertId with
    | some x =>
      if x.exec = 0 ∧ l.entries ≠ [] then
        let (res, l') := placeExpert j.step j.layer x busy acc.1 l
        (res, acc.2 ++ [l'])
      else (acc.1, acc.2 ++ [l])
    | none => (acc.1, acc.2 ++ [l])) (c.residency, [])

/-- Whether every slot a published job named is resident (R230). -/
def Ctx.weightsHere (c : Ctx) (j : Job) : Bool :=
  j.lists.all fun l =>
    match c.expert? j.layer l.expertId with
    | some x => x.exec != 0 || l.entries.isEmpty || l.resident ||
        c.residency.any fun r => r.inGroup x && r.index == l.slot && r.state == .resident && r.expertId == l.expertId
    | none => true

/-- Sets flag 26 for a published job whose weights are resident (R230). -/
def Ctx.giveFlag26 (c : Ctx) (j : Job) : Ctx :=
  if !j.published || c.flag26.contains (j.step, j.layer) || c.cancelled.contains j.step || !c.weightsHere j then c
  else
    let c := { c with flag26 := (j.step, j.layer) :: c.flag26 }
    c.flagNodes j.step (fun d => (d.fanoutSource == 3 || d.fanoutSource == 4) && d.routeLayer == j.layer && d.routeSubset != 1) (1#32 <<< 26)

/-- Sets flag 26 wherever it has fallen due (R230). -/
def Ctx.giveFlags26 (c : Ctx) : Ctx := c.jobs.foldl (·.giveFlag26 ·) c

/-- Publication of a job (R216, R220, R223, R229–R231). -/
def State.publishJob (s : State) (k : Fin 16) (j : Job) : State :=
  let c := s.ctx k
  let (res, lists) := c.updateResidency j
  let local_ := (lists.filter (·.victim)).map (·.expertId)
  let borrowed := (lists.filter fun l =>
    !l.entries.isEmpty && (match c.expert? j.layer l.expertId with | some x => x.exec == 1 | none => false)).map (·.expertId)
  let j' := { j with published := true, packets := [], lists := lists, fetch := local_ ++ borrowed }
  let mem := c.writeLists j' s.mem
  let c := { c with residency := res }
  let c := (c.modJob j.step j.layer fun _ => j').modStats fun t =>
    { t with
      spills := t.spills + j.spills, dropped := t.dropped + j.dropped, unassigned := t.unassigned + j.unassigned
      renormSkipped := t.renormSkipped + j.renormSkipped }
  let c := c.flagNodes j.step
    (fun d => (d.fanoutSource == 3 || d.fanoutSource == 4 || d.fanoutSource == 5) && d.routeLayer == j.layer) (1#32 <<< 25)
  { s.setCtx k (c.giveFlag26 j') with mem := mem, jobsPublished := s.jobsPublished + 1 }

/-- One slot of a context's engine has passed (R215). -/
def Ctx.jobSlot (c : Ctx) : Ctx :=
  { c with jobs := c.jobs.map fun j => if j.started && !j.published then { j with slotsLeft := j.slotsLeft - 1 } else j }

/-- Publishes the job whose boundary has come, if any. -/
def State.publishDue (s : State) (k : Fin 16) : State :=
  match (s.ctx k).jobs.find? fun j => j.started && !j.published && j.slotsLeft == 0 with
  | some j => s.publishJob k j
  | none => s

/-- The routing unit's part of a slot boundary for a context (R214–R216, R230). -/
def State.routingBoundary (s : State) (k : Fin 16) : State :=
  let s := s.publishDue k
  let s := (s.packetKeys k).foldl (fun s p => s.collectJob k p.1 p.2) s
  let s := s.startNextJob k
  s.modCtx k (·.giveFlags26)

/-- Jobs no later decision reads: those of completed steps but the last published of each layer. -/
def Ctx.pruneJobs (c : Ctx) : Ctx :=
  { c with jobs := c.jobs.filter fun j =>
      c.steps.any (fun r => r.step == j.step) || !(c.jobs.any fun q => q.layer == j.layer && decide (j.step < q.step) && q.published) }

/-- JOB_PUBLISH: in the last ac before the publication boundary the engine has written the job's lists; the boundary publishes it, after the
task ends (R215, R216; log entry 8). -/
def State.jobPublish (s : State) (k : Fin 16) : State :=
  let c := s.ctx k
  match c.jobs.find? fun j => j.started && !j.published && decide (j.slotsLeft ≤ if s.time.inMargin then 0 else 1) with
  | some j =>
    if c.runs && (s.time.inMargin || s.time.offset == 255) then
      { s.setCtx k (c.modJob j.step j.layer fun j => { j with written := true }) with mem := c.writeLists j s.mem }
    else s
  | none => s

def execJobPublish (slot : Fin 16) (s : State) : Host.Outcome State Fault Refusal := .next (s.jobPublish slot)

/-! ### Fan-out of sources 3 to 5 (R117, R226, R227) -/

def Ctx.published? (c : Ctx) (layer step : Nat) : Option Job :=
  c.jobs.find? fun j => j.layer == layer && j.step == step && j.published

/-- The lists a node of source 3 or 4 selects: local experts with tokens, by subset (R226, R227). -/
def Ctx.selected (c : Ctx) (d : NodeDesc) (step : Nat) : List PubList :=
  let layer := d.routeLayer
  match c.published? layer step with
  | none => []
  | some j =>
    j.lists.filter fun l =>
      !l.entries.isEmpty && (match c.expert? layer l.expertId with | some x => x.exec == 0 | none => false)
        && (match d.routeSubset with | 0 => true | 1 => l.resident | _ => !l.resident)

/-- The (list, block) pairs of a source-3 node in fan-out order, or (list, 0) of a source-4 node (R227). -/
def Ctx.blocks (c : Ctx) (d : NodeDesc) (step : Nat) : List (PubList × Nat) :=
  (c.selected d step).flatMap fun l =>
    if d.fanoutSource = 3 then (List.range (ceilDiv l.entries.length (2 ^ d.fanoutShift))).map fun b => (l, b) else [(l, 0)]

/-- The fetch list a source-5 node expands into (R231). -/
def Ctx.fetchList (c : Ctx) (d : NodeDesc) (step : Nat) : List Nat :=
  ((c.published? (d.routeLayer) step).map (·.fetch)).getD []

/-- A routing block descriptor (R228). expert_blocks of source 4 is 1 (DESIGN CHOICE, log entry 148). -/
def Ctx.blockDescriptor (c : Ctx) (d : NodeDesc) (step fanout : Nat) : Bytes :=
  match (c.blocks d step)[fanout]? with
  | none => zeros 64
  | some (l, b) =>
    let layer := d.routeLayer
    let n := l.entries.length
    let unit := 2 ^ d.fanoutShift
    let here := if d.fanoutSource = 3 then min unit (n - b * unit) else n
    let off := ((c.expert? layer l.expertId).map fun x => x.base + l.slot * x.slotBytes).getD 0
    let lcid := ((c.expert? layer l.expertId).map (·.groupLcid)).getD 0
    leBytes 2 l.expertId ++ leBytes 2 layer ++ leBytes 2 b ++ leBytes 2 here ++ leBytes 2 n
      ++ leBytes 2 (if d.fanoutSource = 3 then ceilDiv n unit else 1) ++ leBytes 2 (b * unit) ++ zeros 2
      ++ leBytes 8 (c.listAddress layer step l.expertId) ++ leBytes 4 off ++ leBytes 1 lcid ++ zeros 1
      ++ leBytes 2 l.slot ++ leBytes 2 (step % 2 ^ 16) ++ zeros 30

/-! ### Fetching (R231–R237) -/

/-- Whether an instance lies on this die's tray (R232, R460). -/
def State.onTray (s : State) (instanceAddr : Nat) : Bool := s.cfg.tray.any fun p => p.package == instanceAddr / 8

/-- The op of a fetch entry (R232): 0 pull, 1 request, 2 list send. -/
def State.fetchOp (s : State) (x : Expert) : Nat := if x.exec = 1 then 2 else if s.onTray x.peer then 0 else 1

/-- The offset of a scratchpad byte from the lower bound of a landing window (R27, R231). -/
def State.windowOffset (s : State) (lcid id offset : Nat) : Nat :=
  match s.windows.find? fun w => w.lcid == lcid && w.id == id with
  | some w => offset - w.lo
  | none => offset

/-- The fetch entry a fetch instance handles: expert, list. -/
def Ctx.fetchEntry (c : Ctx) (d : NodeDesc) (step fanout : Nat) : Option (Expert × PubList) :=
  let layer := d.routeLayer
  match (c.fetchList d step)[fanout]? with
  | none => none
  | some e =>
    match c.expert? layer e, (c.published? layer step).bind fun j => j.lists.find? fun l => l.expertId == e with
    | some x, some l => some (x, l)
    | _, _ => none

/-- The argument block of a fetch instance (R231). -/
def State.fetchBlock (s : State) (k : Fin 16) (d : NodeDesc) (step fanout : Nat) : Bytes :=
  let c := s.ctx k
  match c.fetchEntry d step fanout with
  | none => zeros 64
  | some (x, l) =>
    let op := s.fetchOp x
    let off := x.slotOffset l.slot
    let source := if op = 0 then x.location else if op = 2 then c.listAddress x.layer step x.expertId else 0
    let dest := if op = 0 then ((Config.spadBase x.groupLcid).toNat + off) % 2 ^ 64
      else if op = 1 then s.windowOffset x.groupLcid x.windowId off % 2 ^ 32 + x.groupLcid % 64 * 2 ^ 32 + x.windowId % 16 * 2 ^ 38
      else bits x.location 41 0
    let len := if op = 2 then 64 + ceilDiv l.entries.length 8 * 64 else x.size * 64
    leBytes 2 x.expertId ++ leBytes 2 x.layer ++ leBytes 1 op ++ leBytes 1 (fanout % 2) ++ leBytes 2 (step % 2 ^ 16)
      ++ leBytes 8 source ++ leBytes 8 dest ++ leBytes 4 len ++ leBytes 4 x.peer
      ++ leBytes 4 (if op = 2 then bits x.size 19 0 else 0) ++ leBytes 2 (if op = 2 then 0 else l.slot) ++ zeros 26

/-- A fetch routine hands its request to Puska (R189, R232). -/
def State.fetchHandoff (s : State) (l : Fin 64) : State :=
  match s.issues l with
  | none => s
  | some t =>
    let c := s.ctx t.slot
    if t.kind ≠ .fetch then s.engineFault l 0xE 0
    else
      let d := c.node t.template t.node
      match c.fetchEntry d t.step t.fanout with
      | none => s
      | some (x, q) =>
        if s.fetchOp x ≠ 1 then s
        else
          let f : FetchReq :=
            { expertId := x.expertId, home := x.location, length := x.size * 64
              destOffset := s.windowOffset x.groupLcid x.windowId (x.slotOffset q.slot), destLcid := x.groupLcid
              destWindow := x.windowId, step := t.step, template := t.template, node := t.node }
          if x.peer = s.cfg.instanceAddr then s.sendNotice t.slot x.peer 2 t.epoch (.fetch f)
          else s.sendMsg x.peer (s.hdrOf t.slot 2 t.epoch) (.fetch f)

def execFetchHandoff (lcid : Fin 64) (s : State) : Host.Outcome State Fault Refusal := .next (s.fetchHandoff lcid)

/-- The outbound link share b in bytes per slot (R235). -/
def State.linkShare (s : State) (k : Fin 16) : Nat := (s.ctx k).outSlots * s.time.lanes.sum * 8192000 / (64 * 850)

/-- A slot a fetch was to fill becomes resident (R232, R233). -/
def Ctx.arrive (c : Ctx) (p : ResEntry → Bool) : Ctx :=
  { c with residency := c.residency.map fun r => if r.state == .arriving && p r then { r with state := .resident, job := none } else r }

/-- What the normal end of a fetch instance does: a pull makes its slot resident, a list send notifies the lender (R232, R237). The notice
leaves at the end of the instance (DESIGN CHOICE, log entry 153). -/
def State.fetchEnd (s : State) (t : Task) : State :=
  let c := s.ctx t.slot
  match c.fetchEntry (c.node t.template t.node) t.step t.fanout with
  | none => s
  | some (x, l) =>
    match s.fetchOp x with
    | 0 => s.modCtx t.slot (·.arrive fun r => r.inGroup x && r.index == l.slot && r.expertId == x.expertId)
    | 1 => s
    | _ =>
      s.sendNotice t.slot x.peer (t.fanout % 2) t.epoch (.landing
        { lcid := bits x.location 37 32, window := bits x.location 41 38, offset := bits x.location 31 0
          length := 64 + ceilDiv l.entries.length 8 * 64, vid := bits x.size 19 0, increment := 1 })

/-- A landing applied at a requester makes resident the slot whose last byte it brings (R233). -/
def State.landingArrives (s : State) (k : Fin 16) (l : Landing) : State :=
  let c := s.ctx k
  let lo := ((s.windows.find? fun w => w.lcid == l.lcid && w.id == l.window).map (·.lo)).getD 0
  s.modCtx k (·.arrive fun r =>
    r.lcid == l.lcid && c.image.experts.any fun x =>
      x.exec == 0 && x.expertId == r.expertId && r.inGroup x && x.windowId == l.window && s.fetchOp x == 1
        && x.slotOffset r.index + x.size * 64 == lo + l.offset + l.length)

/-- Groups of at most 32, in order. -/
def chunks32 {α : Type} : Nat → List α → List (List α)
  | 0, _ => []
  | _, [] => []
  | n + 1, xs => xs.take 32 :: chunks32 n (xs.drop 32)

/-- Adds to the count of serve tasks created for a step, and what it was (R233). -/
def Ctx.nextServe (c : Ctx) (step : Nat) : Nat × Ctx :=
  let n := ((c.serveCount.find? fun p => p.1 == step).map (·.2)).getD 0
  (n, { c with serveCount := (step, n + 1) :: c.serveCount.filter fun p => p.1 != step })

/-- The serve task of one group of requests (R233, R234). -/
def State.serveTask (s : State) (k : Fin 16) (reqs : List (Nat × Nat × FetchReq)) : State :=
  match reqs with
  | [] => s
  | (_, epoch, f) :: _ =>
    let c := s.ctx k
    let (n, c) := c.nextServe f.step
    let b := s.linkShare k
    let lcid := c.cores.headD 0
    let members := reqs.map fun q => (q.1, q.2.2.destLcid, q.2.2.destWindow, q.2.2.destOffset)
    let t : Task :=
      { slot := k, step := f.step, template := f.template, node := 0xFFFF, fanout := n, kind := .mover
        span := ceilDiv f.length b + 2, energy := 4, mask := 1#64 <<< lcid, epoch := epoch
        service := .serve f.expertId f.home f.length members }
    { s.setCtx k { c with aux := c.aux ++ [{ task := t }] } with served := s.served + 1 }

/-- Creates the serve tasks of the fetch requests that take effect together: one for each 32 requesters of one step
and expert, each requester once, in ascending instance address (R233, R234). -/
def State.serveRequests (s : State) (k : Fin 16) (reqs : List (Nat × Nat × FetchReq)) : State :=
  let keys := (reqs.map fun q => (q.2.2.step, q.2.2.expertId)).eraseDups
  keys.foldl (fun s key =>
    let asked := reqs.filter fun q => q.2.2.step == key.1 && q.2.2.expertId == key.2
    let once := asked.foldl (fun qs q => if qs.any fun p => p.1 == q.1 then qs else qs ++ [q]) []
    let mine := once.mergeSort fun a b => a.1 ≤ b.1
    (chunks32 mine.length mine).foldl (·.serveTask k ·) s) s

/-- The landing notices a serve task's end sends: one to each member, with its window (R233). -/
def State.serveEnd (s : State) (t : Task) (length : Nat) (members : List (Nat × Nat × Nat × Nat)) : State :=
  members.foldl (fun s m =>
    s.sendNotice t.slot m.1 0 t.epoch (.landing
      { lcid := m.2.1, window := m.2.2.1, offset := m.2.2.2, length := length, vid := 0, increment := 0 })) s

/-! ### Cancelled steps (R238) -/

/-- What the routing unit does when steps of a context are cancelled (R209, R238). Jobs already published stay for the started tasks. -/
def State.cancelRouting (s : State) (k : Fin 16) (steps : List Nat) : State :=
  let s := { s with packets := s.packets.filterMap fun (p : Packet) =>
    if p.slot == k && steps.contains p.step then (if p.closed then none else some { p with dropped := true, records := [] }) else some p }
  let s := s.modCtx k fun c =>
    { c with
      jobs := c.jobs.filter fun j => j.published || !steps.contains j.step
      residency := c.residency.map fun r => match r.state, r.job with
        | .arriving, some (st, _) => if steps.contains st then { r with state := .empty, job := none } else r
        | _, _ => r }
  s.inletWeirs

end Sys2Proof.Machine
end

