-- ==== Sys2Proof/Machine/Ledger.lean ====
section
/-! DEFINITION. The sequence ledger (R266–R301): reservations, joins, leaves, imports, page tables, appends, staging of
pages, the tier pass, and the tasks the ledger creates. -/

namespace Sys2Proof.Machine

/-! ### Frames and tables -/

def Ledger.tierFrames (l : Ledger) (tier : Nat) : Nat := ((l.pools.filter fun p => p.tier == tier).map (·.frames)).sum

def Ledger.firstFrame (l : Ledger) (tier : Nat) : Nat := ((List.range tier).map l.tierFrames).sum

def Ledger.allFrames (l : Ledger) : Nat := l.tierFrames 0 + l.tierFrames 1 + l.tierFrames 2

/-- The address of a frame by its number (R268, R271); a tier-0 frame's through the free value of log entry 7. -/
def frameAddress (frameBytes : Nat) : List Pool → Nat → Nat
  | [], _ => 0
  | p :: ps, n =>
    if n < p.frames then
      (if p.tier = 0 then (Config.spadBase p.lcid).toNat else 0) + p.address + n * frameBytes
    else frameAddress frameBytes ps (n - p.frames)

/-- The tier of a frame number. -/
def Ledger.tierOf (l : Ledger) (n : Nat) : Nat :=
  if n < l.firstFrame 1 then 0 else if n < l.firstFrame 2 then 1 else 2

/-- The first number of a list's range that is not taken. -/
def firstFree (base count : Nat) (used : List Nat) : Option Nat :=
  ((List.range (min count (used.length + 1))).map (base + ·)).find? fun n => !used.contains n

/-- Bytes per token per layer of a group. -/
def Ledger.tokenBytes (l : Ledger) (g : Nat) : Nat := (l.groups.getD g (0, 0)).2

/-- Every (group, layer) in order. -/
def Ledger.layers (l : Ledger) : List (Nat × Nat) :=
  ((List.range l.groups.length).zip l.groups).flatMap fun p => (List.range p.2.1).map fun y => (p.1, y)

/-- Position of a (group, layer) in the layer map (R269). -/
def Ledger.mapPosition (l : Ledger) (g y : Nat) : Nat := ((l.groups.take g).map (·.1)).sum + y

/-- Frames and table blocks reserved for a sequence of max_tokens m (R276). -/
def Ledger.needFrames (l : Ledger) (m : Nat) : Nat := (l.groups.map fun g => g.1 * ceilDiv m l.pageTokens).sum
def Ledger.needBlocks (l : Ledger) (m : Nat) : Nat :=
  1 + (l.groups.map fun g => g.1 * (1 + ceilDiv (ceilDiv m l.pageTokens) 256)).sum

def Ledger.resFrames (l : Ledger) : Nat := (l.seqs.map (·.resFrames)).sum
def Ledger.resBlocks (l : Ledger) : Nat := (l.seqs.map (·.resBlocks)).sum

def Ledger.seq? (l : Ledger) (q : Nat) : Option Seq := l.seqs.find? fun s => s.id == q
def Ledger.global? (l : Ledger) (g : Nat) : Option Seq := l.seqs.find? fun s => s.globalId == g

def Ledger.modSeq (l : Ledger) (q : Nat) (f : Seq → Seq) : Ledger :=
  { l with seqs := l.seqs.map fun s => if s.id == q then f s else s }

/-- Page frames in use: those of pages, and those move tasks not yet ended carry a page to. -/
def Ledger.usedFrames (l : Ledger) (targets : List Nat) : List Nat :=
  (l.seqs.flatMap fun s => (s.pages.filter fun p => p.tier != 3).map (·.frame)) ++ targets

/-- Whether a task carries a page to a frame. -/
def Service.target : Service → Option Nat
  | .move _ _ _ _ _ _ f => some f
  | _ => none

/-- The frames move tasks of a context that have not ended carry pages to. -/
def State.moveTargets (s : State) (k : Fin 16) : List Nat :=
  ((s.ctx k).aux.filterMap fun a => a.task.service.target) ++
    s.cores.toList.flatMap fun c =>
      ([c.e0, c.e1].filter fun e => e.holds k).filterMap fun e => e.task.service.target

/-- Table blocks in use. -/
def Ledger.usedBlocks (l : Ledger) : List Nat := l.seqs.flatMap fun s => s.blocks.map (·.number)

/-- Takes the lowest free table block for a sequence. -/
def Ledger.addBlock (l : Ledger) (q level g y i : Nat) : Ledger :=
  match firstFree 0 l.blocks l.usedBlocks with
  | none => l
  | some n => l.modSeq q fun s => { s with blocks := s.blocks ++ [⟨n, level, g, y, i⟩] }

/-! ### Page tables in memory (R269–R271) -/

def Seq.block? (q : Seq) (level g y i : Nat) : Option Nat :=
  (q.blocks.find? fun b => b.level == level && b.group == g && b.layer == y && b.index == i).map (·.number)

/-- The bytes of a sequence record (R270). -/
def Seq.record (q : Seq) : Bytes :=
  leBytes 4 q.globalId ++ leBytes 1 q.state ++ leBytes 1 (b2n q.imported) ++ leBytes 2 q.use ++ leBytes 4 q.maxTokens
    ++ leBytes 4 q.tokens ++ leBytes 5 q.joinStep ++ leBytes 5 q.lastStep ++ zeros 2
    ++ leBytes 4 ((q.block? 0 0 0 0).getD 0) ++ leBytes 4 q.resFrames ++ leBytes 4 q.resBlocks ++ zeros 24

/-- The bytes of a page entry (R271). -/
def Page.entry (p : Page) : Bytes :=
  leBytes 8 p.address ++ leBytes 8 (p.tier % 4 + p.valid % 2 ^ 11 * 2 ^ 2 + b2n p.crcValid * 2 ^ 13 + b2n p.moving * 2 ^ 14
    + p.crc.toNat * 2 ^ 16 + p.frame % 2 ^ 32 * 2 ^ 32)

def Ledger.blockAddress (l : Ledger) (n : Nat) : Nat := l.area + 524288 + n * 4096

/-- The bytes of a table block as its sequence now stands (R269). -/
def Ledger.blockWrite (l : Ledger) (q : Seq) (m : Memory) (b : Block) : Memory :=
  let at_ := l.blockAddress b.number
  match b.level with
  | 0 => l.layers.foldl (fun m p =>
      m.writeBytes (at_ + l.mapPosition p.1 p.2 * 8) (leBytes 8 ((q.block? 1 p.1 p.2 0).getD 0))) m
  | 1 => (q.blocks.filter fun x => x.level == 2 && x.group == b.group && x.layer == b.layer).foldl (fun m x =>
      let n := (q.pages.filter fun p => p.group == b.group && p.layer == b.layer && p.page / 256 == x.index).length
      m.writeBytes (at_ + x.index * 16) (leBytes 8 (x.number % 2 ^ 32 + n * 2 ^ 32) ++ zeros 8)) m
  | _ => (q.pages.filter fun p => p.group == b.group && p.layer == b.layer && p.page / 256 == b.index).foldl (fun m p =>
      m.writeBytes (at_ + p.page % 256 * 16) p.entry) m

/-- Writes a sequence's record and tables. -/
def Ledger.writeSeq (l : Ledger) (old : Option Seq) (m : Memory) (q : Seq) : Memory :=
  let m := m.writeBytes (l.area + q.id * 64) q.record
  let fresh := q.blocks.filter fun b => match old with | some o => !o.blocks.contains b | none => true
  let m := fresh.foldl (fun m b => m.scrub (l.blockAddress b.number) (l.blockAddress b.number + 4096)) m
  q.blocks.foldl (l.blockWrite q) m

/-- Replaces the ledger of a context and writes what changed into the ledger area (R272). -/
def State.setLedger (s : State) (k : Fin 16) (l : Ledger) : State :=
  let old := (s.ctx k).ledger
  let changed := l.seqs.filter fun q => !old.seqs.contains q
  let gone := old.seqs.filter fun q => (l.seq? q.id).isNone
  let m := changed.foldl (fun m q => l.writeSeq (old.seq? q.id) m q) s.mem
  let m := gone.foldl (fun m q => m.write (l.area + q.id * 64 + 4) 0) m
  { s.modCtx k fun c => { c with ledger := l } with mem := m }

/-! ### Joins (R276–R278, R280) -/

/-- Why a join is refused for resources (R276): none if it is not. A join of an id whose import has completed takes the sequence
reserved by it (R280). -/
def Ledger.joinRefusal (l : Ledger) (r : JoinReq) : Option Nat :=
  let held := l.global? r.globalId
  let fresh := !r.imported && !(held.any fun q => q.state == 0 && q.imported)
  if fresh ∧ l.seqs.length ≥ 8192 then some 0x40
  else if r.maxTokens = 0 ∨ r.maxTokens > 4194304 then some 0x41
  else if fresh ∧ l.resFrames + l.needFrames r.maxTokens > l.allFrames then some 0x42
  else if fresh ∧ l.resBlocks + l.needBlocks r.maxTokens > l.blocks then some 0x43
  else match held with
    | none => if r.imported then some 0x44 else none
    | some q =>
      if q.state = 0 ∧ q.imported then (if q.importSub.isNone then none else some 0x44)
      else some 0x45

/-- Gives a sequence an id and reserves for it, with its layer map and root blocks (R278, R280). -/
def Ledger.enter (l : Ledger) (q : Seq) : Ledger :=
  match firstFree 0 8192 (l.seqs.map (·.id)) with
  | none => l
  | some id =>
    let q := { q with id := id, gen := l.entered, resFrames := l.needFrames q.maxTokens, resBlocks := l.needBlocks q.maxTokens }
    let l := { l with seqs := l.seqs ++ [q], entered := l.entered + 1 }
    let l := l.addBlock id 0 0 0 0
    l.layers.foldl (fun l p => l.addBlock id 1 p.1 p.2 0) l

/-- Applies a join at the boundary of a step (R278); none where the ledger cannot take it (R277). -/
def Ledger.join (l : Ledger) (step : Nat) (r : JoinReq) : Option Ledger :=
  match l.joinRefusal r with
  | some _ => none
  | none =>
    let due := if r.be then none else some r.deadline
    match l.global? r.globalId with
    | some q => some (l.modSeq q.id fun q => { q with state := 1, joinStep := step, deadline := due })
    | none =>
      some (l.enter { globalId := r.globalId, state := 1, maxTokens := r.maxTokens, joinStep := step, deadline := due })

/-! ### Batches and appends (R281–R285) -/

/-- Tokens that steps in flight and not cancelled append to a sequence, up to a step. -/
def Ctx.tokensInFlight (c : Ctx) (q step : Nat) : Nat :=
  ((c.steps.filter fun r => !r.cancelled && decide (r.step < step)).map fun r =>
    ((r.batch.filter fun b => b.seq == q).map (·.tokens)).sum).sum

/-- The tokens a step's change list names for a sequence; 1 without an entry (R350). -/
def stepTokens (changes : List Change) (g : Nat) : Nat :=
  match changes.find? fun x => match x with | .append h _ => h == g | _ => false with
  | some (.append _ n) => n
  | _ => 1

/-- The die batch of a step in ascending die sequence id, and the sequences that met their length limit (R279, R285). -/
def Ctx.dieBatch (c : Ctx) (step : Nat) (changes : List Change) : List BatchSeq × List Nat :=
  let qs := (c.ledger.seqs.filter fun q => q.state == 1 || (q.state == 2 && decide (step ≤ q.lastStep))).mergeSort
    fun a b => a.id ≤ b.id
  qs.foldl (fun acc q =>
    let before := q.tokens + c.tokensInFlight q.id step
    let n := stepTokens changes q.globalId
    let isOver := decide (before + n > q.maxTokens)
    let b : BatchSeq := { seq := q.id, globalId := q.globalId, before := before, tokens := if isOver then 0 else n,
                          first := q.joinStep == step, last := q.state == 2 && q.lastStep == step }
    (acc.1 ++ [b], if isOver then acc.2 ++ [q.globalId] else acc.2)) ([], [])

/-- Pages that token positions lo to hi − 1 reach. -/
def pagesOf (pageTokens lo hi : Nat) : List Nat :=
  if lo ≥ hi then [] else (List.range ((hi - 1) / pageTokens + 1 - lo / pageTokens)).map (lo / pageTokens + ·)

/-- Adds one page to a sequence: the lowest free frame of the lowest tier that has one, and its leaf (R275, R283). -/
def Ledger.addPage (l : Ledger) (targets : List Nat) (q g y p valid : Nat) : Ledger :=
  match l.seq? q with
  | none => l
  | some sq =>
    if sq.pages.any fun x => x.group == g && x.layer == y && x.page == p then l
    else
      let used := l.usedFrames targets
      let pick := (firstFree 0 (l.tierFrames 0) used).orElse fun _ =>
        (firstFree (l.firstFrame 1) (l.tierFrames 1) used).orElse fun _ => firstFree (l.firstFrame 2) (l.tierFrames 2) used
      match pick with
      | none => l
      | some f =>
        let l := if (sq.block? 2 g y (p / 256)).isSome then l else l.addBlock q 2 g y (p / 256)
        l.modSeq q fun s => { s with pages := s.pages ++
          [{ group := g, layer := y, page := p, tier := l.tierOf f, frame := f, address := frameAddress l.frameBytes l.pools f, valid := valid }] }

/-- Allocates the pages a batch reaches (R283). -/
def Ledger.appendPages (l : Ledger) (targets : List Nat) (batch : List BatchSeq) : Ledger :=
  batch.foldl (fun l b =>
    l.layers.foldl (fun l gy =>
      (pagesOf l.pageTokens b.before (b.before + b.tokens)).foldl (fun l p => l.addPage targets b.seq gy.1 gy.2 p 0) l) l) l

/-- The tokens of a page that lie below a length. -/
def tokensIn (pageTokens page len : Nat) : Nat := min pageTokens (len - page * pageTokens)

/-- Step completion: tokens become valid (R284). -/
def Ledger.completeStep (l : Ledger) (batch : List BatchSeq) : Ledger :=
  batch.foldl (fun l b =>
    if b.tokens = 0 then l
    else l.modSeq b.seq fun q =>
      let len := q.tokens + b.tokens
      { q with
        tokens := len
        pages := q.pages.map fun p =>
          if p.page * l.pageTokens < len ∧ q.tokens < (p.page + 1) * l.pageTokens then
            { p with valid := tokensIn l.pageTokens p.page len, crcValid := p.crcValid && p.tier == 0 }
          else p }) l

/-! ### Use counts and the tier pass (R297–R299) -/

/-- The use counts at a step boundary (R297). -/
def Ledger.updateUse (l : Ledger) (batch : List BatchSeq) : Ledger :=
  { l with seqs := l.seqs.map fun q =>
      if q.state = 1 ∨ q.state = 2 then
        { q with use := q.use - q.use / 8 + if batch.any (fun b => b.seq == q.id) then 32 else 0 }
      else q }

/-- Pages in the order of R298 step 2: (sequence, page). A leaving sequence is active here and in the use count (DESIGN CHOICE, log
entry 157). -/
def Ledger.rankPages (l : Ledger) (rev : Bool) : List (Nat × Page) :=
  let qs := (l.seqs.filter fun q => q.state == 1 || q.state == 2).mergeSort fun a b =>
    a.use > b.use || (a.use == b.use && a.globalId ≤ b.globalId)
  (if rev then qs.reverse else qs).flatMap fun q =>
    (q.pages.mergeSort fun a b =>
      a.group < b.group || (a.group == b.group && (a.layer < b.layer || (a.layer == b.layer && a.page ≤ b.page)))).map fun p => (q.id, p)

/-- The target tier of each page, by rank (R298 step 2). -/
def Ledger.targets (l : Ledger) : List (Nat × Page × Nat) :=
  let ps := l.rankPages false
  ((List.range ps.length).zip ps).map fun x =>
    (x.2.1, x.2.2, if x.1 < l.tierFrames 0 then 0 else if x.1 < l.tierFrames 0 + l.tierFrames 1 then 1 else 2)

/-- Whether a page is free to move (R298 step 3). -/
def Ctx.freeToMove (c : Ctx) (q : Nat) (p : Page) : Bool :=
  !p.moving &&
  !(c.ledger.stages.any fun g => g.seq == q && !g.ended &&
      (let d := c.node ((c.run? g.step).map (·.template) |>.getD 0) g.node
       bits d.fanoutParam 2 0 == p.group && bits d.fanoutParam 11 3 == p.layer) &&
      decide (g.firstPage ≤ p.page ∧ p.page < g.firstPage + g.pages)) &&
  !(c.steps.any fun r => r.batch.any fun b => b.seq == q && (pagesOf c.ledger.pageTokens b.before (b.before + b.tokens)).contains p.page)

/-- Rates r0, r1 and r2 by tier (R273). -/
structure Rates where
  r1 : Nat := 1
  r2 : Nat := 1

def Rates.of (r : Rates) (tier : Nat) : Nat := match tier with | 0 => 524288 | 1 => r.r1 | _ => r.r2

/-- r1 (R273). -/
def State.memShare (s : State) (k : Fin 16) : Nat := ((s.ctx k).memSlots - b2n (s.ctx k).trace.drainSlot) * 2150400000 / (64 * 850)

def State.rates (s : State) (k : Fin 16) : Rates := { r1 := s.memShare k, r2 := s.linkShare k }

/-- What CTX_FETCH_RATE and CTX_LEDGER_RATE show: b, the trained lanes, r1 and r2 (R490). -/
def State.fetchRates (s : State) (k : Fin 16) : Nat × Nat × Nat × Nat := (s.linkShare k, s.time.lanes.sum, s.memShare k, s.linkShare k)

/-- The energy class of a ledger task (R290). -/
def Ctx.ledgerEnergy (c : Ctx) : Nat := min 4 c.share

/-- The next number of a kind of ledger task for a step (R290). -/
def Ctx.nextLedgerTask (c : Ctx) (node step : Nat) : Nat × Ctx :=
  let n := ((c.ledger.created.find? fun p => p.1 == node && p.2.1 == step).map (·.2.2)).getD 0
  (n, { c with ledger := { c.ledger with
    created := (node, step, n + 1) :: c.ledger.created.filter fun p => !(p.1 == node && p.2.1 == step) } })

def Ctx.addAux (c : Ctx) (t : Task) : Ctx := { c with aux := c.aux ++ [{ task := t }] }

/-- Valid bytes of a page. -/
def Ledger.pageBytes (l : Ledger) (p : Page) : Nat := p.valid * l.tokenBytes p.group

/-- Creates the move task of a page to a frame (R290, R298). -/
def Ctx.moveTask (c : Ctx) (k : Fin 16) (r : Rates) (step template q : Nat) (p : Page) (tier frame : Nat) : Ctx :=
  let (n, c) := c.nextLedgerTask 0xFFFC step
  let t : Task :=
    { slot := k, step := step, template := template, node := 0xFFFC, fanout := n, kind := .mover, floating := true, mask := c.lcids
      span := 2 + ceilDiv (c.ledger.pageBytes p) (min (r.of p.tier) (r.of tier)), energy := c.ledgerEnergy, epoch := epochOf step
      service := .move q (((c.ledger.seq? q).map (·.gen)).getD 0) p.group p.layer p.page tier frame }
  let c := c.addAux t
  { c with ledger := c.ledger.modSeq q fun s => { s with pages := s.pages.map fun x =>
      if x.group == p.group && x.layer == p.layer && x.page == p.page then { x with moving := true } else x } }

/-- One page of the tier pass, if moves are left (R298 steps 5, 6); `targets` are the frames moves go to. -/
def Ctx.movePage (k : Fin 16) (r : Rates) (step template : Nat) (acc : Ctx × List Nat × Nat) (x : Nat × Page × Nat) : Ctx × List Nat × Nat :=
  let (c, targets, left) := acc
  match left with
  | 0 => acc
  | left' + 1 =>
    match firstFree (c.ledger.firstFrame x.2.2) (c.ledger.tierFrames x.2.2) (c.ledger.usedFrames targets) with
    | none => acc
    | some f => (c.moveTask k r step template x.1 x.2.1 x.2.2 f, targets ++ [f], left')

/-- The tier pass (R298). -/
def Ctx.tierPass (c : Ctx) (k : Fin 16) (r : Rates) (targets : List Nat) (step template : Nat) : Ctx :=
  let all := (c.ledger.targets.filter fun x => x.2.1.tier != x.2.2).filter fun x => c.freeToMove x.1 x.2.1
  let order := c.ledger.rankPages true
  let downs := order.filterMap fun y => all.find? fun x => x.1 == y.1 && x.2.1 == y.2 && decide (x.2.1.tier < x.2.2)
  let ups := all.filter fun x => decide (x.2.2 < x.2.1.tier)
  ((downs ++ ups).foldl (Ctx.movePage k r step template) (c, targets, c.controls.movesPerStep)).1

/-! ### Planning (R286–R295) -/

def NodeP.group (d : NodeDesc) : Nat := bits d.fanoutParam 2 0
def NodeP.layer (d : NodeDesc) : Nat := bits d.fanoutParam 11 3
def NodeP.region (d : NodeDesc) : Nat := bits d.fanoutParam 16 12
def NodeP.blockLog2 (d : NodeDesc) : Nat := bits d.fanoutParam 20 17
def NodeP.guard (d : NodeDesc) : Nat := bits d.fanoutParam 28 21

/-- Same-step decrement edges of a template, as (source, target). -/
def Ctx.edges (c : Ctx) (t : Nat) : List (Nat × Nat) :=
  let ns := (c.template t).nodes
  ((List.range ns.length).zip ns).flatMap fun p =>
    ((succFrom_ c p.2).filter fun e => e.decrement && !e.nextStep).map fun e => (p.1, e.target)
where succFrom_ (c : Ctx) (d : NodeDesc) : List SuccEntry := succOf c.image d

/-- One relaxation of the earliest offsets along every edge. -/
def relax (spans : List Nat) (edges : List (Nat × Nat)) (e : List Nat) : List Nat :=
  edges.foldl (fun e p => e.set p.2 (max (e.getD p.2 0) (e.getD p.1 0 + spans.getD p.1 0))) e

/-- E(n) for every node of a template (R292). -/
def Ctx.offsets (c : Ctx) (t : Nat) : List Nat :=
  let ns := (c.template t).nodes
  iterate (relax (ns.map (·.span)) (c.edges t)) ns.length (List.replicate ns.length 0)

/-- The (sequence, block) pairs of a source-7 node in fan-out order (R287). -/
def Ctx.pageBlocks (c : Ctx) (d : NodeDesc) (batch : List BatchSeq) : List (BatchSeq × Nat) :=
  batch.flatMap fun b =>
    (List.range (ceilDiv (ceilDiv b.before c.ledger.pageTokens) (2 ^ NodeP.blockLog2 d))).map fun j => (b, j)

/-- Bytes read from each tier for pages of a sequence, as (tier, bytes). -/
def Ctx.stageReads (c : Ctx) (d : NodeDesc) (b : BatchSeq) (first pages : Nat) : List (Nat × Nat) :=
  (List.range pages).map fun i =>
    let n := tokensIn c.ledger.pageTokens (first + i) b.before * c.ledger.tokenBytes (NodeP.group d)
    let tier := (((c.ledger.seq? b.seq).bind fun q =>
      q.pages.find? fun p => p.group == NodeP.group d && p.layer == NodeP.layer d && p.page == first + i).map (·.tier)).getD 1
    (tier, n)

/-- Span of a task that reads bytes from tiers (R290). -/
def readSpan (r : Rates) (reads : List (Nat × Nat)) : Nat :=
  let per (t : Nat) : Nat := ceilDiv (((reads.filter fun x => x.1 == t).map (·.2)).sum) (r.of t)
  2 + per 0 + per 1 + per 2

/-- Plans one block (R288, R292): the stage and the region's next position. -/
def Ctx.planBlock (c : Ctx) (r : Rates) (step n : Nat) (size : Nat) (i : Nat) (x : BatchSeq × Nat) : Ctx :=
  let run := c.run? step
  let d := c.node ((run.map (·.template)).getD 0) n
  let lcid := bits d.placement.toNat 5 0
  let per := 2 ^ NodeP.blockLog2 d
  let first := x.2 * per
  let pages := min per (ceilDiv x.1.before c.ledger.pageTokens - first)
  let reads := c.stageReads d x.1 first pages
  let bytes := (reads.map (·.2)).sum
  let pos := ((c.ledger.positions.find? fun p => p.1 == lcid && p.2.1 == NodeP.region d).map (·.2.2)).getD 0
  let g : Stage :=
    { step := step, node := n, index := i, seq := x.1.seq, block := x.2, firstPage := first, pages := pages, bytes := bytes
      tokens := min (per * c.ledger.pageTokens) (x.1.before - first * c.ledger.pageTokens), position := pos
      span := readSpan r reads, issueIn := 0 }
  { c with ledger := { c.ledger with
      stages := c.ledger.stages ++ [g]
      positions := (lcid, NodeP.region d, (pos + bytes) % max size 1) ::
        c.ledger.positions.filter fun p => !(p.1 == lcid && p.2.1 == NodeP.region d) } }

/-- A circular region as its core has configured it (R289). -/
def State.region? (s : State) (lcid region : Nat) : Option RegionIn := s.stagingRegions.find? fun r => r.lcid == lcid && r.region == region

def State.regionSize (s : State) (lcid region : Nat) : Option Nat := (s.region? lcid region).map (·.bytes)

/-- The core and the region a stage writes: those of its node (R289). -/
def Ctx.stagePlace (c : Ctx) (g : Stage) : Nat × Nat :=
  let d := c.node (((c.run? g.step).map (·.template)).getD 0) g.node
  (bits d.placement.toNat 5 0, NodeP.region d)

/-- Plans the staging of one source-7 node (R289, R292, R294). -/
def State.planNode (s : State) (k : Fin 16) (step n : Nat) : State :=
  let c := s.ctx k
  match c.run? step with
  | none => s
  | some run =>
    let d := c.node run.template n
    let lcid := bits d.placement.toNat 5 0
    let blocks := c.pageBlocks d run.batch
    let size := s.regionSize lcid (NodeP.region d)
    if blocks.isEmpty then s.setCtx k (c.flagNode step n (1#32 <<< 24))
    else
      let r := s.rates k
      let c' := ((List.range blocks.length).zip blocks).foldl (fun c x => c.planBlock r step n (size.getD 0) x.1 x.2) c
      let mine := c'.ledger.stages.filter fun g => g.step == step && g.node == n
      let lead := (mine.map (·.span)).sum
      let issue := (c.offsets run.template).getD n 0 - lead - NodeP.guard d
      if size.isNone || mine.any (fun g => decide (g.bytes > size.getD 0)) then s.faultCode k 0x15 (NodeP.region d) n
      else s.setCtx k { c' with ledger := { c'.ledger with stages := c'.ledger.stages.map fun g =>
        if g.step == step && g.node == n then { g with issueIn := issue } else g } }

/-- The stage an unissued staging task of a node comes next for. -/
def Ctx.nextStage (c : Ctx) (step n : Nat) : Option Stage := c.ledger.stages.find? fun g => g.step == step && g.node == n && !g.issued

/-- Whether the next staging task of a node may be made ready (R293); `size` is its region's. It waits behind the node's tasks of earlier
steps too. -/
def Ctx.stageReady (c : Ctx) (size : Nat) (g : Stage) : Bool :=
  let run := c.run? g.step
  let d := c.node ((run.map (·.template)).getD 0) g.node
  let held := ((c.ledger.stages.filter fun x => x.issued && !x.released && c.stagePlace x == c.stagePlace g).map (·.bytes)).sum
  let behind := c.ledger.stages.any fun x =>
    !x.issued && x.node == g.node && decide (x.step < g.step) && ((c.run? x.step).map (·.template)) == run.map (·.template)
  let inBlock (p : Nat) : Bool := decide (g.firstPage ≤ p ∧ p < g.firstPage + g.pages)
  let appended := c.steps.any fun r => !r.cancelled && decide (r.step < g.step) &&
    r.batch.any fun b => b.seq == g.seq && (pagesOf c.ledger.pageTokens b.before (b.before + b.tokens)).any inBlock
  let moving := match c.ledger.seq? g.seq with
    | some q => q.pages.any fun p => p.group == NodeP.group d && p.layer == NodeP.layer d && inBlock p.page && p.moving
    | none => false
  g.issueIn == 0 && !behind && decide (held + g.bytes ≤ size) && !appended && !moving

/-- Makes the staging task of a stage ready (R290, R292). -/
def Ctx.issueStage (c : Ctx) (k : Fin 16) (r : Rates) (g : Stage) : Ctx :=
  match c.run? g.step with
  | none => c
  | some run =>
    let d := c.node run.template g.node
    let (n, c) := c.nextLedgerTask 0xFFFE g.step
    let reads := match run.batch.find? fun b => b.seq == g.seq with
      | some b => c.stageReads d b g.firstPage g.pages
      | none => []
    let t : Task :=
      { slot := k, step := g.step, template := run.template, node := 0xFFFE, fanout := n, kind := .mover, be := d.be, rank := d.rank
        span := readSpan r reads, energy := c.ledgerEnergy, mask := 1#64 <<< (bits d.placement.toNat 5 0), layer := d.layer
        operatorId := d.operatorId, epoch := epochOf g.step, service := .staging g.node g.index }
    let c := c.addAux t
    { c with ledger := { c.ledger with stages := c.ledger.stages.map fun x =>
        if x.step == g.step && x.node == g.node && x.index == g.index then { x with issued := true } else x } }

/-- Issues the staging tasks of one node that may be made ready, in fan-out order (R292, R293). -/
def State.issueNode (s : State) (k : Fin 16) (step n : Nat) : Nat → State
  | 0 => s
  | fuel + 1 =>
    let c := s.ctx k
    match c.nextStage step n with
    | none => s
    | some g =>
      let d := c.node (((c.run? step).map (·.template)).getD 0) n
      let size := (s.regionSize (bits d.placement.toNat 5 0) (NodeP.region d)).getD 0
      if c.stageReady size g then State.issueNode (s.setCtx k (c.issueStage k (s.rates k) g)) k step n fuel else s

/-- The nodes with stages not yet issued, by step and index. -/
def Ctx.stageNodes (c : Ctx) : List (Nat × Nat) :=
  ((c.ledger.stages.filter fun g => !g.issued).map fun g => (g.step, g.node)).eraseDups

/-- The ledger's part of a slot boundary: staging tasks fall due (R292, R293). -/
def State.stagingBoundary (s : State) (k : Fin 16) : State :=
  (s.ctx k).stageNodes.foldl (fun s p => s.issueNode k p.1 p.2 (s.ctx k).ledger.stages.length) s

/-- One context slot has passed toward the issue offsets. -/
def Ctx.stageSlot (c : Ctx) : Ctx :=
  { c with ledger := { c.ledger with stages := c.ledger.stages.map fun g => if g.issued then g else { g with issueIn := g.issueIn - 1 } } }

/-- STAGING_ISSUE: in the last ac before the issue boundary (log entry 8). -/
def State.stagingIssue (s : State) (k : Fin 16) (n : Nat) : State :=
  if !(s.time.inMargin || s.time.offset == 255) then s
  else
    (s.ctx k).stageNodes.foldl (fun s p =>
      if p.2 = n then
        (s.modCtx k fun c => { c with ledger := { c.ledger with stages := c.ledger.stages.map fun g =>
          if g.node == n && g.issueIn == (if s.time.inMargin then 0 else 1) then { g with issueIn := 0 } else g } }).issueNode k p.1 n (s.ctx k).ledger.stages.length
      else s) s

def execStagingIssue (slot : Fin 16) (node : Nat) (s : State) : Host.Outcome State Fault Refusal := .next (s.stagingIssue slot node)

/-- Whether the head of a region has passed a block's last byte (R294): the tasks of a core end one by one, so it stands just behind the
block. A head the core does not report counts as passed (log entry 128). -/
def headPassed (g : Stage) (r : RegionIn) : Bool :=
  match r.head with
  | some h => h % max r.bytes 1 == (g.position + g.bytes) % max r.bytes 1
  | none => true

/-- Whether the ledger confirms that the block a staging task has written is in its region (R294). -/
def State.stageConfirmed (s : State) (k : Fin 16) (step n i : Nat) : Bool :=
  let c := s.ctx k
  match c.ledger.stages.find? fun g => g.step == step && g.node == n && g.index == i with
  | none => false
  | some g => (s.region? (c.stagePlace g).1 (c.stagePlace g).2).all (headPassed g)

/-- A staging task ends: its block is staged, and flag 24 follows for index 0 (R294). -/
def Ctx.stageEnd (c : Ctx) (step n i : Nat) : Ctx :=
  if (c.run? step).any (·.cancelled) then c
  else
    let c := { c with ledger := { c.ledger with stages := c.ledger.stages.map fun g =>
      if g.step == step && g.node == n && g.index == i then { g with staged := true } else g } }
    if i = 0 then c.flagNode step n (1#32 <<< 24) else c

/-- A staging task has ended, with whatever status (R298 step 3). -/
def Ctx.endStage (c : Ctx) (step n i : Nat) : Ctx :=
  { c with ledger := { c.ledger with stages := c.ledger.stages.map fun g =>
      if g.step == step && g.node == n && g.index == i then { g with ended := true } else g } }

/-- An instance of a source-7 node ends: the tail passes its bytes (R295). -/
def Ctx.releaseStage (c : Ctx) (step n i : Nat) : Ctx :=
  { c with ledger := { c.ledger with stages := c.ledger.stages.map fun g =>
      if g.step == step && g.node == n && g.index == i then { g with released := true } else g } }

/-- Whether the block of an instance is staged (R131, R294). -/
def Ctx.blockStaged (c : Ctx) (step n i : Nat) : Bool :=
  c.ledger.stages.any fun g => g.step == step && g.node == n && g.index == i && g.staged

/-! ### The step boundary (R278, R279, R283, R285, R297, R298, R292) -/

/-- Marks a sequence as leaving at a step (R279). -/
def Ledger.leave (l : Ledger) (step g : Nat) (export_ : Bool) (base stride : Nat) : Ledger :=
  { l with seqs := l.seqs.map fun q =>
      if q.globalId == g && q.state == 1 then
        { q with state := 2, lastStep := step, leaving := true, export_ := if export_ then some (base, stride) else none }
      else q }

/-- Position of this member in a placement group; none where the group does not list it (R341, R351). -/
def State.groupPosition (s : State) (k : Fin 16) (group : Nat) : Option Nat :=
  let c := s.ctx k
  match (s.catch_ c.catchment).manifest with
  | none => some 0
  | some m => (m.groups.getD group []).findIdx? fun i => i == c.memberIndex

/-- Applies one entry of a change list at a step's boundary (R278, R279, R351). -/
def State.applyChange (s : State) (k : Fin 16) (step : Nat) (x : Change) : State :=
  match x with
  | .join r =>
    match s.groupPosition k r.group with
    | none => s
    | some pos =>
      match (s.ctx k).ledger.join step r with
      | some l => s.setLedger k { l with seqs := l.seqs.map fun q => if q.globalId == r.globalId then { q with position := pos } else q }
      | none => s.faultCode k 0x14 r.globalId 0
  | .leave g e b st => s.setLedger k ((s.ctx k).ledger.leave step g e b st)
  | .append _ _ => s

/-- A length-limit record (R285, R456). -/
def State.lengthLimit (s : State) (k : Fin 16) (step g : Nat) : State :=
  s.pushRec { kind := 4, cxid := (s.ctx k).cxid, ctx := some k, due := s.nextTick, detail := .lengthLimit g step }

/-- The ledger's step boundary before the step is instantiated: joins, leaves and the batch (R278, R279, R285). -/
def State.ledgerJoins (s : State) (k : Fin 16) (step : Nat) (changes : List Change) : State × List BatchSeq :=
  let s := changes.foldl (·.applyChange k step ·) s
  let (batch, isOver) := (s.ctx k).dieBatch step changes
  (isOver.foldl (·.lengthLimit k step ·) s, batch)

/-- The ledger's step boundary once the step is instantiated: append frames, use counts, tier pass, staging plan. -/
def State.ledgerPlan (s : State) (k : Fin 16) (step template : Nat) (batch : List BatchSeq) : State :=
  let c := s.ctx k
  if c.ledger.groups.isEmpty then s
  else
    let targets := s.moveTargets k
    let l := (c.ledger.appendPages targets batch).updateUse batch
    let c := { c with ledger := l }
    let n := c.aux.length
    let c := c.tierPass k (s.rates k) targets step template
    let s := { s with movesCreated := s.movesCreated + (c.aux.length - n) }
    let s := (s.modCtx k fun old => { c with ledger := old.ledger }).setLedger k c.ledger
    let nodes := (List.range (c.template template).nodes.length).filter fun n => (c.node template n).fanoutSource == 7
    nodes.foldl (fun s n => s.planNode k step n) s

/-! ### Ends of ledger tasks -/

/-- Updates a page of a sequence. -/
def Ledger.modPage (l : Ledger) (q g y p : Nat) (f : Page → Page) : Ledger :=
  l.modSeq q fun s => { s with pages := s.pages.map fun x => if x.group == g && x.layer == y && x.page == p then f x else x }

/-- A move task ends normally (R291, R299); where its sequence has been freed there is no page entry to update. -/
def State.moveEnd (s : State) (k : Fin 16) (q gen g y p tier frame : Nat) : State :=
  let c := s.ctx k
  let l := c.ledger
  if (l.seq? q).all fun sq => sq.gen != gen then s
  else
    let old := (((l.seq? q).bind fun sq => sq.pages.find? fun x => x.group == g && x.layer == y && x.page == p).map (·.tier)).getD tier
    let s := s.setLedger k (l.modPage q g y p fun x =>
      { x with tier := tier, frame := frame, address := frameAddress l.frameBytes l.pools frame, moving := false })
    s.modCtx k (·.modStats fun t =>
      if tier < old then { t with promotions := t.promotions + 1 } else { t with demotions := t.demotions + 1 })

/-- The reported CRC of a page a ledger task copied (R291, R280). -/
def State.pageCrc (s : State) (k : Fin 16) (q g y p : Nat) (crc : BitVec 16) : State :=
  s.setLedger k ((s.ctx k).ledger.modPage q g y p fun x => { x with crc := crc, crcValid := true })

/-- A page task has ended normally: the CRC its mover reported goes into the page's entry, if the sequence still holds it (R291, R299);
an import of a cancelled step has no effect (R300). -/
def State.reportedCrc (s : State) (t : Task) (live : Bool) (crc : BitVec 16) : State :=
  match t.service with
  | .move q gen g y p _ _ => if ((s.ctx t.slot).ledger.seq? q).any fun sq => sq.gen == gen then s.pageCrc t.slot q g y p crc else s
  | .exportPage q g y p => s.pageCrc t.slot q g y p crc
  | .importPage q g y p => if live then s.pageCrc t.slot q g y p crc else s
  | _ => s

/-- Frees a sequence: frames, blocks, reservation, id (R279). -/
def State.freeSeq (s : State) (k : Fin 16) (q : Nat) : State :=
  let l := (s.ctx k).ledger
  s.setLedger k { l with seqs := l.seqs.filter fun x => x.id != q }

/-- The ledger task of one page of an import or an export (R290). -/
def Ctx.pageTask (c : Ctx) (k : Fin 16) (r : Rates) (node : Nat) (p : Page) (service : Service) : Ctx :=
  let step := c.nextStep - 1
  let (n, c) := c.nextLedgerTask node step
  c.addAux
    { slot := k, step := step, template := c.lastTemplate.getD 0, node := node, fanout := n, kind := .mover, be := true, rank := 15
      floating := true, mask := c.lcids, span := 2 + ceilDiv (c.ledger.pageBytes p) r.r2, energy := c.ledgerEnergy
      epoch := epochOf step, service := service }

/-- Pages of a sequence in ascending group, layer and page. -/
def Seq.ordered (q : Seq) : List Page :=
  q.pages.mergeSort fun a b =>
    a.group < b.group || (a.group == b.group && (a.layer < b.layer || (a.layer == b.layer && a.page ≤ b.page)))

/-- Begins the export of a sequence whose last step is over (R279). -/
def State.beginExport (s : State) (k : Fin 16) (q : Seq) : State :=
  let r := s.rates k
  let c := q.ordered.foldl (fun c p => c.pageTask k r 0xFFFD p (.exportPage q.id p.group p.layer p.page)) (s.ctx k)
  let s := s.setCtx k c
  s.setLedger k (c.ledger.modSeq q.id fun x => { x with state := 3, pendingTasks := q.pages.length })

/-- The export record of a finished export (R279, R456). -/
def State.exportDone (s : State) (k : Fin 16) (q : Seq) : State :=
  let c := s.ctx k
  let (base, stride) := q.export_.getD (0, 0)
  let first := base + q.position * stride
  let s := s.setLedger k (c.ledger.modSeq q.id fun x =>
    { x with pages := ((List.range q.pages.length).zip q.ordered).map fun i =>
        { i.2 with tier := 3, frame := 0xFFFFFFFF, address := first + i.1 * c.ledger.frameBytes } })
  (s.pushRec { kind := 6, cxid := c.cxid, ctx := some k, due := s.nextTick
               detail := .exported q.globalId q.pages.length c.ledger.frameBytes first }).freeSeq k q.id

/-- Frees or exports the leaving sequences whose steps are over (R279). -/
def State.finishLeaves (s : State) (k : Fin 16) : State :=
  let c := s.ctx k
  let isOver := c.ledger.seqs.filter fun q => q.state == 2 && !(c.steps.any fun r => !r.cancelled && decide (r.step ≤ q.lastStep))
    && decide (q.lastStep < c.nextStep)
  isOver.foldl (fun s q =>
    match q.export_ with
    | none => s.freeSeq k q.id
    | some _ => if q.pages.isEmpty then s.exportDone k q else s.beginExport k q) s

/-- An export task ends normally (R279). -/
def State.exportEnd (s : State) (k : Fin 16) (q : Nat) : State :=
  let s := s.setLedger k ((s.ctx k).ledger.modSeq q fun x => { x with pendingTasks := x.pendingTasks - 1 })
  match (s.ctx k).ledger.seq? q with
  | some x => if x.pendingTasks = 0 then s.exportDone k x else s
  | none => s

/-- An import is complete: its record (R280). -/
def State.importDone (s : State) (k : Fin 16) (q : Seq) : State :=
  match q.importSub with
  | none => s
  | some (h, taken) =>
    (s.result h 9 taken 0 (some k) s.nextTick).setLedger k ((s.ctx k).ledger.modSeq q.id fun x => { x with importSub := none })

/-- An import task ends normally (R280). -/
def State.importEnd (s : State) (k : Fin 16) (q : Nat) : State :=
  let s := s.setLedger k ((s.ctx k).ledger.modSeq q fun x => { x with pendingTasks := x.pendingTasks - 1 })
  match (s.ctx k).ledger.seq? q with
  | some x => if x.pendingTasks = 0 then s.importDone k x else s
  | none => s

/-- Begins an import (R280): reservation, id, frames, tasks; a refusal code where the reservation does not fit. -/
def State.beginImport (s : State) (k : Fin 16) (h : SubHdr) (taken : Nat) (r : ImportReq) : State × Option Nat :=
  let c := s.ctx k
  let l := c.ledger
  match if (l.global? r.globalId).isSome then some 0x45 else l.joinRefusal { globalId := r.globalId, maxTokens := r.maxTokens } with
  | some e => (s, some e)
  | none =>
    let l := l.enter { globalId := r.globalId, state := 0, imported := true, maxTokens := r.maxTokens, tokens := r.tokens,
                       hostAddr := r.hostAddr, importSub := some (h, taken) }
    match l.global? r.globalId with
    | none => (s, some 0x40)
    | some q =>
      let targets := s.moveTargets k
      let l := l.layers.foldl (fun l gy =>
        (pagesOf l.pageTokens 0 r.tokens).foldl (fun l p => l.addPage targets q.id gy.1 gy.2 p (tokensIn l.pageTokens p r.tokens)) l) l
      let n := ((l.seq? q.id).map (·.pages.length)).getD 0
      let l := l.modSeq q.id fun x => { x with pendingTasks := n }
      let s := s.setLedger k l
      let pages := ((l.seq? q.id).map (·.ordered)).getD []
      let rt := s.rates k
      let c := pages.foldl (fun c p => c.pageTask k rt 0xFFFA p (.importPage q.id p.group p.layer p.page)) (s.ctx k)
      let s := s.setCtx k c
      (if n = 0 then (match c.ledger.seq? q.id with | some x => s.importDone k x | none => s) else s, none)

/-! ### Descriptors (R282, R288) -/

/-- The sequence descriptor of an instance of source 6 (R282). -/
def Ctx.seqDescriptor (c : Ctx) (step fanout : Nat) : Bytes :=
  match (c.run? step).bind fun r => r.batch[fanout]? with
  | none => zeros 64
  | some b =>
    leBytes 4 b.globalId ++ leBytes 2 b.seq ++ leBytes 1 (b2n b.first + 2 * b2n b.last) ++ zeros 1 ++ leBytes 4 b.before
      ++ leBytes 4 b.tokens ++ leBytes 8 (c.ledger.area + b.seq * 64) ++ zeros 8 ++ leBytes 2 (epochOf step) ++ zeros 30

/-- The block descriptor of an instance of source 7 (R288). -/
def Ctx.stageDescriptor (c : Ctx) (step n fanout : Nat) : Bytes :=
  match c.ledger.stages.find? fun g => g.step == step && g.node == n && g.index == fanout with
  | none => zeros 64
  | some g =>
    let d := c.node (((c.run? step).map (·.template)).getD 0) n
    let gid := ((c.ledger.seq? g.seq).map (·.globalId)).getD 0
    leBytes 4 gid ++ leBytes 2 g.seq ++ leBytes 2 g.block ++ leBytes 4 (g.firstPage * c.ledger.pageTokens) ++ leBytes 4 g.tokens
      ++ leBytes 2 g.firstPage ++ leBytes 2 g.pages ++ leBytes 4 g.position ++ leBytes 4 g.bytes ++ leBytes 1 (NodeP.region d)
      ++ leBytes 1 (NodeP.group d) ++ leBytes 2 (NodeP.layer d) ++ leBytes 2 (epochOf step) ++ zeros 30

/-! ### Argument blocks of service tasks (R30, R31) -/

/-- A move entry (R31). -/
def moveEntry (source dest length counter flags increment : Nat) : Bytes :=
  leBytes 8 source ++ leBytes 8 dest ++ leBytes 4 length ++ leBytes 3 counter ++ leBytes 1 flags ++ leBytes 4 increment ++ zeros 4

/-- A mover header (R30): entries alternate between both movers. -/
def moverHeader (entries epoch : Nat) : Bytes := leBytes 2 entries ++ zeros 2 ++ leBytes 2 epoch ++ zeros 10

/-- The move entries of a ledger, serve or dump task (R290, R233, R435). -/
def Ctx.serviceEntries (c : Ctx) (t : Task) : List Bytes :=
  let l := c.ledger
  let page (q g y p : Nat) : Page := (((l.seq? q).bind fun s => s.pages.find? fun x => x.group == g && x.layer == y && x.page == p)).getD {}
  match t.service with
  | .staging n i =>
    match l.stages.find? fun g => g.step == t.step && g.node == n && g.index == i with
    | none => []
    | some g =>
      let d := c.node t.template n
      (List.range g.pages).map fun j =>
        let x := page g.seq (NodeP.group d) (NodeP.layer d) (g.firstPage + j)
        let len := min (l.pageTokens * l.tokenBytes x.group) (l.pageBytes x)
        moveEntry x.address (NodeP.region d) len 0 (1 + 4 * b2n x.crcValid) 0
  | .move q _ g y p _ f =>
    let x := page q g y p
    [moveEntry x.address (frameAddress l.frameBytes l.pools f) (l.pageBytes x) 0 (4 * b2n x.crcValid) 0]
  | .exportPage q g y p =>
    let x := page q g y p
    match l.seq? q with
    | none => []
    | some sq =>
      let (base, stride) := sq.export_.getD (0, 0)
      let i := (sq.ordered.findIdx? fun z => z == x).getD 0
      [moveEntry x.address (base + sq.position * stride + i * l.frameBytes) (l.pageBytes x) 0 0 0]
  | .importPage q g y p =>
    let x := page q g y p
    match l.seq? q with
    | none => []
    | some sq =>
      let i := (sq.ordered.findIdx? fun z => z == x).getD 0
      [moveEntry (sq.hostAddr + i * l.frameBytes) x.address (l.pageBytes x) 0 0 0]
  | .serve _ offset length members =>
    match members with
    | [] => []
    | m :: _ => [moveEntry offset (m.2.2.2 % 2 ^ 32 + m.2.1 % 64 * 2 ^ 32 + m.2.2.1 % 16 * 2 ^ 38) length 0 0 0]
  | .dump name dest =>
    match c.image.symbols.find? fun x => x.nameId == name with
    | none => []
    | some x =>
      let at_ := x.address + t.step % max x.stepRing 1 * x.stepStride * 64
      [moveEntry (if x.external then at_ else (Config.spadBase x.lcid).toNat + at_) (dest + 128) x.length 0 0 0]
  | _ => []

/-- The first 256 B of a service task's argument block. -/
def Ctx.serviceHead (c : Ctx) (t : Task) : Bytes :=
  let es := c.serviceEntries t
  slice (moverHeader es.length t.epoch ++ es.flatten) 0 256

/-! ### Cancellation (R300) -/

/-- Whether a stage of a cancelled step is given up: its task has neither ended nor begun (R300). -/
def Stage.givenUp (g : Stage) (steps : List Nat) (started : List (Nat × Nat × Nat)) : Bool :=
  steps.contains g.step && !g.ended && !started.contains (g.step, g.node, g.index)

/-- Drops the plans of cancelled steps whose tasks have not begun, with the places planned for them; moves whose task was discarded free
their target frame (R300). -/
def Ctx.cancelLedger (c : Ctx) (steps : List Nat) (started : List (Nat × Nat × Nat)) (movesLeft : List (Nat × Nat × Nat × Nat)) : Ctx :=
  let l := c.ledger
  let gone := l.stages.filter fun g => g.givenUp steps started
  { c with ledger := { l with
      stages := l.stages.filter fun g => !g.givenUp steps started
      positions := gone.foldr (fun g ps =>
        let (lcid, region) := c.stagePlace g
        (lcid, region, g.position) :: ps.filter fun p => !(p.1 == lcid && p.2.1 == region)) l.positions
      seqs := l.seqs.map fun q => { q with pages := q.pages.map fun p =>
        { p with moving := p.moving && movesLeft.contains (q.id, p.group, p.layer, p.page) } } } }

/-- Once the last started task of cancelled steps has ended, their staging regions hold nothing of them: the tail is at the head (R300). -/
def Ctx.dropStages (c : Ctx) : Ctx :=
  if c.steps.any (·.cancelled) then c
  else { c with ledger := { c.ledger with stages := c.ledger.stages.filter fun g => c.steps.any fun r => r.step == g.step } }

end Sys2Proof.Machine
end

