-- ==== Sys2Proof/Machine/Admission.lean ====
section
/-! DEFINITION. The admission estimate (R313–R315): a member's summary of its templates, the estimate of a step's length
for a proposed batch, and the record tick with its guard. -/

namespace Sys2Proof.Machine

/-! ### A member's summary -/

/-- Bytes of all slots of the slot groups of a layer (R313 step 4). -/
def Ctx.layerSlotBytes (c : Ctx) (layer : Nat) : Nat :=
  let xs := (c.layerExperts layer).filter fun x => x.exec == 0
  let groups := (xs.map fun x => (x.groupLcid, x.base, x.slotCount * x.slotBytes)).eraseDups
  (groups.map fun g => g.2.2).sum

/-- The layer a node's routed work belongs to. -/
def routedLayer (d : NodeDesc) : Nat :=
  if d.fanoutSource = 3 ∨ d.fanoutSource = 4 ∨ d.fanoutSource = 5 then d.routeLayer else d.layer

/-- The summary of a node (R313). -/
def Ctx.nodeSummary (c : Ctx) (edges : List (Nat × Nat)) (n : Nat) (d : NodeDesc) : NodeSummary :=
  { span := d.span
    width := if d.floating then (bitList 64 d.placement.toNat).length else 1
    energy := d.energy
    governed := d.kind != .control
    source := d.fanoutSource
    fanoutMax := d.fanoutMax
    fanoutConst := d.fanoutConst
    preds := (edges.filter fun e => e.2 == n).map (·.1)
    seqBytes := if d.fanoutSource = 7 then c.ledger.tokenBytes (NodeP.group d) else 0
    blockLog2 := if d.fanoutSource = 7 then NodeP.blockLog2 d else 0
    guard := if d.fanoutSource = 7 then NodeP.guard d else 0
    fetchBytes := if d.waitMask.getLsbD 26 then some (c.layerSlotBytes (routedLayer d)) else none }

/-- The admission summary of a member (R313). -/
def State.summary (s : State) (k : Fin 16) : MemberSummary :=
  let c := s.ctx k
  let ts := c.image.templates
  { templates := ((List.range ts.length).zip ts).map fun t =>
      let edges := c.edges t.1
      { stepTemplate := t.2.stepTemplate
        nodes := ((List.range t.2.nodes.length).zip t.2.nodes).map fun n => c.nodeSummary edges n.1 n.2 }
    pageTokens := c.ledger.pageTokens
    cores := c.cores.length
    share := c.share
    stepsInFlight := c.image.stepsInFlight
    horizon := c.horizon
    slotsPerTick := s.cfg.slotsPerTick
    tierMask := (if c.ledger.tierFrames 0 > 0 then 1 else 0) + (if c.ledger.tierFrames 1 > 0 then 2 else 0)
      + (if c.ledger.tierFrames 2 > 0 then 4 else 0) }

end Sys2Proof.Machine

namespace Sys2Proof

open Sys2Proof.Machine

/-! ### The estimate -/

/-- The rates a member reports: b, r1 and r2 (R349). -/
structure MemberRates where
  b : Nat := 1
  r1 : Nat := 1
  r2 : Nat := 1

/-- r_min: the lowest rate among the tiers with frames (R313 step 3). -/
def MemberSummary.rMin (m : MemberSummary) (r : MemberRates) : Nat :=
  let rs := (if m.tierMask.testBit 0 then [524288] else []) ++ (if m.tierMask.testBit 1 then [r.r1] else [])
    ++ (if m.tierMask.testBit 2 then [r.r2] else [])
  rs.foldl min (rs.headD 1)

/-- Pages of each block of a sequence taken at its max_tokens (R287, R313). -/
def blockPages (pageTokens log2 maxTokens : Nat) : List Nat :=
  let pages := ceilDiv maxTokens pageTokens
  (List.range (ceilDiv pages (2 ^ log2))).map fun j => min (2 ^ log2) (pages - j * 2 ^ log2)

/-- Blocks of a source-7 node for a batch, as the pages of each. -/
def MemberSummary.blocks (m : MemberSummary) (n : NodeSummary) (batch : List Nat) : List Nat :=
  batch.flatMap (blockPages m.pageTokens n.blockLog2)

/-- The count N̂(n) (R313 step 1). -/
def MemberSummary.count (m : MemberSummary) (n : NodeSummary) (batch : List Nat) : Nat :=
  match n.source with
  | 0 => 1
  | 1 => n.fanoutConst
  | 6 => batch.length
  | 7 => (m.blocks n batch).length
  | _ => n.fanoutMax

/-- The cost c(n) (R313 step 2). -/
def MemberSummary.cost (m : MemberSummary) (n : NodeSummary) (batch : List Nat) : Nat :=
  n.span * ceilDiv (m.count n batch) (max n.width 1) * (if m.stepsInFlight = 2 then 2 else 1) + 1

/-- The planned staging spans of a source-7 node (R313 step 3). -/
def MemberSummary.staging (m : MemberSummary) (r : MemberRates) (n : NodeSummary) (batch : List Nat) : Nat :=
  if n.source = 7 then
    ((m.blocks n batch).map fun p => 2 + ceilDiv (p * m.pageTokens * n.seqBytes) (m.rMin r)).sum
  else 0

/-- The start bound of a node (R313 steps 3 and 4). -/
def MemberSummary.bound (m : MemberSummary) (r : MemberRates) (n : NodeSummary) (batch : List Nat) : Nat :=
  max (if n.source = 7 then m.staging r n batch + n.guard else 0)
    (match n.fetchBytes with
     | some bytes => 2 * m.horizon * m.slotsPerTick + 2 + ceilDiv bytes (max r.b 1)
     | none => 0)

/-- One round of step 5: every node's finish from its predecessors' finishes. -/
def MemberSummary.round (m : MemberSummary) (r : MemberRates) (ns : List NodeSummary) (batch finish : List Nat) : List Nat :=
  ns.map fun n =>
    (n.preds.map fun p => finish.getD p 0).foldl max (m.bound r n batch) + m.cost n batch

/-- The estimate Λ of a template in slots (R313). -/
def MemberSummary.estimate (m : MemberSummary) (r : MemberRates) (t : TemplateSummary) (batch : List Nat) : Nat :=
  let ns := t.nodes
  let finish := iterate (m.round r ns batch) ns.length (List.replicate ns.length 0)
  let p := finish.foldl max 0
  let w := (ns.map fun n => n.span * m.count n batch + m.staging r n batch).sum
  let top := ((ns.filter (·.governed)).map (·.energy)).foldl max 0
  let ke := if top = 0 then m.cores else min m.cores (m.share / top)
  p + ceilDiv w (max ke 1)

/-- The record tick of an estimate and its guarded form (R314). -/
def recordTick (slotsPerTick estimate : Nat) : Nat := estimate / max slotsPerTick 1 + 1
def guardedTick (marginPct t : Nat) : Nat := ceilDiv (t * (100 + marginPct)) 100

/-- The largest guarded record tick of a member over the templates R315 names. -/
def MemberSummary.guarded (m : MemberSummary) (r : MemberRates) (next marginPct : Nat) (batch : List Nat) : Nat :=
  let ts := (List.range m.templates.length).zip m.templates
  ((ts.filter fun t => t.1 == next || t.2.stepTemplate).map fun t =>
    guardedTick marginPct (recordTick m.slotsPerTick (m.estimate r t.2 batch))).foldl max 0

end Sys2Proof
end

