-- ==== Sys2Proof/Machine/Channels.lean ====
section
/-! DEFINITION. Message channels (R183–R201): ring state, the commands of R187, acceptance, writing, delivery and
release of messages. -/

namespace Sys2Proof.Machine

/-! ### Rings -/

def Ring.size (r : Ring) : Nat := 2 ^ r.decl.sizeLog2

/-- Room for further messages (R193). -/
def Ring.room (r : Ring) : Nat := r.size - (r.reserve + 2 ^ 32 - r.release) % 2 ^ 32

/-- The header of a message (R186). -/
def msgHeader (sender units seq epoch tag : Nat) : Nat :=
  sender % 64 + (units - 1) % 8 * 2 ^ 8 + seq % 2 ^ 16 * 2 ^ 16 + epoch % 2 ^ 16 * 2 ^ 32 + tag % 256 * 2 ^ 48

/-- The bytes of a message: header, then payload, to whole units (R186). -/
def msgBytes (header units : Nat) (payload : Bytes) : Bytes := leBytes 8 header ++ slice payload 0 (units * 64 - 8)

/-- Opening (R190): closed first if open; the epoch advances, pointers and sequence are zero. -/
def Ring.opened (r : Ring) (persist : Bool) : Ring :=
  { r with
    isOpen := true, persist := persist, epoch := (r.epoch + 1) % 2 ^ 16
    reserve := 0, write := 0, delivery := 0, release := 0, seq := 0, msgs := [] }

def Ring.closed (r : Ring) : Ring := { r with isOpen := false }

/-- Acceptance of a message of `units` units (R193). -/
def Ring.accept (r : Ring) (sender units tag : Nat) : Ring :=
  { r with
    reserve := (r.reserve + units * 64) % 2 ^ 32
    seq := (r.seq + 1) % 2 ^ 16
    msgs := r.msgs ++ [{ units := units, header := msgHeader sender units r.seq r.epoch tag }] }

/-- Marks the oldest unwritten message written at an ac. -/
def markWritten (ac : Nat) : List RingMsg → List RingMsg
  | [] => []
  | m :: ms => if m.written then m :: markWritten ac ms else { m with written := true, writtenAt := ac } :: ms

/-- The write pointer passes a whole message (R195, R196). -/
def Ring.wrote (r : Ring) (ac units : Nat) : Ring :=
  { r with write := (r.write + units * 64) % 2 ^ 32, msgs := markWritten ac r.msgs }

/-- The oldest message not delivered, if it has been written (R197). -/
def Ring.ready (r : Ring) : Option RingMsg :=
  match r.msgs.find? fun m => !m.delivered with
  | some m => if m.written then some m else none
  | none => none

def markDelivered : List RingMsg → List RingMsg
  | [] => []
  | m :: ms => if m.delivered then m :: markDelivered ms else { m with delivered := true } :: ms

/-- Delivery of the oldest undelivered message (R197). -/
def Ring.deliver (r : Ring) (units : Nat) : Ring :=
  { r with delivery := (r.delivery + units * 64) % 2 ^ 32, msgs := markDelivered r.msgs }

/-- Whether a message is delivered and not released. -/
def Ring.releasable (r : Ring) : Bool := match r.msgs with | m :: _ => m.delivered | [] => false

/-- Release of the oldest delivered message (R198). -/
def Ring.released (r : Ring) : Ring :=
  match r.msgs with
  | m :: ms => if m.delivered then { r with release := (r.release + m.units * 64) % 2 ^ 32, msgs := ms } else r
  | [] => r

def Ctx.ring? (c : Ctx) (n : Nat) : Option Ring := c.rings.find? fun r => r.decl.ring == n

def Ctx.setRing (c : Ctx) (n : Nat) (v : Ring) : Ctx :=
  { c with rings := c.rings.map fun r => if r.decl.ring == n then v else r }

def Ctx.modRing (c : Ctx) (n : Nat) (f : Ring → Ring) : Ctx :=
  { c with rings := c.rings.map fun r => if r.decl.ring == n then f r else r }

/-- Whether a task's end closes a ring: open without persist, with the core as receiver (R191). -/
def Ring.closesWith (r : Ring) (lcid : Nat) : Bool := r.isOpen && !r.persist && r.decl.receiver == lcid

/-- Closes the rings a task's end closes. -/
def Ctx.closeRings (c : Ctx) (lcid : Nat) : Ctx := { c with rings := c.rings.map fun r => if r.closesWith lcid then r.closed else r }

/-! ### Commands of the receiver -/

/-- Whether a ring is declared with the core as its receiver. -/
def Ctx.owns (c : Ctx) (lcid n : Nat) : Bool := match c.ring? n with | some r => r.decl.receiver == lcid | none => false

/-- What R188 asks of a receiver's command beyond its rings: at most eight of them, or a message to release. -/
def ChanKind.allowed (k : ChanKind) (c : Ctx) (rings : List Nat) : Bool :=
  match k with
  | .recv _ _ _ => decide (rings.length ≤ 8)
  | .release => match c.ring? (rings.headD 0) with | some r => r.releasable | none => false
  | _ => true

/-- A receiver's command is performed: refused under R188 or effective 1 ac later. -/
def State.performReceiver (s : State) (l : Fin 64) (t : Task) (code : Nat) (rings : List Nat) (kind : ChanKind) : State :=
  let c := s.ctx t.slot
  if rings.isEmpty || rings.any (fun n => !c.owns l.val n) || !kind.allowed c rings then s.engineFault l code (rings.headD 0)
  else { s with chanOps := s.chanOps ++ [{ lcid := l.val, slot := t.slot, ring := rings.headD 0, kind := kind, due := s.time.ac + 1 }] }

/-- A receiver's command, behind a stalled SEND where there is one (R194). -/
def State.receiverCommand (s : State) (l : Fin 64) (code : Nat) (rings : List Nat) (kind : ChanKind) : State :=
  match s.issues l with
  | none => s
  | some t => if (s.core l).laneStalled then s.laneWaits l (.receiver code rings kind) else s.performReceiver l t code rings kind

/-- RING_OPEN (R187, R190). -/
def execRingOpen (lcid : Fin 64) (ring : BitVec 10) (persist : Bool) (s : State) : Host.Outcome State Fault Refusal :=
  .next (s.receiverCommand lcid 8 [ring.toNat] (.open_ persist))

/-- RING_CLOSE (R187, R191). -/
def execRingClose (lcid : Fin 64) (ring : BitVec 10) (s : State) : Host.Outcome State Fault Refusal :=
  .next (s.receiverCommand lcid 9 [ring.toNat] .close)

/-- RECV (R187, R188, R197). -/
def execRecv (lcid : Fin 64) (rings : List Nat) (rotation poll : Bool) (s : State) : Host.Outcome State Fault Refusal :=
  .next (s.receiverCommand lcid 0xB rings (.recv rings rotation poll))

/-- RELEASE (R187, R188, R198). -/
def execRelease (lcid : Fin 64) (ring : BitVec 10) (s : State) : Host.Outcome State Fault Refusal :=
  .next (s.receiverCommand lcid 0xC [ring.toNat] .release)

/-! ### Receiving -/

/-- The list position a RECV chooses, searching from a first position (R197). -/
def Ctx.choose (c : Ctx) (rings : List Nat) (start : Nat) : Option Nat :=
  let n := rings.length
  ((List.range n).map fun i => (start + i) % n).find? fun i =>
    match c.ring? (rings.getD i 0) with
    | some r => r.ready.isSome
    | none => false

/-- Delivers a message to a waiting or polling RECV, if a listed ring has one. A rotation-mode position is wrapped by the length of the
list that gave it, and again by that of the list it is used with (DESIGN CHOICE, log entry 132). -/
def State.tryRecv (s : State) (lcid : Nat) (k : Fin 16) (rings : List Nat) (rotation : Bool) : Option State :=
  let c := s.ctx k
  let start := if rotation then (s.core (lcidOf lcid)).rotNext else 0
  match c.choose rings start with
  | none => none
  | some i =>
    let n := rings.getD i 0
    match c.ring? n with
    | none => none
    | some r =>
      match r.ready with
      | none => none
      | some m =>
        let s := s.setCtx k (c.setRing n (r.deliver m.units))
        let s := s.modCore (lcidOf lcid) fun q =>
          { q with recvWait := none, rotNext := if rotation then (i + 1) % rings.length else q.rotNext }
        some (s.giveResult lcid 4 (.received n (r.decl.base + r.delivery % r.size) m.header))

/-- A SEND stalled on a ring that closes is discarded, and its sender receives CLOSED (R191). -/
def State.discardStalled (s : State) (k : Fin 16) (closing : Nat → Bool) : State :=
  (s.ctx k).cores.foldl (fun s l =>
    match (s.core (lcidOf l)).sendWait, (s.core (lcidOf l)).serving with
    | some w, some e =>
      if e.task.slot = k ∧ closing w.ring then (s.modCore (lcidOf l) fun q => { q with sendWait := none }).giveResult l 4 .closed else s
    | _, _ => s) s

/-- A ring gains room: a SEND that waits for it is tested in this ac (R193). -/
def State.retest (s : State) (k : Fin 16) (ring : Nat) : State :=
  (s.ctx k).cores.foldl (fun s l => s.modCore (lcidOf l) fun q =>
    { q with sendWait := q.sendWait.map fun w => if w.ring = ring ∧ w.test.isNone then { w with test := some s.time.ac } else w }) s

/-- The effect of a channel command (R190, R191, R193, R197, R198). -/
def State.chanEffect (s : State) (o : ChanOp) : State :=
  match o.kind with
  | .open_ p =>
    let s := (s.discardStalled o.slot (· == o.ring)).modCtx o.slot (·.modRing o.ring (·.opened p))
    s.giveResult o.lcid 4 (.epoch ((((s.ctx o.slot).ring? o.ring).map (·.epoch)).getD 0))
  | .close => (s.discardStalled o.slot (· == o.ring)).modCtx o.slot (·.modRing o.ring (·.closed))
  | .release => (s.modCtx o.slot (·.modRing o.ring (·.released))).retest o.slot o.ring
  | .recv rings rotation poll =>
    match s.tryRecv o.lcid o.slot rings rotation with
    | some s' => s'
    | none =>
      if poll then s.giveResult o.lcid 4 .empty
      else s.modCore (lcidOf o.lcid) fun q =>
        { q with recvWait := some { rings := rings, rotation := rotation, since := s.time.ac } }

/-- Performs the channel commands effective in this ac. -/
def State.chanEffects (s : State) : State :=
  let due := s.chanOps.filter fun o => o.due ≤ s.time.ac
  let s := { s with chanOps := s.chanOps.filter fun o => !(o.due ≤ s.time.ac) }
  due.foldl (·.chanEffect ·) s

/-- A waiting RECV is released in the ac after a listed ring gains a message (R197). -/
def State.recvRelease (s : State) (l : Fin 64) : State :=
  match (s.core l).recvWait, (s.core l).serving with
  | some w, some e =>
    let c := s.ctx e.task.slot
    let gained := w.rings.any fun n =>
      match (c.ring? n).bind (·.ready) with
      | some m => decide (m.writtenAt < s.time.ac)
      | none => false
    if gained && !(s.core l).halted then (s.tryRecv l.val e.task.slot w.rings w.rotation).getD s else s
  | _, _ => s

def execRecvRelease (lcid : Fin 64) (s : State) : Host.Outcome State Fault Refusal := .next (s.recvRelease lcid)

/-! ### Sending -/

/-- Order of messages accepted in one ac (R195). -/
def WriteJob.before (a b : WriteJob) : Bool :=
  a.accepted < b.accepted ||
    (a.accepted == b.accepted &&
      (a.slot.val < b.slot.val || (a.slot == b.slot && (a.ring < b.ring || (a.ring == b.ring && a.lcid ≤ b.lcid)))))

/-- Gives each message of a cluster the ac of its write pointer advance: one unit per ac, in order (R195). -/
def schedule (prev : Nat) : List WriteJob → List WriteJob
  | [] => []
  | j :: js =>
    let done := max j.accepted (prev - 1) + j.units + 1
    { j with done := done } :: schedule done js

/-- Adds a message to those being written. -/
def addWrite (jobs : List WriteJob) (j : WriteJob) : List WriteJob :=
  let mine := jobs.filter fun q => q.cluster == j.cluster
  let rest := jobs.filter fun q => q.cluster != j.cluster
  let settled := mine.filter fun q => q.accepted != j.accepted
  let fresh := (mine.filter fun q => q.accepted == j.accepted) ++ [j]
  let prev := (settled.getLast?.map (·.done)).getD 0
  rest ++ settled ++ schedule prev (fresh.mergeSort fun a b => a.before b)

/-- Puts a result of ac `ac` on a core's status lane, 4 ac after it (R187). -/
def State.sendResult (s : State) (l : Fin 64) (ac : Nat) (r : ResultBody) : State :=
  { s.modCore l fun q => { q with sendWait := none } with results := s.results ++ [⟨l.val, ac + 4, r⟩] }

/-- What a SEND tested in ac `ac` meets: CLOSED, acceptance, or a wait for room (R191–R193). -/
def State.trySend (s : State) (l : Fin 64) (k : Fin 16) (ac : Nat) (w : SendWait) : State :=
  match (s.ctx k).ring? w.ring with
  | none => s
  | some r =>
    if !r.isOpen || (w.check && r.epoch != w.epoch) then s.sendResult l ac .closed
    else if r.room ≥ w.units * 64 then
      let s := s.modCtx k (·.setRing w.ring (r.accept l.val w.units w.tag))
      let j : WriteJob :=
        { cluster := s.unitOf r.decl.receiver, slot := k, ring := w.ring, lcid := l.val, units := w.units
          pointer := r.reserve, header := msgHeader l.val w.units r.seq r.epoch w.tag, payload := w.payload
          epoch := r.epoch, accepted := ac, done := 0, receiver := r.decl.receiver, base := r.decl.base, size := r.size }
      State.sendResult { s with writes := addWrite s.writes j } l ac (.sent r.epoch r.seq)
    else s.modCore l fun q => { q with sendWait := some { w with test := none } }

/-- The test of one core's SEND, if one is due; that of a halted core is issued again at its resume (R201). -/
def State.sendTest (s : State) (l : Fin 64) : State :=
  match (s.core l).sendWait, (s.core l).serving with
  | some w, some e => (match w.test with | some ac => if (s.core l).halted then s else s.trySend l e.task.slot ac w | none => s)
  | _, _ => s

/-- The tests of the ac just past, in ascending LCID, so that SENDs accepted in one ac take room and sequence in that order (R193). -/
def State.sendTests (s : State) : State := allCores.foldl (·.sendTest ·) s

/-- A SEND is performed (R187, R188, R192, R193): its first test is that of this ac. -/
def State.performSend (s : State) (l : Fin 64) (t : Task) (w : SendWait) : State :=
  if w.units = 0 ∨ w.units > 8 ∨ ((s.ctx t.slot).ring? w.ring).isNone then s.engineFault l 0xA w.ring
  else s.modCore l fun q => { q with sendWait := some { w with at_ := s.time.ac, test := some s.time.ac } }

/-- SEND, behind one that is stalled where there is one (R194). -/
def State.send (s : State) (l : Fin 64) (w : SendWait) : State :=
  match s.issues l with
  | none => s
  | some t => if (s.core l).laneStalled then s.laneWaits l (.send w) else s.performSend l t w

/-- A marker is performed: effective 8 ac after acceptance (R428). -/
def State.performMark (s : State) (l : Fin 64) (t : Task) (value : Nat) (trigger : Bool) : State :=
  { s with cntOps := s.cntOps ++
      [{ lcid := l.val, slot := t.slot, vid := 0, kind := .mark value trigger t.layer t.operatorId, due := some (s.time.ac + 8), epoch := t.epoch }] }

/-- A command of the lane, in its turn: it waits again while a SEND before it is stalled. -/
def State.lanePerform (s : State) (l : Fin 64) (c : LaneCmd) : State :=
  match s.issues l with
  | none => s
  | some t =>
    if (s.core l).laneStalled then s.laneWaits l c
    else match c with
      | .counter code vid translate zero kind after movers => s.performCounter l t code vid translate zero kind after movers
      | .receiver code rings kind => s.performReceiver l t code rings kind
      | .send w => s.performSend l t w
      | .mark v trigger => s.performMark l t v trigger

/-- The lane of a core goes on once its SEND is no longer stalled (R194). -/
def State.laneAc (s : State) (l : Fin 64) : State :=
  let q := s.core l
  if q.laneQueue.isEmpty || q.sendWait.isSome || q.halted then s
  else q.laneQueue.foldl (·.lanePerform l ·) (s.setCore l { q with laneQueue := [] })

def execSend (lcid : Fin 64) (ring : BitVec 10) (units : Nat) (tag : BitVec 8) (check : Bool) (epoch : BitVec 16)
    (payload : Bytes) (s : State) : Host.Outcome State Fault Refusal :=
  .next (s.send lcid
    { ring := ring.toNat, units := units, tag := tag.toNat, check := check, epoch := epoch.toNat, payload := payload })

/-- A stalled SEND is tested again in this ac (R193, R194). -/
def State.sendAccept (s : State) (l : Fin 64) : State :=
  match (s.core l).sendWait with
  | some w => if (s.core l).halted then s else s.modCore l fun q => { q with sendWait := some { w with test := some s.time.ac } }
  | none => s

def execSendAccept (lcid : Fin 64) (s : State) : Host.Outcome State Fault Refusal := .next (s.sendAccept lcid)

/-! ### Writing -/

/-- Unit i of a message goes into its ring (R185, R195). -/
def WriteJob.unit (j : WriteJob) (i : Nat) (m : Memory) : Memory :=
  m.writeBytes (spadAddr j.receiver (j.base + (j.pointer + i * 64) % max j.size 1))
    (slice (msgBytes j.header j.units j.payload) (i * 64) 64)

/-- The unit of a message that is written in ac `ac`, in the `units` ac before its write pointer advance (R195). -/
def WriteJob.writeAc (j : WriteJob) (ac : Nat) (m : Memory) : Memory :=
  if j.done ≤ ac + j.units ∧ ac < j.done then j.unit (ac + j.units - j.done) m else m

/-- The message units of one ac: one for each cluster (R195). -/
def State.writesAc (s : State) : State :=
  if s.writes.isEmpty then s else { s with spad := s.writes.foldl (fun (m : Memory) j => j.writeAc s.time.ac m) s.spad }

/-- The message whose write pointer advance has come due in a cluster. -/
def State.dueWrite (s : State) (k : Fin 8) : Option WriteJob :=
  match s.writes.find? fun j => j.cluster == k with
  | some j => if j.done ≤ s.time.ac then some j else none
  | none => none

/-- The last unit of a message has been written and the write pointer advances, if the ring's opening is still the message's (R191,
R195, R196). -/
def State.messageWritten (s : State) (k : Fin 8) : State :=
  match s.dueWrite k with
  | none => s
  | some j =>
    let s := { s with writes := s.writes.erase j }
    match (s.ctx j.slot).ring? j.ring with
    | none => s
    | some r => if r.epoch = j.epoch then s.modCtx j.slot (·.setRing j.ring (r.wrote j.done j.units)) else s

def execMessageWritten (cluster : Fin 8) (s : State) : Host.Outcome State Fault Refusal := .next (s.messageWritten cluster)

end Sys2Proof.Machine
end

