-- ==== Sys2Proof/Machine/Confluence.lean ====
section
/-! DEFINITION. Confluence (R240–R265): accumulator words, pair records and wide words, the intake of a cluster's
unit, drains, exports, clears, remote partials and the scrub. -/

namespace Sys2Proof.Machine

/-! ### Elements -/

/-- The word of an element; zero where none is listed (R240). -/
def wordAt : List (Nat × BitVec 256) → Nat → BitVec 256
  | [], _ => 0
  | (k, v) :: m, i => if i = k then v else wordAt m i

/-- Writes a word, keeping ascending order and no zero word. -/
def putWord : List (Nat × BitVec 256) → Nat → BitVec 256 → List (Nat × BitVec 256)
  | [], i, v => if v = 0 then [] else [(i, v)]
  | (k, w) :: m, i, v =>
    if i < k then (if v = 0 then (k, w) :: m else (i, v) :: (k, w) :: m)
    else if i = k then (if v = 0 then m else (i, v) :: m)
    else (k, w) :: putWord m i v

def Ctx.region? (c : Ctx) (cluster : Nat) : Option Region := c.regions.find? fun r => r.cluster.val == cluster

def Ctx.element (c : Ctx) (cluster i : Nat) : BitVec 256 := ((c.region? cluster).map (wordAt ·.words i)).getD 0

def Ctx.setElement (c : Ctx) (cluster i : Nat) (v : BitVec 256) : Ctx :=
  { c with regions := c.regions.map fun r => if r.cluster.val == cluster then { r with words := putWord r.words i v } else r }

/-- Whether an epoch is that of a step in flight and not cancelled (R260). -/
def Ctx.epochLive (c : Ctx) (e : Nat) : Bool := c.steps.any fun r => !r.cancelled && epochOf r.step == e

/-! ### Pair records (R244) -/

def pairValue (r : BitVec 128) : Nat := bits r.toNat 31 0
def pairWeight (r : BitVec 128) : Nat := bits r.toNat 47 32
def pairCode (r : BitVec 128) : Nat := bits r.toNat 50 48
def pairUnit (r : BitVec 128) : Bool := r.getLsbD 51
def pairIndex (r : BitVec 128) : Nat := bits r.toNat 87 64
def pairRemote (r : BitVec 128) : Bool := r.getLsbD 88
def pairCluster (r : BitVec 128) : Nat := bits r.toNat 91 89
def pairInstance (r : BitVec 128) : Nat := bits r.toNat 127 96

/-- Whether the fields of a pair record are those R244 allows. -/
def pairWellFormed (r : BitVec 128) : Bool :=
  bits r.toNat 63 52 == 0 && bits r.toNat 95 92 == 0 && pairCode r ≤ 4
    && pairValue r < 2 ^ pairWidth (pairCode r)
    && (!pairUnit r || pairWeight r == 0)
    && (if pairRemote r then validInstance (pairInstance r) else pairCluster r == 0 && pairInstance r == 0)

/-- The value and the weight of a pair; a unit weight is exactly 1. -/
def pairOperands (r : BitVec 128) : FVal × FVal :=
  ((pairFormat (pairCode r)).decode (pairValue r), if pairUnit r then .num false 1 0 else bf16.decode (pairWeight r))

/-- Whether a core of a context may offer a pair (R245). -/
def State.pairValid (s : State) (k : Fin 16) (l : Nat) (r : BitVec 128) : Bool :=
  let c := s.ctx k
  let cl := s.clusterOf l
  pairWellFormed r && c.clusters.getLsbD cl &&
    (pairRemote r || match c.region? cl with | some g => decide (pairIndex r < g.elements) | none => false)

/-! ### Adding -/

/-- The actions of R248 for one element. -/
def State.rangeFault (s : State) (k : Fin 16) (cluster i : Nat) : State :=
  let s := s.modCtx k fun c => (c.setElement cluster i poisonWord).modStats fun t =>
    { t with
      rangeFault := true
      rangeCluster := if t.rangeFault then t.rangeCluster else cluster
      rangeElement := if t.rangeFault then t.rangeElement else i }
  s.faultCode k 0x13 cluster i

/-- Adds an integer contribution to an element (R247, R248, R250). -/
def State.addInt (s : State) (k : Fin 16) (cluster i : Nat) (p : Int) : State :=
  let a := (s.ctx k).element cluster i
  if a = poisonWord then s
  else match addWord a p with
    | some v => s.modCtx k (·.setElement cluster i v)
    | none => s.rangeFault k cluster i

/-- What the entries of one ac do to one element of a context: the exact sum of their contributions, whether one poisons it, whether
one is a range fault of its own (R246–R250). -/
structure AcSum where
  slot : Fin 16
  index : Nat
  total : Int := 0
  poison : Bool := false
  range : Bool := false

/-- Joins a change to the sums of an ac, at its element. -/
def joinSum (x : AcSum) : List AcSum → List AcSum
  | [] => [x]
  | y :: ys =>
    if y.slot = x.slot ∧ y.index = x.index then
      { y with total := y.total + x.total, poison := y.poison || x.poison, range := y.range || x.range } :: ys
    else y :: joinSum x ys

/-- What one entry contributes in exact mode (R246–R248, R257). -/
def entrySum (k : Fin 16) (index : Nat) : CflItem → AcSum
  | .pair r => match contribution (pairOperands r).1 (pairOperands r).2 with
    | .poison => { slot := k, index := index, poison := true }
    | .rangeFault => { slot := k, index := index, range := true }
    | .add p _ => { slot := k, index := index, total := p }
  | .wide w => if w = poisonWord then { slot := k, index := index, poison := true } else { slot := k, index := index, total := w.toInt }

/-- The statistics of one entry: a flushed product, a NaN or an infinity (R246, R247). -/
def Ctx.entryStats (c : Ctx) : CflItem → Ctx
  | .pair r => match contribution (pairOperands r).1 (pairOperands r).2 with
    | .poison => c.modStats fun t => { t with nonfinite := t.nonfinite + 1 }
    | .add _ true => c.modStats fun t => { t with flushed := t.flushed + 1 }
    | _ => c
  | .wide _ => c

/-- Writes back one element after the entries of an ac. -/
def State.writeBack (s : State) (cluster : Nat) (x : AcSum) : State :=
  if x.range then s.rangeFault x.slot cluster x.index
  else if x.poison then s.modCtx x.slot (·.setElement cluster x.index poisonWord)
  else s.addInt x.slot cluster x.index x.total

/-- Adds one pair in fast mode (R264). -/
def Ctx.addFast (c : Ctx) (cluster : Nat) (r : BitVec 128) : Ctx :=
  let i := pairIndex r
  let v := fastAdd (c.element cluster i).toNat (fastMul (pairOperands r).1 (pairOperands r).2)
  c.setElement cluster i (BitVec.ofNat 256 v)

/-- Adds the entries that enter one cluster's elements in one ac: in fast mode one after another (R264), in exact mode all of an element's
together before its word is written back (R250, R257). Fast mode counts neither flushed nor non-finite inputs (DESIGN CHOICE, log entry
154). -/
def State.addEntries (s : State) (cluster : Nat) (es : List IntakeEntry) : State :=
  let fast := es.filter fun e => (s.ctx e.slot).fast
  let exact := es.filter fun e => !(s.ctx e.slot).fast
  let s := fast.foldl (fun s e => match e.item with | .pair r => s.modCtx e.slot (·.addFast cluster r) | .wide _ => s) s
  let s := exact.foldl (fun s e => s.modCtx e.slot (·.entryStats e.item)) s
  (exact.foldl (fun sums e => joinSum (entrySum e.slot e.index e.item) sums) []).foldl (·.writeBack cluster ·) s

/-! ### Where elements lie (R240, R242, R264) -/

/-- The core and the byte offset at which an accumulator word of a region lies: word w in the (w mod m)-th of the region's m cores. -/
def Region.wordPlace (r : Region) (w : Nat) : Nat × Nat :=
  let m := max r.cores.length 1
  (r.cores.getD (w % m) 0, r.address + w / m * 32)

/-- The word that lies at a byte offset of a region's core, and the byte within it. -/
def Region.wordAtByte (r : Region) (lcid offset : Nat) : Option (Nat × Nat) :=
  if r.cores.contains lcid && decide (r.address ≤ offset ∧ offset < r.address + r.length) then
    let at_ := offset - r.address
    some (at_ / 32 * max r.cores.length 1 + r.cores.idxOf lcid, at_ % 32)
  else none

/-- A byte of a region: of an element's 256-bit word, stored little-endian; in fast mode of the eight binary32 elements of a word. -/
def Region.byteAt (r : Region) (fast : Bool) (lcid offset : Nat) : Option Byte :=
  (r.wordAtByte lcid offset).map fun (w, b) =>
    let v := if fast then (wordAt r.words (w * 8 + b / 4)).toNat / 2 ^ (b % 4 * 8) else (wordAt r.words w).toNat / 2 ^ (b * 8)
    BitVec.ofNat 8 v

/-- A byte of a core's scratchpad as a context's agents read it: of a confluence region where one lies there. -/
def State.spadByte (s : State) (k : Fin 16) (lcid offset : Nat) : Byte :=
  match (s.ctx k).regions.findSome? fun r => r.byteAt (s.ctx k).fast lcid offset with
  | some b => b
  | none => s.spad.read (spadAddr lcid offset)

def State.spadBytes (s : State) (k : Fin 16) (lcid offset n : Nat) : Bytes := (List.range n).map fun i => s.spadByte k lcid (offset + i)

/-! ### Remote entries -/

/-- Entries that hold a place of the remote part: all but those that wait for a credit (R515). -/
def CflUnit.remoteHeld (u : CflUnit) : List IntakeEntry := u.remotePart.filter (!·.waits)

/-- The weir of a remote part and the credits it grants (R149, R515). -/
def CflUnit.remoteWeir (u : CflUnit) : CflUnit :=
  let n := u.remoteHeld.length
  let stalled := weir 2048 1536 n u.remoteStalled
  { u with remoteStalled := stalled, remoteCredit := grant 2048 n u.remoteCredit stalled }

/-- The weir of a local part (R149, R263 step 3). -/
def CflUnit.localWeir (u : CflUnit) : CflUnit := { u with localStalled := weir 2048 1536 u.localPart.length u.localStalled }

/-- A remote entry reaches a cluster: the epoch test first, then the bounds (R259, R260, R264). An entry of the own instance keeps the
core that offered it and its place among that core's pairs (R253), and waits where the remote part grants it no credit (R515). -/
def State.remoteEntry (s : State) (k : Fin 16) (h : MsgHdr) (cluster index : Nat) (item : CflItem) (lcid : Nat := 0)
    (seq : Option Nat := none) : State :=
  let c := s.ctx k
  let wide := match item with | .wide _ => true | _ => false
  if !c.epochLive h.epoch then s.modCtx k (·.modStats fun t => { t with epochDiscards := t.epochDiscards + 1 })
  else
    let inside := match c.region? cluster with | some g => decide (index < g.elements) | none => false
    if !inside || (wide && c.fast) then s.faultCode k 0x0F (0x100 + cluster % 8) index
    else
      let u := s.unit (Fin.ofNat 8 cluster)
      let e : IntakeEntry :=
        { slot := k, epoch := h.epoch, index := index, item := item, sender := h.sender, vc := h.vc, order := s.arrivals
          lcid := lcid, seq := seq, waits := h.sender == s.cfg.instanceAddr && (u.remoteCredit == 0 || u.remotePart.any (·.waits)) }
      let u := CflUnit.remoteWeir { u with remotePart := u.remotePart ++ [e], remoteCredit := u.remoteCredit - b2n (!e.waits) }
      { s.setUnit (Fin.ofNat 8 cluster) u with arrivals := s.arrivals + 1 }

/-- Gives the credits there are to the entries that wait for one, in their order (R515). -/
def admitWaiting : Nat → List IntakeEntry → List IntakeEntry
  | _, [] => []
  | credit, e :: es => if e.waits && credit != 0 then { e with waits := false } :: admitWaiting (credit - 1) es else e :: admitWaiting credit es

/-- The entries of the own instance that have waited for a credit go on (R515). -/
def CflUnit.takeCredits (u : CflUnit) : CflUnit :=
  if u.remotePart.any (·.waits) then CflUnit.remoteWeir { u with
      remotePart := admitWaiting u.remoteCredit u.remotePart
      remoteCredit := u.remoteCredit - min u.remoteCredit (u.remotePart.countP (·.waits)) }
  else u

/-- Sends remote entries of one epoch to one cluster in one unit on the data channel of DMV1; those for the own instance do not cross a
port (R255, R256). -/
def State.sendRemote (s : State) (k : Fin 16) (dest epoch cluster : Nat) (es : List (Nat × CflItem)) : State :=
  let h := s.dataHdr k 1 epoch
  if dest = s.cfg.instanceAddr then es.foldl (fun s e => s.remoteEntry k h cluster e.1 e.2) s
  else s.sendMsg dest h (.remote cluster es)

/-! ### The intake -/

/-- The record of an entry that is a pair. -/
def IntakeEntry.record (e : IntakeEntry) : BitVec 128 := match e.item with | .pair r => r | .wide _ => 0

/-- Whether an entry of a local part is a pair to forward (R255). -/
def IntakeEntry.forwards (e : IntakeEntry) : Bool := pairRemote e.record

/-- Whether two forwarded pairs travel in one unit: one context, epoch, destination instance and cluster. -/
def IntakeEntry.sameUnit (a b : IntakeEntry) : Bool :=
  a.slot == b.slot && a.epoch == b.epoch && pairInstance a.record == pairInstance b.record && pairCluster a.record == pairCluster b.record

/-- Packs forwarded pairs of one ac four to a unit, in order (R255). A part-filled unit leaves in its ac (DESIGN CHOICE, log entry 156).
-/
def packFour (es : List IntakeEntry) : List (List IntakeEntry) :=
  (es.foldl (fun (gs : List (List IntakeEntry)) e =>
    match gs with
    | (a :: as) :: rest => if as.length < 3 && a.sameUnit e then (a :: as ++ [e]) :: rest else [e] :: (a :: as) :: rest
    | gs => [e] :: gs) []).reverse

/-- One unit of forwarded pairs leaves (R255). -/
def State.forward (s : State) (g : List IntakeEntry) : State :=
  match g with
  | [] => s
  | e :: _ =>
    if pairInstance e.record = s.cfg.instanceAddr then
      g.foldl (fun s x => s.remoteEntry x.slot (s.dataHdr x.slot 1 x.epoch) (pairCluster x.record) (pairIndex x.record) x.item x.lcid x.seq) s
    else s.sendRemote e.slot (pairInstance e.record) e.epoch (pairCluster e.record) (g.map fun x => (pairIndex x.record, x.item))

/-- The entries taken from a cluster's intake in one ac: pairs to forward leave, the others are added (R255, R257, R263 step 1). -/
def State.takeEntries (s : State) (cluster : Nat) (fromLocal fromRemote : List IntakeEntry) : State :=
  let s := (packFour (fromLocal.filter (·.forwards))).foldl (·.forward ·) s
  s.addEntries cluster ((fromLocal.filter fun e => !e.forwards) ++ fromRemote)

/-- Gives the first pairs of a core's offer their entries, numbered from `first` (R253). -/
def IntakeEntry.ofPairs (mk : IntakeEntry) (first : Nat) (ps : List (BitVec 128)) : List IntakeEntry :=
  ((List.range ps.length).zip ps).map fun p => { mk with index := pairIndex p.2, item := .pair p.2, seq := some (first + p.1) }

/-- One core's turn in step 2 of R263: at most 32 pairs of its offer, to 2,048 entries in all. -/
def State.acceptCore (s : State) (k : Fin 8) (l : Fin 64) : State :=
  let q := s.core l
  match q.serving with
  | some e =>
    if !(s.ctx e.task.slot).epochLive e.task.epoch then s
    else
      let u := s.unit k
      let n := min 32 (min q.offers.length (2048 - u.localPart.length))
      let mk : IntakeEntry := { slot := e.task.slot, epoch := e.task.epoch, lcid := l.val, accepted := s.time.ac }
      let s := s.setUnit k { u with localPart := u.localPart ++ mk.ofPairs q.accepted (q.offers.take n) }
      s.setCore l { q with offers := q.offers.drop n, pairCount := q.pairCount + n }
  | none => s

/-- Discards, at the intake, the pairs a core offers in an ac for a step that is not live: they occupy nothing and stall nothing
(R260). -/
def State.discardOffers (s : State) (l : Fin 64) : State :=
  let q := s.core l
  match q.serving with
  | some e =>
    if (s.ctx e.task.slot).epochLive e.task.epoch then s
    else
      let n := min 32 q.offers.length
      (s.setCore l { q with offers := q.offers.drop n }).modCtx e.task.slot (·.modStats fun t => { t with epochDiscards := t.epochDiscards + n })
  | none => s

/-- Whether a command runs in a unit at an ac. -/
def CflUnit.busy (u : CflUnit) (ac : Nat) : Bool := match u.running with | some e => decide (ac < e) | none => false

/-- Whether a scrub runs. -/
def CflUnit.scrubbing (u : CflUnit) (ac : Nat) : Bool := match u.scrubUntil with | some e => decide (ac < e) | none => false

/-! ### PAIR_RECORD -/

/-- A core offers pairs; the first invalid one ends its task (R245). Validity is tested before the epoch (DESIGN CHOICE, log entry 155).
-/
def State.offerPairs (s : State) (l : Fin 64) (pairs : List (BitVec 128)) : State :=
  match s.issues l with
  | none => s
  | some t =>
    let good := pairs.takeWhile (s.pairValid t.slot l.val ·)
    let s := s.modCore l fun q => { q with offers := q.offers ++ good, offered := q.offered + good.length }
    match pairs.drop good.length with
    | [] => s
    | p :: _ => s.engineFault l 0xFF (pairIndex p)

def execPairRecord (lcid : Fin 64) (pairs : List (BitVec 128)) (s : State) : Host.Outcome State Fault Refusal :=
  .next (s.offerPairs lcid pairs)

/-! ### Drains, exports and clears -/

/-- Whether scratchpad bytes lo to hi − 1 of a core overlap a confluence region of the context (R251). -/
def Ctx.overlapsRegion (c : Ctx) (lcid lo hi : Nat) : Bool :=
  c.regions.any fun r => r.cores.contains lcid && decide (lo < r.address + r.length ∧ r.address < hi)

/-- Whether a command's operands are in range (R251). -/
def State.cflOk (s : State) (k : Fin 16) (l first count : Nat) (op : CflOp) : Bool :=
  let c := s.ctx k
  match c.region? (s.clusterOf l) with
  | none => false
  | some g =>
    decide (1 ≤ count ∧ count ≤ 65536 ∧ first + count ≤ g.elements) &&
      match op with
      | .drain f d _ =>
        let n := count * drainBytes f
        decide (f ≤ 2 ∧ d % 64 = 0 ∧ d + n ≤ spadSize) && !c.overlapsRegion l d (d + n)
      | _ => true

/-- Adds a command to those waiting, in order of effect, then of LCID (R252). -/
def insertCmd (m : CflCmd) : List CflCmd → List CflCmd
  | [] => [m]
  | w :: ws =>
    if m.effective < w.effective ∨ (m.effective = w.effective ∧ m.lcid < w.lcid) then m :: w :: ws else w :: insertCmd m ws

/-- A confluence command of the task in service: refused, or effective 8 ac later; a core with pairs that are not accepted stalls, and
its command is issued behind them (R251, R252, R263). -/
def State.cflCommand (s : State) (l : Fin 64) (code first count : Nat) (op : CflOp) : State :=
  match s.issues l with
  | none => s
  | some t =>
    if !s.cflOk t.slot l.val first count op then s.engineFault l code first
    else
      let u := s.unit (s.unitOf l.val)
      let m : CflCmd :=
        { slot := t.slot, lcid := l.val, first := first, count := count, op := op, epoch := t.epoch, effective := s.time.ac + 8
          after := (s.core l).offered }
      s.setUnit (s.unitOf l.val)
        (if (s.core l).offers.isEmpty then { u with waiting := insertCmd m u.waiting } else { u with behind := u.behind ++ [m] })

/-- CFL_DRAIN (R251, R254). -/
def execCflDrain (lcid : Fin 64) (first count format dest : Nat) (clear : Bool) (s : State) : Host.Outcome State Fault Refusal :=
  .next (s.cflCommand lcid 6 first count (.drain format dest clear))

/-- CFL_EXPORT (R251, R256). -/
def execCflExport (lcid : Fin 64) (first count : Nat) (dest : BitVec 32) (cluster destFirst : Nat) (clear : Bool) (s : State) :
    Host.Outcome State Fault Refusal :=
  .next (s.cflCommand lcid 7 first count (.exportTo dest.toNat cluster destFirst clear))

/-- CFL_CLEAR (R251). -/
def execCflClear (lcid : Fin 64) (first count : Nat) (s : State) : Host.Outcome State Fault Refusal :=
  .next (s.cflCommand lcid 0xD first count .clear)

/-- Elements first to first + count − 1 of a cluster set to zero. -/
def Ctx.clearElements (c : Ctx) (cluster first count : Nat) : Ctx :=
  { c with regions := c.regions.map fun r =>
      if r.cluster.val == cluster then { r with words := r.words.filter fun w => w.1 < first || first + count ≤ w.1 } else r }

/-- The encodings a drain writes (R254, R264). -/
def Ctx.drained (c : Ctx) (cluster first count format : Nat) : List Nat :=
  (List.range count).map fun j =>
    let w := c.element cluster (first + j)
    if c.fast then drainFast format w.toNat else drainWord format w

/-- Element words of a range. -/
def Ctx.range (c : Ctx) (cluster first count : Nat) : List (BitVec 256) :=
  (List.range count).map fun j => c.element cluster (first + j)

/-- The remote pair an export of a fast element sends: FP32 with unit weight (R264). -/
def unitPair (value index : Nat) : BitVec 128 := BitVec.ofNat 128 (value % 2 ^ 32 + 2 ^ 51 + index % 2 ^ 24 * 2 ^ 64)

/-- A fast-confluence event (R265). -/
def Ctx.fastEvent (c : Ctx) : Ctx :=
  if c.fast then (c.count 3).modStats fun t => { t with fastCommands := t.fastCommands + 1 } else c

/-- Groups of at most four (R255). -/
def fours : Nat → List (Nat × CflItem) → List (List (Nat × CflItem))
  | 0, _ => []
  | n + 1, xs => match xs with | [] => [] | x :: rest => (x :: rest.take 3) :: fours n (rest.drop 3)

/-- Sends the elements of an export in order: wide words one to a unit, the pairs of a fast region four to a unit (R256, R264). -/
def State.exportElements (s : State) (k : Fin 16) (dest epoch cluster : Nat) (fast : Bool) (first : Nat) (words : List (BitVec 256)) : State :=
  let items := ((List.range words.length).zip words).map fun p =>
    (first + p.1, if fast then CflItem.pair (unitPair p.2.toNat (first + p.1)) else .wide p.2)
  (if fast then fours items.length items else items.map fun x => [x]).foldl (·.sendRemote k dest epoch cluster ·) s

/-- What a command does to the elements of its cluster in one ac: at most 64 of them, `m.first` to `m.first + m.count` − 1 (R252, R254,
R256). -/
def State.cflPart (s : State) (cluster : Nat) (m : CflCmd) : State :=
  let c := s.ctx m.slot
  match m.op with
  | .clear => s.modCtx m.slot (·.clearElements cluster m.first m.count)
  | .drain f d clear =>
    let vs := c.drained cluster m.first m.count f
    let words := c.range cluster m.first m.count
    let isOver := ((vs.zip words).filter fun p => isInf (drainFormat f) p.1 && !(c.fast && isInf fp32 p.2.toNat)).length
    let out := vs.foldr (fun v bs => leBytes (drainBytes f) v ++ bs) []
    let s := s.modCtx m.slot (·.modStats fun t => { t with drainOverflow := t.drainOverflow + isOver })
    let s := if clear then s.modCtx m.slot (·.clearElements cluster m.first m.count) else s
    { s with spad := s.spad.writeBytes (spadAddr m.lcid d) out }
  | .exportTo dest dc df clear =>
    let words := c.range cluster m.first m.count
    let s := if clear then s.modCtx m.slot (·.clearElements cluster m.first m.count) else s
    s.exportElements m.slot dest m.epoch dc c.fast df words

/-- Poisoned elements a drain meets in a range (R254). -/
def Ctx.poisonedIn (c : Ctx) (cluster : Nat) (m : CflCmd) : Nat :=
  match m.op with
  | .drain _ _ _ => if c.fast then 0 else ((c.range cluster m.first m.count).filter (· == poisonWord)).length
  | _ => 0

/-- A command without its first n elements. -/
def CflCmd.rest (m : CflCmd) (n : Nat) : CflCmd :=
  { m with
    first := m.first + n
    count := m.count - n
    op := match m.op with
      | .drain f d clear => .drain f (d + n * drainBytes f) clear
      | .exportTo dest dc df clear => .exportTo dest dc (df + n) clear
      | .clear => .clear }

/-- One ac of the command that runs in a unit: 64 elements, and with the last of them its result (R252). -/
def State.cflRun (s : State) (k : Fin 8) : State :=
  let u := s.unit k
  match u.current with
  | none => s
  | some m =>
    let part : CflCmd := { m with count := min 64 m.count }
    let poisoned := u.poisoned + (s.ctx m.slot).poisonedIn k.val part
    let s := s.cflPart k.val part
    if m.count ≤ 64 then (s.setUnit k { s.unit k with current := none, poisoned := 0 }).giveResult m.lcid 4 (.done poisoned)
    else s.setUnit k { s.unit k with current := some (m.rest 64), poisoned := poisoned }

/-- Whether the first waiting command begins in this ac: it is effective, the local part holds no entry accepted before its effect, and
neither a command nor a scrub runs (R252, R261). -/
def CflUnit.begins (u : CflUnit) (ac : Nat) : Bool :=
  match u.waiting with
  | [] => false
  | m :: _ => decide (m.effective ≤ ac) && !u.busy ac && !u.scrubbing ac && !u.localPart.any fun e => e.accepted < m.effective

/-- A command begins: it works from this ac on, and the unit adds nothing while it does (R252). A fast-mode drain or export is an event
of its own (R265). -/
def State.cflStart (s : State) (k : Fin 8) : State :=
  let u := s.unit k
  match u.waiting with
  | [] => s
  | m :: ms =>
    if u.begins s.time.ac then
      (s.setUnit k { u with waiting := ms, running := some (s.time.ac + ceilDiv m.count 64), current := some m, poisoned := 0 }).modCtx m.slot
        fun c => match m.op with | .clear => c | _ => c.fastEvent
    else s

/-! ### The scrub of a cancelled batch -/

/-- Whether the scrub a cancellation asked for begins in this ac: the local part holds no entry accepted before the boundary, and no
command runs (R261). -/
def CflUnit.scrubBegins (u : CflUnit) (ac : Nat) : Bool :=
  u.scrubFor.isSome && !u.busy ac && !u.localPart.any fun e => e.accepted < u.scrubMark

/-- The scrub begins (R261). -/
def State.scrubStart (s : State) (k : Fin 8) : State :=
  let u := s.unit k
  match u.scrubFor with
  | none => s
  | some c =>
    if u.scrubBegins s.time.ac then
      let n := (((s.ctx c).region? k.val).map (·.elements)).getD 0
      (s.setUnit k { u with scrubFor := none, scrubUntil := some (s.time.ac + ceilDiv n 64) }).modCtx c (·.clearElements k.val 0 n)
    else s

/-! ### One ac of a unit -/

/-- Commands behind pairs that the unit has now accepted are issued: they are effective 8 ac later (R252, R263). -/
def State.cflIssue (s : State) (k : Fin 8) : State :=
  let u := s.unit k
  if u.behind.isEmpty then s
  else
    let isReady (m : CflCmd) : Bool := decide ((s.core (lcidOf m.lcid)).accepted ≥ m.after)
    s.setUnit k { u with
      behind := u.behind.filter (!isReady ·)
      waiting := (u.behind.filter isReady).foldl (fun ws m => insertCmd { m with effective := s.time.ac + 8 } ws) u.waiting }

/-- Cores of a cluster whose offers are not all accepted. -/
def State.offering (s : State) (k : Fin 8) : List (Fin 64) :=
  allCores.filter fun l => s.unitOf l.val == k && !(s.core l).offers.isEmpty

/-- Whether a unit has nothing to do. -/
def CflUnit.idle (u : CflUnit) : Bool :=
  u.localPart.isEmpty && u.remotePart.isEmpty && u.behind.isEmpty && u.waiting.isEmpty && u.current.isNone && u.scrubFor.isNone

/-- Entries a unit adds per ac (R263, R264). -/
def State.cflRate (s : State) (u : CflUnit) : Nat :=
  match u.localPart ++ u.remoteHeld with
  | e :: _ => if (s.ctx e.slot).fast then 256 else 64
  | [] => 64

/-- Steps 1 to 3 of R263, where a command or a scrub does not hold them (R252, R261). -/
def State.cflWork (s : State) (k : Fin 8) : State :=
  let u := s.unit k
  let ac := s.time.ac
  if u.scrubbing ac then s
  else
    let start := u.localPart.length
    let rate := if u.busy ac then 0 else s.cflRate u
    let fromLocal := u.localPart.take rate
    let fromRemote := u.remoteHeld.take (rate - fromLocal.length)
    let s := s.setUnit k (CflUnit.takeCredits (CflUnit.remoteWeir { u with
      localPart := u.localPart.drop fromLocal.length
      remotePart := u.remoteHeld.drop fromRemote.length ++ u.remotePart.filter (·.waits) }))
    let s := s.takeEntries k.val fromLocal fromRemote
    let s := if u.localStalled || start ≥ 2048 then s else (s.offering k).foldl (·.acceptCore k ·) s
    s.setUnit k (s.unit k).localWeir

/-- One ac of a cluster's unit (R252, R260, R261, R263): what is not live is discarded, a scrub or else a command begins if it may
(a scrub goes first where both may: DESIGN CHOICE, log entry 140), and the steps of R263 follow. -/
def State.cflAc (s : State) (k : Fin 8) : State :=
  if (s.unit k).idle && (s.offering k).isEmpty then s
  else
    let s := (s.offering k).foldl (·.discardOffers ·) s
    (((((s.scrubStart k).cflStart k).cflRun k).cflWork k)).cflIssue k

end Sys2Proof.Machine
end

