-- ==== Sys2Proof/Machine/Clock.lean ====
section
/-! DEFINITION. The passing of arithmetic-clock cycles (R38, R41): what Puska's units do in each ac between slot boundaries,
and how far time may pass before the next boundary. -/

namespace Sys2Proof.Machine

/-! ### Reference positions -/

/-- The alignment trim of the next boundary: −e, at most 8 cycles either way (R54). -/
def TimeUnit.nextTrim (t : TimeUnit) : Int := max (-8) (min 8 t.trimLeft)

/-- Reference position of the next GTC boundary (R41). -/
def State.nextBoundary (s : State) : Nat :=
  ((s.time.boundaryRef : Int) + s.tickLength + s.time.nextTrim).toNat

/-- Offsets of the cycles of the slot or margin in progress that are stretched (R42). -/
def TimeUnit.stretchNow (t : TimeUnit) : List Nat := if t.tickRunning then t.stretch else []

/-- Reference position of the ac that comes next: a stretched cycle lasts one reference cycle longer (R42). -/
def TimeUnit.nextRef (t : TimeUnit) : Nat := t.ref + 1 + b2n (t.stretchNow.contains t.offset)

/-- How many of the n cycles from the present one on are stretched. -/
def TimeUnit.longer (t : TimeUnit) (n : Nat) : Nat := (List.range n).countP fun i => t.stretchNow.contains (t.offset + i)

/-- The ac that pass from an offset and a position until a reference position is reached. -/
def acWalk (stretch : List Nat) (p : Nat) : Nat → Nat → Nat → Nat
  | 0, _, _ => 0
  | n + 1, off, ref => if p ≤ ref then 0 else acWalk stretch p n (off + 1) (ref + 1 + b2n (stretch.contains off)) + 1

/-- How many ac pass until the reference count is at a position. -/
def TimeUnit.acUntil (t : TimeUnit) (p : Nat) : Nat :=
  if t.stretchNow.isEmpty then p - t.ref else acWalk t.stretchNow p (p - t.ref) t.offset t.ref

/-- Whether a GTC boundary falls on the ac that comes next. -/
def TimeUnit.atBoundary (t : TimeUnit) : Bool := t.running && decide (t.ref < t.boundaryRef)

/-- Whether the next local tick begins at a GTC boundary and takes its number (R45, R47). -/
def TimeUnit.jumps (t : TimeUnit) : Bool := t.jumping || t.resync

/-- How many further ac may pass before the next event of the slot grid: the rest of the slot, the margin up to the
GTC boundary, or, before the first tick, up to the armed start. -/
def State.acLeft (s : State) : Option Nat :=
  let t := s.time
  let toBoundary := if t.atBoundary then 0 else t.acUntil s.nextBoundary - 1
  if t.tickRunning then
    if !t.inMargin then some (if t.resync then min (255 - t.offset) toBoundary else 255 - t.offset)
    else if decide (t.gtc > t.localTick) && !t.jumps then some 0
    else some toBoundary
  else match t.startAt with
    | some p => some (p - 1 - t.ref)
    | none => if !t.running then none else some toBoundary

/-! ### Observation counts -/

/-- Whether a source is stalled at each weir of R149, in the order of OBS_WEIR (R503). -/
def State.weirs (s : State) : List Bool :=
  [ s.ctxs.toList.any (·.poolStalled),
    s.horizonStalled || s.quotaStalled != 0 || s.beHorizonStalled,
    s.inletStalled || s.inletQuotaStalled != 0 || s.beInletStalled,
    s.units.toList.any (·.localStalled),
    s.units.toList.any (·.remoteStalled),
    s.ctxs.toList.any (·.deferring) ]

/-- Adds n ac to the weir counts while page 0x30 counts (R503). -/
def State.countWeirs (s : State) (n : Nat) : State :=
  match s.obs.run with
  | .on => { s with obs := { s.obs with weir := (s.obs.weir.zip s.weirs).map fun p => wrap 64 (p.1 + if p.2 then n else 0) } }
  | _ => s

/-- Advances the sample counts of the contexts that run (R425). -/
def Ctx.sampleAc (n : Nat) (c : Ctx) : Ctx :=
  if c.phase = .running ∧ c.held = false ∧ c.halted = false ∧ c.launched = true then
    { c with trace := { c.trace with samples := c.trace.samples + n } }
  else c

/-- n ac of the clocks alone. -/
def State.pass (s : State) (n : Nat) : State :=
  let s := s.countWeirs n
  let t := s.time
  let marked := t.stretchNow.any fun o => decide (t.offset < o ∧ o ≤ t.offset + n)
  { s with
    time := { t with
      ac := t.ac + n, ref := t.ref + n + t.longer n, offset := if t.tickRunning then t.offset + n else t.offset
      stretchedTick := t.stretchedTick || marked }
    ctxs := s.ctxs.map (Ctx.sampleAc n) }

/-! ### One ac -/

/-- Entries a cluster's unit has added so far, counted in OBS_CFL (R503). -/
def State.countCfl (s : State) (k : Fin 8) (n : Nat) : State :=
  match s.obs.run with
  | .on => { s with obs := { s.obs with cfl := s.obs.cfl.set k.val (wrap 64 (s.obs.cfl.getD k.val 0 + n)) } }
  | _ => s

/-- How many entries a unit adds in an ac in which nothing holds it: those it takes, but for the pairs it only forwards (R255, R263). -/
def State.cflAdds (s : State) (u : CflUnit) : Nat :=
  let rate := s.cflRate u
  let mine := u.localPart.take rate
  mine.countP (!·.forwards) + (u.remoteHeld.take (rate - mine.length)).length

/-- One ac of a cluster's unit with its count. -/
def State.cflAcCounted (s : State) (k : Fin 8) : State :=
  let u := s.unit k
  let held := u.busy s.time.ac || u.scrubbing s.time.ac || u.begins s.time.ac || u.scrubBegins s.time.ac
  (s.cflAc k).countCfl k (if held then 0 else s.cflAdds u)

/-- Whether the SPAD_WR of a cluster carries a channel message unit or a pond argument read in this ac (R195, R418). -/
def State.portBusy (s : State) (k : Fin 8) : Bool :=
  (s.writes.any fun j => j.cluster == k && decide (j.done - j.units ≤ s.time.ac ∧ s.time.ac < j.done)) ||
    s.cores.any fun q => [q.e0, q.e1].any fun e =>
      e.state != .free && e.argPort.1 == k.val && decide (e.argPort.2.1 ≤ s.time.ac ∧ s.time.ac < e.argPort.2.2)

/-- One ac of a context's capture queue: its next unit goes into the ring, if the port and the ring have room for it (R418, R419). -/
def State.traceAc (s : State) (k : Fin 16) : State :=
  let c := s.ctx k
  let ring := (c.symbol? 0xFFFF 0xFFD0).getD {}
  let unit := c.trace.unitBytes
  if c.trace.queue.isEmpty || (s.coresOf k).isEmpty || s.portBusy (s.unitOf ring.lcid) || decide (ring.length < c.trace.undrained + unit.length) then s
  else
    let at_ (i : Nat) : Nat := spadAddr ring.lcid (ring.address + (c.trace.written + c.trace.queued + i) % max ring.length 1)
    let spad := unit.zipIdx.foldl (fun (m : Memory) p => m.write (at_ p.2) p.1) s.spad
    { s with spad := spad }.setCtx k { c with trace := c.trace.unit }

/-- A marker takes effect: its record and its trigger (R428). -/
def State.markEffect (s : State) (o : CntOp) : State :=
  match o.kind with
  | .mark value trigger layer op =>
    let c := s.ctx o.slot
    if c.trace.effective.getLsbD 0 || c.trace.effective.getLsbD 1 then
      let b := leBytes 8 s.stamp ++ leBytes 1 0x0E ++ leBytes 1 o.lcid ++ leBytes 2 layer ++ leBytes 2 op ++ zeros 2 ++ leBytes 4 value ++ zeros 12
      let s := s.setCtx o.slot (c.capture s.stamp puskaOrder false b)
      if trigger then s.trigger o.slot 1 value layer op else s
    else s
  | _ => s

/-- The markers effective in this ac. -/
def State.markEffects (s : State) : State :=
  let due := s.cntOps.filter fun o => match o.kind, o.due with
    | .mark _ _ _ _, some d => d ≤ s.time.ac
    | _, _ => false
  if due.isEmpty then s
  else due.foldl (·.markEffect ·) { s with cntOps := s.cntOps.filter fun o => !(due.contains o) }

/-- What Puska's units do in the ac just begun: SENDs are tested and the lanes behind them go on (R193, R194), held counter commands are
accepted (R253), the context's own notices that had no credit go on (R515), channel commands, ripples and counter commands that are due
take effect (R164, R167, R187), stalled inlet writers go on (R208), a unit of each capture queue reaches its ring (R418), and each
cluster's unit works (R263). Channel commands come before the write pointers of the same ac (R197; DESIGN CHOICE, log entry 147). -/
def State.work (s : State) : State :=
  let s := (allCores.foldl (·.laneAc ·) s.sendTests).acceptHeld
  let s := allSlots.foldl (·.sendWaiting ·) s
  let s := s.chanEffects.writesAc
  let s := s.sendRipples.markEffects
  let s := s.inletAc
  let s := allSlots.foldl (fun s k => s.resolveCounters k []) s
  let s := allSlots.foldl (·.traceAc ·) s
  allCtrl.foldl (·.cflAcCounted ·) s

/-- Whether no unit has work that the passing of time would change. -/
def State.quiet (s : State) : Bool :=
  s.cntOps.isEmpty && s.chanOps.isEmpty && s.writes.all (fun j => decide (j.done ≤ s.time.ac)) && s.units.toList.all (·.idle)
    && s.ctxs.toList.all (fun c => c.trace.queue.isEmpty && c.ownWait.isEmpty && c.counters.all fun q => q.value == q.copy)
    && s.cores.toList.all (fun c => c.offers.isEmpty && c.inletWait.isEmpty && (c.sendWait.all fun w => w.test.isNone) && c.laneQueue.isEmpty)
    && !s.inletStalled && s.inletQuotaStalled == 0 && !s.beInletStalled

/-- n ac, one after another; the clocks alone where no unit has work. -/
def State.advance (s : State) : Nat → State
  | 0 => s
  | n + 1 => if s.quiet then s.pass (n + 1) else State.advance (s.pass 1).work n

/-- One ac, unless the next event of the slot grid must come first. -/
def State.tick1 (s : State) : State :=
  match s.acLeft with
  | some 0 => s
  | _ => (s.pass 1).work

/-- The ac until a condition holds, at most n of them. -/
def State.waitFor (p : State → Bool) : Nat → State → State
  | 0, s => s
  | n + 1, s => if p s then s else State.waitFor p n (s.pass 1).work

/-- The ac until a condition holds, within the slot or margin in progress. -/
def State.waitHere (s : State) (p : State → Bool) : State := match s.acLeft with | some n => s.waitFor p n | none => s

/-- CFL_COMMAND_BEGIN: the cycles up to the begin of a cluster's first waiting command pass (R252). -/
def State.cflBegin (s : State) (k : Fin 8) : State :=
  let n := (s.unit k).waiting.length
  if n = 0 then s else s.waitHere fun t => decide ((t.unit k).waiting.length < n)

def execCflCommandBegin (cluster : Fin 8) (s : State) : Host.Outcome State Fault Refusal := .next (s.cflBegin cluster)

/-- CONFLUENCE_SCRUB: the cycles up to the begin of the scrub a cancellation asked for pass (R261). -/
def State.cflScrub (s : State) (k : Fin 8) : State :=
  if (s.unit k).scrubFor.isNone then s else s.waitHere fun t => (t.unit k).scrubFor.isNone

def execConfluenceScrub (cluster : Fin 8) (s : State) : Host.Outcome State Fault Refusal := .next (s.cflScrub cluster)

/-- An access to a page is served: one per ac for each page, so a second one in the same ac waits for the next (R465). In the last ac
before an event of the slot grid it shares that ac (DESIGN CHOICE, log entry 152). -/
def State.serve (s : State) (p : Fin 64) : State :=
  let s := if (s.page p).served = some s.time.ac then s.tick1 else s
  s.setPage p { s.page p with served := some s.time.ac }

/-- The cycles up to the last ac before the next event of the slot grid. -/
def State.runOut (s : State) : State :=
  match s.acLeft with
  | some n => s.advance n
  | none => s

/-- The ac that begins a slot, a margin or a tick, with the cycles of it that will be stretched (R42): the clocks advance and the
position is set; the units' work of this ac follows the boundary's own (R167 puts the increments of notices first). -/
def State.newSlot (s : State) (slot : Nat) (margin : Bool) (stretch : List Nat) : State :=
  let s := s.countWeirs 1
  { s with
    time := { s.time with
      ac := s.time.ac + 1, ref := s.time.nextRef, slot := slot, offset := 0, inMargin := margin, tickRunning := true
      stretch := stretch.eraseDups, stretchedTick := s.time.stretchedTick || stretch.contains 0 }
    ctxs := s.ctxs.map (Ctx.sampleAc 1) }

/-! ### Stopped clocks (R47) -/

/-- A gap record (R427 type 0x02). -/
def gapRecord (first last elapsed : Nat) : Bytes :=
  leBytes 8 first ++ leBytes 1 0x02 ++ zeros 1 ++ leBytes 2 0xFFFF ++ leBytes 2 0xFFFF ++ zeros 2 ++ leBytes 8 last ++ leBytes 6 elapsed ++ zeros 2

/-- The gap record in the trace of every context, and in the steward log, which has its place from stage 2 on (R47, R461, R463). -/
def State.gap (s : State) (first last elapsed : Nat) : State :=
  let s := allSlots.foldl (fun s k => s.modCtx k (·.capture first puskaOrder false (gapRecord first last elapsed))) s
  if s.boot.configured then s.log 0x03 0 (Config.logPayload 0x03 [last, first, elapsed]) else s

/-- The gap record that waited for the first ac after a restart. -/
def State.gapDue (s : State) : State :=
  match s.time.gapFrom with
  | none => s
  | some (last, elapsed) => State.gap { s with time := { s.time with gapFrom := none } } s.stamp last elapsed

end Sys2Proof.Machine
end

