-- ==== Sys2Proof/Machine/Sequencer.lean ====
section
/-! DEFINITION. The dispatch sequencer (R126–R148): the ready pool and resolution, the sweep, placement into ponds and thread
frames, dynamic balancing, pond entries, and the start decision under the energy governor. -/

namespace Sys2Proof.Machine

/-! ### Which contexts the sequencer works on -/

/-- Whether the sequencer works on a context (R126, R141, R395, R437, R513). -/
def State.works (s : State) (k : Fin 16) : Bool := (s.ctx k).runs && (s.ctx k).fault.isNone && !s.safety.fenced

/-! ### Lock-step entries (R356) -/

/-- The slot of the boundary an entry of a lock-step list names. -/
def State.slotCode (s : State) : Nat := if s.time.inMargin then 0xFF else s.time.slot

/-- The place of an entry in the order of R356: slot, then ends, completions, instantiations, starts, then key. -/
def digestPlace (slot rank key : Nat) : Nat := (slot * 4 + rank) * 2 ^ 88 + key

/-- Adds a task event to the list of the tick in progress. -/
def Ctx.digestTask (c : Ctx) (slot rank kind core : Nat) (t : Task) (status checksum : Nat) : Ctx :=
  if c.lock.active then
    { c with lock := { c.lock with current := c.lock.current ++
        [(digestPlace slot rank t.key,
          { name := t.name c.cxid, kind := kind, core := core, slot := slot, status := status, checksum := checksum })] } }
  else c

/-- Adds a step event to the list of the tick in progress. -/
def Ctx.digestStep (c : Ctx) (slot rank kind step : Nat) : Ctx :=
  if c.lock.active then
    { c with lock := { c.lock with current := c.lock.current ++
        [(digestPlace slot rank step, { name := packName c.cxid step 0 0 0, kind := kind, slot := slot })] } }
  else c

/-! ### Tasks of nodes -/

/-- The task instance of a node (R101, R120, R122). -/
def Ctx.nodeTask (c : Ctx) (k : Fin 16) (r : StepRun) (n count i : Nat) : Task :=
  let d := c.node r.template n
  { slot := k, step := r.step, template := r.template, node := n, fanout := i, count := count, kind := d.kind, be := d.be
    rank := d.rank, span := d.span, energy := d.energy, flow := nodeFlow d i (((r.batch[i]?).map (·.seq)).getD 0)
    floating := d.floating
    mask := if d.floating then d.placement else 1#64 <<< (bits d.placement.toNat 5 0)
    layer := d.layer, operatorId := d.operatorId, epoch := epochOf r.step }

/-- Bytes 0–83 of the descriptor of a task Puska creates itself (R92). -/
def serviceRaw (t : Task) : Bytes :=
  let kind := match t.service with | .dump _ _ => 4 | _ => 2
  leBytes 1 (kind + b2n t.be * 16 + b2n t.floating * 64) ++ leBytes 1 (t.rank % 16 + t.energy % 16 * 16) ++ zeros 2
    ++ leBytes 2 t.span ++ zeros 10
    ++ leBytes 8 (if t.floating then t.mask.toNat else ((bitList 64 t.mask.toNat).headD 0)) ++ zeros 16 ++ leBytes 2 4 ++ zeros 4
    ++ leBytes 1 1 ++ zeros 1 ++ leBytes 4 0xFFFFFFFF ++ leBytes 2 t.layer ++ leBytes 2 t.operatorId ++ zeros 28

/-- The dispatch form of a task instance, start_stamp zero (R95). -/
def Ctx.dispatchForm (c : Ctx) (k : Fin 16) (t : Task) : Bytes :=
  let d := c.node t.template t.node
  let raw := match t.service with | .node => slice d.raw 0 84 | _ => slice (serviceRaw t) 0 84
  let arg := match t.service with | .node => argAddress d t.step t.fanout | _ => 0
  let body := raw ++ leBytes 2 c.cxid ++ leBytes 1 k.val ++ zeros 1 ++ leBytes 5 t.step ++ leBytes 2 (t.template % 1024) ++ zeros 1
    ++ leBytes 2 t.node ++ leBytes 2 t.fanout ++ leBytes 2 t.count ++ zeros 2 ++ leBytes 8 arg ++ leBytes 2 t.epoch ++ zeros 10
  body ++ leBytes 4 (crc32c body).toNat

/-- The 64 B Puska supplies itself in place of the first 64 B of a node's argument block (R228, R231, R282, R288). A fetch node has the
fetch block whatever its source (DESIGN CHOICE, log entry 149). -/
def State.builtHead (s : State) (k : Fin 16) (t : Task) : Bytes :=
  let c := s.ctx k
  let d := c.node t.template t.node
  if t.kind = .fetch then s.fetchBlock k d t.step t.fanout
  else match d.fanoutSource with
    | 3 => c.blockDescriptor d t.step t.fanout
    | 4 => c.blockDescriptor d t.step t.fanout
    | 6 => c.seqDescriptor t.step t.fanout
    | 7 => c.stageDescriptor t.step t.node t.fanout
    | _ => []

/-- Bytes at an address of the tray's physical address space as a context's agents read them: of a scratchpad of this die, or of external
memory. -/
def State.physBytes (s : State) (k : Fin 16) (a n : Nat) : Bytes :=
  match allCores.find? fun l => decide ((Config.spadBase l.val).toNat ≤ a ∧ a < (Config.spadBase l.val).toNat + spadSize) with
  | some l => s.spadBytes k l.val (a - (Config.spadBase l.val).toNat) n
  | none => s.mem.readBytes a n

/-- The argument part of a pond entry: the first 256 B of the argument block, or all of a shorter one, read at arg_resolved (R121),
under what Puska supplies itself; the block of a service task is Puska's own (R290). -/
def State.argHead (s : State) (k : Fin 16) (t : Task) : Bytes :=
  let c := s.ctx k
  match t.service with
  | .node =>
    let d := c.node t.template t.node
    let built := s.builtHead k t
    built ++ (s.physBytes k (argAddress d t.step t.fanout) (min (d.argUnits * 64) 256)).drop built.length
  | _ => c.serviceHead t

/-! ### The ready pool (R128, R129) -/

/-- Fan-out indices not yet placed, ascending. -/
def NodeInst.unplaced (i : NodeInst) : List Nat :=
  i.returned.mergeSort (· ≤ ·) ++ (List.range (i.count - i.placed)).map (i.placed + ·)

/-- Whether a node instance holds a ready-pool entry. -/
def NodeInst.pooled (i : NodeInst) : Bool :=
  (i.state == .resolved || i.state == .inService) && (decide (i.placed < i.count) || !i.returned.isEmpty)

/-- Ready-pool entries a context holds. -/
def Ctx.occupancy (c : Ctx) : Nat :=
  (c.steps.map fun r => (r.insts.filter (·.pooled)).length).sum + (c.aux.filter (·.pooled)).length

/-- The count a fan-out source gives (R117). -/
def State.fanoutCount (s : State) (k : Fin 16) (r : StepRun) (d : NodeDesc) : Nat :=
  let c := s.ctx k
  let shift := 2 ^ d.fanoutShift
  match d.fanoutSource with
  | 0 => 1
  | 1 => d.fanoutConst
  | 2 => ceilDiv (leNat (s.spadBytes k (bits d.fanoutParam 5 0) (bits d.fanoutParam 33 8) 4)) shift
  | 3 => (c.blocks d r.step).length
  | 4 => ceilDiv (c.blocks d r.step).length shift
  | 5 => ceilDiv (c.fetchList d r.step).length shift
  | 6 => ceilDiv r.batch.length shift
  | _ => ceilDiv (c.pageBlocks d r.batch).length shift

/-- The largest effective flow id of a resolved node (R122). -/
def topFlow (d : NodeDesc) (r : StepRun) (count : Nat) : Option Nat :=
  match d.flowMode with
  | 0 => none
  | 1 => some d.flowId
  | 2 => some (d.flowId + (count - 1))
  | _ => some (d.flowId + ((r.batch.take count).map (·.seq)).foldl max 0)

/-- A fault that names a task. -/
def State.taskFault (s : State) (t : Task) (core code d1 d2 : Nat) (status : EndStatus) : State :=
  s.fault t.slot
    { code := code, detail1 := d1, detail2 := d2, core := core, endStatus := status.code, task := t.name (s.ctx t.slot).cxid
      ids := (t.layer, t.operatorId) }

/-- The descriptor fault of a task whose stored descriptor fails its CRC when Puska reads it (R96, R398): node index, stored CRC. -/
def State.descriptorFault (s : State) (t : Task) : State :=
  s.taskFault t 0xFF 0x02 t.node (field ((s.ctx t.slot).node t.template t.node).raw 124 4) .normal

/-- A node instance becomes complete: its list is applied (R108) and the dumps that wait for it are freed (R435). -/
def State.completeNode (s : State) (k : Fin 16) (step n : Nat) : State :=
  s.modCtx k fun c =>
    let c := c.completeNode step n
    { c with aux := c.aux.map fun a => if a.task.step == step && a.after == some n then { a with ready := true, after := none } else a }

/-- Resolves one eligible node instance (R118, R120, R122, R112). The record of a fan-out-limit or flow-range fault, where a node and no
instance is at fault, names fan-out index 0, and a flow-range record gives the largest effective flow id of the node (DESIGN CHOICE,
log entry 129). -/
def State.resolveNode (s : State) (k : Fin 16) (step n : Nat) : State :=
  let c := s.ctx k
  match c.run? step with
  | none => s
  | some r =>
    let d := c.node r.template n
    let count := s.fanoutCount k r d
    let t := c.nodeTask k r n count 0
    if d.fanoutSource ≠ 0 ∧ count > d.fanoutMax then s.taskFault t 0xFF 0x07 count d.fanoutMax .normal
    else match topFlow d r count with
      | some f =>
        if count ≠ 0 ∧ f ≥ c.image.flowCount then s.taskFault t 0xFF 0x08 f c.image.flowCount .normal
        else finish s r count
      | none => finish s r count
where
  finish (s : State) (r : StepRun) (count : Nat) : State :=
    let s := s.modCtx k fun c =>
      (c.modRun step (·.modInst n fun i => { i with state := .resolved, count := count })).armFollowers step r.template n count s.time.slotCount
    if count = 0 then s.completeNode k step n else s

/-- What may take a ready-pool entry now: a key and a node instance, or an index of the service tasks. -/
inductive Claim where
  | node (step n : Nat)
  | aux (i : Nat)
  deriving DecidableEq, Repr, Inhabited

/-- Eligible node instances and ready service tasks outside the pool, by key. -/
def Ctx.claims (c : Ctx) (k : Fin 16) : List (Nat × Claim) :=
  let nodes := (c.steps.filter fun r => !r.cancelled).flatMap fun r =>
    ((List.range r.insts.length).filter fun n => (r.inst n).eligible (c.node r.template n)).map fun n =>
      ((c.nodeTask k r n 1 0).key, Claim.node r.step n)
  let aux := ((List.range c.aux.length).zip c.aux).filterMap fun a =>
    if a.2.ready && !a.2.pooled then some (a.2.task.key, Claim.aux a.1) else none
  (nodes ++ aux).mergeSort fun a b => a.1 ≤ b.1

/-- Gives one claim its entry. -/
def State.admitClaim (s : State) (k : Fin 16) : Claim → State
  | .node step n => s.resolveNode k step n
  | .aux i => s.modCtx k fun c => { c with aux := c.aux.modify i fun a => { a with pooled := true } }

/-- Step 4 of R115 for a context (R129). -/
def State.resolve (s : State) (k : Fin 16) : State :=
  if !s.works k then s
  else
    let c := s.ctx k
    let stalled := c.poolStalled && decide (c.occupancy > 448)
    let claims := c.claims k
    let s := if stalled then s
      else claims.foldl (fun s x => if (s.ctx k).occupancy < 512 ∧ s.works k then s.admitClaim k x.2 else s) s
    let left := stalled || decide ((s.ctx k).occupancy ≥ 512)
    let waits := left && (s.ctx k).steps.any fun r => !r.cancelled &&
      claims.any fun x => match x.2 with | .node st n => st == r.step && (r.inst n).state == .waiting | .aux _ => false
    let s := s.modCtx k fun c =>
      { c with
        poolStalled := left, began := { c.began with pool := if left && !c.poolStalled then s.time.slotCount else c.began.pool }
        stats := if waits then { c.stats with poolStalls := c.stats.poolStalls + 1 } else c.stats }
    s.peak { pool := (allSlots.map fun j => (s.ctx j).occupancy).sum }

/-! ### Placement (R133–R135, R153) -/

def Core.hasFree (c : Core) : Bool := c.e0.state == .free || c.e1.state == .free

/-- Puts an entry into the lowest free place of a pond. -/
def Core.load (c : Core) (e : PondEntry) : Core := if c.e0.state = .free then { c with e0 := e } else { c with e1 := e }

def Ctx.affinity? (c : Ctx) (t n : Nat) : Option Nat :=
  (c.affinity.find? fun a => a.1 == t && a.2.1 == n).map (·.2.2)

def Ctx.setAffinity (c : Ctx) (t n core : Nat) : Ctx :=
  { c with affinity := (t, n, core) :: c.affinity.filter fun a => !(a.1 == t && a.2.1 == n) }

/-- Whether a task's node keeps an affinity record (R135). -/
def Task.keepsAffinity (t : Task) : Bool := match t.service with | .node => true | _ => false

/-- The cores a task may go to, most preferred first (R133, R134, R153). -/
def Ctx.preference (c : Ctx) (t : Task) : List Nat :=
  let mask := bitList 64 t.mask.toNat
  if t.floating && t.keepsAffinity then
    match c.affinity? t.template t.node with
    | some a => if mask.contains a then a :: mask else mask
    | none => mask
  else mask

/-- Where a sweep has placed so far: compute cores and control cores. -/
structure Placed where
  cores : List Nat := []
  ctrls : List Nat := []

/-- The lowest free frame of a control core. -/
def State.freeFrame (s : State) (c : Fin 8) : Option (Fin 8) := allCtrl.find? fun f => (s.frame c f).state == .free

/-- The target of a placement (R133, R134, R153). -/
def State.chooseTarget (s : State) (t : Task) (taken : Placed) : Option Nat :=
  (s.ctx t.slot).preference t |>.find? fun n =>
    if t.kind = .control then !taken.ctrls.contains n && decide (n < 8) && (s.freeFrame (Fin.ofNat 8 n)).isSome
    else !taken.cores.contains n && decide (n < 64) && (s.core (lcidOf n)).hasFree

/-- The argument reads of a load (R121, R418): 64 B units over the SPAD_WR of the cluster in whose scratchpad the block lies, one per ac
from the ac after the placement and after the reads placed before it (DESIGN CHOICE, log entry 150). -/
def State.argPort (s : State) (t : Task) : Nat × Nat × Nat :=
  let d := (s.ctx t.slot).node t.template t.node
  let a := argAddress d t.step t.fanout
  match t.service, allCores.find? fun l => decide ((Config.spadBase l.val).toNat ≤ a ∧ a < (Config.spadBase l.val).toNat + spadSize) with
  | .node, some l =>
    let k := s.clusterOf l.val
    let before := s.cores.toList.flatMap fun q => ([q.e0, q.e1].filter fun e => e.state != .free && e.argPort.1 == k).map (·.argPort.2.2)
    let first := before.foldl max (s.time.ac + 1)
    (k, first, first + min d.argUnits 4)
  | _, _ => (8, 0, 0)

/-- Places a task instance (R131, R134, R135, R153). -/
def State.place (s : State) (t : Task) (n : Nat) : State :=
  let k := t.slot
  let e : PondEntry :=
    { state := .loading, task := t, order := s.placeOrder, form := (s.ctx k).dispatchForm k t, argHead := s.argHead k t
      argPort := s.argPort t }
  let s := if t.kind = .control then
      match s.freeFrame (Fin.ofNat 8 n) with
      | some f => s.setFrame (Fin.ofNat 8 n) f { state := .loading, task := t }
      | none => s
    else s.modCore (lcidOf n) (·.load e)
  let s := s.modCtx k fun c =>
    let c := match t.flow with | some f => { c with flowsHeld := c.flowsHeld ++ [f] } | none => c
    if t.keepsAffinity then c.setAffinity t.template t.node n else c
  let on := s.obs.run == .on
  { s with
    placeOrder := s.placeOrder + 1
    obs := if on then
        (if t.kind = .control then { s.obs with threadPlace := wrap 64 (s.obs.threadPlace + 1) }
         else { s.obs with place := wrap 64 (s.obs.place + 1) })
      else s.obs }

/-! ### The sweep (R131) -/

/-- Whether a tick is a calibration tick (R68). -/
def State.calibrationTick (s : State) : Bool :=
  s.time.localTick % 2 ^ s.cfg.calLog2 == s.cfg.calPhase

/-- Marks a fan-out index of a node instance placed. -/
def NodeInst.place (i : NodeInst) (x : Nat) : NodeInst :=
  if i.returned.contains x then { i with returned := i.returned.erase x, state := .inService }
  else
    { i with
      returned := i.returned ++ (List.range (x - i.placed)).map (i.placed + ·), placed := x + 1, state := .inService }

/-- The sweep's progress through one context. -/
structure Sweep where
  s : State
  taken : Placed := {}

/-- Notes a placement. -/
def Sweep.placed (w : Sweep) (t : Task) (n : Nat) : Sweep :=
  { s := w.s.place t n
    taken := if t.kind = .control then { w.taken with ctrls := n :: w.taken.ctrls } else { w.taken with cores := n :: w.taken.cores } }

/-- The inner loop of the sweep over one node's unplaced fan-out indices (R131). -/
def Sweep.indices (k : Fin 16) (step n : Nat) (w : Sweep) : List Nat → Sweep
  | [] => w
  | i :: is =>
    let c := w.s.ctx k
    match c.run? step with
    | none => w
    | some r =>
      let d := c.node r.template n
      let t := c.nodeTask k r n (r.inst n).count i
      if !(NodeDesc.crcOk d) then { w with s := w.s.descriptorFault t }
      else if d.fanoutSource = 7 ∧ c.blockStaged step n i = false then w
      else if t.flow.any c.flowsHeld.contains then Sweep.indices k step n w is
      else match w.s.chooseTarget t w.taken with
        | none => w
        | some g =>
          let w := w.placed t g
          let w := { w with s := w.s.modCtx k fun c => c.modRun step (·.modInst n (·.place i)) }
          Sweep.indices k step n w is

/-- Pool entries of a context by key of their lowest unplaced index (R130). -/
def Ctx.poolEntries (c : Ctx) (k : Fin 16) : List (Nat × Claim) :=
  let nodes := (c.steps.filter fun r => !r.cancelled).flatMap fun r =>
    ((List.range r.insts.length).filter fun n => (r.inst n).pooled).map fun n =>
      ((c.nodeTask k r n 1 ((r.inst n).unplaced.headD 0)).key, Claim.node r.step n)
  let aux := ((List.range c.aux.length).zip c.aux).filterMap fun a => if a.2.pooled then some (a.2.task.key, Claim.aux a.1) else none
  (nodes ++ aux).mergeSort fun a b => a.1 ≤ b.1

/-- One pool entry of the sweep; a service task placed is marked by taking its pool entry away (R131). -/
def Sweep.entry (k : Fin 16) (w : Sweep) (x : Claim) : Sweep :=
  let c := w.s.ctx k
  match x with
  | .node step n =>
    match c.run? step with
    | none => w
    | some r =>
      let d := c.node r.template n
      if d.kind = .calibration ∧ !(w.s.calibrationTick && w.s.time.slot == 0) then w
      else
        let ids := (r.inst n).unplaced
        let wait := d.fanoutSource == 7 && !(c.blockStaged step n (ids.headD 0))
        let w := if wait then { w with s := w.s.modCtx k (·.modStats fun t => { t with stageWaits := t.stageWaits + 1 }) } else w
        w.indices k step n ids
  | .aux i =>
    match c.aux[i]? with
    | none => w
    | some a =>
      match w.s.chooseTarget a.task w.taken with
      | none => w
      | some g =>
        let w := w.placed a.task g
        { w with s := w.s.modCtx k fun c => { c with aux := c.aux.modify i fun a => { a with pooled := false, ready := false } } }

/-! ### Balancing (R136–R138) -/

/-- Unstarted entries of a core, first-placed first. -/
def Core.unstarted (c : Core) : List PondEntry :=
  ([c.e0, c.e1].filter fun e => e.state == .loading || e.state == .valid || e.state == .invalid || e.state == .starting).mergeSort
    fun a b => a.order ≤ b.order

/-- Slots from boundary b to each unstarted entry's earliest start (R138). -/
def earliest (base : Nat) : List PondEntry → List (PondEntry × Nat)
  | [] => []
  | e :: es => (e, base) :: earliest (base + e.task.span) es

def Core.earliest (c : Core) : List (PondEntry × Nat) :=
  Sys2Proof.Machine.earliest (match c.serving with | some e => e.slotsLeft | none => 1) c.unstarted

/-- The entry an idle core takes (R137): its core and the entry. -/
def State.balanceCandidate (s : State) (k : Fin 16) (idle : Nat) (moved : List Nat) : Option (Nat × PondEntry) :=
  let c := s.ctx k
  let all := ((List.range 64).filter (· ≠ idle)).flatMap fun l =>
    ((s.core (lcidOf l)).earliest.filter fun p =>
      p.1.task.slot == k && p.1.task.floating && p.1.task.mask.getLsbD idle && !moved.contains p.1.order
        && (p.1.state == .loading || p.1.state == .valid) && decide (p.2 ≥ 1 + c.inForce.balThreshold)).map fun p => (l, p.1)
  (all.mergeSort fun a b => a.2.task.key ≤ b.2.task.key).head?

/-- Moves an entry to an idle core (R137, R138). -/
def State.moveEntry (s : State) (k : Fin 16) (idle l : Nat) (e : PondEntry) : State :=
  let s := s.modCore (lcidOf l) fun c =>
    if c.e0.order = e.order ∧ c.e0.state ≠ .free then { c with e0 := {} } else { c with e1 := {} }
  let s := s.modCore (lcidOf idle) (·.load { e with state := .loading, order := s.placeOrder, argHead := s.argHead k e.task, argPort := s.argPort e.task })
  let s := s.modCtx k fun c =>
    let c := if e.task.keepsAffinity then c.setAffinity e.task.template e.task.node idle else c
    (c.count 2).modStats fun t => { t with balanceMoves := t.balanceMoves + 1 }
  { s with placeOrder := s.placeOrder + 1 }

/-- Balances a context at the end of its sweep. -/
def State.balance (s : State) (k : Fin 16) (taken : List Nat) : State :=
  let c := s.ctx k
  if !c.inForce.balEn || c.mode == .scheduleExact then s
  else
    let idle := c.cores.filter fun l =>
      let q := s.core (lcidOf l)
      q.e0.state == .free && q.e1.state == .free && !taken.contains l
    (idle.foldl (fun (acc : State × List Nat) i =>
      match acc.1.balanceCandidate k i acc.2 with
      | some (l, e) => (acc.1.moveEntry k i l e, acc.1.placeOrder :: acc.2)
      | none => acc) (s, [])).1

/-- Step 5 of R115 for a context: the sweep, then balancing (R131). -/
def State.sweep (s : State) (k : Fin 16) : State :=
  if !s.works k then s
  else
    let w := ((s.ctx k).poolEntries k).foldl (fun w x => if w.s.works k then Sweep.entry k w x.2 else w) { s := s }
    let s := w.s.modCtx k fun c => { c with aux := c.aux.filter fun a => a.ready || a.after.isSome }
    if s.works k then s.balance k w.taken.cores else s

/-! ### Pond entries -/

/-- The pond's answer to a loaded entry (R23, R24): valid, or invalid with a descriptor fault. -/
def State.crcResult (s : State) (l : Fin 64) (second ok : Bool) (crc : BitVec 32) : State :=
  let q := s.core l
  let e := if second then q.e1 else q.e0
  if e.state ≠ .loading then s
  else
    let e' := { e with state := if ok then .valid else .invalid }
    let s := s.setCore l (if second then { q with e1 := e' } else { q with e0 := e' })
    if ok then s else s.taskFault e.task l.val 0x02 e.task.node crc.toNat .normal

def execPondCrcResult (lcid : Fin 64) (entry : Bool) (ok : Bool) (crc : BitVec 32) (s : State) : Host.Outcome State Fault Refusal :=
  .next (s.crcResult lcid entry ok crc)

/-- The core reports the end of its task (R25). -/
def State.taskReport (s : State) (l : Fin 64) (r : EndReport) : State :=
  let f (e : PondEntry) := if e.state = .inService then e.reported r else e
  s.modCore l (·.mapEntries f)

def execTaskEnd (lcid : Fin 64) (r : EndReport) (s : State) : Host.Outcome State Fault Refusal := .next (s.taskReport lcid r)

/-- Position of an LCID in its cluster (R20). -/
def State.position (s : State) (l : Nat) : Nat :=
  ((List.range l).filter fun n => decide (n < max s.cfg.coreMap.length 64) && s.clusterOf n == s.clusterOf l).length

/-- The stagger offset of a core in ac (R140). -/
def State.stagger (s : State) (l : Nat) : Nat := 4 * s.position l

/-- The execution window of a task closes (R140): code still executing stops, waits in progress are abandoned, what Puska has
not accepted is not accepted. -/
def State.windowClose (s : State) (l : Fin 64) : State :=
  match (s.core l).serving with
  | none => s
  | some e =>
    if e.slotsLeft > 1 ∨ s.time.inMargin ∨ s.time.offset < 224 + s.stagger l.val ∨ !(s.ctx e.task.slot).runs then s
    else
      let close (e : PondEntry) : PondEntry :=
        if e.state = .inService then { e with windowClosed := true } else e
      let s := s.sendTests
      let s := { s with
        cntOps := s.cntOps.filter fun o => !(o.lcid == l.val && o.due.isNone)
        units := s.units.map fun (u : CflUnit) => { u with behind := u.behind.filter (·.lcid != l.val) } }
      s.modCore l fun c =>
        { c.mapEntries close with cntWait := none, sendWait := none, recvWait := none, laneQueue := [], offers := [], inletWait := [] }

def execWindowClose (lcid : Fin 64) (s : State) : Host.Outcome State Fault Refusal := .next (s.windowClose lcid)

/-- Returns an unstarted task to its context (R26): its index awaits placement again, and its flow is released, since the task is no
longer placed (DESIGN CHOICE, log entry 130). -/
def Ctx.returnTask (c : Ctx) (t : Task) : Ctx :=
  let c := match t.flow with | some f => { c with flowsHeld := c.flowsHeld.erase f } | none => c
  match t.service with
  | .node => c.modRun t.step (·.modInst t.node fun i => { i with returned := i.returned ++ [t.fanout] })
  | _ => { c with aux := c.aux ++ [{ task := t, ready := true, pooled := true }] }

/-- Whether an entry holds an unstarted task. -/
def PondEntry.unstarted (e : PondEntry) : Bool :=
  e.state == .loading || e.state == .valid || e.state == .invalid || e.state == .starting

/-- Flushes the unstarted entries of a core that satisfy a test, returning their tasks if asked (R26). -/
def State.flushCore (s : State) (l : Fin 64) (p : Task → Bool) (back : Bool) : State :=
  let q := s.core l
  let one (s : State) (e : PondEntry) : State :=
    if e.unstarted && p e.task then
      (if back then s.modCtx e.task.slot (·.returnTask e.task)
       else s.modCtx e.task.slot fun c => match e.task.flow with
         | some f => { c with flowsHeld := c.flowsHeld.erase f }
         | none => c)
    else s
  let s := one (one s q.e0) q.e1
  let clear (e : PondEntry) : PondEntry := if e.unstarted && p e.task then {} else e
  s.modCore l (·.mapEntries clear)

/-- Parks the unstarted entries of a context's cores: the flush of a hold or a halt (R26, R141). -/
def State.park (s : State) (k : Fin 16) : State :=
  let mine (e : PondEntry) : Bool := e.unstarted && e.task.slot == k
  let out := allCores.flatMap fun l =>
    let q := s.core l
    [(l.val, false, q.e0), (l.val, true, q.e1)].filter fun x => mine x.2.2
  let s := { s with cores := s.cores.map fun (q : Core) => q.mapEntries fun e => if mine e then {} else e }
  s.modCtx k fun c => { c with parked := c.parked ++ out }

/-- Reloads parked entries into the same cores and entries, which stand as they stood when they were flushed (R141; log entry 137). -/
def State.reload (s : State) (k : Fin 16) : State :=
  let s := (s.ctx k).parked.foldl (fun s x =>
    s.modCore (lcidOf x.1) fun q => if x.2.1 then { q with e1 := x.2.2 } else { q with e0 := x.2.2 }) s
  s.modCtx k fun c => { c with parked := [] }

/-- The pond entries of a context, the parked ones among them. -/
def State.pondOf (s : State) (k : Fin 16) : List PondEntry :=
  (s.cores.toList.flatMap fun c => [c.e0, c.e1].filter (·.holds k)) ++ (s.ctx k).parked.map (·.2.2)

/-- Flushes the unstarted entries of a context, the parked ones among them. -/
def State.flush (s : State) (k : Fin 16) (p : Task → Bool) (back : Bool) : State :=
  allCores.foldl (fun s l => s.flushCore l (fun t => t.slot == k && p t) back) (s.reload k)

/-! ### The start decision (R139, R145, R148) -/

/-- The effective share of a context (R146). -/
def State.effectiveShare (s : State) (k : Fin 16) : Nat := (s.ctx k).share * s.gov.fraction / 16

/-- Whether a task in service is still in service during the coming slot. -/
def State.stays (s : State) (e : PondEntry) : Bool :=
  e.state == .inService && (decide (e.slotsLeft > 1) || (s.time.inMargin && decide (e.slotsLeft > 0)))

/-- Running energy of a context in the coming slot (R145). -/
def State.runningEnergy (s : State) (k : Fin 16) : Nat :=
  (s.cores.toList.map fun c => (([c.e0, c.e1].filter fun e => (s.stays e || e.state == .starting) && e.task.slot == k).map (·.task.energy)).sum).sum

/-- The candidate of a core (R139): its first-placed unstarted entry, valid, on a core without a task in the coming slot. -/
def State.candidate (s : State) (l : Fin 64) : Option PondEntry :=
  let q := s.core l
  if s.stays q.e0 || s.stays q.e1 then none
  else match q.unstarted with
    | e :: _ => if e.state = .valid then some e else none
    | [] => none

/-- The candidates of a context, as (core, entry) in ascending key. -/
def State.candidates (s : State) (k : Fin 16) : List (Fin 64 × PondEntry) :=
  (allCores.filterMap fun l => match s.candidate l with
    | some e => if e.task.slot = k then some (l, e) else none
    | none => none).mergeSort fun a b => a.2.task.key ≤ b.2.task.key

/-- The prefix of the candidates the governor admits (R145). -/
def admitted (share : Nat) : Nat → List (Fin 64 × PondEntry) → List (Fin 64 × PondEntry)
  | _, [] => []
  | r, x :: xs => if r + x.2.task.energy ≤ share then x :: admitted share (r + x.2.task.energy) xs else []

/-- Asserts the start of an entry. -/
def State.assertStart (s : State) (l : Fin 64) (order : Nat) : State :=
  s.modCore l (·.mapEntries fun e => if e.state = .valid ∧ e.order = order then { e with state := .starting } else e)

/-- The start decision of one context (R139, R145, R148). -/
def State.decideStarts (s : State) (ilimit : Bool) (k : Fin 16) : State :=
  if !s.works k then s
  else
    let all := s.candidates k
    let visit := if ilimit then all.filter fun x => x.2.task.energy == 0 else all
    let go := admitted (s.effectiveShare k) (s.runningEnergy k) visit
    let deferred := all.length - go.length
    let limited := ilimit && all.any fun x => x.2.task.energy != 0
    let s := go.foldl (fun s x => s.assertStart x.1 x.2.order) s
    let s := s.modCtx k fun c =>
      let c := if limited then (c.count 8).cause 3 else c
      c.modStats fun t => { t with deferredStarts := t.deferredStarts + deferred }
    if s.obs.run = .on then { s with obs := { s.obs with defer := wrap 64 (s.obs.defer + deferred) } } else s

/-- START_DECISION: the cycles up to the decision pass, and every context is decided where the rails agree; where the comparison of ac 240
will find a difference, no start is asserted and the die is fenced there (R127, R139, R148, R391). -/
def State.startDecision (s : State) (ilimit rails : Bool) : State :=
  if s.safety.fenced || !s.time.tickRunning then s
  else
    let wait := match s.acLeft with
      | some n => if s.time.inMargin then n - 31 else 224 - s.time.offset
      | none => 0
    let s := s.advance wait
    if !rails then
      let s := s.advance (min 16 (s.acLeft.getD 0))
      s.fence 0x80 s.time.slot (Config.compareVector s.time.ac).toNat
    else
      let s := if ilimit then
          { s with gov := { s.gov with ilimitSlots := wrap 32 (s.gov.ilimitSlots + 1) } }.raise 0x18 0
        else s
      let s := { s with gov := { s.gov with ilimitAll := s.gov.ilimitAll && ilimit, ilimitAny := s.gov.ilimitAny || ilimit } }
      allSlots.foldl (·.decideStarts ilimit ·) s

def execStartDecision (ilimit railsAgree : Bool) (s : State) : Host.Outcome State Fault Refusal :=
  .next (s.startDecision ilimit railsAgree)

/-! ### Starts at a boundary -/

/-- Starts an entry at the boundary just reached (R95, R140). -/
def State.startEntry (s : State) (l : Fin 64) : State :=
  let q := s.core l
  let go (e : PondEntry) : PondEntry :=
    if e.state = .starting ∧ (s.ctx e.task.slot).runs then
      { e with
        state := .inService, slotsLeft := e.task.span, startAc := s.time.ac + s.stagger l.val
        form := e.form.take 116 ++ leBytes 8 s.stamp ++ e.form.drop 124 }
    else e
  let began := [q.e0, q.e1].filter fun e => e.state == .starting && (s.ctx e.task.slot).runs
  match began with
  | [] => s
  | e :: _ =>
    let s := s.setCore l (q.clearTask.mapEntries go)
    s.modCtx e.task.slot (·.digestTask s.slotCode 3 1 l.val e.task 0 0)

/-- The starts asserted for the boundary (R139, R140). A context stopped by a fault starts nothing (R513). -/
def State.startAll (s : State) : State :=
  allCores.foldl (fun s l =>
    let q := s.core l
    if [q.e0, q.e1].any fun e => e.state == .starting && (s.ctx e.task.slot).fault.isSome then s else s.startEntry l) s

end Sys2Proof.Machine
end

