-- ==== Sys2Proof/Machine/Threads.lean ====
section
/-! DEFINITION. Control threads (R153–R158): the commands of CTRL_IF and their effect at the next slot boundary, release and
switching; and the halt of a context by a breakpoint, an external trigger or a relay (R437). -/

namespace Sys2Proof.Machine

/-! ### Halting a context (R437) -/

/-- A halt record (R427 type 0x12). -/
def haltRecord (stamp cause bp ctid : Nat) (ids : Nat × Nat) : Bytes :=
  leBytes 8 stamp ++ leBytes 1 0x12 ++ leBytes 1 cause ++ leBytes 2 ids.1 ++ leBytes 2 ids.2 ++ zeros 2
    ++ leBytes 1 bp ++ leBytes 1 ctid ++ zeros 14

/-- Stands for the breakpoint id in the halt of a lock-step divergence, which is no breakpoint's (R358); ids have 8 bits (R427). -/
def lockstepBp : Nat := 0x100

/-- Halts a context at the current boundary, one held under R64 too: cause 0 breakpoint, 1 external trigger, 2 relayed (R76, R437).
Its loading and its valid unstarted entries are flushed, to be reloaded before it resumes (R141). -/
def State.haltContext (s : State) (k : Fin 16) (cause bp ctid : Nat) (ids : Nat × Nat := (0xFFFF, 0xFFFF)) : State :=
  if (s.ctx k).phase ≠ .running ∨ (s.ctx k).launched = false ∨ (s.ctx k).halted = true then s
  else
    let stamp := s.stamp
    let s := s.modCtx k fun c =>
      let c := (c.cause 7).capture stamp puskaOrder false (haltRecord stamp cause bp ctid ids)
      { c with
        halted := true, haltCause := cause, began := { c.began with haltIds := ids }, haltBreakpoint := if cause = 0 then bp else c.haltBreakpoint
        haltTick := c.tick, haltDieTick := s.time.localTick, haltSlot := s.time.slot, resumeGtc := none, resumeTaken := false }
    let s := (s.haltCores k).park k
    let s := if bp = lockstepBp then s else s.raise (ctxPage k) 7
    let s := if cause = 0 then s.trigger k 5 bp ids.1 ids.2 else s
    if (s.ctx k).multiMember ∧ cause ≠ 2 then s.sendCtrl k (s.headwaterAddr k) (.haltRelay cause bp) else s

/-! ### Issuing commands -/

/-- The running frame of a control core. -/
def State.runningFrame (s : State) (c : Fin 8) : Option (Fin 8) := allCtrl.find? fun f => (s.frame c f).state == .running

/-- A command of the running thread of a control core: it waits for the next slot boundary (R154), and it is progress (R179). -/
def State.threadCommand (s : State) (c : Fin 8) (m : ThreadCmd) : State :=
  match s.runningFrame c with
  | none => s
  | some f =>
    let v := s.frame c f
    if (s.ctx v.task.slot).runs then
      (s.setFrame c f { v with commands := v.commands ++ [m] }).modCtx v.task.slot fun c => { c with progress := true }
    else s

/-- SET_FLAGS (R154, R155). -/
def execSetFlags (ctid : Fin 8) (nextStep : Bool) (node : Nat) (flags : BitVec 32) (s : State) : Host.Outcome State Fault Refusal :=
  .next (s.threadCommand ctid (.setFlags nextStep node flags))

/-- WAIT_FLAGS (R154, R156). -/
def execWaitFlags (ctid : Fin 8) (mask : BitVec 24) (any : Bool) (s : State) : Host.Outcome State Fault Refusal :=
  .next (s.threadCommand ctid (.waitFlags mask any))

/-- WAIT_COUNTER (R154–R156). -/
def execWaitCounter (ctid : Fin 8) (vid : BitVec 20) (target : BitVec 48) (s : State) : Host.Outcome State Fault Refusal :=
  .next (s.threadCommand ctid (.waitCounter vid.toNat target.toNat))

/-- YIELD (R154, R157). -/
def execYield (ctid : Fin 8) (s : State) : Host.Outcome State Fault Refusal := .next (s.threadCommand ctid .yield)

/-- END (R154, R158). -/
def execEndThread (ctid : Fin 8) (status : BitVec 8) (s : State) : Host.Outcome State Fault Refusal :=
  .next (s.threadCommand ctid (.endThread status.toNat))

/-- BREAK (R154, R437). -/
def execBreakThread (ctid : Fin 8) (id : BitVec 8) (s : State) : Host.Outcome State Fault Refusal :=
  .next (s.threadCommand ctid (.break_ id.toNat))

/-- A reserved command code (R154). -/
def execReservedThreadCommand (ctid : Fin 8) (code : BitVec 4) (s : State) : Host.Outcome State Fault Refusal :=
  .next (s.threadCommand ctid (.reserved code.toNat))

/-! ### Effects at a slot boundary -/

/-- An instance of a node has ended with normal status; the node completes with its last (R108, R120). -/
def State.instanceEnded (s : State) (k : Fin 16) (t : Task) : State :=
  let c := s.ctx k
  match c.run? t.step with
  | none => s
  | some r =>
    if r.cancelled then s
    else
      let i := r.inst t.node
      let s := s.modCtx k (·.modRun t.step (·.modInst t.node fun i => { i with ended := i.ended + 1 }))
      if i.ended + 1 ≥ i.count ∧ i.count ≤ i.placed ∧ i.returned = [] then s.completeNode k t.step t.node else s

/-- Frees a frame and its flow. -/
def State.freeThread (s : State) (c f : Fin 8) (t : Task) : State :=
  (s.setFrame c f {}).modCtx t.slot fun x => match t.flow with | some g => { x with flowsHeld := x.flowsHeld.erase g } | none => x

/-- A thread fault: the thread ends, with its end in the lock-step list (R155, R158, R356, R389); the status there is
that of its END, or the fault's own code where no END gives one (DESIGN CHOICE, log entry 138). -/
def State.threadFault (s : State) (c f : Fin 8) (code status : Nat) : State :=
  let t := (s.frame c f).task
  let s := (s.freeThread c f t).modCtx t.slot (·.digestTask s.slotCode 0 2 (0x80 + c.val) t (if code = 5 then status else code) 0)
  s.taskFault t (0x80 + c.val) 0x05 code status .normal

/-- SET_FLAGS takes effect (R155). -/
def Ctx.threadFlags (c : Ctx) (t : Task) (nextStep : Bool) (node : Nat) (flags : BitVec 32) : Ctx :=
  if !nextStep then c.flagNode t.step node flags
  else match c.run? (t.step + 1) with
    | some _ => c.flagNode (t.step + 1) node flags
    | none => if c.nextStep = t.step + 1 then c.addTally t.template node 0 flags else c

/-- Node count of the step a SET_FLAGS names. -/
def Ctx.flagNodeCount (c : Ctx) (t : Task) (nextStep : Bool) : Nat :=
  let tpl := if nextStep then ((c.run? (t.step + 1)).map (·.template)).getD t.template else t.template
  (c.template tpl).nodes.length

/-- One thread command takes effect (R154). -/
def State.threadEffect (s : State) (c f : Fin 8) (m : ThreadCmd) : State :=
  let v := s.frame c f
  let t := v.task
  let k := t.slot
  if v.state = .free then s
  else match m with
    | .setFlags nx node flags =>
      if flags.toNat ≥ 2 ^ 24 ∨ node ≥ (s.ctx k).flagNodeCount t nx then s.threadFault c f 1 0
      else s.modCtx k (·.threadFlags t nx node flags)
    | .waitFlags mask any => s.setFrame c f { v with state := .onFlags mask any, since := s.time.slotCount }
    | .waitCounter vid target =>
      if vid = 0xFFFFF ∨ ((s.ctx k).counter? vid).isNone then s.threadFault c f 3 0
      else s.setFrame c f { v with state := .onCounter vid target, since := s.time.slotCount }
    | .yield => s.setFrame c f { v with state := .ready }
    | .endThread status =>
      if status = 0 then
        let s := (s.freeThread c f t).modCtx k fun x =>
          { x.digestTask s.slotCode 0 2 (0x80 + c.val) t 0 0 with progress := true }
        s.instanceEnded k t
      else s.threadFault c f 5 status
    | .break_ id => s.haltContext k 0 id c.val (t.layer, t.operatorId)
    | .reserved code => s.threadFault c f code 0

/-- The commands of one frame take effect in the order they were issued. -/
def State.frameEffects (s : State) (c f : Fin 8) : State :=
  let v := s.frame c f
  if v.commands.isEmpty || !(s.works v.task.slot) then s
  else
    let s := v.commands.foldl (·.threadEffect c f ·) s
    s.setFrame c f { s.frame c f with commands := [] }

/-- Every frame of the die. -/
def allFrames : List (Fin 8 × Fin 8) := allCtrl.flatMap fun c => allCtrl.map fun f => (c, f)

/-- The thread commands issued since the last slot boundary take effect (R154). -/
def State.threadCommands (s : State) : State := allFrames.foldl (fun s p => s.frameEffects p.1 p.2) s

/-- A frame loaded during the slot just ended is ready (R153). -/
def State.framesLoaded (s : State) : State :=
  allFrames.foldl (fun s p =>
    let v := s.frame p.1 p.2
    if v.state = .loading ∧ s.works v.task.slot then s.setFrame p.1 p.2 { v with state := .ready } else s) s

/-- Whether a blocked thread's condition holds (R156). -/
def Ctx.threadReleased (c : Ctx) (v : Frame) : Bool :=
  match v.state with
  | .onFlags mask any =>
    match c.run? v.task.step with
    | some r => waitHolds any (mask.zeroExtend 32) (r.inst v.task.node).flags
    | none => false
  | .onCounter vid target => decide (c.counterValue vid ≥ target)
  | _ => false

/-- Blocked threads of a context are released (step 3 of R115, R156). -/
def State.releaseThreads (s : State) (k : Fin 16) : State :=
  allFrames.foldl (fun s p =>
    let v := s.frame p.1 p.2
    if v.task.slot = k ∧ (s.ctx k).threadReleased v then s.setFrame p.1 p.2 { v with state := .ready } else s) s

/-- The ready frame with the lowest key (R157). -/
def State.nextThread (s : State) (c : Fin 8) : Option (Fin 8) :=
  ((allCtrl.filter fun f => (s.frame c f).state == .ready && s.works (s.frame c f).task.slot).mergeSort fun a b =>
    (s.frame c a).task.key ≤ (s.frame c b).task.key).head?

/-- Switches a thread in. -/
def State.switchIn (s : State) (c f : Fin 8) : State :=
  let v := s.frame c f
  let s := s.setFrame c f { v with state := .running, slice := 0, started := true }
  if v.started then s else s.modCtx v.task.slot (·.digestTask s.slotCode 3 1 (0x80 + c.val) v.task 0 0)

/-- The thread switch of one control core (R157). -/
def State.threadSwitch (s : State) (c : Fin 8) : State :=
  let others := allCtrl.any fun f => (s.frame c f).state == .ready && s.works (s.frame c f).task.slot
  let s := match s.runningFrame c with
    | some f =>
      let v := s.frame c f
      if v.slice ≥ v.task.span ∧ others ∧ s.works v.task.slot then s.setFrame c f { v with state := .ready } else s
    | none => s
  match s.runningFrame c, s.nextThread c with
  | none, some f => s.switchIn c f
  | _, _ => s

/-- One slot of the running threads has passed (R157). -/
def State.threadSlot (s : State) : State :=
  allFrames.foldl (fun s p =>
    let v := s.frame p.1 p.2
    if v.state = .running ∧ (s.ctx v.task.slot).runs then s.setFrame p.1 p.2 { v with slice := v.slice + 1 } else s) s

end Sys2Proof.Machine
end

