-- ==== Sys2Proof/Machine/Drain.lean ====
section
/-! DEFINITION. The trace drain (R420–R423, R431): chunks of the trace ring, their encryption under the dump key, where
they are written, and the stop of a capture. -/

namespace Sys2Proof.Machine

/-- Payload bytes of a chunk (R420). -/
def chunkPayload : Nat := 65472

/-- The longest run of whole records that fits in a room. -/
def takeRecords : Nat → List (Bool × Bytes) → List (Bool × Bytes) × List (Bool × Bytes)
  | _, [] => ([], [])
  | room, r :: rs =>
    if r.2.length ≤ room then
      let (a, b) := takeRecords (room - r.2.length) rs
      (r :: a, b)
    else ([], r :: rs)

/-- A pad unit (R420). -/
def padUnit : Bytes := zeros 8 ++ leBytes 1 0x03 ++ zeros 7

/-- Chunks in the drain area (R420); zero where the image declares none. -/
def Ctx.drainChunks (c : Ctx) : Nat := ((c.symbol? 0xFFFF 0xFFD1).map (·.length / 65536)).getD 0

/-- Chunks after the trigger's of a trigger-centred capture (R431). -/
def Ctx.postChunks (c : Ctx) : Nat := max 1 (c.drainChunks * bits c.trace.effective.toNat 12 9 / 16)

/-- Whether the chunk of a serial ends its capture (R431). -/
def Ctx.finalChunk (c : Ctx) (serial : Nat) (centre : Option Nat) : Bool :=
  match bits c.trace.effective.toNat 8 7, centre with
  | 0, _ => decide (serial + 1 - c.trace.startSerial ≥ c.drainChunks)
  | 2, some ct => decide (serial ≥ ct + c.postChunks)
  | _, _ => false

/-- Forms the next chunk (R420); none while one is being written. A padded chunk that leaves records behind is a full one, and the one
that leaves none of a stopped capture is its final one (R421, R423). -/
def Ctx.formChunk (c : Ctx) (now : Nat) (padded stop : Bool) : Ctx :=
  let t := c.trace
  if t.chunk.isSome || c.drainChunks == 0 then c
  else
    let (mine, rest) := takeRecords chunkPayload t.ring
    let trigger := mine.any (·.1)
    let centre := if trigger && t.centre.isNone then some t.nextSerial else t.centre
    let k : Chunk :=
      { serial := t.nextSerial, used := (mine.map fun r => r.2.length).sum, trigger := trigger
        final := (stop && rest.isEmpty && t.queue.isEmpty) || (t.capturing && c.finalChunk t.nextSerial centre)
        padded := padded && rest.isEmpty
        bytes := (mine.map (·.2)).flatten, ends := now + 2 }
    { c with trace := { t with ring := rest, chunk := some k, nextSerial := t.nextSerial + 1, centre := centre } }

/-- Bytes 0–31 of a chunk's header (R421). -/
def chunkHead (cxid instanceAddr : Nat) (k : Chunk) : Bytes :=
  leBytes 8 0x454352544B535550 ++ leBytes 2 1 ++ leBytes 2 cxid ++ leBytes 4 instanceAddr ++ leBytes 6 k.serial
    ++ leBytes 2 (b2n k.trigger + 2 * b2n k.final + 4 * b2n k.padded) ++ leBytes 4 k.used ++ zeros 4

/-- The dump key of a context slot (R404). -/
def State.dumpKey (s : State) (k : Fin 16) : Bytes := ((s.steward.keys[k.val]).map (·.dumpKey)).getD []

/-- A 96-bit initialisation vector of Puska (R325, R422, R436). -/
def ivOf (instanceAddr serial low : Nat) : Bytes := leBytes 2 low ++ leBytes 6 serial ++ leBytes 4 instanceAddr

/-- A chunk as it lies in the drain area (R420–R422). -/
def State.chunkBytes (s : State) (k : Fin 16) (q : Chunk) : Bytes :=
  let head := chunkHead (s.ctx k).cxid s.cfg.instanceAddr q
  let plain := q.bytes ++ (List.replicate ((chunkPayload - q.used) / 16) padUnit).flatten
  let (ct, tag) := gcmEncrypt (s.dumpKey k) (ivOf s.cfg.instanceAddr q.serial 0xFFFF) head plain
  head ++ tag ++ zeros 16 ++ ct

/-- The write of a chunk ends: its ring bytes are free, and the capture may stop, unless it has been armed anew since (R420, R431, R492). -/
def State.endChunk (s : State) (k : Fin 16) : State :=
  let c := s.ctx k
  match c.trace.chunk, c.symbol? 0xFFFF 0xFFD1 with
  | some q, some area =>
    let s := { s with mem := s.mem.writeBytes (area.address + q.serial % max c.drainChunks 1 * 65536) (s.chunkBytes k q) }
    let s := s.modCtx k fun c => { c with trace := { c.trace with chunk := none } }
    if q.final && decide (q.serial ≥ c.trace.startSerial) then
      let s := s.modCtx k fun c => { c with trace := { c.trace with capture := .stopped, ring := [], queue := [], queued := 0 } }
      if c.trace.capturing then s.raise (ctxPage k) 6 else s
    else s
  | _, _ => s

/-- CHUNK_DRAIN: a chunk is formed once the ring holds 65,472 undrained bytes (R420). What a freeze has saved is drained after the thaw
(R423). -/
def State.chunkDrain (s : State) (k : Fin 16) : State :=
  let c := s.ctx k
  if c.phase = .running ∧ (c.trace.ring.map fun r => r.2.length).sum ≥ chunkPayload then s.setCtx k (c.formChunk s.time.slotCount false false) else s

def execChunkDrain (slot : Fin 16) (s : State) : Host.Outcome State Fault Refusal := .next (s.chunkDrain slot)

/-- CHUNK_WRITTEN: two slots after the chunk was formed (R420). -/
def State.chunkWritten (s : State) (k : Fin 16) : State :=
  match (s.ctx k).trace.chunk with
  | some q => if q.ends ≤ s.time.slotCount then s.endChunk k else s
  | none => s

def execChunkWritten (slot : Fin 16) (s : State) : Host.Outcome State Fault Refusal := .next (s.chunkWritten slot)

/-- The flush of a teardown (R423): every record that is left, in padded chunks; `fuel` bounds their number. -/
def State.drainAll (s : State) (k : Fin 16) : Nat → State × Nat
  | 0 => (s, 0)
  | fuel + 1 =>
    let c := s.ctx k
    if c.trace.chunk.isSome then
      let (s, n) := State.drainAll (s.endChunk k) k fuel
      (s, n + 1)
    else if c.trace.ring.isEmpty || c.drainChunks == 0 then (s, 0)
    else State.drainAll (s.setCtx k (c.formChunk s.time.slotCount true true)) k fuel

/-- The flush with the queue's records moved to the ring first. -/
def State.teardownFlush (s : State) (k : Fin 16) : State × Nat :=
  let s := s.modCtx k fun c =>
    { c with trace := { c.trace with ring := c.trace.ring ++ c.trace.queue.map fun r => (r.trigger, r.bytes), queue := [], queued := 0 } }
  s.drainAll k (2 * (s.ctx k).trace.ring.length + 2)

end Sys2Proof.Machine
end

