-- ==== Sys2Proof/Machine/Ends.lean ====
section
/-! DEFINITION. Task ends (R25, R140, R389), the completion of a step (R102, R316, R456), the cancellation of steps (R103,
R112, R261) and the teardown of a context (R334, R513). -/

namespace Sys2Proof.Machine

/-! ### Dumps -/

/-- A dump completion record (R434, R456). -/
def State.dumpRecord (s : State) (k : Fin 16) (reason nameId step dest : Nat) : State :=
  s.pushRec { kind := 7, cxid := (s.ctx k).cxid, ctx := some k, due := s.nextTick, detail := .dumped reason nameId step dest }

/-- The output of a dump (R436): header, tag and ciphertext. -/
def State.dumpOutput (s : State) (k : Fin 16) (x : Symbol) (step : Nat) : Bytes :=
  let c := s.ctx k
  let at_ := x.address + step % max x.stepRing 1 * x.stepStride * 64
  let plain := if x.external then s.mem.readBytes at_ x.length else s.spadBytes k x.lcid at_ x.length
  let head := leBytes 8 0x504D5544_4B535550 ++ leBytes 2 1 ++ leBytes 2 c.cxid ++ leBytes 4 x.nameId ++ leBytes 5 step
    ++ leBytes 1 x.format ++ leBytes 2 x.layer ++ leBytes 2 x.operatorId ++ zeros 2 ++ leBytes 4 s.cfg.instanceAddr
    ++ leBytes 4 x.length ++ zeros 4
  let (ct, tag) := gcmEncrypt (s.dumpKey k) (ivOf s.cfg.instanceAddr c.dumpSerial 0) head plain
  head ++ leBytes 6 c.dumpSerial ++ zeros 10 ++ tag ++ zeros 56 ++ ct

/-- A dump instance ends (R434–R436): its output is in place, the producer's successors are released, its record falls due. -/
def State.dumpEnd (s : State) (t : Task) (nameId dest : Nat) : State :=
  let k := t.slot
  let c := s.ctx k
  if (c.run? t.step).all (·.cancelled) then s
  else match c.image.symbols.find? fun x => x.nameId == nameId with
    | none => s
    | some x =>
      let out := s.dumpOutput k x t.step
      let after := (succOf c.image (c.node t.template x.node)).filter fun e => e.decrement && !e.nextStep
      let s := { s with mem := s.mem.writeBytes dest out }
      let s := s.modCtx k fun c =>
        let c := after.foldl (fun c e => c.modRun t.step (·.modInst e.target (·.dec))) c
        { c with dumpSerial := c.dumpSerial + 1 }
      s.dumpRecord k 0 nameId t.step dest

/-- Whether a task is a dump of a step. -/
def Task.dumps (t : Task) (step : Nat) : Bool := t.step == step && (match t.service with | .dump _ _ => true | _ => false)

/-- The dump tasks of a step that have not ended. -/
def State.openDumps (s : State) (k : Fin 16) (step : Nat) : List Task :=
  ((s.ctx k).aux.filterMap fun a => if a.task.dumps step then some a.task else none) ++
    ((s.pondOf k).filter fun e => e.task.dumps step).map (·.task)

/-! ### Task ends -/

/-- What the normal end of a task does (R108, R232, R233, R279, R280, R294, R299, R435). -/
def State.normalEnd (s : State) (t : Task) : State :=
  let k := t.slot
  let live := (((s.ctx k).run? t.step).map fun r => !r.cancelled).getD true
  match t.service with
  | .node =>
    let s := if t.kind = .fetch then s.fetchEnd t else s
    s.instanceEnded k t
  | .serve _ _ length members => s.serveEnd t length members
  | .staging n i => if s.stageConfirmed k t.step n i then s.modCtx k (·.stageEnd t.step n i) else s
  | .move q gen g y p tier frame => s.moveEnd k q gen g y p tier frame
  | .importPage q _ _ _ => if live then s.importEnd k q else s
  | .exportPage q _ _ _ => s.exportEnd k q
  | .dump nameId dest => s.dumpEnd t nameId dest

/-- The page a failed CRC check names (R291): sequence and page. -/
def State.crcPage (s : State) (t : Task) (entry : Nat) : Option (Nat × Nat) :=
  match t.service with
  | .staging n i =>
    ((s.ctx t.slot).ledger.stages.find? fun g => g.step == t.step && g.node == n && g.index == i).map fun g => (g.seq, g.firstPage + entry)
  | .move q _ _ _ p _ _ => some (q, p)
  | _ => none

/-- What follows from a task's end status (R25, R34, R291, R389). -/
def State.statusEnd (s : State) (l : Fin 64) (t : Task) (r : EndReport) : State :=
  match r.status with
  | .normal => (s.modCtx t.slot fun c => { c with progress := true }).normalEnd t
  | .spanOverrun => s.taskFault t l.val 0x03 t.span 0 .spanOverrun
  | .engineFault =>
    match (if r.code = 0xFF then s.crcPage t r.detail else none) with
    | some (q, p) => s.taskFault t l.val 0x16 q p .engineFault
    | none => s.taskFault t l.val 0x04 r.code r.detail .engineFault
  | .halted => s

/-- An open packet left behind by a task is misuse; a dropped one is removed (R209, R210 row 4). -/
def State.packetEnd (s : State) (l : Fin 64) (t : Task) : State :=
  match s.openPacket l.val with
  | none => s
  | some p =>
    let s := s.setOpen l.val fun _ => none
    if p.dropped then s else s.recordFault t l.val 4 p.openRec

/-- The report a task's end boundary finds: none is a span overrun, or halted on a core halted before the window closed (R25, R140). -/
def endReport (halted : Bool) (e : PondEntry) : EndReport :=
  e.report.getD (if halted && !e.windowClosed then { status := .halted } else { status := .spanOverrun })

/-- What the end of a task does for the staging regions whatever its status: a block's reader releases it, a staging task is no longer
under way (R295, R298). -/
def Ctx.blockEnd (c : Ctx) (t : Task) : Ctx :=
  match t.service with
  | .node => if (c.node t.template t.node).fanoutSource = 7 then c.releaseStage t.step t.node t.fanout else c
  | .staging n i => c.endStage t.step n i
  | _ => c

/-- The end of the task in service on a core takes effect (R25, R140, R191). -/
def State.endTask (s : State) (l : Fin 64) (e : PondEntry) : State :=
  let t := e.task
  let r := endReport (s.core l).halted e
  let crc := (s.core l).crc
  let clear (x : PondEntry) : PondEntry := if x.state = .inService then {} else x
  let s := s.modCore l fun c => (c.mapEntries clear).clearTask
  let s := s.discardStalled t.slot fun n => match (s.ctx t.slot).ring? n with | some q => q.closesWith l.val | none => false
  let s := s.modCtx t.slot fun c =>
    let c := match t.flow with | some f => { c with flowsHeld := c.flowsHeld.erase f } | none => c
    let c := if c.mode = .scheduleExact ∧ r.cache then c.count 4 else c
    ((c.closeRings l.val).blockEnd t).digestTask s.slotCode 0 2 l.val t r.status.code r.checksum
  let s := s.packetEnd l t
  let live := (((s.ctx t.slot).run? t.step).map fun r => !r.cancelled).getD true
  let s := match crc with | some x => if r.status = EndStatus.normal then s.reportedCrc t live x else s | none => s
  s.statusEnd l t r

/-- The tasks whose spans close at this boundary, by key. -/
def State.endings (s : State) : List (Fin 64 × PondEntry) :=
  (allCores.filterMap fun l => match (s.core l).serving with
    | some e => if e.slotsLeft = 0 ∧ (s.ctx e.task.slot).runs then some (l, e) else none
    | none => none).mergeSort fun a b => a.2.task.key ≤ b.2.task.key

/-- Step 1 of R115 for compute cores. -/
def State.ends (s : State) : State := s.endings.foldl (fun s x => s.endTask x.1 x.2) s

/-! ### Step completion -/

/-- The step completion record (R370, R456). -/
def stepRec (c : Ctx) (k : Fin 16) (r : StepRun) (status due : Nat) : Rec :=
  { kind := 2, cxid := c.cxid, ctx := some k, due := due,
    detail := .step r.step status r.template r.startTick (sat 32 (c.ndetTotal - r.ndetStart)) r.mask.toNat
      (sat 32 (c.stats.igaugeTicks - r.igaugeStart)) r.batch.length }

/-- Files a record of a step that completed: at the next tick start, or in lock-step once its tick compares equal (R357). -/
def State.stepRecord (s : State) (k : Fin 16) (r : Rec) : State :=
  let c := s.ctx k
  if c.withheld then s
  else if c.lock.active then s.modCtx k fun c => { c with lock := { c.lock with waitRecs := c.lock.waitRecs ++ [(c.tick, r)] } }
  else s.pushRec r

/-- The die tick at whose start a step that completes now has its record written. -/
def State.recordDue (s : State) (k : Fin 16) : Nat :=
  let c := s.ctx k
  if c.lock.active then s.time.localTick + max c.horizon 1 else s.nextTick

/-- The guarded record tick of this member's own estimate for a step (R314, R316). -/
def State.ownGuarded (s : State) (k : Fin 16) (r : StepRun) : Nat :=
  let c := s.ctx k
  let m := s.summary k
  let rt := s.rates k
  let lengths := r.batch.map fun b => ((c.ledger.seq? b.seq).map (·.maxTokens)).getD 0
  guardedTick c.controls.marginPct
    (recordTick m.slotsPerTick (m.estimate { b := s.linkShare k, r1 := rt.r1, r2 := rt.r2 } (m.templates.getD r.template default) lengths))

/-- Deadline misses of a completed step (R316). -/
def State.deadlines (s : State) (k : Fin 16) (r : StepRun) : State :=
  let c := s.ctx k
  let due := s.recordDue k
  let ticks := due - r.startTick
  let causes := r.causes.toNat
  let missed := r.batch.filterMap fun b =>
    match (c.ledger.seq? b.seq).bind (·.deadline) with
    | some d => if ticks > d then some (b.globalId, d) else none
    | none => none
  missed.foldl (fun s m =>
    let s := (s.stepRecord k { kind := 3, cxid := c.cxid, ctx := some k, due := due, detail := .miss m.1 m.2 r.startTick r.step causes }).trigger
      k 4 0 0xFFFF 0xFFFF
    if causes = 0 then
      (s.modCtx k (·.modStats fun t => { t with estimateFaults := t.estimateFaults + 1 })).faultCode k 0x1F ticks
        (s.ownGuarded k r)
    else s) s

/-- A member's step report (R349): its headwater learns the step and the current rates. -/
def State.sendStepReport (s : State) (k : Fin 16) (step : Nat) (cancelled : Bool) : State :=
  if (s.ctx k).multiMember then
    let r := s.rates k
    s.sendCtrl k (s.headwaterAddr k) (.stepReport step cancelled (s.linkShare k) r.r1 r.r2)
  else s

/-- A step completes (R102, R284, R279, R316, R349). -/
def State.completeStep (s : State) (k : Fin 16) (r : StepRun) : State :=
  let c := s.ctx k
  let s := s.stepRecord k (stepRec c k r 0 (s.recordDue k))
  let s := s.deadlines k r
  let s := if c.ledger.groups.isEmpty then s else s.setLedger k (c.ledger.completeStep r.batch)
  let s := s.modCtx k fun c =>
    let c := c.digestStep s.slotCode 1 4 r.step
    { c with
      steps := c.steps.filter fun x => x.step != r.step
      ledger := { c.ledger with stages := c.ledger.stages.filter fun g => g.step != r.step }
      lastCompleted := some r.step, progress := true }
  let s := s.modCtx k (·.pruneJobs)
  let s := if c.ledger.groups.isEmpty then s else s.finishLeaves k
  s.sendStepReport k r.step false

/-- The steps of a context that are over: every node complete and no dump left (R102, R435). -/
def State.finishedSteps (s : State) (k : Fin 16) : List StepRun :=
  (s.ctx k).steps.filter fun r => r.finished && (s.openDumps k r.step).isEmpty

def State.completeSteps (s : State) (k : Fin 16) : State :=
  if (s.ctx k).fault.isSome then s else (s.finishedSteps k).foldl (·.completeStep k ·) s

/-! ### Cancellation -/

/-- Whether a started task of a step has not ended. -/
def State.startedTask (s : State) (k : Fin 16) (step : Nat) : Bool :=
  (s.cores.toList.any fun c => match c.serving with | some e => e.task.slot == k && e.task.step == step | none => false) ||
    allFrames.any fun p => let v := s.frame p.1 p.2; v.state != .free && v.started && v.task.slot == k && v.task.step == step

/-- Frees the frames of threads of cancelled steps that have not begun. -/
def State.dropThreads (s : State) (k : Fin 16) (p : Task → Bool) : State :=
  allFrames.foldl (fun s q =>
    let v := s.frame q.1 q.2
    if v.state ≠ .free ∧ v.started = false ∧ v.task.slot = k ∧ p v.task then s.freeThread q.1 q.2 v.task else s) s

/-- Records of dumps that end without output: cancelled (R434). -/
def State.dumpsCancelled (s : State) (k : Fin 16) (steps : List Nat) : State :=
  steps.foldl (fun s step => (s.openDumps k step).foldl (fun s t =>
    match t.service with
    | .dump n d => s.dumpRecord k 0x75 n t.step d
    | _ => s) s) s

/-- Records of the requests that no step has served: a teardown cancels them (R434). -/
def State.requestsCancelled (s : State) (k : Fin 16) : State :=
  (s.ctx k).dumps.foldl (fun s d => s.dumpRecord k 0x75 d.nameId d.step d.dest) (s.modCtx k fun c => { c with dumps := [] })

/-- Move tasks in service, as (sequence, group, layer, page). -/
def State.movesInService (s : State) (k : Fin 16) : List (Nat × Nat × Nat × Nat) :=
  s.cores.toList.filterMap fun c => match c.serving with
    | some e => if e.task.slot = k then (match e.task.service with | .move q _ g y p _ _ => some (q, g, y, p) | _ => none) else none
    | none => none

/-- Move tasks of a context not yet started whose steps live on. -/
def State.movesWaiting (s : State) (k : Fin 16) : List (Nat × Nat × Nat × Nat) :=
  let of (t : Task) : Option (Nat × Nat × Nat × Nat) := match t.service with | .move q _ g y p _ _ => some (q, g, y, p) | _ => none
  ((s.ctx k).aux.filterMap fun a => of a.task) ++ ((s.pondOf k).filter (·.unstarted)).filterMap fun e => of e.task

/-- Staging tasks in service, as (step, node, index). -/
def State.stagesInService (s : State) (k : Fin 16) : List (Nat × Nat × Nat) :=
  s.cores.toList.filterMap fun c => match c.serving with
    | some e => if e.task.slot = k then (match e.task.service with | .staging n i => some (e.task.step, n, i) | _ => none) else none
    | none => none

/-- Cancels a live step and every later one (R103, R238, R261, R279, R300); false where it is not live (R312). -/
def State.cancelStep (s : State) (k : Fin 16) (step : Nat) : State × Bool :=
  let c := s.ctx k
  if (c.run? step).all (·.cancelled) then (s, false)
  else
    let steps := (c.steps.filter fun r => !r.cancelled && decide (r.step ≥ step)).map (·.step)
    let s := s.dumpsCancelled k steps
    let s := s.flush k (fun t => steps.contains t.step) false
    let s := if (s.ctx k).held || (s.ctx k).halted then s.park k else s
    let s := s.dropThreads k fun t => steps.contains t.step
    let s := s.modCtx k fun c =>
      let c := c.cancelFrom step
      { c with cancelled := c.cancelled ++ steps, aux := c.aux.filter fun a => !steps.contains a.task.step, scrubPending := c.scrubPending || !c.regions.isEmpty }
    let s := s.cancelRouting k steps
    let s := s.modCtx k (·.cancelLedger steps (s.stagesInService k) (s.movesInService k ++ s.movesWaiting k))
    (if (s.ctx k).ledger.groups.isEmpty then s else s.finishLeaves k, true)

/-- Frees the cancelled steps whose last started task has ended, with their records (R103). -/
def State.freeCancelled (s : State) (k : Fin 16) : State :=
  let isOver := (s.ctx k).steps.filter fun r => r.cancelled && !s.startedTask k r.step
  if isOver.isEmpty then s
  else
    (isOver.foldl (fun s r =>
      (s.stepRecord k (stepRec (s.ctx k) k r 1 (s.recordDue k))).modCtx k fun c =>
        { c with steps := c.steps.filter fun x => x.step != r.step, jobs := c.jobs.filter fun j => j.step != r.step }) s).modCtx k (·.dropStages)

/-- Whether an uncancelled step is in flight that is earlier than a cancelled one (R112, R261). -/
def Ctx.earlierLive (c : Ctx) (cancelled : List Nat) : Bool :=
  c.steps.any fun r => !r.cancelled && cancelled.any (r.step < ·)

/-- The confluence scrub a cancellation asked for falls due (R261). -/
def State.scrubDue (s : State) (k : Fin 16) : State :=
  let c := s.ctx k
  if c.scrubPending && !c.earlierLive c.cancelled then
    let s := c.regions.foldl (fun s r => s.setUnit r.cluster { s.unit r.cluster with scrubFor := some k, scrubMark := s.time.ac }) s
    s.modCtx k fun c => { c with scrubPending := false }
  else s

/-- The watch rebase with its step reports (R103, R112). -/
def State.rebaseDue (s : State) (k : Fin 16) : State :=
  let c := s.ctx k
  if c.rebase.isEmpty || c.earlierLive c.rebase || c.rebase.any (s.startedTask k ·) then s
  else
    let s := (s.setCtx k { c.rebaseWatches with rebase := [] }).compareCopies k c.watchedCounters
    c.rebase.foldl (fun s step => s.sendStepReport k step true) s

/-- What a slot boundary does for cancelled steps. -/
def State.cancelBoundary (s : State) (k : Fin 16) : State := ((s.freeCancelled k).scrubDue k).rebaseDue k

/-! ### Teardown -/

/-- Discards what a context has in flight in Puska's units: commands and intake entries, with the weirs taken anew (R149). A message accepted before the close of its ring
is still written in full (R191). -/
def State.dropWork (s : State) (k : Fin 16) : State :=
  { s with
    cntOps := s.cntOps.filter (·.slot != k)
    chanOps := s.chanOps.filter (·.slot != k)
    units := s.units.map fun (u : CflUnit) =>
      CflUnit.remoteWeir (CflUnit.localWeir { u with
        localPart := u.localPart.filter (·.slot != k)
        remotePart := u.remotePart.filter (·.slot != k)
        behind := u.behind.filter (·.slot != k)
        waiting := u.waiting.filter (·.slot != k)
        current := u.current.filter (·.slot != k)
        scrubFor := if u.scrubFor = some k then none else u.scrubFor }) }

/-- Resets the cores of a context and frees its thread frames (R334 step 1). -/
def State.resetCores (s : State) (k : Fin 16) : State :=
  let s := (s.coresOf k).foldl (fun s l => s.setCore (lcidOf l) {}) s
  allFrames.foldl (fun s p => if (s.frame p.1 p.2).state ≠ .free ∧ (s.frame p.1 p.2).task.slot = k then s.setFrame p.1 p.2 {} else s) s

/-- The teardown message of a member (R335, R353, R395). -/
def State.teardownNotice (s : State) (k : Fin 16) (code : Nat) : State :=
  let c := s.ctx k
  if !c.multiMember || c.relayed || code == 0x1A || code == 0x1C && !c.headwater then s
  else
    let s := if c.headwater then s.sendAll k (.teardown code c.memberIndex)
      else s.sendCtrl k (s.headwaterAddr k) (.teardown code c.memberIndex)
    s.modCtx k fun c => { c with relayed := true }

/-- Steps that a context has in flight. -/
def Ctx.stepNumbers (c : Ctx) : List Nat := c.steps.map (·.step)

/-- Step 1 of R334: teardown begins. -/
def State.beginTeardown (s : State) (k : Fin 16) : State :=
  let c := s.ctx k
  if c.phase = .empty ∨ c.phase = .tearingDown then s
  else
    let code := (c.fault.map (·.code)).getD 0x01
    let s := (s.dumpsCancelled k ((c.steps.filter (!·.cancelled)).map (·.step))).requestsCancelled k
    let s := s.teardownNotice k code
    let s := ((s.flush k (fun _ => true) false).resetCores k).dropWork k
    let (s, chunks) := s.teardownFlush k
    let s := s.modCtx k fun c =>
      { c with
        aux := [], withheld := true, held := false, halted := false, freezeStage := .none, freezePending := false, sealDue := false
        offCores := (s.coresOf k).isEmpty
        scrubEnd := some (s.time.slotCount + 64 + 2 * chunks) }
    let s := (s.setPhase k .tearingDown).raise 0x34 3
    if c.launched then
      (s.modCtx k fun c => { c with finalRecord := true }).pushRec
        { kind := 9, cxid := c.cxid, ctx := some k, due := s.nextTick, runFinal := true }
    else s

/-- Teardowns that begin at a slot boundary: contexts with a fault detected before it (R513). -/
def State.teardowns (s : State) : State :=
  allSlots.foldl (fun s k => if (s.ctx k).fault.isSome then s.beginTeardown k else s) s

/-- Zeroes the scratchpads of a context's cores (R323, R334). -/
def State.scrubSpads (s : State) (k : Fin 16) : State :=
  { s with spad := (s.coresOf k).foldl (fun m l => m.scrub (spadAddr l 0) (spadAddr (l + 1) 0)) s.spad }

/-- Zeroes the ledger area, the pools of tiers 1 and 2 and the list areas of a context (R301, R334). -/
def State.scrubLedger (s : State) (k : Fin 16) : State :=
  let c := s.ctx k
  let l := c.ledger
  let m := s.mem.scrub l.area (l.area + l.areaLength)
  let m := (l.pools.filter (·.tier != 0)).foldl (fun m p => m.scrub p.address (p.address + p.length)) m
  let areas := c.image.symbols.filter fun x => x.operatorId == 0xFFFF && x.external
  { s with mem := areas.foldl (fun m x => m.scrub x.address (x.address + (x.stepRing - 1) * x.stepStride * 64 + x.length)) m }

/-- What is kept of a context from the end of its scrub to its records: its name, place, fault and counts. -/
def Ctx.emptied (c : Ctx) : Ctx :=
  { c with
    steps := [], aux := [], tallies := [], watchTargets := [], rebase := [], scrubPending := false, affinity := [], flowsHeld := []
    poolStalled := false, counters := [], rings := [], residency := [], jobs := [], flag26 := [], serveCount := [], regions := []
    ledger := {}, dumps := [], graphStoreEntries := 0, outcomes := [], setFlagsDue := [], heldImports := [], due := [], saved := []
    image := { c.image with successors := [], experts := [], symbols := [], rings := [] } }

/-- Clears a key slot (R404), with its log entry (R409). -/
def State.clearKey (s : State) (k : Fin 16) : State :=
  if (s.steward.keys[k.val]).isNone then s
  else
    ({ s with steward := { s.steward with keys := s.steward.keys.set k.val none } }).log 0x07 0 (Config.logPayload 0x07 [2, k.val])

/-- Discards the notices and packets of a context (R334 step 3), as strays what came while it was Frozen and has not thawed (R37). -/
def State.dropNotices (s : State) (k : Fin 16) : State :=
  let strays := s.horizon.filter fun h => h.slot == k && h.whileFrozen && !h.thawed
  let own := s.coresOf k
  let s := { s with
    horizon := s.horizon.filter (·.slot != k), packets := s.packets.filter (·.slot != k)
    windows := s.windows.filter fun w => !own.contains w.lcid
    stagingRegions := s.stagingRegions.filter fun w => !own.contains w.lcid }
  (strays.foldl (fun s h => s.stray h.hdr.sender) s).inletWeirs.horizonWeirs

/-- Steps 2 and 3 of R334: the scrub has ended and everything is released. -/
def State.release (s : State) (k : Fin 16) : State :=
  let s := ((s.scrubSpads k).scrubLedger k).dropNotices k
  let s := (s.coresOf k).foldl (fun s l => s.setCore (lcidOf l) {}) s
  let s := s.clearKey k
  let s := { s with writes := s.writes.filter (·.slot != k) }
  s.modCtx k fun c => { c.emptied with released := true }

/-- TEARDOWN_SCRUB_END (R334). -/
def State.teardownScrubEnd (s : State) (k : Fin 16) : State :=
  let c := s.ctx k
  match c.scrubEnd with
  | some e => if c.phase = .tearingDown ∧ c.released = false ∧ e ≤ s.time.slotCount then s.release k else s
  | none => s

def execTeardownScrubEnd (slot : Fin 16) (s : State) : Host.Outcome State Fault Refusal := .next (s.teardownScrubEnd slot)

end Sys2Proof.Machine
end

