-- ==== Sys2Proof/Machine/Notices.lean ====
section
/-! DEFINITION. The horizon (R36, R37, R61–R66, R175–R178, R258, R515): the arrival of link messages in the
horizon queue, seals, and what a notice does at its context tick. -/

namespace Sys2Proof.Machine

/-! ### Arrival -/

/-- Whether an epoch is that of a cancelled step of a context (R36). -/
def Ctx.epochCancelled (c : Ctx) (e : Nat) : Bool := c.cancelled.any (fun st => epochOf st == e) && !c.epochLive e

/-- The number of the tick whose start comes next for a context: its context ticks while it runs, die ticks before its launch
and while it is frozen (R59, R347; log entry 10). -/
def Ctx.onOwnTicks (c : Ctx) : Bool := c.phase == .running && c.launched

/-- Whether the tick a message is due at has started: a context that is freezing, frozen or thawing has started its ticks up to F − 1. What
control messages then act by is the die tick (log entry 10). -/
def State.pastDue (s : State) (k : Fin 16) (h : MsgHdr) (control : Bool) : Bool :=
  let c := s.ctx k
  (if control then c.onOwnTicks else c.launched && c.phase != .loading) && decide (h.tick + c.horizon ≤ c.tick)

/-- Discards a message whose epoch is cancelled (R36). -/
def State.discardNotice (s : State) (k : Fin 16) : State := s.modCtx k (·.modStats fun t => { t with noticeDiscards := t.noticeDiscards + 1 })

/-- Counts a notice or control message that its mode does not foresee (R65, R66). -/
def State.countLate (s : State) (k : Fin 16) (h : MsgHdr) (control : Bool) : State :=
  let c := s.ctx k
  let own := h.sender == s.cfg.instanceAddr
  let late := s.pastDue k h control && !own
  let foreign := !control && !own && !c.partners.contains h.sender
  if c.mode = .scheduleExact then (if late || foreign then s.modCtx k fun c => c.count 4 else s)
  else if late then s.modCtx k fun c => (c.count 1).cause 1
  else s

/-- Whether the save of a freeze has begun and the context has not thawed: what arrives now arrives after the save (R37, R321). -/
def Ctx.afterSave (c : Ctx) : Bool :=
  c.phase == .frozen || (c.phase == .freezing && (match c.freezeStage with | .saving _ => true | .scrubbing _ => true | _ => false))

/-- Puts a message into the horizon queue (R61, R515). The credit of one that arrives after the save is returned at once (R37). -/
def State.enqueue (s : State) (k : Fin 16) (h : MsgHdr) (b : MsgBody) : State :=
  let control := match b with | .ctrl _ => true | _ => false
  let frozen := (s.ctx k).afterSave && !control
  let e : Held := { hdr := h, body := b, slot := k, order := s.arrivals, whileFrozen := frozen, late := s.pastDue k h control }
  let s := if frozen then s else s.useCredit k
  State.horizonWeirs { s with horizon := s.horizon ++ [e], arrivals := s.arrivals + 1 }

/-- Whether a message comes from the lock-step peer its context names (R355). -/
def Ctx.fromPeer (c : Ctx) (h : MsgHdr) : Bool := c.lock.active && h.cmid == c.lock.peerCmid && h.sender == c.lock.peer

/-- Where a message goes (R36): its context, unless it is stray or its slot is tearing down. `peer` says that the message is one of
the lock-step messages and tick seals, which alone come from another CMID, and only from the named peer (R355). -/
def State.addressee (s : State) (h : MsgHdr) (peer : Bool) : State × Option (Fin 16) :=
  match s.findCxid h.cxid with
  | none => (s.stray h.sender, none)
  | some k =>
    let c := s.ctx k
    if c.phase = .tearingDown then (s, none)
    else if c.cmid ≠ h.cmid ∧ !(peer && c.fromPeer h) then (s.stray h.sender, none)
    else (s, some k)

/-- Whether a remote entry that came before a notice of the same sender and channel has still to be added, so that the notice
does not count as arrived (R258; log entry 118). -/
def State.behindRemote (s : State) (h : MsgHdr) (order : Nat) : Bool :=
  s.units.toList.any fun u => u.remotePart.any fun e => e.sender == h.sender && e.vc == h.vc && decide (e.order < order)

/-- Whether a held ripple or landing notice has not arrived yet (R258). -/
def State.heldBehind (s : State) (e : Held) : Bool :=
  (match e.body with | .ripple _ _ => true | .landing _ => true | _ => false) && s.behindRemote e.hdr e.order

/-- A notice that carries an epoch. -/
def State.notice (s : State) (h : MsgHdr) (b : MsgBody) : State :=
  match s.addressee h false with
  | (s, none) => s
  | (s, some k) => if (s.ctx k).epochCancelled h.epoch then s.discardNotice k else (s.countLate k h false).enqueue k h b

/-- A landing window that a core has opened replaces one of the same id, its committed bound at lo (R27). -/
def openWindow (ws : List Window) (w : Nat × Nat × Nat × Nat) : List Window :=
  { lcid := w.1, id := w.2.1, lo := w.2.2.1, hi := w.2.2.2, committed := w.2.2.1 } :: ws.filter fun x => !(x.lcid == w.1 && x.id == w.2.1)

/-- The landing window a notice names. -/
def State.window? (s : State) (lcid id : Nat) : Option Window := s.windows.find? fun w => w.lcid == lcid && w.id == id

/-- LANDING_NOTICE (R27, R28, R36, R61): data outside an open window is a fault, and the notice is discarded. The windows that cores have
opened since the last boundary are open to it. The upper bound of a window is the first byte past it (DESIGN CHOICE, log entry 145). -/
def State.landing (s : State) (h : MsgHdr) (l : Landing) : State :=
  match { s with windows := l.opened.foldl openWindow s.windows }.addressee h false with
  | (s, none) => s
  | (s, some k) =>
    let c := s.ctx k
    if c.epochCancelled h.epoch then s.discardNotice k
    else
      let inside := c.afterSave || (match s.window? l.lcid l.window with
        | some w => decide (w.lo + l.offset + l.length ≤ w.hi)
        | none => false)
      if inside then (s.countLate k h false).enqueue k h (.landing l) else s.faultCode k 0x0F l.window l.offset

def execLandingNotice (h : MsgHdr) (l : Landing) (s : State) : Host.Outcome State Fault Refusal := .next (s.landing h l)

/-- FETCH_REQUEST (R36, R233, R236). -/
def execFetchRequest (h : MsgHdr) (f : FetchReq) (s : State) : Host.Outcome State Fault Refusal := .next (s.notice h (.fetch f))

/-- WIDE_LANDING (R257, R259, R260): a wide word reaches the remote part of an intake. -/
def State.remoteArrives (s : State) (h : MsgHdr) (cluster index : Nat) (item : CflItem) : State :=
  match s.addressee h false with
  | (s, none) => s
  | (s, some k) => s.remoteEntry k h cluster index item

def execWideLanding (h : MsgHdr) (cluster index : Nat) (word : BitVec 256) (s : State) : Host.Outcome State Fault Refusal :=
  .next (s.remoteArrives h cluster index (.wide word))

/-- FORWARDED_PAIR (R255, R257, R259, R260). -/
def execForwardedPair (h : MsgHdr) (cluster : Nat) (record : BitVec 128) (s : State) : Host.Outcome State Fault Refusal :=
  .next (s.remoteArrives h cluster (pairIndex record) (.pair record))

/-! ### Seals (R62, R63, R516) -/

/-- Notes the latest tick a partner has sealed on a virtual channel. -/
def Ctx.seal (c : Ctx) (sender vc tick : Nat) : Ctx :=
  let old := ((c.seals.find? fun p => p.1 == sender && p.2.1 == vc).map (·.2.2)).getD 0
  { c with seals := (sender, vc, max old tick) :: c.seals.filter fun p => !(p.1 == sender && p.2.1 == vc) }

def Ctx.controlSeal (c : Ctx) (sender tick : Nat) : Ctx :=
  let old := ((c.controlSeals.find? fun p => p.1 == sender).map (·.2)).getD 0
  { c with controlSeals := (sender, max old tick) :: c.controlSeals.filter fun p => p.1 != sender }

/-- TICK_SEAL: a seal is a ripple (R63), so one behind a remote entry waits like a ripple (R258). -/
def State.tickSeal (s : State) (h : MsgHdr) : State :=
  match s.addressee h true with
  | (s, none) => s
  | (s, some k) => if s.behindRemote h s.arrivals then s.enqueue k h .seal else s.modCtx k (·.seal h.sender h.vc h.tick)

/-- Seals whose remote entries have all been added count as arrived (R64, R258). -/
def State.takeSeals (s : State) (k : Fin 16) : State :=
  let isIn (e : Held) : Bool := e.slot == k && e.body == .seal && !s.behindRemote e.hdr e.order
  let go := s.horizon.filter isIn
  if go.isEmpty then s
  else
    State.horizonWeirs
      ({ s with horizon := s.horizon.filter (!isIn ·) }.modCtx k fun c => go.foldl (fun c (e : Held) => c.seal e.hdr.sender e.hdr.vc e.hdr.tick) c)

/-- A received ripple: one of increment zero to the reserved counter is a tick seal (R63). -/
def State.rippleReceived (s : State) (h : MsgHdr) (vid n : Nat) : State :=
  if vid = 0xFFFFF ∧ n = 0 then s.tickSeal h else s.notice h (.ripple vid n)

/-- RIPPLE_RECEIVED (R36, R37, R61, R63, R65, R66). -/
def execRippleReceived (h : MsgHdr) (vid : BitVec 20) (increment : BitVec 32) (s : State) : Host.Outcome State Fault Refusal :=
  .next (s.rippleReceived h vid.toNat increment.toNat)

def execTickSeal (h : MsgHdr) (s : State) : Host.Outcome State Fault Refusal := .next (s.tickSeal h)

/-- CONTROL_SEAL. -/
def State.ctrlSeal (s : State) (h : MsgHdr) : State :=
  match s.addressee h false with
  | (s, none) => s
  | (s, some k) => s.modCtx k (·.controlSeal h.sender h.tick)

def execControlSeal (h : MsgHdr) (s : State) : Host.Outcome State Fault Refusal := .next (s.ctrlSeal h)

/-- Whether a partner has sealed a tick on both data channels. -/
def Ctx.sealedBy (c : Ctx) (sender tick : Nat) : Bool :=
  [0, 1].all fun vc => c.seals.any fun p => p.1 == sender && p.2.1 == vc && decide (p.2.2 ≥ tick)

/-- The instances whose control seals a member waits for (R516). -/
def State.controlSenders (s : State) (k : Fin 16) : List Nat :=
  if !(s.ctx k).multiMember then []
  else if (s.ctx k).headwater then ((s.members k).map (·.2)).filter (· != s.cfg.instanceAddr)
  else [s.headwaterAddr k]

/-- Whether every seal a SCHEDULE-EXACT context needs before a context tick is in (R64, R357). -/
def State.sealsIn (s : State) (k : Fin 16) (tick : Nat) : Bool :=
  let c := s.ctx k
  if c.mode ≠ .scheduleExact ∨ tick < c.horizon then true
  else
    let t := tick - c.horizon
    c.partners.all (c.sealedBy · t)
      && (s.controlSenders k).all (fun a => c.controlSeals.any fun p => p.1 == a && decide (p.2 ≥ t))
      && (!c.lock.active || c.lock.peerDigests.any fun d => d.1 == t)

/-- Sends the tick seals of a context tick to every partner (R62, R320). -/
def State.sendTickSeals (s : State) (k : Fin 16) (tick : Nat) : State :=
  (s.ctx k).partners.foldl (fun s p =>
    [0, 1].foldl (fun s vc => s.sendMsg p { s.hdrOf k vc 0 with tick := tick } .seal) s) s

/-- Sends the control seals of a context tick (R516). -/
def State.sendControlSeals (s : State) (k : Fin 16) (tick : Nat) : State :=
  (s.controlSenders k).foldl (fun s p => s.sendMsg p { s.hdrOf k 2 0 with tick := tick } .controlSeal) s

/-! ### Application at a context tick (R27, R40, R61, R177) -/

/-- Messages of a context due at a context tick that have arrived, in the order of R40. -/
def State.dueAt (s : State) (k : Fin 16) (tick : Nat) : List Held :=
  let h := (s.ctx k).horizon
  (s.horizon.filter fun e => e.slot == k && (match e.body with | .ctrl _ => false | .seal => false | _ => true) && decide (e.hdr.tick + h ≤ tick)
      && !s.heldBehind e).mergeSort
    fun a b => a.hdr.sender < b.hdr.sender ||
      (a.hdr.sender == b.hdr.sender && (a.hdr.tick < b.hdr.tick || (a.hdr.tick == b.hdr.tick && a.order ≤ b.order)))

/-- Raises the committed bound of a window (R27). -/
def State.commit (s : State) (l : Landing) : State :=
  { s with windows := s.windows.map fun (w : Window) =>
      if w.lcid == l.lcid && w.id == l.window then { w with committed := max w.committed (w.lo + l.offset + l.length) } else w }

/-- The increment of a notice, or the fault of one whose counter is not declared or not remote (R177). -/
def State.increment (s : State) (k : Fin 16) (sender vid n : Nat) : State × Option (Nat × Nat) :=
  match (s.ctx k).counter? vid with
  | some q => if q.decl.remote && vid != 0xFFFFF then (s, some (vid, n)) else (s.faultCode k 0x0D vid sender, none)
  | none => (s.faultCode k 0x0D vid sender, none)

/-- What a due notice does; increments and fetch requests are collected. -/
structure NoticeAcc where
  s : State
  incs : List (Nat × Nat) := []
  fetches : List (Nat × Nat × FetchReq) := []

/-- Applies one due notice. -/
def NoticeAcc.apply (k : Fin 16) (a : NoticeAcc) (e : Held) : NoticeAcc :=
  let add (a : NoticeAcc) (vid n : Nat) : NoticeAcc :=
    let (s, i) := a.s.increment k e.hdr.sender vid n
    { a with s := s, incs := a.incs ++ i.toList }
  if (a.s.ctx k).epochCancelled e.hdr.epoch then { a with s := a.s.discardNotice k }
  else match e.body with
    | .ripple vid n => add a vid n
    | .landing l =>
      if e.whileFrozen then { a with s := a.s.faultCode k 0x0F l.window l.offset }
      else
        let a := { a with s := (a.s.commit l).landingArrives k l }
        if l.increment = 0 then a else add a l.vid l.increment
    | .fetch f => { a with fetches := a.fetches ++ [(e.hdr.sender, e.hdr.epoch, f)] }
    | _ => a

/-- A notice due at a tick that has not arrived by then is late, and is counted once (R65, R66, R258); an instance's own is never late
(R176). -/
def State.lateBehind (s : State) (k : Fin 16) (tick : Nat) : State :=
  let c := s.ctx k
  let hit (e : Held) : Bool :=
    e.slot == k && e.hdr.sender != s.cfg.instanceAddr && decide (e.hdr.tick + c.horizon ≤ tick) && !e.late && s.heldBehind e
  let missed := s.horizon.filter hit
  if missed.isEmpty then s
  else
    let s := { s with horizon := s.horizon.map fun e => if hit e then { e with late := true } else e }
    missed.foldl (fun s e => s.modCtx k fun c =>
      if c.mode ≠ .scheduleExact then (c.count 1).cause 1 else if c.partners.contains e.hdr.sender then c.count 4 else c) s

/-- Step 2 of R40 for a context. -/
def State.applyNotices (s : State) (k : Fin 16) (tick : Nat) : State :=
  let s := s.lateBehind k tick
  let due := s.dueAt k tick
  if due.isEmpty then s
  else
    let s := { s with horizon := s.horizon.filter fun e => !due.any fun d => d.order == e.order }
    let a := due.foldl (NoticeAcc.apply k) { s := s }
    let s := a.s.resolveCounters k a.incs
    (s.serveRequests k a.fetches).horizonWeirs

/-! ### Control messages -/

/-- Whether a message of a catchment that the die is a member of names a context for which it has no slot. -/
def State.noSlotFor (s : State) (h : MsgHdr) : Bool := (s.findCxid h.cxid).isNone && allSlots.any fun e => (s.catch_ e).valid && (s.catch_ e).cmid == h.cmid

/-- H of the catchment of a CMID. -/
def State.horizonOf (s : State) (cmid : Nat) : Nat :=
  ((allSlots.find? fun e => (s.catch_ e).valid && (s.catch_ e).cmid == cmid).map fun e => (s.catch_ e).horizon).getD 0

/-- Holds a control message for its tick (R349, R65). A member that has no slot for a context that thaws holds no payload either: it
reports a refused restore, as of the tick at which the message takes effect (R452; DEDUCED, log entry 151). -/
def State.control (s : State) (h : MsgHdr) (c : Ctrl) : State :=
  if c = .thaw ∧ s.noSlotFor h then s.sendMsg h.sender { h with sender := s.cfg.instanceAddr, tick := h.tick + s.horizonOf h.cmid } (.ctrl (.restoreReport 0 false))
  else match s.addressee h (match c with | .lockList _ _ => true | _ => false) with
  | (s, none) => s
  | (s, some k) => (s.countLate k h true).enqueue k h (.ctrl c)

/-- Control messages that act on a context that runs no context tick: those that thaw, resume, halt or tear it down. -/
def outOfTick : Ctrl → Bool
  | .thaw => true
  | .resume _ => true
  | .restoreReport _ _ => true
  | .teardown _ _ => true
  | .lockList _ _ => true
  | .lockHalt => true
  | .haltRelay _ _ => true
  | _ => false

/-- Whether a control message due at a tick is taken at this tick start (R349; log entry 10): at its context tick; a halted or
held context, which starts none, counts the die ticks since its last one, for the messages that thaw, resume, halt or tear down;
before the launch and while frozen die ticks count. -/
def Ctx.takesCtrl (c : Ctx) (now due : Nat) (x : Ctrl) : Bool :=
  if c.onOwnTicks then
    decide (due ≤ c.tick) || ((c.halted || c.held) && outOfTick x && decide (due ≤ c.tick + (now - c.tickDie)))
  else outOfTick x && decide (due ≤ now)

/-- Whether a held message is a control message that is due. -/
def State.heldCtrlDue (s : State) (k : Fin 16) (e : Held) : Bool :=
  let c := s.ctx k
  e.slot == k && (match e.body with | .ctrl x => c.takesCtrl s.time.localTick (e.hdr.tick + c.horizon) x | _ => false)

/-- Control messages of a context due now, with those it sent to itself: sender and message, in the order of R40. -/
def State.ctrlDue (s : State) (k : Fin 16) : List (Nat × Ctrl) :=
  let c := s.ctx k
  let mine := (s.horizon.filter (s.heldCtrlDue k)).mergeSort fun a b =>
      a.hdr.sender < b.hdr.sender || (a.hdr.sender == b.hdr.sender && a.order ≤ b.order)
  let own := c.due.filter fun d => c.takesCtrl s.time.localTick d.tick d.ctrl
  (mine.filterMap fun e => match e.body with | .ctrl x => some (e.hdr.sender, x) | _ => none) ++ own.map fun d => (d.sender, d.ctrl)

/-- Takes the due control messages out of the queues. -/
def State.dropCtrlDue (s : State) (k : Fin 16) : State :=
  let kept := s.horizon.filter fun e => !s.heldCtrlDue k e
  let now := s.time.localTick
  ({ s with horizon := kept }.modCtx k fun c => { c with due := c.due.filter fun d => !c.takesCtrl now d.tick d.ctrl }).horizonWeirs

def execStepStart (h : MsgHdr) (step : Nat) (template : Option Nat) (changes : List Change) (s : State) : Host.Outcome State Fault Refusal :=
  .next (s.control h (.stepStart step template changes))
def execStepReport (h : MsgHdr) (step : Nat) (cancelled : Bool) (b r1 r2 : Nat) (s : State) : Host.Outcome State Fault Refusal :=
  .next (s.control h (.stepReport step cancelled b r1 r2))
def execBlockedReport (h : MsgHdr) (blocked : Bool) (s : State) : Host.Outcome State Fault Refusal := .next (s.control h (.blockedReport blocked))
def execCancelMessage (h : MsgHdr) (step : Nat) (s : State) : Host.Outcome State Fault Refusal := .next (s.control h (.cancel step))
def execFreezeMessage (h : MsgHdr) (tick : Nat) (s : State) : Host.Outcome State Fault Refusal := .next (s.control h (.freeze tick))
def execThawMessage (h : MsgHdr) (s : State) : Host.Outcome State Fault Refusal := .next (s.control h .thaw)
def execResumeMessage (h : MsgHdr) (gtc : Nat) (s : State) : Host.Outcome State Fault Refusal := .next (s.control h (.resume gtc))
def execRestoreReport (h : MsgHdr) (serial : Nat) (ok : Bool) (s : State) : Host.Outcome State Fault Refusal :=
  .next (s.control h (.restoreReport serial ok))
def execTeardownMessage (h : MsgHdr) (code member : Nat) (s : State) : Host.Outcome State Fault Refusal :=
  .next (s.control h (.teardown code member))
def execIdleBeat (h : MsgHdr) (s : State) : Host.Outcome State Fault Refusal := .next (s.control h .idleBeat)
def execLockstepList (h : MsgHdr) (tick : Nat) (entries : List DigestEntry) (s : State) : Host.Outcome State Fault Refusal :=
  .next (s.control h (.lockList tick entries))
def execLockstepHalt (h : MsgHdr) (s : State) : Host.Outcome State Fault Refusal := .next (s.control h .lockHalt)
def execHaltRelay (h : MsgHdr) (cause bp : Nat) (s : State) : Host.Outcome State Fault Refusal := .next (s.control h (.haltRelay cause bp))

/-- DIGEST_MESSAGE (R357): the peer's digest of a tick is in. -/
def State.peerDigest (s : State) (h : MsgHdr) (tick : Nat) (d : BitVec 64) : State :=
  match s.addressee h true with
  | (s, none) => s
  | (s, some k) => s.modCtx k fun c =>
      { c with lock := { c.lock with peerDigests := (tick, d) :: c.lock.peerDigests.filter fun p => p.1 != tick } }

def execDigestMessage (h : MsgHdr) (tick : Nat) (d : BitVec 64) (s : State) : Host.Outcome State Fault Refusal :=
  .next (s.peerDigest h tick d)

end Sys2Proof.Machine
end

