-- ==== Sys2Proof/Machine/Steps.lean ====
section
/-! DEFINITION. Step boundaries (R97–R104, R349–R352, R384, R434, R435): what a step start does on a member, tensor dumps of the
step, and the headwater's decisions: changes, admission (R277, R315) and pacing. -/

namespace Sys2Proof.Machine

/-! ### The input digest (R384) -/

def Ctx.digestInput (c : Ctx) (position kind : Nat) (payload : Bytes) : Ctx :=
  let entry := leBytes 6 position ++ leBytes 1 kind ++ zeros 1 ++ leBytes 4 payload.length ++ zeros 4 ++ payload
  { c with inputDigest := sha384 (c.inputDigest ++ entry) }

/-! ### Dumps (R434, R435) -/

/-- Whether a range lies in external memory of this die's package (R416, R434). -/
def State.inPackage (s : State) (address length : Nat) : Bool :=
  s.cfg.tray.any fun p => p.package == s.cfg.instanceAddr / 8 && decide (p.base ≤ address ∧ address + length ≤ p.base + p.size)

/-- Takes the requests of a context at its context tick start: kept, or answered at once (R434). -/
def State.takeDumps (s : State) (k : Fin 16) : State :=
  let c := s.ctx k
  let fresh := c.dumps.filter (!·.taken)
  let bad (d : DumpReq) : Option Nat :=
    match c.image.symbols.find? fun x => x.nameId == d.nameId && x.layer != 0xFFFE && x.layer != 0xFFFF with
    | none => some 0x70
    | some x =>
      if d.dest % 64 ≠ 0 ∨ d.length < 128 + x.length ∨ s.inPackage d.dest (128 + x.length) = false then some 0x71
      else if d.step < c.nextStep then some 0x72
      else none
  let s := s.modCtx k fun c =>
    { c with dumps := c.dumps.filterMap fun d => if !d.taken && (bad d).isSome then none else some { d with taken := true } }
  fresh.foldl (fun s d => match bad d with
    | some r => s.dumpRecord k r d.nameId d.step d.dest
    | none => s) s

/-- Creates the dump instances of a step, and answers the requests of another template (R434, R435). -/
def State.createDumps (s : State) (k : Fin 16) (step t : Nat) : State :=
  let c := s.ctx k
  let mine := c.dumps.filter fun d => d.taken && d.step == step
  let s := s.modCtx k fun c => { c with dumps := c.dumps.filter fun d => !(d.taken && d.step == step) }
  ((List.range mine.length).zip mine).foldl (fun s p =>
    let d := p.2
    match c.image.symbols.find? fun x => x.nameId == d.nameId with
    | none => s.dumpRecord k 0x70 d.nameId step d.dest
    | some x =>
      if x.template ≠ t then s.dumpRecord k 0x74 d.nameId step d.dest
      else
        let n := c.node t x.node
        let task : Task :=
          { slot := k, step := step, template := t, node := 0xFFFB, fanout := p.1, kind := .dump, be := n.be, rank := n.rank
            span := 2 + ceilDiv (128 + x.length) (max (s.memShare k) 1), energy := min 4 c.share, floating := x.external
            mask := if x.external then c.lcids else 1#64 <<< x.lcid, layer := x.layer, operatorId := x.operatorId
            epoch := epochOf step, service := .dump d.nameId d.dest }
        let after := (succOf c.image n).filter fun e => e.decrement && !e.nextStep
        s.modCtx k fun c =>
          let c := after.foldl (fun c e => c.modRun step (·.modInst e.target fun i => { i with deps := i.deps + 1 })) c
          { c with aux := c.aux ++ [{ task := task, ready := false, after := some x.node }] }) s

/-! ### A step start takes effect (R97–R99, R104, R278, R283, R352) -/

/-- Result records of the submissions a step start named, at the tick start after it takes effect (R451). -/
def State.namedOutcomes (s : State) (k : Fin 16) (step : Nat) : State :=
  let isLeave (w : Waiting) : Bool := match w.sub with | .leave _ => true | _ => false
  let mine := (s.ctx k).outcomes.filter fun w => w.step == step && !isLeave w
  let s := s.modCtx k fun c => { c with outcomes := c.outcomes.filter fun w => !(w.step == step && !isLeave w) }
  mine.foldl (fun s w => s.result w.hdr w.sub.kind w.taken 0 (some k) s.nextTick) s

/-- The last step number, which is never instantiated (R104). -/
def lastStep : Nat := 2 ^ 40 - 1

/-- The first node of a template whose stored descriptor fails its CRC when the instantiation reads it (R96). -/
def badNode (t : Template) : Option Nat := (List.range t.nodes.length).find? fun n => !(NodeDesc.crcOk (t.nodes.getD n {}))

/-- The step boundary action of a step start. Where both hold, a template that is no step template (0x21) is found before a step overlap
(0x06) (DESIGN CHOICE, log entry 127). -/
def State.stepBoundary (s : State) (k : Fin 16) (step : Nat) (template : Option Nat) (changes : List Change) : State :=
  let c := s.ctx k
  let t := template.getD c.image.defaultTemplate
  if step ≥ lastStep then s
  else if (c.image.templates[t]?).all fun x => !x.stepTemplate then s.faultCode k 0x21 t step
  else if c.steps.length ≥ c.image.stepsInFlight then s.faultCode k 0x06 c.steps.length step
  else match badNode (c.template t) with
  | some n => s.descriptorFault (c.nodeTask k { step := step, template := t } n 1 0)
  | none =>
    let s := s.modCtx k (·.digestInput step 1 (Config.stepStartPayload step template changes))
    let (s, batch) := s.ledgerJoins k step changes
    let s := s.modCtx k fun c =>
      (c.instantiate step t s.time.localTick s.time.slotCount batch).digestStep s.slotCode 2 3 step
    let s := s.ledgerPlan k step t batch
    (s.createDumps k step t).namedOutcomes k step

/-! ### The headwater's batch and its admission (R276, R277, R315) -/

/-- Whether a member holds the sequences of a placement group (R351). -/
def State.groupHas (s : State) (k : Fin 16) (group member : Nat) : Bool :=
  match (s.catch_ (s.ctx k).catchment).manifest with
  | none => true
  | some m => (m.groups.getD group []).contains member

/-- Frames and table blocks a member has for its sequences (R277). -/
def State.memberLedger (s : State) (k : Fin 16) (member : Nat) : Nat × Nat :=
  let l := (s.ctx k).ledger
  match ((s.catch_ (s.ctx k).catchment).manifest).bind fun m => m.entries[member]? with
  | none => (l.allFrames, l.blocks)
  | some e => (e.framesT0 + e.framesT1 + e.framesT2, e.tableBlocks)

/-- The ledger's refusal of a join on one member, from what the headwater has admitted there (R276, R277): on its own die with the joins it
has named and that are not yet applied; on another one with those that leave, until the member has reported their last step, whose global
ids it still holds. -/
def State.memberRefusal (s : State) (k : Fin 16) (member : Nat) (r : JoinReq) : Option Nat :=
  let c := s.ctx k
  let l := c.ledger
  if member = c.memberIndex then
    Ledger.joinRefusal
      (((c.hw.admitted.filter fun a => s.groupHas k a.group member && (l.global? a.globalId).isNone)).foldl
        (fun l a => l.enter { globalId := a.globalId, maxTokens := a.maxTokens }) l) r
  else
    let held := (c.hw.admitted ++ c.hw.gone.map (·.2)).filter fun a => s.groupHas k a.group member
    let (frames, blocks) := s.memberLedger k member
    if held.length ≥ 8192 then some 0x40
    else if r.maxTokens = 0 ∨ r.maxTokens > 4194304 then some 0x41
    else if (held.map fun a => l.needFrames a.maxTokens).sum + l.needFrames r.maxTokens > frames then some 0x42
    else if (held.map fun a => l.needBlocks a.maxTokens).sum + l.needBlocks r.maxTokens > blocks then some 0x43
    else if held.any fun a => a.globalId == r.globalId then some 0x45
    else none

/-- A member's admission summary and rates as the headwater knows them (R313, R354). -/
def State.memberSummary (s : State) (k : Fin 16) (member : Nat) : MemberSummary × MemberRates :=
  let hw := (s.ctx k).hw
  let rt := s.rates k
  let own : MemberRates := { b := s.linkShare k, r1 := rt.r1, r2 := rt.r2 }
  if member = (s.ctx k).memberIndex then (s.summary k, own)
  else
    (((hw.summaries.find? fun p => p.1 == member).map (·.2)).getD (s.summary k),
     match hw.rates.find? fun p => p.1 == member with
     | some (_, b, r1, r2) => { b := b, r1 := r1, r2 := r2 }
     | none => own)

/-- The template of the next step (R352). -/
def Ctx.nextTemplate (c : Ctx) : Option Nat :=
  match c.hw.stepSubs.head? with
  | some q => if q.template = 0xFFFF then some c.image.defaultTemplate else some q.template
  | none => none

/-- The decision on a join: none if it is admitted, or the reason code (R276, R315). -/
def State.joinDecision (s : State) (k : Fin 16) (r : JoinReq) : Option Nat :=
  let c := s.ctx k
  let held := (s.members k).map (·.1) |>.filter fun m => s.groupHas k r.group m
  match if c.hw.admitted.any fun a => a.globalId == r.globalId then some 0x45
        else (held.filterMap fun m => s.memberRefusal k m r).head? with
  | some e => some e
  | none =>
    if c.be then (if r.be then none else some 0x48)
    else if !r.be && r.deadline == 0 then some 0x4B
    else
      let next := c.nextTemplate.getD c.image.defaultTemplate
      let guarded := (held.map fun m =>
        let (sm, rt) := s.memberSummary k m
        let batch := ((c.hw.admitted.filter fun a => s.groupHas k a.group m).map (·.maxTokens)) ++ [r.maxTokens]
        sm.guarded rt next c.controls.marginPct batch).foldl max 0
      if !r.be && decide (guarded > r.deadline) then some 0x49
      else if c.hw.admitted.any fun a => !a.be && decide (guarded > a.deadline) then some 0x4A
      else none

/-! ### Building a step start (R350) -/

/-- The change list in the making. -/
structure ChangeAcc where
  s : State
  changes : List Change := []
  /-- Submissions that wait for a later step start. -/
  left : List Waiting := []

def ChangeAcc.refuse (k : Fin 16) (a : ChangeAcc) (w : Waiting) (reason : Nat) : ChangeAcc :=
  { a with s := a.s.result w.hdr w.sub.kind w.taken reason (some k) a.s.nextTick }

def ChangeAcc.accept (k : Fin 16) (step : Nat) (a : ChangeAcc) (w : Waiting) (x : Change) (f : List Admitted → List Admitted) : ChangeAcc :=
  { a with
    s := a.s.modCtx k fun c =>
      { c with hw := { c.hw with admitted := f c.hw.admitted }, outcomes := c.outcomes ++ [{ w with step := step }] }
    changes := a.changes ++ [x] }

/-- Applies one leave, join or append count to the change list of a step. -/
def ChangeAcc.take (k : Fin 16) (step : Nat) (a : ChangeAcc) (w : Waiting) : ChangeAcc :=
  let known (g : Nat) : Bool := (a.s.ctx k).hw.admitted.any fun x => x.globalId == g && !x.leaving
  if a.changes.length ≥ 1024 then { a with left := a.left ++ [w] }
  else match w.sub with
    | .leave r =>
      if known r.globalId then
        a.accept k step w (.leave r.globalId r.export_ r.hostBase r.stride)
          (·.map fun x => if x.globalId == r.globalId then { x with leaving := true } else x)
      else a.refuse k w 0x03
    | .join r =>
      match a.s.joinDecision k r with
      | some e => a.refuse k w e
      | none => a.accept k step w (.join r) (· ++ [{ globalId := r.globalId, maxTokens := r.maxTokens, be := r.be,
                                                       deadline := r.deadline, group := r.group }])
    | .appendCount g n => if known g then a.accept k step w (.append g n) id else a.refuse k w 0x03
    | _ => a

/-- The order in which changes are applied: leaves, joins, append counts (R350). -/
def changeRank (w : Waiting) : Nat := match w.sub with | .leave _ => 0 | .join _ => 1 | _ => 2

/-- The changes of a step (R350). -/
def State.buildChanges (s : State) (k : Fin 16) (step : Nat) : State × List Change :=
  let ws := (s.ctx k).hw.changes.mergeSort fun a b => changeRank a ≤ changeRank b
  let a := ws.foldl (ChangeAcc.take k step) { s := s }
  (a.s.modCtx k fun c => { c with hw := { c.hw with changes := a.left } }, a.changes)

/-! ### Pacing (R351, R352) -/

/-- Members that have reported a step. -/
def Headwater.reportedBy (h : Headwater) (step : Nat) (member : Nat) : Bool := h.reports.contains (member, step)

/-- Whether the pacing of R351 allows a further step start: of n, where every member has reported every step up to n − steps_in_flight. -/
def State.mayStart (s : State) (k : Fin 16) : Bool :=
  let c := s.ctx k
  if !c.multiMember then decide (c.steps.length < c.image.stepsInFlight) && c.rebase.isEmpty
  else
    let ms := (s.members k).map (·.1)
    let done (st : Nat) : Bool := ms.all fun m => c.hw.reportedBy st m
    c.hw.started.all (fun st => decide (c.hw.nextStep < st + c.image.stepsInFlight) || done st) && c.hw.cancelWait.all done

/-- A step submission whose last count is used leaves the list; its record follows the step start (R352, R451). -/
def Ctx.useStepSub (c : Ctx) (step : Nat) : Ctx :=
  match c.hw.stepSubs with
  | [] => c
  | q :: qs =>
    if q.left ≤ 1 then
      { c with
        hw := { c.hw with stepSubs := qs }
        outcomes := c.outcomes ++ [{ hdr := q.hdr, taken := q.taken, sub := .step q.template 0, step := step }] }
    else { c with hw := { c.hw with stepSubs := { q with left := q.left - 1 } :: qs } }

/-- Step exhaustion: the next step of this member would take the last number, and the steps in flight are complete (R104, R382). -/
def State.exhaust (s : State) (k : Fin 16) : State :=
  let c := s.ctx k
  if c.exhausted || !c.steps.isEmpty || decide (c.nextStep < lastStep) then s
  else
    let s := s.pushRec { kind := 5, cxid := c.cxid, ctx := some k, due := s.nextTick }
    let s := s.pushRec { kind := 9, cxid := c.cxid, ctx := some k, due := s.nextTick, runFinal := true }
    s.modCtx k fun c => { c with exhausted := true, finalRecord := true }

/-- The headwater starts its next step, if it may: on its own die at once for a single-member context, by a message to every
member otherwise (R350–R352; log entry 11). A headwater that defers its own step-boundary action sends no step start either (DESIGN
CHOICE, log entry 131). -/
def State.pace (s : State) (k : Fin 16) : State :=
  let c := s.ctx k
  let step := if c.multiMember then c.hw.nextStep else c.nextStep
  if !c.headwater || c.deferring || c.fault.isSome || !s.mayStart k || decide (step ≥ lastStep) then s
  else
    let (s, changes) := s.buildChanges k step
    let c := s.ctx k
    if c.hw.admitted.isEmpty && c.hw.stepSubs.isEmpty then s
    else
      let template := c.nextTemplate
      let s := s.modCtx k fun c =>
        let c := c.useStepSub step
        { c with hw := { c.hw with
            nextStep := step + 1, admitted := c.hw.admitted.filter (!·.leaving)
            gone := if c.multiMember then c.hw.gone ++ (c.hw.admitted.filter (·.leaving)).map fun a => (step, a) else []
            started := if c.multiMember then c.hw.started ++ [step] else [] } }
      if c.multiMember then s.sendAll k (.stepStart step template changes) else s.stepBoundary k step template changes

/-- Result records of leaves whose sequences are freed (R279, R451). -/
def State.leaveOutcomes (s : State) (k : Fin 16) : State :=
  let c := s.ctx k
  let isOver (w : Waiting) : Bool := match w.sub with
    | .leave r => decide (w.step < c.nextStep) && (c.ledger.global? r.globalId).isNone && !(c.steps.any fun x => !x.cancelled && decide (x.step ≤ w.step))
    | _ => false
  let mine := c.outcomes.filter isOver
  if mine.isEmpty then s
  else
    let s := s.setCtx k { c with outcomes := c.outcomes.filter fun w => !isOver w }
    mine.foldl (fun s w => s.result w.hdr w.sub.kind w.taken 0 (some k) s.nextTick) s

end Sys2Proof.Machine
end

