-- ==== Sys2Proof/Machine/Records.lean ====
section
/-! DEFINITION. Completion records (R152, R387, R397, R444, R445, R455–R458) and run records (R375, R376, R382–R385): their bytes,
their order, the completion ring and its backlogs. -/

namespace Sys2Proof.Machine

/-! ### The window header (R444) -/

/-- Bytes 0–39 of the window header. -/
def State.windowHead (s : State) : Bytes :=
  leBytes 8 0x43554C534B535550 ++ leBytes 2 1 ++ leBytes 1 (s.cfg.instanceAddr % 8) ++ leBytes 1 s.sluice.windowState
    ++ leBytes 4 s.cfg.instanceAddr ++ leBytes 4 s.ringSize ++ leBytes 4 s.areaSize ++ leBytes 6 s.cfg.gtcStart
    ++ leBytes 6 s.sluice.gtcPoll ++ zeros 4

/-- Writes the fields of the window header that Puska and the steward keep; the tails are firmware's. -/
def State.writeWindow (s : State) : State :=
  let b := s.cfg.window
  let m := s.mem.writeBytes b s.windowHead
  let m := m.writeBytes (b + 40) (leBytes 4 s.sluice.head)
  let m := m.writeBytes (b + 48) (leBytes 4 s.steward.areaHead)
  { s with mem := m.writeBytes (b + 56) (zeros 8 ++ slice s.cfg.configHash 0 48) }

/-! ### Fault records (R397) -/

def FaultInfo.bytes (f : FaultInfo) (stamp cxid slot instanceAddr : Nat) : Bytes :=
  let moving := f.phase == 1 || f.phase == 3 || f.phase == 5 || f.phase == 6
  leBytes 8 f.stamp ++ leBytes 8 stamp ++ leBytes 2 f.code ++ leBytes 1 f.scope
    ++ leBytes 1 (b2n f.peer + 2 * b2n f.fenced + 4 * b2n moving) ++ leBytes 2 cxid ++ leBytes 1 slot ++ leBytes 1 f.phase
    ++ leBytes 4 instanceAddr ++ leBytes 2 f.cmid ++ leBytes 2 f.member ++ leBytes 16 f.task ++ leBytes 1 f.core
    ++ leBytes 1 f.endStatus ++ leBytes 2 f.later ++ leBytes 4 f.detail1 ++ leBytes 8 f.detail2

def State.faultBytes (s : State) (r : Rec) (f : FaultInfo) : Bytes :=
  match r.ctx with
  | some k => f.bytes s.stamp r.cxid k.val s.cfg.instanceAddr
  | none => f.bytes s.stamp 0 0 s.cfg.instanceAddr

/-! ### Run records (R382–R385) -/

/-- The canonical core map (R20, R375): the PCIDs of the populated LCIDs in order. -/
def canonicalMap (disabled : List Nat) : List Nat :=
  (List.range 8).flatMap fun c => (((List.range 9).map (9 * c + ·)).filter fun p => !disabled.contains p).take 8

/-- The substitutions a context's catchment holds, as (LCID, canonical PCID, PCID in service, latency changed) (R375, R376). -/
def State.substitutions (s : State) (k : Fin 16) : List (Nat × Nat × Nat × Bool) :=
  let canon := canonicalMap s.cfg.disabled
  let cls (p : Nat) : Nat := s.cfg.latencyClass.getD p 0
  (s.ctx k).cores.filterMap fun l =>
    match s.cfg.coreMap[l]?, canon[l]? with
    | some p, some q => if p ≠ q then some (l, q, p, cls p != cls q) else none
    | _, _ => none

/-- Body of a run record, bytes 0–767 (R383). -/
def State.runBody (s : State) (k : Fin 16) (final : Bool) : Bytes :=
  let c := s.ctx k
  let subs := (s.substitutions k).take 8
  let mode := match c.mode with | .scheduleExact => 0 | .resultExact => 1 | .relaxed => 2
  let head := leBytes 8 0x524E55524B535550 ++ leBytes 2 1 ++ leBytes 2 c.cxid ++ leBytes 2 c.recordCmid ++ leBytes 1 mode
    ++ leBytes 1 (b2n final + 2 * b2n c.image.arrangementInvariant + 4 * b2n c.lock.active + 8 * b2n c.fast)
    ++ leBytes 4 s.cfg.instanceAddr ++ leBytes 2 (if c.multiMember then c.memberIndex else 0) ++ zeros 2
    ++ leBytes 6 c.firstLaunch ++ leBytes 6 s.time.localTick ++ leBytes 5 (c.lastCompleted.getD lastStep) ++ zeros 7
  let hashes := slice c.image.graphHash 0 48 ++ slice s.cfg.configHash 0 48 ++ slice s.cfg.disabledHash 0 48
    ++ slice s.cfg.coreMapHash 0 48 ++ slice (if c.multiMember then c.manifestHash else []) 0 48 ++ sha384 c.image.seed
    ++ slice c.inputDigest 0 48
  let counts := leBytes 4 s.steward.running ++ slice c.image.seed 32 2 ++ zeros 2 ++ leBytes 8 c.ndetTotal
    ++ ((List.range 16).map fun i => leBytes 4 (c.ndetKinds.getD i 0)).flatten ++ leBytes 8 c.stats.igaugeTicks
    ++ leBytes 8 (c.holdCount % 2 ^ 48) ++ slice c.trace.digest 0 8 ++ leBytes 4 c.laneChanges ++ leBytes 2 subs.length ++ zeros 2
  let list := (subs.map fun x => leBytes 1 x.1 ++ leBytes 1 x.2.1 ++ leBytes 1 x.2.2.1 ++ leBytes 1 (b2n x.2.2.2)).flatten
  slice (head ++ hashes ++ counts ++ list) 0 768

/-- A signature block (R81, R385): public key and signature, little-endian. -/
def signatureBlock (x y r t : Nat) : Bytes := leBytes 48 x ++ leBytes 48 y ++ leBytes 48 r ++ leBytes 48 t ++ zeros 64

/-- A signed run record. -/
def State.runBytes (s : State) (k : Fin 16) (final : Bool) : Bytes :=
  let body := s.runBody k final
  let w := s.steward
  let (r, t) := ecdsaSign w.privateKey (Config.signNonce (s.time.localTick * 16 + k.val)).toNat (sha384 body)
  body ++ signatureBlock w.publicX w.publicY r t

/-! ### Records -/

/-- Bytes 36–63 of a record (R456); `now` is the die tick of writing. -/
def RecDetail.bytes (d : RecDetail) (now : Nat) : Bytes :=
  let b := match d with
    | .none => []
    | .loadSlot n => leBytes 1 n
    | .step st status t start ndet mask ig n =>
      leBytes 5 st ++ leBytes 1 status ++ leBytes 2 t ++ leBytes 4 (now - start) ++ leBytes 4 ndet ++ leBytes 2 mask ++ leBytes 4 ig
        ++ leBytes 2 n
    | .miss g d start st causes => leBytes 4 g ++ leBytes 2 d ++ leBytes 2 (now - start) ++ leBytes 5 st ++ zeros 1 ++ leBytes 2 causes
    | .lengthLimit g st => leBytes 4 g ++ leBytes 5 st
    | .exported g n f a => leBytes 4 g ++ leBytes 4 n ++ leBytes 4 f ++ leBytes 8 a
    | .dumped r n st a => leBytes 1 r ++ leBytes 4 n ++ leBytes 5 st ++ zeros 2 ++ leBytes 8 a
    | .teardown c => leBytes 2 c
    | .firmware e o n => leBytes 1 e ++ zeros 3 ++ leBytes 4 o ++ leBytes 4 n
  slice b 0 28

/-- A whole record as it is written (R455). -/
def Rec.bytes (r : Rec) (stamp now seq : Nat) : Bytes :=
  leBytes 8 stamp ++ leBytes 1 r.kind ++ leBytes 1 r.reason ++ leBytes 2 (64 + r.payload.length) ++ leBytes 2 r.cxid
    ++ leBytes 1 (match r.ctx with | some k => k.val | none => 0xFF) ++ leBytes 1 r.slot ++ leBytes 8 r.tag.toNat ++ leBytes 6 r.taken
    ++ leBytes 1 r.subKind ++ zeros 1 ++ leBytes 4 seq ++ r.detail.bytes now ++ r.payload

/-- A filler of a given length: of no context, of no submission slot (R455, R456, R458). -/
def fillerBytes (stamp gap seq : Nat) : Bytes :=
  leBytes 8 stamp ++ zeros 2 ++ leBytes 2 gap ++ zeros 2 ++ leBytes 2 0xFFFF ++ zeros 16 ++ leBytes 4 seq ++ zeros (gap - 36)

/-- Forms the payload of a record that falls due: a fault record, also logged, or a run record (R397, R382). -/
def State.formRec (s : State) (r : Rec) : State × Rec :=
  match r.fault with
  | some f =>
    let b := s.faultBytes r f
    ((s.signalOut 1).log 0x01 (if f.scope = 2 then 3 else if f.scope = 1 then 1 else 2) b, { r with fault := none, payload := b })
  | none =>
    match r.ctx with
    | some k => if r.kind = 9 ∧ r.payload = [] then (s, { r with payload := s.runBytes k r.runFinal }) else (s, r)
    | none => (s, r)

/-- Writes a record into the ring if it fits, with its filler (R445, R458). -/
def State.writeRec (s : State) (r : Rec) : State × Bool :=
  let size := s.ringSize
  let q := s.sluice
  let len := 64 + r.payload.length
  let pos := q.head % size
  let gap := if pos + len > size then size - pos else 0
  let used := (q.head + 2 ^ 32 - q.tail % 2 ^ 32) % 2 ^ 32
  if used + gap + len ≤ size then
    let b := (if gap = 0 then [] else fillerBytes s.stamp gap q.seq) ++ r.bytes s.stamp s.time.localTick q.seq
    let s := { s with
      mem := writeRing s.mem (s.cfg.window + 0x8000) size q.head b
      sluice := { q with head := wrap 32 (q.head + gap + len), seq := wrap 32 (q.seq + 1), records := wrap 32 (q.records + 1) } }
    let s := match r.ctx, r.kind with
      | some k, 3 => s.raise (ctxPage k) 2
      | some k, 7 => s.raise (ctxPage k) 8
      | _, _ => s
    (s, true)
  else (s, false)

/-- Whether a record tells of a step (R387). -/
def Rec.ofStep (r : Rec) : Bool := r.kind == 2 || r.kind == 3 || r.kind == 4

/-- Whether a record may still be written: those of a context's steps are withheld after a fault (R387). -/
def State.mayWrite (s : State) (r : Rec) : Bool :=
  match r.ctx with
  | some k => !(r.ofStep && (s.ctx k).withheld && (s.ctx k).cxid == r.cxid)
  | none => true

/-- Writes die records, oldest first; the rest goes to the die backlog, with the event if it was not in it before, or is lost
(R458, R477). -/
def State.writeDie (s : State) (r : Rec) (old : Bool) : State :=
  let blocked := !s.sluice.dieBacklog.isEmpty
  let (s', ok) := if blocked then (s, false) else s.writeRec r
  if ok then s'
  else if s.sluice.dieBacklog.length < 16 then
    let s := { s with sluice := { s.sluice with dieBacklog := s.sluice.dieBacklog ++ [r] } }
    if old then s else s.raise 0x03 0
  else ({ s with sluice := { s.sluice with dieLost := sat 32 (s.sluice.dieLost + 1) } }).raise 0x03 1

/-- Writes the records of one context in order, the first `old` of them out of its backlog; the first that does not fit sends it and the
later ones to the backlog, with the event if one of them enters it (R152, R477). -/
def State.writeCtx (s : State) (k : Fin 16) : Nat → List Rec → State
  | _, [] => s
  | old, r :: rs =>
    let w := s.writeRec r
    if w.2 then State.writeCtx w.1 k (old - 1) rs
    else
      let s := s.modCtx k fun c => { c with backlog := c.backlog ++ (r :: rs) }
      if (r :: rs).length ≤ old then s else s.raise 0x03 2

/-- The step a record is sorted by. -/
def Rec.stepOf (r : Rec) : Nat := match r.detail with | .step st _ _ _ _ _ _ _ => st | .miss _ _ _ st _ => st | .lengthLimit _ st => st | .dumped _ _ st _ => st | _ => 0

/-- The order of a context's new records (R458). -/
def Rec.before (a b : Rec) : Bool :=
  a.kind < b.kind || (a.kind == b.kind && (a.slot < b.slot || (a.slot == b.slot && a.stepOf ≤ b.stepOf)))

/-- Forms every record that has fallen due. -/
def State.formDue (s : State) : State × List Rec :=
  let now := s.time.localTick
  let due := s.sluice.due.filter fun r => r.due ≤ now
  let s := { s with sluice := { s.sluice with due := s.sluice.due.filter fun r => !(r.due ≤ now) } }
  due.foldl (fun (acc : State × List Rec) r => if acc.1.mayWrite r then (let (s, r) := acc.1.formRec r; (s, acc.2 ++ [r])) else acc) (s, [])

/-- The records of one context slot at a tick start. -/
def State.writeSlot (s : State) (recs : List Rec) (k : Fin 16) : State :=
  let old := (s.ctx k).backlog.filter s.mayWrite
  let new := (recs.filter fun r => r.ctx == some k).mergeSort Rec.before
  (s.modCtx k fun c => { c with backlog := [] }).writeCtx k old.length (old ++ new)

/-- The records due at a tick start (R152, R458): the tail is read once, then die records, then each slot's. -/
def State.writeRecords (s : State) (tail : Nat) : State :=
  let s := { s with sluice := { s.sluice with tail := tail % 2 ^ 32 } }
  let (s, recs) := s.formDue
  let old := s.sluice.dieBacklog
  let s := { s with sluice := { s.sluice with dieBacklog := [] } }
  let s := (recs.filter fun r => r.ctx.isNone).foldl (·.writeDie · false) (old.foldl (·.writeDie · true) s)
  (allSlots.foldl (·.writeSlot recs ·) s).writeWindow

/-! ### Deferral (R152) -/

/-- The deferral ends once the backlog has fallen to 48 records. -/
def Ctx.resumeSteps (c : Ctx) : Ctx := if c.backlog.length ≤ 48 then { c with deferring := false } else c

/-- A full backlog defers the step boundary of this tick; each deferred tick is counted. -/
def State.deferSteps (s : State) (k : Fin 16) : State :=
  s.modCtx k fun c =>
    let on := c.deferring || decide (c.backlog.length ≥ 64)
    if on && c.phase == .running then
      ((({ c with deferring := true } : Ctx).count 9).cause 4).modStats fun t => { t with completionStalls := t.completionStalls + 1 }
    else { c with deferring := on }

end Sys2Proof.Machine
end

