-- ==== Sys2Proof/Machine/Life.lean ====
section
/-! DEFINITION. The life of a context between ticks: launch (R60), context ticks and holds (R58, R64), the observation value (R415,
R494), lock-step digests (R356–R358), freeze (R319–R324), thaw (R329–R331), halts and resumes (R437, R438). -/

namespace Sys2Proof.Machine

/-! ### Observation controls at a context tick start (R415, R431, R494) -/

/-- Eight sounding selectors as registers 0–3 (R493). -/
def soundBytes (sel : List Nat) : Bytes :=
  ((List.range 4).map fun j => leBytes 8 (sel.getD (2 * j) 0 % 2 ^ 24 + sel.getD (2 * j + 1) 0 % 2 ^ 24 * 2 ^ 32)).flatten

/-- The next observation value (R494). -/
def Ctx.observe (c : Ctx) (tick : Nat) (dumps : List DumpReq) : Ctx :=
  let t := c.trace
  let asked := (dumps.map fun d => leBytes 4 d.nameId ++ leBytes 8 d.step).flatten
  { c with trace := { t with digest := sha384 (t.digest ++ leBytes 8 tick ++ leBytes 8 (t.effective.toNat % 2 ^ 20) ++ soundBytes t.selEffective ++ asked) } }

/-- Whether tracing is enabled by a control word. -/
def traceOn (v : BitVec 64) : Bool := v.getLsbD 0 || v.getLsbD 1

/-- A flush: a padded chunk (R423). While a chunk is being written it waits for the next context tick start, and so does what a chunk leaves
of a stopped capture. -/
def Ctx.flushChunk (c : Ctx) (now : Nat) : Ctx :=
  let stopped := c.trace.capture == .stopped
  if c.trace.chunk.isSome || (stopped && c.trace.ring.isEmpty && !c.trace.queue.isEmpty) then
    { c with trace := { c.trace with flushPending := true } }
  else
    let c := c.formChunk now true stopped
    { c with trace := { c.trace with flushPending := stopped && !(c.trace.ring.isEmpty && c.trace.queue.isEmpty) } }

/-- A capture in the Wrap mode that is disabled stops, and its records are flushed; the other modes stop as their table says
(R423, R431). -/
def Ctx.traceOff (c : Ctx) (was : BitVec 64) (now : Nat) : Ctx :=
  if traceOn was && !traceOn c.trace.effective && bits was.toNat 8 7 == 1 && c.trace.capturing then
    let c := { c with trace := { c.trace with capture := .stopped, flushPending := c.trace.flushPending || !c.trace.queue.isEmpty } }
    if c.trace.ring.isEmpty then c else c.flushChunk now
  else c

/-- An arm or a flush that was written takes effect (R423, R431). -/
def Ctx.traceActs (c : Ctx) (now : Nat) : Ctx :=
  let c := if c.trace.armPending then
      { c with trace := { c.trace with armPending := false, capture := .armed, startSerial := c.trace.nextSerial, centre := none } }
    else c
  if c.trace.flushPending then c.flushChunk now else c

/-- The observation controls take effect (R415, R417, R494). -/
def State.observeTick (s : State) (k : Fin 16) (launch : Bool) : State :=
  let c := s.ctx k
  let t := c.trace
  let changed := t.ctrl.toNat % 2 ^ 20 != t.effective.toNat % 2 ^ 20 || t.sel != t.selEffective
  let asked := c.dumps.filter (!·.taken)
  let s := s.setCtx k { c with trace := { t with effective := t.ctrl, selEffective := t.sel, drainSlot := traceOn t.ctrl } }
  let s := if launch || changed || !asked.isEmpty then s.modCtx k (·.observe c.tick asked) else s
  let s := s.modCtx k fun c => (c.traceOff t.effective s.time.slotCount).traceActs s.time.slotCount
  let stopped := t.capture != .stopped && (s.ctx k).trace.capture == .stopped
  let s := if stopped then s.raise (ctxPage k) 6 else s
  if asked.isEmpty then s else s.takeDumps k

/-! ### Launch (R60, R378, R382) -/

/-- Loads the generator key register of every core of a context (R378). -/
def State.loadKeys (s : State) (k : Fin 16) : State :=
  let key := (s.ctx k).image.seed.take 32
  (s.ctx k).cores.foldl (fun s l => s.modCore (lcidOf l) fun c => { c with genKey := key }) s

/-- A context launches at this die tick start. A multi-member context starts step 0 with the batch the confirm carried (R349). -/
def State.launch (s : State) (k : Fin 16) : State :=
  let now := s.time.localTick
  let s := s.modCtx k fun c =>
    let gtc := if c.multiMember then (if c.rota = 0 then c.launchGtc else c.resumeGtc.getD now) else now
    { c with launchGtc := gtc, firstLaunch := gtc, holdCount := 0, tick := now - gtc, tickDie := now, launched := true, loadDone := false, lastControl := 0, resumeGtc := none
             beganDie := now }
  let s := (s.setPhase k .running).loadKeys k
  let c := s.ctx k
  let s := match c.loadSub with
    | some w => (s.result w.hdr 1 w.taken 0 (some k) now).modCtx k fun c => { c with loadSub := none }
    | none => s
  let s := s.pushRec { kind := 9, cxid := c.cxid, ctx := some k, due := now }
  let s := if c.multiMember then
      s.modCtx k fun c => { c with
        due := c.due ++ [{ tick := 0, sender := s.headwaterAddr k, ctrl := .stepStart 0 none (s.catch_ c.catchment).batch }]
        hw := { (s.catch_ c.catchment).hw with
          nextStep := 1, started := [0], admitted := c.hw.admitted, changes := c.hw.changes, stepSubs := c.hw.stepSubs } }
    else s
  s.observeTick k true

/-- Whether a loaded context launches now (R60, R348, R452). -/
def State.launchNow (s : State) (k : Fin 16) : Bool :=
  let c := s.ctx k
  let now := s.time.localTick
  c.phase == .loading && c.fault.isNone && c.loadDone && !s.rivalHere k &&
    (if !c.multiMember then true
     else if c.rota = 0 then (s.catch_ c.catchment).confirmed && decide (c.launchGtc ≤ now)
     else match c.resumeGtc with | some z => decide (z ≤ now) | none => false)

/-- The headwater fixes the launch of a context at another rota position once its catchment is free (R452). -/
def State.rotaLaunch (s : State) (k : Fin 16) : State :=
  let c := s.ctx k
  if c.phase == .loading && c.fault.isNone && c.loadDone && c.multiMember && c.headwater && c.rota != 0 && !c.confirmed && !s.rivalHere k then
    (s.sendAll k (.resume (s.time.localTick + c.horizon + 1))).modCtx k fun c => { c with confirmed := true }
  else s

/-! ### Lock-step (R356–R358) -/

/-- The bytes of a digest entry (R356). -/
def DigestEntryBytes (e : DigestEntry) : Bytes :=
  leBytes 16 e.name ++ leBytes 1 e.kind ++ leBytes 1 e.core ++ leBytes 1 e.slot ++ leBytes 1 e.status ++ leBytes 4 e.checksum ++ zeros 8

/-- D(k) of a list (R356). -/
def tickDigest (es : List DigestEntry) : BitVec 64 := crc64 (es.map DigestEntryBytes).flatten

/-- The list of the tick that ends, in the order of R356. -/
def LockState.close (l : LockState) : List DigestEntry := (l.current.mergeSort fun a b => a.1 ≤ b.1).map (·.2)

/-- The list of a tick. -/
def LockState.list (l : LockState) (tick : Nat) : List DigestEntry := ((l.lists.find? fun p => p.1 == tick).map (·.2)).getD []

/-- The end of a context tick in lock-step: the list is kept and its digest sent to the peer (R357). -/
def State.lockEnd (s : State) (k : Fin 16) : State :=
  let c := s.ctx k
  if !c.lock.active then s
  else
    let es := c.lock.close
    let keep := (c.lock.lists ++ [(c.tick, es)]).filter fun p => decide (c.tick < p.1 + 2 * c.horizon + 2)
    let s := s.modCtx k fun c => { c with lock := { c.lock with current := [], lists := keep } }
    s.sendMsg c.lock.peer { s.hdrOf k 2 0 with tick := c.tick } (.ctrl (.digest c.tick (tickDigest es)))

/-- Divergence is detected (R358 steps 1–3). -/
def State.diverge (s : State) (k : Fin 16) (tick : Nat) : State :=
  let c := s.ctx k
  let s := s.haltContext k 2 lockstepBp 0xFF
  let s := (s.modCtx k fun c => { c with lock := { c.lock with diverged := some tick, waitRecs := [] } }).signalOut 3
  let s := s.sendMsg c.lock.peer (s.hdrOf k 2 0) (.ctrl (.lockList tick (c.lock.list tick)))
  if c.multiMember then s.sendCtrl k (s.headwaterAddr k) .lockHalt else s

/-- The comparison at the start of a context tick (R357). -/
def State.lockCompare (s : State) (k : Fin 16) : State :=
  let c := s.ctx k
  if !c.lock.active || c.lock.diverged.isSome || decide (c.tick < c.horizon) then s
  else
    let t := c.tick - c.horizon
    match c.lock.peerDigests.find? fun p => p.1 == t with
    | none => s
    | some (_, d) =>
      if tickDigest (c.lock.list t) = d then
        let go := c.lock.waitRecs.filter fun p => p.1 ≤ t
        let s := s.setCtx k { c with lock := { c.lock with compared := t, waitRecs := c.lock.waitRecs.filter fun p => !(p.1 ≤ t) } }
        go.foldl (fun s p => s.pushRec { p.2 with due := s.time.localTick }) s
      else s.diverge k t

/-- The first index at which two lists differ. -/
def firstDiff : List DigestEntry → List DigestEntry → Nat
  | a :: as, b :: bs => if a = b then firstDiff as bs + 1 else 0
  | _, _ => 0

/-- The divergence record (R358 step 4). -/
def State.divergence (s : State) (k : Fin 16) (tick : Nat) (theirs : List DigestEntry) : State :=
  let c := s.ctx k
  match c.lock.diverged with
  | none => s
  | some t =>
    if t ≠ tick then s
    else
      let mine := c.lock.list t
      let i := firstDiff mine theirs
      let at_ (es : List DigestEntry) : Bytes := match es[i]? with | some e => DigestEntryBytes e | none => zeros 32
      let record := leBytes 8 s.stamp ++ leBytes 2 c.cmid ++ leBytes 2 c.lock.peerCmid ++ leBytes 2 c.memberIndex ++ leBytes 2 i
        ++ leBytes 6 t ++ zeros 2 ++ leBytes 8 (tickDigest mine).toNat
        ++ leBytes 8 (((c.lock.peerDigests.find? fun p => p.1 == t).map (·.2.toNat)).getD 0) ++ at_ mine ++ at_ theirs ++ zeros 24
      ((s.log 0x02 2 record).raise 0x36 0).faultCode k 0x1E i t

/-! ### The end of a context tick (R62, R336, R516) -/

/-- Whether a submission waits for a context: in a slot of the sluice, taken and not yet acting, or acting later (R336). -/
def State.subWaits (s : State) (k : Fin 16) : Bool :=
  let c := s.ctx k
  s.sluice.ahead.contains c.cxid || (s.sluice.taken.any fun x => x.hdr.cxid == c.cxid) || !c.hw.stepSubs.isEmpty || !c.hw.changes.isEmpty
    || !c.setFlagsDue.isEmpty || !c.heldImports.isEmpty || !c.heldCancels.isEmpty

/-- Whether a member's context is blocked on this die (R336). -/
def State.blockedHere (s : State) (k : Fin 16) : Bool :=
  let c := s.ctx k
  decide (c.stillCount ≥ (s.catch_ c.catchment).rotateNow) || (c.steps.isEmpty && !s.subWaits k)

/-- Whether the freeze tick follows the context tick that ends: its seals then go behind what the cores still hand over (R320). -/
def Ctx.sealsLater (c : Ctx) : Bool := match c.freezeStage with | .scheduled f => decide (f ≤ c.tick + 1) | _ => false

/-- What a member does as a context tick it has run ends: the blocked report, seals and the digest. -/
def State.endTick (s : State) (k : Fin 16) : State :=
  let c := s.ctx k
  if !c.runs || c.fault.isSome then s
  else
    let s := s.lockEnd k
    let s := if c.multiMember then s.sendCtrl k (s.headwaterAddr k) (.blockedReport (s.blockedHere k)) else s
    if c.mode = .scheduleExact then (if c.sealsLater then s else s.sendTickSeals k c.tick).sendControlSeals k c.tick else s

/-! ### The freeze tick (R320) -/

/-- Freeze tick F falls due (R320). -/
def State.freezeAt (s : State) (k : Fin 16) (f : Nat) : State :=
  let s := (s.haltCores k).flush k (fun _ => true) true
  let s := s.modCtx k fun c => { (c.cause 6) with freezeStage := .draining, freezeTick := f, held := false, sealDue := true }
  s.setPhase k .freezing

/-- Whether everything a context's cores sent before the halt of its freeze has gone to the link fabric: their engines have drained, and
no ripple, pair or export of it waits in Puska (R320). -/
def State.handedOver (s : State) (k : Fin 16) : Bool :=
  let sends (o : CntOp) : Bool := match o.kind with | .ripple _ _ _ => true | _ => false
  ((s.coresOf k).all fun l => (s.core (lcidOf l)).serving.isNone || (s.core (lcidOf l)).drained)
    && !(s.cntOps.any fun o => o.slot == k && o.due.isSome && sends o) && (s.ctx k).ownWait.isEmpty
    && s.units.toList.all fun u =>
      !(u.localPart.any fun e => e.slot == k && e.forwards) && (u.behind ++ u.waiting ++ u.current.toList).all fun m => m.slot != k

/-- The seals of tick F − 1 follow the writes and messages of the tick (R320). -/
def State.sealCheck (s : State) (k : Fin 16) : State :=
  let c := s.ctx k
  if c.sealDue && c.phase == .freezing && s.handedOver k then
    (s.sendTickSeals k (c.freezeTick - 1)).modCtx k fun c => { c with sealDue := false }
  else s

/-- A halted core reaches its instruction boundary, or its engines have drained (R26, R64, R320). -/
def State.coreAck (s : State) (l : Fin 64) (drained : Bool) : State :=
  if (s.core l).halted then
    let s := s.modCore l fun c => { c with boundaryReached := true, drained := c.drained || drained }
    allSlots.foldl (·.sealCheck ·) s
  else s

def execCoreHalted (lcid : Fin 64) (drained : Bool) (s : State) : Host.Outcome State Fault Refusal := .next (s.coreAck lcid drained)

/-- A context resumes from a halt (R438): the hold count, the record, the cores. A context that is held under R64 stays halted, and the die
tick of a halt at slot 0 is already counted as one of its hold (R58). -/
def State.resumeHalt (s : State) (k : Fin 16) : State :=
  let c := s.ctx k
  let added := s.time.localTick - c.haltDieTick - b2n (c.held && c.haltSlot == 0)
  let stamp := s.stamp
  let record := leBytes 8 stamp ++ leBytes 1 0x16 ++ leBytes 1 c.haltCause ++ leBytes 2 c.began.haltIds.1 ++ leBytes 2 c.began.haltIds.2 ++ zeros 2
    ++ leBytes 6 added ++ zeros 10
  let s := if c.held then s else (s.runCores k).reload k
  let c := s.ctx k
  s.setCtx k (({ c with halted := false, holdCount := c.holdCount + added, resumeGtc := none, resumeTaken := false } : Ctx).capture
    stamp puskaOrder false record)

/-- Whether a halted context resumes at this boundary (R438). -/
def State.resumesHere (s : State) (k : Fin 16) : Bool :=
  let c := s.ctx k
  c.halted && c.lock.diverged.isNone && c.haltSlot == s.time.slot && (match c.resumeGtc with | some z => decide (z ≤ s.time.localTick) | none => false)

/-- The start of a die tick for a running context: a freeze tick, a hold, or a context tick begins; true where one begins (R58, R64,
R320). A halt that falls on a tick start comes before step 2 of R40 (DESIGN CHOICE, log entry 146). -/
def State.advanceCtx (s : State) (k : Fin 16) : State × Bool :=
  let c := s.ctx k
  if c.phase ≠ .running ∨ c.launched = false ∨ c.fault.isSome then (s, false)
  else
    let again := s.resumesHere k
    let s := if again then s.resumeHalt k else s
    let c := s.ctx k
    if c.halted then (s, false)
    else
      let t := s.dueTick k
      if again && t == c.tick && !(c.haltSlot == 0 && c.haltCause != 2) then (s, false)
      else match c.freezeStage with
        | .scheduled f => if f ≤ t then (s.freezeAt k f, false) else go s c t
        | _ => go s c t
where
  go (s : State) (c : Ctx) (t : Nat) : State × Bool :=
    if s.sealsIn k t then
      let s := if c.held then (s.runCores k).reload k else s
      let s := s.modCtx k fun c => { c with held := false, tick := t, tickDie := s.time.localTick }
      (s.observeTick k false, true)
    else
      let s := if c.held then s else (s.haltCores k).park k
      (s.modCtx k fun c => { (c.cause 0) with held := true, holdCount := c.holdCount + 1 }, false)

/-! ### The save (R321–R324) -/

/-- Whether every horizon partner has sealed the tick before the freeze (R321). -/
def State.drainedIn (s : State) (k : Fin 16) : Bool :=
  let c := s.ctx k
  c.partners.all (c.sealedBy · (c.freezeTick - 1))

/-- Whether every command accepted before the halt has completed in Puska's units (R201, R321): the seals of F − 1 are sent, and nothing of
the context is in flight, in a ring's writes or in an intake. -/
def State.drainedHere (s : State) (k : Fin 16) : Bool :=
  !(s.ctx k).sealDue && (s.ctx k).ownWait.isEmpty && !(s.cntOps.any fun o => o.slot == k && o.due.isSome) && !(s.chanOps.any (·.slot == k)) && !(s.writes.any (·.slot == k))
    && ((s.coresOf k).all fun l => (s.core (lcidOf l)).offers.isEmpty)
    && s.units.toList.all fun u => !((u.localPart ++ u.remotePart).any (·.slot == k)) && (u.behind ++ u.waiting ++ u.current.toList).all fun m => m.slot != k

/-- A span of a ring or region of `size` bytes at `base`, from running byte count `from_` on: one range, or two where it wraps. -/
def ringSpan (lcid base size from_ n : Nat) : List (Nat × Nat × Nat) :=
  let at_ := from_ % max size 1
  let n := min n size
  if at_ + n ≤ size then [(lcid, base + at_, base + at_ + n)] else [(lcid, base + at_, base + size), (lcid, base, base + (at_ + n - size))]

/-- The live span of a circular region (R301, R322): of a staging region the blocks not yet released, back from its head; of another one the
bytes from its tail to its head. -/
def Ctx.liveRegion (c : Ctx) (r : RegionIn) : List (Nat × Nat × Nat) :=
  let mine := c.ledger.stages.filter fun g => g.issued && (c.stagePlace g == (r.lcid, r.region))
  match mine.getLast? with
  | none => match r.head with | some h => ringSpan r.lcid r.base r.bytes r.tail (h - r.tail) | none => []
  | some g =>
    let n := ((mine.filter (!·.released)).map (·.bytes)).sum
    ringSpan r.lcid r.base r.bytes (g.position + g.bytes + r.bytes - min n r.bytes) n

/-- Scratchpad ranges a freeze keeps, as (LCID, first, last + 1) (R201, R301, R322). -/
def State.liveRanges (s : State) (k : Fin 16) : List (Nat × Nat × Nat) :=
  let c := s.ctx k
  let rings := (c.rings.filter (·.isOpen)).flatMap fun r =>
    ringSpan r.decl.receiver r.decl.base r.size r.release ((r.write + 2 ^ 32 - r.release) % 2 ^ 32)
  let regions := (s.stagingRegions.filter fun r => c.lcids.getLsbD r.lcid).flatMap c.liveRegion
  let pools := (c.ledger.pools.filter (·.tier == 0)).map fun p => (p.lcid, p.address, p.address + p.length)
  let symbols := (c.image.symbols.filter (!·.external)).flatMap fun x => (List.range x.stepRing).map fun j =>
    (x.lcid, x.address + j * x.stepStride * 64, x.address + j * x.stepStride * 64 + x.length)
  let windows := (s.windows.filter fun w => c.lcids.getLsbD w.lcid).map fun w => (w.lcid, w.lo, w.hi)
  rings ++ regions ++ pools ++ symbols ++ windows

/-- The tile-register and accumulator file of a core, 4 MiB (01_surroundings.md), where a task was in service at the halt (R322). -/
def State.tileFile (s : State) (k : Fin 16) (l : Nat) : Bytes :=
  if (s.core (lcidOf l)).serving.isNone then []
  else let b := Config.tileFile l (s.ctx k).freezeSerial; b.take (2 ^ 22) ++ zeros (2 ^ 22 - b.length)

/-- The parcels of a freeze image before encryption, as (number, plaintext): Puska's state, then for each compute core its state, its tile
file and the bytes of its live ranges and confluence regions, in the order of R322 (log entry 12). -/
def State.parcels (s : State) (k : Fin 16) : List (Nat × Bytes) :=
  let c := s.ctx k
  let ranges := s.liveRanges k ++ c.regions.flatMap fun r => r.cores.map fun l => (l, r.address, r.address + r.length)
  (0, Config.puskaParcel k.val c.freezeSerial) :: c.cores.map fun l =>
    (1 + l, Config.coreState l c.freezeSerial ++ s.tileFile k l ++ (ranges.filter fun r => r.1 == l).flatMap fun r => s.spadBytes k l r.2.1 (r.2.2 - r.2.1))

/-- Bytes a freeze saves on the die: those of the parcels (R323). -/
def State.saveBytes (s : State) (k : Fin 16) : Nat := ((s.parcels k).map fun x => x.2.length).sum

/-- A length to the next multiple of 64. -/
def to64 (n : Nat) : Nat := ceilDiv n 64 * 64

/-- Where the parcels of an image begin: behind the header and the directory, each at a multiple of 64 (R326). -/
def parcelPlaces : Nat → List (Nat × Bytes) → List Nat
  | _, [] => []
  | at_, p :: ps => at_ :: parcelPlaces (at_ + to64 p.2.length) ps

/-- Where the first parcel of an image begins (R326). -/
def firstParcel (parcels : Nat) : Nat := to64 (256 + 48 * parcels)

/-- Bytes of a freeze image (R324, R326). -/
def State.imageBytes (s : State) (k : Fin 16) : Nat :=
  firstParcel (s.parcels k).length + ((s.parcels k).map fun x => to64 x.2.length).sum

/-- Address, length and release bit of the freeze whose payload the die holds (R319, R452). -/
def Ctx.freezeArgs (c : Ctx) : Nat × Nat × Bool :=
  match c.freezeSub with
  | some w => (match w.sub with | .freeze a l r => (a, l, r) | _ => (0, 0, false))
  | none => (0, 0, false)

/-- Slots in which B bytes are saved or restored (R323, R329). -/
def State.saveSlots (s : State) (k : Fin 16) (bytes : Nat) : Nat := 2 + ceilDiv bytes (max (s.memShare k) 1)

/-- FREEZE_SAVE_BEGIN: at a die tick start at which the seals are in (R321, R324). -/
def State.freezeSaveBegin (s : State) (k : Fin 16) : State :=
  let c := s.ctx k
  if c.phase ≠ .freezing ∨ c.freezeStage ≠ .draining ∨ s.drainedIn k = false ∨ s.drainedHere k = false ∨ s.atTickStart = false then s
  else if c.freezeArgs.2.1 < s.imageBytes k ∧ (c.freezeSub.map (·.auto)).getD false = false then s.faultCode k 0x17 0 (s.imageBytes k)
  else
    let s := s.compareCopies k (c.counters.map (·.decl.vid))
    let cells := ((s.liveRanges k).map fun r => s.spad.cells (spadAddr r.1 r.2.1) (spadAddr r.1 r.2.2)).flatten
    let saved := cells.foldl (fun (m : Memory) (x : Host.Cell) => m.write x.1 x.2) []
    s.modCtx k fun c =>
      { c with saved := saved, savedBytes := s.saveBytes k, freezeStage := .saving (s.time.slotCount + s.saveSlots k (s.saveBytes k)) }

def execFreezeSaveBegin (slot : Fin 16) (s : State) : Host.Outcome State Fault Refusal := .next (s.freezeSaveBegin slot)

/-- The cleartext header of a freeze image (R326). -/
def State.freezeHeader (s : State) (k : Fin 16) : Bytes :=
  let c := s.ctx k
  let oldest := (c.steps.map (·.step)).foldl min lastStep
  let mode := match c.mode with | .scheduleExact => 0 | .resultExact => 1 | .relaxed => 2
  leBytes 8 0x4E5A52464B535550 ++ leBytes 2 1 ++ leBytes 2 c.cxid ++ leBytes 2 (c.cmid % 4096) ++ leBytes 2 (1 + c.cores.length)
    ++ leBytes 4 s.cfg.instanceAddr ++ leBytes 6 c.freezeSerial ++ leBytes 6 c.freezeTick ++ leBytes 6 c.launchGtc ++ leBytes 6 c.holdCount
    ++ leBytes 5 oldest ++ leBytes 1 mode ++ leBytes 1 (b2n c.freezeArgs.2.2) ++ zeros 1 ++ leBytes 8 (s.imageBytes k) ++ zeros 196

/-- The freeze key of a context slot (R325). -/
def State.freezeKey (s : State) (k : Fin 16) : Bytes := ((s.steward.keys[k.val]).map (·.freezeKey)).getD []

/-- One parcel, encrypted: its directory entry and its ciphertext, padded to a multiple of 64 B (R325, R326). -/
def State.sealParcel (s : State) (k : Fin 16) (x : Nat × Nat × Bytes) : Bytes × Bytes :=
  let (ct, tag) := gcmEncrypt (s.freezeKey k) (ivOf s.cfg.instanceAddr (s.ctx k).freezeSerial x.2.1) ((s.freezeHeader k).take 128) x.2.2
  (leBytes 2 x.2.1 ++ zeros 6 ++ leBytes 8 x.1 ++ leBytes 8 ct.length ++ tag ++ zeros 8, ct ++ zeros (to64 ct.length - ct.length))

/-- The freeze image as it lies in external memory: header, directory, parcels (R325, R326). -/
def State.freezeBytes (s : State) (k : Fin 16) : Bytes :=
  let ps := s.parcels k
  let sealed := ((parcelPlaces (firstParcel ps.length) ps).zip ps).map (s.sealParcel k)
  let entries := (sealed.map (·.1)).flatten
  s.freezeHeader k ++ entries ++ zeros (firstParcel ps.length - 256 - entries.length) ++ (sealed.map (·.2)).flatten

/-- What the save takes out of the horizon queue (R322): not what came after the save's begin (R37), and not the control messages that a
Frozen context takes (R349; log entry 10). -/
def Held.isSaved (e : Held) (k : Fin 16) : Bool :=
  e.slot == k && !e.whileFrozen && (match e.body with | .ctrl x => !outOfTick x | _ => true)

/-- Moves into the context what a freeze keeps of its cores, frames, windows, regions, packets and notices. -/
def State.packContext (s : State) (k : Fin 16) : State :=
  let c := s.ctx k
  let s := s.setCtx k { c with
    savedCores := c.cores.map fun l => (l, { s.core (lcidOf l) with genKey := [] })
    savedFrames := allFrames.filterMap fun p =>
      let v := s.frame p.1 p.2
      if v.state ≠ .free ∧ v.task.slot = k then some (p.1.val, p.2.val, v) else none
    savedWindows := s.windows.filter fun w => c.lcids.getLsbD w.lcid
    savedRegions := s.stagingRegions.filter fun w => c.lcids.getLsbD w.lcid
    savedPackets := s.packets.filter (·.slot == k)
    savedOps := s.cntOps.filter (·.slot == k)
    savedNotices := s.horizon.filter (·.isSaved k) }
  let s := { s with
    windows := s.windows.filter fun w => !c.lcids.getLsbD w.lcid
    stagingRegions := s.stagingRegions.filter fun w => !c.lcids.getLsbD w.lcid
    packets := s.packets.filter (·.slot != k)
    cntOps := s.cntOps.filter (·.slot != k)
    horizon := s.horizon.filter (!·.isSaved k) }
  s.horizonWeirs.resetCores k

/-- FREEZE_SAVE_END (R323, R378): the image is stored, without the context seed, and the scrub begins. -/
def State.freezeSaveEnd (s : State) (k : Fin 16) : State :=
  let c := s.ctx k
  match c.freezeStage with
  | .saving e =>
    if c.phase ≠ .freezing ∨ s.time.slotCount < e then s
    else
      let bytes := s.freezeBytes k
      let s := { s with mem := s.mem.writeBytes c.freezeArgs.1 bytes }
      let s := s.packContext k
      let old := s.ctx k
      let image : FreezeImage :=
        { address := c.freezeArgs.1, cxid := c.cxid, cmid := c.cmid, instanceAddr := s.cfg.instanceAddr, serial := c.freezeSerial
          bytes := bytes
          ctx := { old with image := { old.image with seed := [] } } }
      { s with images := image :: s.images.filter (·.address != image.address) }.modCtx k fun c =>
        { c with freezeSerial := c.freezeSerial + 1, freezeStage := .scrubbing (s.time.slotCount + 64) }
  | _ => s

def execFreezeSaveEnd (slot : Fin 16) (s : State) : Host.Outcome State Fault Refusal := .next (s.freezeSaveEnd slot)

/-- What an Empty slot keeps of its context: the values of its page's registers (R479) and its completion backlog (R152). -/
def Ctx.toEmpty (c : Ctx) : Ctx :=
  { phase := c.phase, enablePending := c.enablePending, cxid := c.cxid, mode := c.mode, rota := c.rota, multiMember := c.multiMember
    headwater := c.headwater, fast := c.fast, cmid := c.cmid, catchment := c.catchment, share := c.share, horizon := c.horizon
    be := c.be, outSlots := c.outSlots, memSlots := c.memSlots, launchGtc := c.launchGtc, firstLaunch := c.firstLaunch
    holdCount := c.holdCount, tick := c.tick, haltCause := c.haltCause, haltBreakpoint := c.haltBreakpoint, haltTick := c.haltTick
    haltSlot := c.haltSlot, controls := c.controls, inForce := c.inForce, stats := c.stats, ndetTotal := c.ndetTotal, ndetKinds := c.ndetKinds
    laneChanges := c.laneChanges, nextStep := c.nextStep, lastCompleted := c.lastCompleted, exhausted := c.exhausted
    began := c.began
    trace := { c.trace with armPending := false, flushPending := false, queue := [], queued := 0, ring := [], chunk := none, pendingLoss := none }
    dumpSerial := c.dumpSerial, stillCount := c.stillCount, graphSeq := c.graphSeq, inputDigest := c.inputDigest
    freezeSerial := c.freezeSerial, freezeTick := c.freezeTick, backlog := c.backlog, deferring := c.deferring
    launched := c.launched, halted := c.halted && c.lock.diverged.isNone, lock := { active := c.lock.active }
    image := { c.image with successors := [], experts := [], symbols := [], rings := [], flowCount := 0 } }

/-- A slot becomes Empty; records of steps that a fault withheld are dropped with it (R302, R387). -/
def State.emptySlot (s : State) (k : Fin 16) : State :=
  let c := s.ctx k
  let s := { s with sluice := { s.sluice with due := s.sluice.due.filter s.mayWrite } }
  (s.setCtx k { c.toEmpty with backlog := c.backlog.filter s.mayWrite, began := { c.began with rates := s.fetchRates k } }).setPhase k .empty

/-- The scrub of a freeze ends: Frozen, or Empty where the freeze releases (R302, R304, R323, R382). -/
def State.freezeEnd (s : State) (k : Fin 16) : State :=
  let c := s.ctx k
  match c.freezeStage with
  | .scrubbing e =>
    if c.phase ≠ .freezing ∨ s.time.slotCount < e then s
    else
      let s := s.scrubSpads k
      let s := c.cores.foldl (fun s l => s.modCore (lcidOf l) fun q => { q with genKey := [] }) s
      let s := match c.freezeSub with
        | some w => s.outcome w 0 k s.nextTick
        | none => s
      let s := s.modCtx k fun c => { c with freezeSub := none, freezeStage := .none }
      if c.freezeArgs.2.2 then
        let later := { s with time := { s.time with localTick := s.nextTick } }
        let s := s.pushRec { kind := 9, cxid := c.cxid, ctx := some k, due := s.nextTick, runFinal := true, payload := later.runBytes k true }
        ((s.clearKey k).dropNotices k).emptySlot k
      else s.setPhase k .frozen
  | _ => s

/-! ### The thaw (R329–R331) -/

/-- What the residency unit holds after a thaw: every slot of the context empty (R239). -/
def Ctx.emptySlots (c : Ctx) : Ctx := { c with residency := c.residency.map fun e => { e with state := .empty, job := none } }

/-- A pond entry of a context that now holds slot k. -/
def PondEntry.inSlot (k : Fin 16) (e : PondEntry) : PondEntry := { e with task := { e.task with slot := k } }

/-- Puts back what a freeze kept, in the context slot that the thaw took. -/
def State.unpackContext (s : State) (k : Fin 16) : State :=
  let c := s.ctx k
  let s := c.savedCores.foldl (fun (s : State) (p : Nat × Core) => s.setCore (lcidOf p.1) { p.2.mapEntries (PondEntry.inSlot k) with halted := true }) s
  let s := c.savedFrames.foldl (fun (s : State) (p : Nat × Nat × Frame) => s.setFrame (Fin.ofNat 8 p.1) (Fin.ofNat 8 p.2.1) { p.2.2 with task := { p.2.2.task with slot := k } }) s
  let s := { s with
    windows := s.windows ++ c.savedWindows
    stagingRegions := s.stagingRegions ++ c.savedRegions
    packets := s.packets ++ c.savedPackets.map fun (p : Packet) => { p with slot := k }
    cntOps := s.cntOps ++ c.savedOps.map fun (o : CntOp) => { o with slot := k }
    horizon := (c.savedNotices.map fun (e : Held) => { e with slot := k }) ++ s.horizon
    spad := c.saved.foldl (fun (m : Memory) (x : Host.Cell) => m.write x.1 x.2) s.spad }
  s.horizonWeirs.setCtx k { c.emptySlots with parked := c.parked.map fun (p : Nat × Bool × PondEntry) => (p.1, p.2.1, p.2.2.inSlot k), savedCores := [], savedFrames := [], savedWindows := [], savedRegions := [], savedPackets := [], savedNotices := [], savedOps := [], saved := [] }

/-- Where the freeze image lies that a thaw names (R329, R451). -/
def Ctx.thawAddr (c : Ctx) : Nat := match c.thawSub with | some w => (match w.sub with | .thaw r => r.imageAddr | _ => 0) | none => 0

/-- The cleartext header of a freeze image at an address (R326). -/
def State.imageHeader (s : State) (a : Nat) : Bytes := s.mem.readBytes a 256

/-- A directory entry of a freeze image (R326). -/
def State.imageEntry (s : State) (a i : Nat) : Bytes := s.mem.readBytes (a + 256 + 48 * i) 48

/-- Whether the header of a freeze image is well formed and names the context, and its last freeze where the die keeps a record of it
(R11, R326, R331). -/
def State.freezeHeaderOk (s : State) (k : Fin 16) (h : Bytes) : Bool :=
  let c := s.ctx k
  field h 0 8 == 0x4E5A52464B535550 && field h 8 2 == 1 && field h 10 2 == c.cxid && field h 12 2 == c.cmid % 4096
    && field h 14 2 == 1 + c.cores.length && field h 16 4 == s.cfg.instanceAddr && (c.thawReleased || field h 20 6 + 1 == c.freezeSerial)
    && decide (field h 49 1 ≤ 2) && decide (field h 50 1 < 2) && zeroField h 51 1 && zeroField h 60 196

/-- Whether a parcel of a freeze image verifies: its directory entry and its tag (R11, R325, R326). -/
def State.parcelOk (s : State) (k : Fin 16) (a : Nat) (h : Bytes) (i number : Nat) : Bool :=
  let e := s.imageEntry a i
  field e 0 2 == number && zeroField e 2 6 && field e 8 8 % 64 == 0 && zeroField e 40 8
    && gcmTag (s.freezeKey k) (ivOf s.cfg.instanceAddr (field h 20 6) number) (h.take 128) (s.mem.readBytes (a + field e 8 8) (field e 16 8))
      == slice e 24 16

/-- Whether the freeze image at an address is the one a thaw may restore (R331). -/
def State.imageOk (s : State) (k : Fin 16) (a : Nat) : Bool :=
  let h := s.imageHeader a
  s.freezeHeaderOk k h && (((0 :: (s.ctx k).cores.map (1 + ·)).zipIdx).all fun p => s.parcelOk k a h p.2 p.1)

/-- The B of the image a thaw restores (R329): of a context that stayed in its slot the bytes of its save; of a released one those that
the directory of its image names. -/
def State.restoreBytes (s : State) (k : Fin 16) : Nat :=
  let c := s.ctx k
  let a := c.thawAddr
  if !c.thawReleased then c.savedBytes
  else if s.freezeHeaderOk k (s.imageHeader a) then ((List.range (1 + c.cores.length)).map fun i => field (s.imageEntry a i) 16 8).sum
  else 0

/-- The restore begins (R329). -/
def State.restoreBegin (s : State) (k : Fin 16) : State :=
  let c := s.ctx k
  if c.phase = .thawing then s.setCtx k { c with freezeStage := .restoring s.time.slotCount } else s

/-- Whether the 2 + ⌈B / r1⌉ slots of a restore have passed (R329). -/
def State.restoreDone (s : State) (k : Fin 16) (began : Nat) : Bool := decide (began + s.saveSlots k (s.restoreBytes k) ≤ s.time.slotCount)

/-- The end of a refused thaw at one member: Frozen again, or Empty for a thaw of a released freeze (R331). -/
def State.thawEnds (s : State) (k : Fin 16) : State :=
  let c := s.ctx k
  let s := match c.thawSub with
    | some w => s.outcome w 0x0B k s.nextTick
    | none => s
  if c.thawReleased then (((s.requestsCancelled k).clearKey k).dropNotices k).emptySlot k
  else (s.modCtx k fun c => { c with freezeStage := .none, thawSub := none, resumeGtc := none }).setPhase k .frozen

/-- A refused restore (R331). The headwater of a released freeze, whose slot becomes Empty, tells the other members first (R452). -/
def State.thawRefused (s : State) (k : Fin 16) : State :=
  let c := s.ctx k
  let s := if c.thawReleased && c.multiMember && c.headwater then s.sendOthers k (.resume 0) else s
  s.thawEnds k

/-- Takes a released context's state from its image (R329, R331): what is the slot's and the submission's stays. -/
def Ctx.adopt (c old : Ctx) : Ctx :=
  { old with
    counters := old.counters.map fun q => { q with physical := ((c.counter? q.decl.vid).map (·.physical)).getD q.physical }
    loadDone := false, phase := c.phase, catchment := c.catchment, lcids := c.lcids, ctids := c.ctids, clusters := c.clusters, share := c.share
    horizon := c.horizon, be := c.be, outSlots := c.outSlots, memSlots := c.memSlots, image := c.image, partners := c.partners
    thawSub := c.thawSub, thawReleased := true, freezeSub := none, backlog := c.backlog, deferring := c.deferring
    enablePending := c.enablePending, headwater := c.headwater, freezeSerial := old.freezeSerial + 1 }

/-- What a verified image of a released freeze holds (R329): what this die stored under the same bytes, else a free value (log entry 44). -/
def State.imageContext (s : State) (a : Nat) : Ctx :=
  match s.images.find? fun f => f.bytes == s.mem.readBytes a f.bytes.length with
  | some f => f.ctx
  | none => Config.imageContext (s.mem.readBytes a (field (s.imageHeader a) 52 8))

/-- RESTORE_END (R329–R331): verified from external memory, restored and reported, or refused. -/
def State.restoreEnd (s : State) (k : Fin 16) (i : FreezeImageRef) : State :=
  let c := s.ctx k
  match c.freezeStage with
  | .restoring began =>
    let t := { s with mem := s.mem.writeBytes c.thawAddr i.placed }
    if c.phase ≠ .thawing ∨ t.restoreDone k began = false then s
    else
      let serial := field (t.imageHeader c.thawAddr) 20 6
      if t.imageOk k c.thawAddr then
        let t := if c.thawReleased then t.setCtx k (c.adopt (t.imageContext c.thawAddr)) else t
        let t := (t.unpackContext k).modCtx k fun c => { c with freezeStage := .restored }
        if c.multiMember then t.sendCtrl k (t.headwaterAddr k) (.restoreReport serial true)
        else t.modCtx k fun c => { c with resumeGtc := some t.nextTick }
      else if c.multiMember then (t.sendCtrl k (t.headwaterAddr k) (.restoreReport serial false)).thawRefused k
      else t.thawRefused k
  | _ => s

/-- Sends the cancels held since the freeze, to take effect at a context tick (R333). -/
def State.releaseCancels (s : State) (k : Fin 16) (f : Nat) : State :=
  let c := s.ctx k
  let steps := c.heldCancels.filterMap fun w => match w.sub with | .cancel n => some n | _ => none
  let s := s.modCtx k fun c =>
    { c with
      heldCancels := [], outcomes := c.outcomes ++ c.heldCancels
      due := c.due ++ steps.map fun n => { tick := f, sender := s.cfg.instanceAddr, ctrl := .cancel n } }
  let others := if c.multiMember then ((s.members k).map (·.2)).filter (· != s.cfg.instanceAddr) else []
  others.foldl (fun s a => steps.foldl (fun s n =>
    s.sendMsg a { s.hdrOf k 2 0 with tick := f - c.horizon } (.ctrl (.cancel n))) s) s

/-- The resume tick of a thaw (R330, R378). -/
def State.resumeThaw (s : State) (k : Fin 16) : State :=
  let c := s.ctx k
  match c.resumeGtc with
  | some z =>
    if c.phase = .thawing ∧ c.freezeStage = .restored ∧ z ≤ s.time.localTick then
      let s := s.setCtx k { (c.cause 6) with
        launchGtc := z - c.freezeTick - c.holdCount, resumeGtc := none, freezeStage := .none, thawSub := none, thawReleased := false
        beganDie := s.time.localTick }
      let s := { s with horizon := s.horizon.map fun (h : Held) => if h.slot = k then { h with thawed := h.thawed || h.whileFrozen } else h }
      let s := ((s.setPhase k .running).runCores k).loadKeys k
      let s := match c.thawSub with
        | some w => s.outcome w 0 k s.time.localTick
        | none => s
      s.releaseCancels k c.freezeTick
    else s
  | none => s

/-- A freeze held since before the launch or the resume is fixed at the first tick start after it (R333). -/
def State.freezePending (s : State) (k : Fin 16) : State :=
  let c := s.ctx k
  if c.freezePending && c.phase == .running && c.launched && decide (c.beganDie < s.time.localTick) then
    let s := s.setCtx k { c with freezePending := false }
    if c.multiMember then (if c.headwater then s.sendAll k (.freeze (c.tick + c.horizon + 1)) else s)
    else s.modCtx k fun c => { c with freezeStage := .scheduled (c.tick + 1) }
  else s

end Sys2Proof.Machine
end

