-- ==== Sys2Proof/Machine/Control.lean ====
section
/-! DEFINITION. Control messages in effect (R312, R319, R329–R331, R335, R349–R353, R358, R437, R438) and the submissions a context
takes (R332, R333, R451–R453). -/

namespace Sys2Proof.Machine

/-! ### Reports (R349, R351) -/

/-- The entry index of a member by its instance address. -/
def State.memberOf (s : State) (k : Fin 16) (addr : Nat) : Nat := (((s.members k).find? fun p => p.2 == addr).map (·.1)).getD 0

/-- Forgets the steps every member has reported. -/
def Headwater.settle (h : Headwater) (ms : List Nat) : Headwater :=
  let done (st : Nat) : Bool := ms.all (h.reportedBy st ·)
  let started := h.started.filter (!done ·)
  let wait := h.cancelWait.filter (!done ·)
  { h with started := started, cancelWait := wait, gone := h.gone.filter fun p => started.contains p.1, reports := h.reports.filter fun p => started.contains p.2 || wait.contains p.2 }

/-- A step report takes effect at the headwater. -/
def State.reportEffect (s : State) (k : Fin 16) (sender step b r1 r2 : Nat) : State :=
  let m := s.memberOf k sender
  let ms := (s.members k).map (·.1)
  s.modCtx k fun c =>
    let h := { c.hw with reports := (m, step) :: c.hw.reports, rates := (m, b, r1, r2) :: c.hw.rates.filter fun p => p.1 != m }
    { c with hw := h.settle ms }

/-- A blocked report takes effect (R336). -/
def State.blockedEffect (s : State) (k : Fin 16) (sender : Nat) (blocked : Bool) : State :=
  let m := s.memberOf k sender
  s.modCtx k fun c => { c with hw := { c.hw with blocked := (m, blocked) :: c.hw.blocked.filter fun p => p.1 != m } }

/-- The payload of a submission as received (R384); a command that brings the submission itself has none beyond its fields. -/
def Waiting.received (w : Waiting) (fields : Bytes) : Bytes := if w.payload.isEmpty then fields else w.payload

/-! ### Cancellation (R312, R384) -/

/-- Result records of the cancels of a step that wait for it. -/
def State.cancelOutcomes (s : State) (k : Fin 16) (step reason : Nat) : State :=
  let mine (w : Waiting) : Bool := match w.sub with | .cancel n => n == step | _ => false
  let c := s.ctx k
  (c.outcomes.filter mine).foldl (fun s w => s.result w.hdr 6 w.taken reason (some k) s.nextTick)
    (s.setCtx k { c with outcomes := c.outcomes.filter (!mine ·) })

/-- A cancellation takes effect. A worker's digest takes it with the tick at which the headwater took it (R384; log entry 142). -/
def State.cancelEffect (s : State) (k : Fin 16) (step : Nat) : State :=
  let c := s.ctx k
  let s := if c.multiMember && !c.headwater then s.modCtx k (·.digestInput (c.tick - c.horizon) 3 (leBytes 5 step)) else s
  let gone := (c.steps.filter fun r => !r.cancelled && decide (r.step ≥ step)).map (·.step)
  let (s, ok) := s.cancelStep k step
  let s := if ok && c.headwater && c.multiMember then
      s.modCtx k fun c => { c with hw := { c.hw with cancelWait := c.hw.cancelWait ++ gone } }
    else s
  s.cancelOutcomes k step (if ok then 0 else 5)

/-! ### Freeze and thaw (R319, R329–R331, R452) -/

/-- A freeze message takes effect: F is known. A member that holds no payload while its catchment rotates itself takes it for a
rotation's (log entry 15). -/
def State.freezeEffect (s : State) (k : Fin 16) (f : Nat) : State :=
  let c := s.ctx k
  if c.phase = .running ∧ c.freezeStage = .none then
    (if c.freezeSub.isNone ∧ (s.catch_ c.catchment).autoNow then
      s.setCtx k { c with
        freezeStage := .scheduled f
        freezeSub := some { hdr := {}, taken := 0, auto := true, sub := .freeze (Config.rotationSave k.val c.freezeSerial) 0 false } }
     else s.setCtx k { c with freezeStage := .scheduled f })
  else s

/-- The thaw a rotation asks for: of the image the context's latest save stored (R337; log entry 15). -/
def State.autoThaw (s : State) (k : Fin 16) : Waiting :=
  let c := s.ctx k
  let at_ := s.images.find? fun f => f.cxid == c.cxid && f.serial + 1 == c.freezeSerial
  { hdr := {}, taken := 0, auto := true, sub := .thaw { imageAddr := (at_.map (·.address)).getD 0 } }

/-- A thaw message takes effect: the restore begins, a member that holds no payload reports a refused one (R452), and one that is Freezing
takes the message when its freeze ends (R332). -/
def State.thawEffect (s : State) (k : Fin 16) : State :=
  let c := s.ctx k
  let s := s.modCtx k fun c => { c with hw := { c.hw with restored := [] } }
  if c.phase = .frozen then
    (if c.thawSub.isSome then (s.setPhase k .thawing).restoreBegin k
     else if (s.catch_ c.catchment).autoNow then
       ((s.modCtx k fun c => { c with thawSub := some (s.autoThaw k) }).setPhase k .thawing).restoreBegin k
     else s.sendCtrl k (s.headwaterAddr k) (.restoreReport (c.freezeSerial - 1) false))
  else if c.phase = .thawing ∧ c.freezeStage = .none then
    (if c.thawReleased && !c.loadDone then
      s.modCtx k fun c => { c with due := c.due ++ [{ tick := s.time.localTick, sender := s.headwaterAddr k, ctrl := .thaw }] }
     else s.restoreBegin k)
  else if c.phase = .freezing then (s.modCtx k fun c => { c with thawHeld := true }).raise (ctxPage k) 9
  else s

/-- A restore report takes effect at the headwater; with the last one the resume GTC is set, or the thaw is refused on every
member by a resume GTC of zero. -/
def State.restoredEffect (s : State) (k : Fin 16) (sender : Nat) (ok : Bool) : State :=
  let m := s.memberOf k sender
  let s := s.modCtx k fun c => { c with hw := { c.hw with restored := (m, ok) :: c.hw.restored.filter fun p => p.1 != m } }
  let got := (s.ctx k).hw.restored
  if (s.members k).all fun p => got.any fun q => q.1 == p.1 then
    (if got.all (·.2) then
      (s.sendAll k (.resume (s.time.localTick + (s.ctx k).horizon + 1))).releaseCancels k (s.ctx k).freezeTick
     else s.sendAll k (.resume 0))
  else s

/-- A resume takes effect: of a thaw (R330), of a launch at a rota position (R452), or of a halt (R438). -/
def State.resumeEffect (s : State) (k : Fin 16) (z : Nat) : State :=
  let c := s.ctx k
  match c.phase with
  | .thawing => if z = 0 then s.thawRefused k else s.setCtx k { c with resumeGtc := some z }
  | .loading => s.setCtx k { c with resumeGtc := some z }
  | .running => if c.halted then s.setCtx k { c with resumeGtc := some z } else s
  | .frozen => s.setCtx k { c with thawSub := if z = 0 then none else c.thawSub }
  | _ => s

/-! ### Teardown and halt (R335, R358, R437) -/

/-- A teardown message takes effect: the headwater relays a member's, and a relayed one tears the context down at once. -/
def State.teardownEffect (s : State) (k : Fin 16) (sender code member : Nat) : State :=
  let c := s.ctx k
  if c.headwater && sender != s.cfg.instanceAddr then s.sendAll k (.teardown code member)
  else
    let origin := (((s.members k).find? fun p => p.1 == member).map (·.2)).getD sender
    let s := s.fault k { code := 0x1A, peer := true, member := member, detail1 := code, detail2 := origin }
    s.beginTeardown k

/-- A halt message takes effect: the headwater relays a member's to every member, and a relayed one (cause 2, or
any that a worker receives) halts. -/
def State.haltEffect (s : State) (k : Fin 16) (cause bp : Nat) : State :=
  if cause = 2 || !(s.ctx k).headwater then s.haltContext k 2 bp 0xFF else s.sendAll k (.haltRelay 2 bp)

/-! ### One control message -/

/-- Applies a control message due now. A deferred step boundary stays due (R152). -/
def State.applyCtrl (s : State) (k : Fin 16) (sender : Nat) (x : Ctrl) : State :=
  let c := s.ctx k
  if c.phase = .empty ∨ c.phase = .tearingDown then s
  else
    let s := if sender = s.headwaterAddr k then s.modCtx k fun c => { c with lastControl := c.tick } else s
    match x with
    | .stepStart step t ch =>
      if c.deferring then s.modCtx k fun c => { c with due := c.due ++ [{ tick := c.tick, sender := sender, ctrl := x }] }
      else s.stepBoundary k step t ch
    | .stepReport step _ b r1 r2 => s.reportEffect k sender step b r1 r2
    | .blockedReport b => s.blockedEffect k sender b
    | .cancel step => s.cancelEffect k step
    | .freeze f => s.freezeEffect k f
    | .thaw => s.thawEffect k
    | .resume z => s.resumeEffect k z
    | .restoreReport _ ok => s.restoredEffect k sender ok
    | .teardown code m => s.teardownEffect k sender code m
    | .lockList t es => s.divergence k t es
    | .lockHalt => s.haltEffect k 0 lockstepBp
    | .haltRelay cause bp => s.haltEffect k cause bp
    | .idleBeat => s
    | .digest _ _ => s
    | .join _ _ _ => s
    | .refuse _ _ => s
    | .confirm _ => s
    | .abort => s
    | .lockHello _ _ _ => s

/-- The control messages of a context due at this tick start (step 3 of R40). -/
def State.controlDue (s : State) (k : Fin 16) : State :=
  let c := s.ctx k
  if c.phase = .empty ∨ c.phase = .tearingDown then s
  else
    let due := s.ctrlDue k
    if due.isEmpty then s else due.foldl (fun s x => s.applyCtrl k x.1 x.2) (s.dropCtrlDue k)

/-! ### Set flags and imports (R280, R453) -/

/-- Applies one set_flag at the tick start after its taking (R453). -/
def State.applySetFlag (s : State) (k : Fin 16) (w : Waiting) (step node : Nat) (flags : BitVec 32) : State :=
  let c := s.ctx k
  let isOver (nodes : Nat) : Bool := decide (node ≥ nodes)
  let done (s : State) (reason : Nat) : State := s.result w.hdr 0x0B w.taken reason (some k) s.nextTick
  match c.run? step with
  | some r =>
    if r.cancelled then done s 5
    else if isOver r.insts.length then done s 2
    else done (s.modCtx k (·.flagNode step node flags)) 0
  | none =>
    if step = c.nextStep then
      (match c.lastTemplate with
       | some t =>
         if isOver (c.template t).nodes.length then done s 2 else done (s.modCtx k (·.addTally t node 0 flags)) 0
       | none =>
         let t := c.image.defaultTemplate
         if isOver (c.template t).nodes.length then done s 2 else done (s.modCtx k (·.addTally t node 0 flags)) 0)
    else done s 5

/-- An import is taken (R280, R384): its result waits for import complete, or is a refusal. -/
def State.takeImport (s : State) (k : Fin 16) (w : Waiting) (due : Nat) (r : ImportReq) : State :=
  let fields := leBytes 4 r.globalId ++ leBytes 4 r.maxTokens ++ leBytes 4 r.tokens ++ zeros 4 ++ leBytes 8 r.hostAddr
  let s := s.modCtx k (·.digestInput w.taken 4 (w.received fields))
  match s.beginImport k w.hdr w.taken r with
  | (s, some reason) => s.result w.hdr 9 w.taken reason (some k) due
  | (s, none) => s

/-- The submissions that act in step 3 of R40 of a context that runs. -/
def State.submissionsDue (s : State) (k : Fin 16) : State :=
  let c := s.ctx k
  if !c.runs || c.setFlagsDue.isEmpty then s
  else
    c.setFlagsDue.foldl (fun s w => match w.sub with
      | .setFlag step node flags => s.applySetFlag k w step node flags
      | _ => s) (s.setCtx k { c with setFlagsDue := [] })

/-- Imports held while the context did not run are taken with the first step that starts after the resume (R333). -/
def State.importsDue (s : State) (k : Fin 16) : State :=
  let c := s.ctx k
  if c.heldImports.isEmpty || !(c.steps.any fun r => r.startTick == s.time.localTick) then s
  else c.heldImports.foldl (fun s w => match w.sub with
      | .importSeq r => s.takeImport k w s.nextTick r
      | _ => s) (s.setCtx k { c with heldImports := [] })

/-! ### Taking a submission that names a context of the die (R332, R333, R451, R452) -/

/-- A refusal, recorded at the tick start `due`. -/
def State.refuse (s : State) (h : SubHdr) (sub : Sub) (k : Fin 16) (taken reason due : Nat) : State :=
  s.result h sub.kind taken reason (some k) due

/-- Holds an enable until the shutdown in progress ends (R332). -/
def State.holdEnable (s : State) (k : Fin 16) (w : Waiting) (due : Nat) : State :=
  let c := s.ctx k
  if c.enablePending.isSome then s.refuse w.hdr w.sub k w.taken 7 due
  else (s.setCtx k { c with enablePending := some w }).raise (ctxPage k) 9

/-- A freeze is taken (R319, R333, R452). -/
def State.takeFreeze (s : State) (k : Fin 16) (w : Waiting) (addr length due : Nat) : State :=
  let c := s.ctx k
  if c.phase = .freezing ∨ c.phase = .frozen then s.refuse w.hdr w.sub k w.taken 6 due
  else if c.freezeSub.isSome then s.refuse w.hdr w.sub k w.taken 7 due
  else if s.inPackage addr length = false then s.refuse w.hdr w.sub k w.taken 2 due
  else
    let s := s.setCtx k { c with freezeSub := some w }
    if c.phase ≠ .running then s.modCtx k fun c => { c with freezePending := true }
    else if !c.multiMember then s.freezeEffect k (c.tick + 1)
    else if c.headwater then s.sendAll k (.freeze (c.tick + c.horizon + 1))
    else s

/-- A thaw of a Frozen context is taken (R329, R332, R452). -/
def State.takeThaw (s : State) (k : Fin 16) (w : Waiting) (due : Nat) : State :=
  let c := s.ctx k
  if c.phase = .freezing then s.holdEnable k w due
  else if c.phase ≠ .frozen then s.refuse w.hdr w.sub k w.taken 0x0C due
  else if c.thawSub.isSome then s.refuse w.hdr w.sub k w.taken 7 due
  else
    let s := s.setCtx k { c with thawSub := some w }
    if !c.multiMember then s.setPhase k .thawing
    else if c.headwater then s.sendAll k .thaw
    else s

/-- A cancel is taken at the headwater (R312, R333, R384). -/
def State.takeCancel (s : State) (k : Fin 16) (w : Waiting) (step : Nat) : State :=
  let c := s.ctx k
  let s := s.modCtx k (·.digestInput w.taken 3 (w.received (leBytes 5 step)))
  if c.phase = .freezing ∨ c.phase = .frozen ∨ c.phase = .thawing then s.modCtx k fun c => { c with heldCancels := c.heldCancels ++ [w] }
  else
    let s := s.modCtx k fun c => { c with outcomes := c.outcomes ++ [{ w with step := step }] }
    if c.multiMember then s.sendAll k (.cancel step)
    else s.modCtx k fun c => { c with due := c.due ++ [{ tick := c.tick + 1, sender := s.cfg.instanceAddr, ctrl := .cancel step }] }

/-- A step submission is taken at the headwater (R352). -/
def State.takeStep (s : State) (k : Fin 16) (w : Waiting) (template count due : Nat) : State :=
  let c := s.ctx k
  let known := template == 0xFFFF || ((c.image.templates[template]?).map (·.stepTemplate)).getD false
  if count = 0 ∨ !known then s.refuse w.hdr w.sub k w.taken 2 due
  else s.modCtx k fun c => { c with hw := { c.hw with
    stepSubs := c.hw.stepSubs ++ [{ hdr := w.hdr, taken := w.taken, template := template, left := count }] } }

/-- Adds a change of the batch for the next step start (R350). -/
def State.takeChange (s : State) (k : Fin 16) (w : Waiting) : State :=
  s.modCtx k fun c => { c with hw := { c.hw with changes := c.hw.changes ++ [w] } }

/-- An operator teardown is taken: it takes effect at the next slot boundary (R333, R334). Where a fault tears the context down already, it
has no effect (R390). -/
def State.takeTeardown (s : State) (k : Fin 16) (w : Waiting) : State :=
  let s := s.modCtx k fun c => { c with teardownSub := if c.teardownSub.isSome then c.teardownSub else some w }
  match (s.ctx k).fault with
  | some f => if f.stamp = s.stamp ∧ (s.ctx k).phase ≠ .tearingDown then s.faultCode k 0x01 0 0 else s
  | none => s.faultCode k 0x01 0 0

/-- Kinds only the headwater takes (R451). -/
def Sub.forHeadwater : Sub → Bool
  | .cancel _ => true
  | .join _ => true
  | .leave _ => true
  | .appendCount _ _ => true
  | .step _ _ => true
  | _ => false

/-- Whether the phase of the context allows a kind (code 0x0C of R454). -/
def phaseAllows (p : Phase) : Sub → Bool
  | .teardown => p != .empty
  | .step _ _ => p != .tearingDown && p != .loading
  | .setFlag _ _ _ => p != .tearingDown && p != .loading
  | .importSeq _ => p != .tearingDown && p != .loading
  | .runRecord => p != .loading
  | _ => p != .tearingDown

/-- Whether the fields of a join are in range: a best-effort join gives deadline zero, and a multi-member context has the placement group
(R351, R451). -/
def State.joinFields (s : State) (k : Fin 16) (r : JoinReq) : Bool :=
  (!r.be || r.deadline == 0) &&
    match (s.catch_ (s.ctx k).catchment).manifest with
    | some m => !(s.ctx k).multiMember || decide (r.group < m.groups.length)
    | none => true

/-- A submission that names a context of this die is taken; `taken` is its context tick of taking and `due` the tick start of a
refusal's record. Loads, manifests, released thaws and firmware are taken elsewhere. -/
def State.accept (s : State) (h : SubHdr) (sub : Sub) (payload : Bytes) (taken due : Nat) : State :=
  match s.findCxid h.cxid with
  | none => s.result h sub.kind 0 3 none due
  | some k =>
    let c := s.ctx k
    let w : Waiting := { hdr := h, taken := taken, sub := sub, payload := payload }
    if Sub.forHeadwater sub ∧ c.headwater = false then s.refuse h sub k taken 8 due
    else if phaseAllows c.phase sub = false then s.refuse h sub k taken 0x0C due
    else match sub with
      | .freeze a l _ => s.takeFreeze k w a l due
      | .thaw _ => s.takeThaw k w due
      | .teardown => s.takeTeardown k w
      | .cancel n => s.takeCancel k w n
      | .join r => if s.joinFields k r then s.takeChange k w else s.refuse h sub k taken 2 due
      | .leave _ => s.takeChange k w
      | .appendCount _ n => if n > 16384 then s.refuse h sub k taken 2 due else s.takeChange k w
      | .importSeq r => if c.phase = .running then s.takeImport k w due r else s.modCtx k fun c => { c with heldImports := c.heldImports ++ [w] }
      | .setFlag step node flags =>
        if flags.toNat ≥ 2 ^ 24 then s.refuse h sub k taken 2 due
        else
          let fields := leBytes 5 step ++ zeros 1 ++ leBytes 2 node ++ leBytes 4 flags.toNat
          s.modCtx k fun c => { (c.digestInput taken 2 (w.received fields)) with setFlagsDue := c.setFlagsDue ++ [w] }
      | .runRecord => s.pushRec
          { kind := 9, cxid := h.cxid, ctx := some k, slot := h.slot.val, tag := h.tag, taken := taken, subKind := 0x0C, due := due }
      | .step t n => s.takeStep k w t n due
      | _ => s.refuse h sub k taken 1 due

/-- The context tick of taking of a submission (R380); zero where it names no context of the die. -/
def State.takenTick (s : State) (cxid : Nat) : Nat := match s.findCxid cxid with | some k => (s.ctx k).tick | none => 0

/-- A submission taken in this tick, and acting now. -/
def State.submit (s : State) (h : SubHdr) (sub : Sub) : State :=
  if s.boot.ready then s.countTaken.accept h sub [] (s.takenTick h.cxid) s.nextTick else s

/-- While the die is fenced, loads, thaws and manifests are refused (R395). -/
def State.fencedRefusal (s : State) (h : SubHdr) (sub : Sub) (due : Nat) : State := s.result h sub.kind 0 0x2A none due

def execFreeze (h : SubHdr) (addr length : Nat) (release : Bool) (s : State) : Host.Outcome State Fault Refusal :=
  .next (s.submit h (.freeze addr length release))
def execTeardown (h : SubHdr) (s : State) : Host.Outcome State Fault Refusal := .next (s.submit h .teardown)
def execCancel (h : SubHdr) (step : Nat) (s : State) : Host.Outcome State Fault Refusal := .next (s.submit h (.cancel step))
def execJoin (h : SubHdr) (r : JoinReq) (s : State) : Host.Outcome State Fault Refusal := .next (s.submit h (.join r))
def execLeave (h : SubHdr) (r : LeaveReq) (s : State) : Host.Outcome State Fault Refusal := .next (s.submit h (.leave r))
def execImportSeq (h : SubHdr) (r : ImportReq) (s : State) : Host.Outcome State Fault Refusal := .next (s.submit h (.importSeq r))
def execAppendCount (h : SubHdr) (globalId tokens : Nat) (s : State) : Host.Outcome State Fault Refusal :=
  .next (s.submit h (.appendCount globalId tokens))
def execSetFlag (h : SubHdr) (step node : Nat) (flags : BitVec 32) (s : State) : Host.Outcome State Fault Refusal :=
  .next (s.submit h (.setFlag step node flags))
def execRunRecord (h : SubHdr) (s : State) : Host.Outcome State Fault Refusal := .next (s.submit h .runRecord)
def execStep (h : SubHdr) (template count : Nat) (s : State) : Host.Outcome State Fault Refusal := .next (s.submit h (.step template count))

end Sys2Proof.Machine
end

