-- ==== Sys2Proof/Machine/Image.lean ====
section
/-! DEFINITION. Graph images (R78–R94, R105–R107, R117, R119, R144, R159, R160, R183, R184, R211–R213, R216, R223, R226, R242, R264,
R266–R268, R286, R416, R510): the decoding of a body and the checks of a load, in the order of R90. -/

namespace Sys2Proof.Machine

/-! ### The envelope and the signature (R78–R81) -/

/-- Whether an envelope header is well formed (code 0x20). A body_length below the 128 B of the body header (R82), for which the spec
names no check, is refused here as a wrong length (DESIGN CHOICE, log entry 125). -/
def envelopeOk (image : Bytes) (named : Nat) : Bool :=
  let len := field image 16 8
  let body := field image 32 8
  field image 0 8 == 0x485052474B535550 && field image 8 2 == 1 && field image 10 2 == 1 && zeroField image 12 4
    && len == named && len == image.length && field image 24 8 == 256 && body % 64 == 0 && decide (body ≥ 128)
    && field image 40 8 == 256 + body && len == 512 + body && zeroField image 60 4 && zeroField image 80 176

/-- The reserved bytes of the signature block (R81), an invalid field like every other (code 0x24). -/
def signatureReserved (image : Bytes) : Bool := zeroField (image.drop (field image 40 8)) 192 64

/-- Whether an image's signature verifies under the bound tenant key (code 0x21). -/
def imageSigned (image : Bytes) (x y : Nat) : Bool :=
  let off := field image 40 8
  let sig := image.drop off
  field sig 0 48 == x && field sig 48 48 == y
    && ecdsaVerify x y (sha384 (image.take off)) (field sig 96 48) (field sig 144 48)

/-- The plaintext body, if the tag verifies (code 0x22). -/
def imageBody (image key : Bytes) : Option Bytes :=
  gcmDecrypt key (slice image 48 12) (image.take 64) (slice image 256 (field image 32 8)) (slice image 64 16)

/-! ### Sections (R82, R83) -/

/-- Count, offset and bytes of each section, in the order of the table of R82. -/
def sectionsOf (b : Bytes) : List (Nat × Nat × Nat) :=
  [ (field b 2 2, field b 24 4, field b 2 2 * 16), (field b 4 4, field b 28 4, field b 4 4 * 128),
    (field b 8 4, field b 32 4, field b 8 4 * 8), (field b 12 4, field b 36 4, field b 12 4 * 32),
    (field b 16 4, field b 40 4, field b 16 4 * 32), (1, field b 44 4, 64),
    (field b 20 2, field b 48 4, field b 20 2 * 16), (field b 22 2, field b 52 4, field b 22 2 * 16) ]

/-- Whether sections lie in order, apart and within the body. -/
def sectionsOk (len : Nat) : Nat → List (Nat × Nat × Nat) → Bool
  | _, [] => true
  | e, (n, off, size) :: xs =>
    if n = 0 then off == 0 && sectionsOk len e xs
    else off % 64 == 0 && decide (e ≤ off ∧ off + size ≤ len) && sectionsOk len (off + size) xs

/-- The k-th of a section's entries. -/
def entryOf (b : Bytes) (off size k : Nat) : Bytes := slice b (off + k * size) size

def entriesOf (b : Bytes) (off size n : Nat) : List Bytes := (List.range n).map (entryOf b off size)

/-! ### Decoding -/

def nodeKind : Nat → NodeKind
  | 1 => .control
  | 2 => .mover
  | 3 => .fetch
  | 4 => .dump
  | 5 => .calibration
  | _ => .compute

/-- A node descriptor (R92). -/
def decodeNode (d : Bytes) : NodeDesc :=
  let b0 := field d 0 1
  let b75 := field d 75 1
  let succ := field d 48 4
  { kind := nodeKind (b0 % 16), be := bit b0 4, waitAny := bit b0 5, floating := bit b0 6
    rank := field d 1 1 % 16, energy := field d 1 1 / 16, flowMode := field d 2 1 % 4, fanoutSource := bits (field d 2 1) 5 2
    fanoutShift := field d 3 1 % 16, span := field d 4 2, depCount := field d 6 2, carryIn := field d 8 2, flowId := field d 10 2
    waitMask := BitVec.ofNat 32 (field d 12 4), placement := BitVec.ofNat 64 (field d 16 8), programEntry := field d 24 6
    argPointer := field d 32 8, argUnits := field d 40 2, argFanoutStride := field d 42 2, argStepStride := field d 44 2
    argStepRing := field d 46 1, succ := if succ = 0xFFFFFFFF then none else some succ, layer := field d 52 2
    operatorId := field d 54 2, seedOffset := field d 56 4, fanoutMax := field d 60 2, fanoutConst := field d 62 2
    fanoutParam := field d 64 8, watchCounter := field d 72 3 % 2 ^ 20, watchFlag := b75 % 32, watchDeltaSource := bits b75 6 5
    watchEnable := bit b75 7, watchDelta := field d 76 4, watchNode := field d 80 2, raw := d }

def decodeSucc (e : Bytes) : SuccEntry :=
  let v := field e 0 8
  { target := v % 2 ^ 16, setFlags := BitVec.ofNat 32 (v / 2 ^ 16), decrement := bit v 48, nextStep := bit v 49, last := bit v 50 }

def decodeExpert (e : Bytes) : Expert :=
  { expertId := field e 0 2, layer := field e 2 2, capacity := field e 4 2, renormalise := bit (field e 6 1) 0
    spillEnable := bit (field e 6 1) 1, exec := field e 7 1 % 4, peer := field e 8 4, size := field e 12 4
    location := field e 16 8, slotGroup := field e 24 8 }

def decodeSymbol (e : Bytes) : Symbol :=
  { nameId := field e 0 4, layer := field e 4 2, operatorId := field e 6 2, template := field e 8 2 % 1024, node := field e 10 2
    external := field e 12 1 == 1, lcid := field e 13 1, format := field e 14 1, address := field e 16 8, length := field e 24 4
    stepStride := field e 28 2, stepRing := field e 30 1 }

def decodeCounter (e : Bytes) : CounterDecl :=
  { vid := field e 0 4 % 2 ^ 20, role := field e 4 1, remote := bit (field e 5 1) 0, buffers := field e 6 2, partner := field e 8 4 % 2 ^ 20 }

def decodeRing (e : Bytes) : RingDecl :=
  { ring := field e 0 2 % 1024, receiver := field e 2 1 % 64, sizeLog2 := field e 3 1, base := field e 4 4 }

/-- First descriptor, node count and flags of each template. -/
def templateRows (b : Bytes) : List (Nat × Nat × Nat) :=
  (entriesOf b (field b 24 4) 16 (field b 2 2)).map fun e => (field e 0 4, field e 4 2, field e 6 2)

/-- A decoded body. -/
def decodeBody (b : Bytes) : Image :=
  let nodes (first n : Nat) : List NodeDesc := (entriesOf b (field b 28 4 + first * 128) 128 n).map decodeNode
  { templates := (templateRows b).map fun t => { stepTemplate := bit t.2.2 0, nodes := nodes t.1 t.2.1 }
    successors := (entriesOf b (field b 32 4) 8 (field b 8 4)).map decodeSucc
    experts := (entriesOf b (field b 36 4) 32 (field b 12 4)).map decodeExpert
    symbols := (entriesOf b (field b 40 4) 32 (field b 16 4)).map decodeSymbol
    counters := (entriesOf b (field b 48 4) 16 (field b 20 2)).map decodeCounter
    rings := (entriesOf b (field b 52 4) 16 (field b 22 2)).map decodeRing
    seed := slice b (field b 44 4) 64, instanceEntries := field b 56 4, flowCount := field b 60 2, defaultTemplate := field b 62 2
    stepsInFlight := field b 64 1, arrangementInvariant := bit (field b 65 1) 0, graphHash := sha384 b }

/-! ### Invalid fields: body header, templates, seed (R82, R85, R86, R89) -/

def headerOk (b : Bytes) : Bool :=
  let n := field b 2 2
  let steps := field b 64 1
  field b 0 2 == 1 && decide (1 ≤ n ∧ n ≤ 1024) && decide (field b 12 4 ≤ 65536) && decide (field b 20 2 ≤ 16384)
    && decide (field b 22 2 ≤ 1024) && (steps == 1 || steps == 2) && field b 65 1 / 2 == 0 && zeroField b 66 2 && zeroField b 72 56

/-- Whether the templates' descriptors are consecutive and cover the section. -/
def rowsCover (total : Nat) : Nat → List (Nat × Nat × Nat) → Bool
  | e, [] => e == total
  | e, (first, n, _) :: ts => first == e && rowsCover total (e + n) ts

def templatesOk (b : Bytes) : Bool :=
  let rows := templateRows b
  rows.all (fun t => decide (1 ≤ t.2.1 ∧ t.2.1 ≤ 16384) && t.2.2 / 2 == 0)
    && (entriesOf b (field b 24 4) 16 (field b 2 2)).all (zeroField · 8 8)
    && rowsCover (field b 4 4) 0 rows
    && (match rows[field b 62 2]? with | some t => bit t.2.2 0 | none => false)

def seedOk (seed : Bytes) : Bool := field seed 32 2 == 1 && zeroField seed 34 30

/-! ### Invalid fields: descriptors (R92, R94, R117, R119, R144, R216, R226, R286) -/

/-- The catchment of the context on this die, as the checks see it. -/
structure Place where
  lcids : BitVec 64
  ctids : BitVec 8
  share : Nat

/-- Reserved bits of a stored descriptor. -/
def reservedOk (d : Bytes) : Bool :=
  !bit (field d 0 1) 7 && field d 2 1 / 64 == 0 && field d 3 1 / 16 == 0 && zeroField d 30 2 && zeroField d 47 1
    && field d 74 1 / 16 == 0 && zeroField d 82 2 && zeroField d 84 40

/-- Placement (R19, R94). -/
def placementOk (p : Place) (d : NodeDesc) : Bool :=
  let m := d.placement.toNat
  if d.kind = .control then
    if d.floating then decide (m ≠ 0 ∧ m < 256) && (bitList 8 m).all fun i => p.ctids.getLsbD i
    else decide (m < 8) && p.ctids.getLsbD m
  else if d.floating then m != 0 && (bitList 64 m).all fun i => p.lcids.getLsbD i
  else decide (m < 64) && p.lcids.getLsbD m

/-- Fan-out and wait flags. -/
def fanoutOk (i : Image) (p : Place) (d : NodeDesc) : Bool :=
  let f := d.fanoutParam
  let flag (k : Nat) : Bool := d.waitMask.getLsbD k
  let routed := d.fanoutSource == 3 || d.fanoutSource == 4 || d.fanoutSource == 5
  let subset := d.routeSubset
  (if d.fanoutSource = 0 then d.fanoutShift == 0 && d.fanoutMax == 0 && d.fanoutConst == 0 && f == 0 else decide (d.fanoutMax ≥ 1))
    && (match d.fanoutSource with
      | 0 => true
      | 1 => decide (d.fanoutConst ≤ d.fanoutMax) && f == 0
      | 2 => bits f 7 6 == 0 && f / 2 ^ 34 == 0 && bits f 33 8 % 4 == 0 && decide (bits f 33 8 < spadSize) && p.lcids.getLsbD (bits f 5 0)
      | 6 => f == 0 && d.argUnits != 0
      | 7 => d.fanoutShift == 0 && !d.floating && flag 24 && !d.waitAny && f / 2 ^ 29 == 0 && decide (bits f 20 17 ≤ 7)
      | 3 => d.fanoutShift != 0
      | 4 => true
      | 5 => subset == 0
      | _ => false)
    && (!routed || (flag 25 && !d.waitAny && f / 2 ^ 18 == 0 && subset != 3 && i.experts.any fun x => x.layer == d.routeLayer))
    && (!(d.fanoutSource == 3 || d.fanoutSource == 4) || ((subset == 1 || flag 26) && d.argUnits != 0))
    && (routed || (!flag 25 && !flag 26)) && (d.fanoutSource == 7 || !flag 24)

/-- Watch (R94). -/
def watchOk (i : Image) (nodes : List NodeDesc) (n : Nat) (d : NodeDesc) : Bool :=
  if d.watchEnable then
    d.watchCounter != 0xFFFFF && (i.counters.any fun q => q.vid == d.watchCounter) && decide (d.watchFlag ≤ 23)
      && d.waitMask.getLsbD d.watchFlag && decide (d.watchDeltaSource ≤ 1) && decide (d.watchDelta ≥ 1)
      && (d.watchDeltaSource == 0 || (d.watchNode != n && match nodes[d.watchNode]? with | some m => m.fanoutSource != 0 | none => false))
  else zeroField d.raw 72 12

/-- Every constraint of a descriptor. -/
def nodeOk (i : Image) (p : Place) (nodes : List NodeDesc) (n : Nat) (d : NodeDesc) : Bool :=
  let kind := field d.raw 0 1 % 16
  reservedOk d.raw && (kind == 0 || kind == 1 || kind == 2 || kind == 3 || kind == 5)
    && placementOk p d && (d.kind != .calibration || !d.floating) && decide (d.span ≥ 1)
    && decide (d.depCount + d.carryIn ≤ 65535) && d.waitMask.toNat / 2 ^ 27 == 0
    && watchOk i nodes n d && fanoutOk i p d
    && (d.flowMode != 2 || d.fanoutSource != 0) && (d.flowMode != 3 || d.fanoutSource == 6) && (d.flowMode != 0 || d.flowId == 0)
    && d.argPointer % 64 == 0 && decide (d.argUnits ≤ 1024) && decide (1 ≤ d.argStepRing ∧ d.argStepRing ≤ 16)
    && (d.argUnits != 0 || (d.argPointer == 0 && d.argFanoutStride == 0 && d.argStepStride == 0))
    && ((kind != 2 && kind != 3) || d.programEntry == 0)
    && (if d.kind = .control then d.energy == 0 else decide (d.energy ≤ p.share))

def nodesOk (i : Image) (p : Place) : Bool :=
  i.templates.all fun t => ((List.range t.nodes.length).zip t.nodes).all fun x => nodeOk i p t.nodes x.1 x.2

/-! ### Invalid fields: experts, symbols, counters, rings -/

def expertOk (e : Bytes) (x : Expert) : Bool :=
  decide (x.exec ≤ 2) && field e 7 1 / 4 == 0 && field e 6 1 / 4 == 0 && decide (x.capacity ≤ 16384)
    && (match x.exec with
      | 0 => validInstance x.peer && x.base % 64 == 0 && x.slotBytes != 0 && x.size != 0 && decide (x.size * 64 ≤ x.slotBytes)
          && decide (x.base + x.slotCount * x.slotBytes ≤ spadSize)
      | 1 => validInstance x.peer && x.size / 2 ^ 20 == 0 && x.location / 2 ^ 42 == 0 && x.location % 64 == 0 && x.slotGroup == 0
      | _ => x.capacity == 0 && x.peer == 0 && x.size == 0 && x.location == 0 && x.slotGroup == 0)

/-- Conditions of the directory as a whole (R212, R213). -/
def directoryOk (xs : List Expert) : Bool :=
  let locals := xs.filter fun x => x.exec == 0
  (xs.map (·.expertId)).eraseDups.length == xs.length
    && ((xs.map (·.layer)).eraseDups.all fun y =>
      let here := xs.filter fun x => x.layer == y
      decide (here.length ≤ 4096) && here.all fun x => match here with
        | h :: _ => x.renormalise == h.renormalise && x.spillEnable == h.spillEnable
        | [] => true)
    && locals.all fun x => locals.all fun z => !sameGroup x z || (x.slotGroup == z.slotGroup && x.layer == z.layer)

/-- Whether a symbol declares a reserved structure (R510). -/
def Symbol.special (x : Symbol) : Bool := x.layer == 0xFFFE || x.layer == 0xFFFF || x.operatorId == 0xFFFF

def symbolOk (e : Bytes) (x : Symbol) : Bool :=
  x.nameId != 0 && field e 8 2 / 1024 == 0 && decide (field e 12 1 ≤ 1) && (if x.external then x.lcid == 0 else decide (x.lcid < 64))
    && decide (x.format ≤ 7) && zeroField e 15 1 && x.length != 0 && x.length % 64 == 0 && decide (1 ≤ x.stepRing ∧ x.stepRing ≤ 16)
    && zeroField e 31 1

def symbolsUnique (xs : List Symbol) : Bool :=
  let pairs := (xs.filter Symbol.special).map fun x => (x.layer, x.operatorId)
  (xs.map (·.nameId)).eraseDups.length == xs.length && pairs.eraseDups.length == pairs.length

/-- The list area of every layer with experts (R223). -/
def listAreasOk (i : Image) : Bool :=
  (i.experts.map (·.layer)).eraseDups.all fun y =>
    let need := ((i.experts.filter fun x => x.layer == y && x.capacity != 0).map fun x => 64 + ceilDiv x.capacity 8 * 64).sum
    match i.symbols.find? fun x => x.layer == y && x.operatorId == 0xFFFF with
    | some x => x.external && decide (need ≤ x.length)
    | none => false

def counterOk (ds : List CounterDecl) (e : Bytes) (d : CounterDecl) : Bool :=
  field e 0 4 / 2 ^ 20 == 0 && decide (d.role ≤ 2) && field e 5 1 / 2 == 0 && field e 8 4 / 2 ^ 20 == 0 && zeroField e 12 4 && d.vid != 0xFFFFF
    && (if d.role = 0 then d.buffers == 0 && d.partner == 0
        else d.buffers != 0 && ds.any fun q => q.vid == d.partner && q.role == 3 - d.role && q.partner == d.vid && q.buffers == d.buffers)

def countersUnique (ds : List CounterDecl) : Bool := (ds.map (·.vid)).eraseDups.length == ds.length

def ringOk (p : Place) (e : Bytes) (d : RingDecl) : Bool :=
  field e 0 2 / 1024 == 0 && field e 2 1 / 64 == 0 && decide (10 ≤ d.sizeLog2 ∧ d.sizeLog2 ≤ 20) && d.base % 2 ^ d.sizeLog2 == 0
    && decide (d.base + 2 ^ d.sizeLog2 ≤ spadSize) && zeroField e 8 8 && p.lcids.getLsbD d.receiver

def ringsUnique (ds : List RingDecl) : Bool := (ds.map (·.ring)).eraseDups.length == ds.length

/-! ### Invalid fields: structures in scratchpads and external memory -/

/-- The cores of a catchment in a cluster. -/
def State.clusterCores (s : State) (lcids : BitVec 64) (k : Nat) : List Nat := (bitList 64 lcids.toNat).filter fun l => s.clusterOf l == k

/-- The confluence region symbols, as (cluster, symbol). -/
def regionSymbols (i : Image) : List (Nat × Symbol) :=
  (List.range 8).filterMap fun k => (i.symbols.find? fun x => x.layer == 0xFFFF && x.operatorId == 0xFFF0 + k).map fun x => (k, x)

/-- A confluence region (R242, R264, R305). -/
def State.regionOk (s : State) (lcids : BitVec 64) (clusters : BitVec 8) (fast : Bool) (k : Nat) (x : Symbol) : Bool :=
  let cs := s.clusterCores lcids k
  clusters.getLsbD k && !x.external && cs.head? == some x.lcid && x.address % 64 == 0 && x.stepStride == 0 && x.stepRing == 1
    && decide (x.address + x.length ≤ spadSize) && (!fast || decide (8 * cs.length * x.length / 32 ≤ 2 ^ 24))

/-- The fields that no ledger symbol names are zero: template and step_stride (R266). -/
def Symbol.unnamedZero (x : Symbol) : Bool := x.template == 0 && x.stepStride == 0

/-- The ledger declarations (R266, R267). -/
def groupSymbols (i : Image) : List Symbol :=
  (List.range 8).filterMap fun g => i.symbols.find? fun x => x.layer == 0xFFFF && x.operatorId == 0xFFE8 + g

def poolSymbols (i : Image) : List Symbol :=
  (((List.range 64).map fun n => n) ++ [0x100] ++ (List.range 16).map (0x200 + ·)).filterMap fun o =>
    i.symbols.find? fun x => x.layer == 0xFFFE && x.operatorId == o

def usesLedger (i : Image) : Bool :=
  i.templates.any fun t => t.nodes.any fun d => d.fanoutSource == 6 || d.fanoutSource == 7 || d.waitMask.getLsbD 24

def State.ledgerOk (s : State) (lcids : BitVec 64) (i : Image) : Bool :=
  let area := i.symbols.find? fun x => x.layer == 0xFFFF && x.operatorId == 0xFFE0
  let groups := (groupSymbols i)
  let gapless := (List.range groups.length).all fun g => i.symbols.any fun x => x.layer == 0xFFFF && x.operatorId == 0xFFE8 + g
  let otherPackage (x : Symbol) : Bool := s.cfg.tray.any fun p =>
    p.package != s.cfg.instanceAddr / 8 && decide (p.base ≤ x.address ∧ x.address + x.length ≤ p.base + p.size)
  (!(usesLedger i) || (area.isSome && !groups.isEmpty))
    && (match area with
      | some x => x.external && decide (6 ≤ x.stepRing ∧ x.stepRing ≤ 10) && Symbol.unnamedZero x && x.node == 0 && x.format == 0
          && decide (x.length ≥ 528 * 1024) && s.inPackage x.address x.length
      | none => true)
    && gapless && groups.all (fun x => x.external && Symbol.unnamedZero x && x.stepRing == 1 && decide (1 ≤ x.node ∧ x.node ≤ 512) && decide (x.length ≤ 65536) && x.address == 0)
    && decide ((groups.map (·.node)).sum ≤ 512)
    && (poolSymbols i).all fun x =>
      Symbol.unnamedZero x && x.stepRing == 1 && x.node == 0 && x.format == 0 &&
      if x.operatorId < 64 then !x.external && x.lcid == x.operatorId && lcids.getLsbD x.lcid && decide (x.address + x.length ≤ spadSize)
      else x.external && (if x.operatorId = 0x100 then s.inPackage x.address x.length else otherPackage x)

/-- The state groups a source-7 node names (R286). -/
def pagesOk (i : Image) : Bool :=
  i.templates.all fun t => t.nodes.all fun d => d.fanoutSource != 7 ||
    match (groupSymbols i)[NodeP.group d]? with | some g => decide (NodeP.layer d < g.node) | none => false

def isPow2 (n : Nat) : Bool := n != 0 && 2 ^ n.log2 == n

/-- The trace reservations: the ring lies on a core of the catchment and clear of the circular regions that core has configured (R416). -/
def State.traceOk (s : State) (lcids : BitVec 64) (i : Image) : Bool :=
  (match i.symbols.find? fun x => x.layer == 0xFFFF && x.operatorId == 0xFFD0 with
    | some x => !x.external && lcids.getLsbD x.lcid
        && (s.stagingRegions.all fun r => r.lcid != x.lcid || decide (x.address + x.length ≤ r.base ∨ r.base + r.bytes ≤ x.address))
        && isPow2 x.length && decide (65536 ≤ x.length ∧ x.length ≤ 2 ^ 25) && x.address % x.length == 0
        && decide (x.address + x.length ≤ spadSize) && x.stepStride == 0 && x.stepRing == 1
    | none => true)
  && (match i.symbols.find? fun x => x.layer == 0xFFFF && x.operatorId == 0xFFD1 with
    | some x => x.external && x.length % 65536 == 0 && decide (131072 ≤ x.length) && x.address % 65536 == 0
        && s.inPackage x.address x.length && x.stepStride == 0 && x.stepRing == 1
    | none => true)

/-- Scratchpad ranges that may not overlap, as (LCID, first, last + 1) (R184, R213, R267, R416). -/
def State.reserved (s : State) (lcids : BitVec 64) (i : Image) : List (Nat × Nat × Nat) :=
  let rings := i.rings.map fun r => (r.receiver, r.base, r.base + 2 ^ r.sizeLog2)
  let groups := ((i.experts.filter fun x => x.exec == 0).map fun x => (x.groupLcid, x.base, x.base + x.slotCount * x.slotBytes)).eraseDups
  let regions := (regionSymbols i).flatMap fun p => (s.clusterCores lcids p.1).map fun l => (l, p.2.address, p.2.address + p.2.length)
  let pools := ((poolSymbols i).filter fun x => !x.external).map fun x => (x.lcid, x.address, x.address + x.length)
  let trace := (i.symbols.filter fun x => x.layer == 0xFFFF && x.operatorId == 0xFFD0).map fun x => (x.lcid, x.address, x.address + x.length)
  rings ++ groups ++ regions ++ pools ++ trace

/-- Whether no two ranges overlap. -/
def apart : List (Nat × Nat × Nat) → Bool
  | [] => true
  | r :: rs => rs.all (fun q => q.1 != r.1 || decide (q.2.2 ≤ r.2.1 ∨ r.2.2 ≤ q.2.1)) && apart rs

/-- Every invalid-field check (code 0x24). -/
def State.fieldsOk (s : State) (c : Ctx) (fast : Bool) (b : Bytes) (i : Image) : Bool :=
  let p : Place := { lcids := c.lcids, ctids := c.ctids, share := c.share }
  headerOk b && templatesOk b && seedOk i.seed && nodesOk i p
    && ((entriesOf b (field b 36 4) 32 (field b 12 4)).zip i.experts).all (fun x => expertOk x.1 x.2) && directoryOk i.experts
    && ((entriesOf b (field b 40 4) 32 (field b 16 4)).zip i.symbols).all (fun x => symbolOk x.1 x.2) && symbolsUnique i.symbols
    && ((entriesOf b (field b 48 4) 16 (field b 20 2)).zip i.counters).all (fun x => counterOk i.counters x.1 x.2) && countersUnique i.counters
    && ((entriesOf b (field b 52 4) 16 (field b 22 2)).zip i.rings).all (fun x => ringOk p x.1 x.2) && ringsUnique i.rings
    && (entriesOf b (field b 32 4) 8 (field b 8 4)).all (fun e => bits (field e 0 8) 47 40 == 0 && field e 0 8 / 2 ^ 51 == 0)
    && listAreasOk i && (regionSymbols i).all (fun x => s.regionOk c.lcids c.clusters fast x.1 x.2)
    && decide (((regionSymbols i).map fun x => (s.clusterCores c.lcids x.1).length * x.2.length).sum ≤ 2 ^ 29)
    && s.ledgerOk c.lcids i && (pagesOk i) && s.traceOk c.lcids i && apart (s.reserved c.lcids i)

/-! ### Descriptor CRCs, successors, counts, cycles (R92, R106, R107) -/

def crcsOk (i : Image) : Bool := i.templates.all fun t => t.nodes.all NodeDesc.crcOk

/-- A node's successor list obeys R106. -/
def listOk (i : Image) (count n : Nat) (d : NodeDesc) : Bool :=
  match d.succ with
  | none => true
  | some k =>
    let l := succFrom (i.successors.drop k)
    decide (k < i.successors.length) && decide (l.length ≤ succMax) && (l.getLast?.map (·.last)).getD false
      && l.all fun e => (e.decrement || e.setFlags != 0) && decide (e.target < count) && (e.nextStep || e.target != n)

def listsOk (i : Image) : Bool :=
  i.templates.all fun t => ((List.range t.nodes.length).zip t.nodes).all fun x => listOk i t.nodes.length x.1 x.2

/-- Decrement edges of a template as (next step, source, target). -/
def edgesOf (i : Image) (t : Template) : List (Bool × Nat × Nat) :=
  ((List.range t.nodes.length).zip t.nodes).flatMap fun x => ((succOf i x.2).filter (·.decrement)).map fun e => (e.nextStep, x.1, e.target)

def countsOk (i : Image) : Bool :=
  i.templates.all fun t =>
    let es := edgesOf i t
    ((List.range t.nodes.length).zip t.nodes).all fun x =>
      (es.filter fun e => !e.1 && e.2.2 == x.1).length == x.2.depCount && (es.filter fun e => e.1 && e.2.2 == x.1).length == x.2.carryIn

/-- Nodes left after removing, again and again, those without a predecessor left. -/
def peel (es : List (Nat × Nat)) : Nat → List Nat → List Nat
  | 0, ns => ns
  | k + 1, ns => peel es k (ns.filter fun n => es.any fun e => e.2 == n && ns.contains e.1)

def acyclicOk (i : Image) : Bool :=
  i.templates.all fun t =>
    let es := ((edgesOf i t).filter fun e => !e.1).map (·.2)
    (peel es t.nodes.length (List.range t.nodes.length)).isEmpty

/-! ### The critical path (R86) -/

/-- One pass over the nodes: each ends its span after the latest of its same-step predecessors. -/
def chainPass (es : List (Nat × Nat)) (spans ends : List Nat) : List Nat :=
  ((List.range spans.length).zip spans).map fun x =>
    x.2 + ((es.filter fun e => e.2 == x.1).map fun e => ends.getD e.1 0).foldl max 0

/-- Passes until nothing changes, at most one for each node. -/
def chainEnds (es : List (Nat × Nat)) (spans : List Nat) : Nat → List Nat → List Nat
  | 0, ends => ends
  | k + 1, ends =>
    let next := chainPass es spans ends
    if next == ends then ends else chainEnds es spans k next

/-- The longest chain of spans through same-step decrement edges of a template (R86). -/
def criticalPath (i : Image) (t : Template) : Nat :=
  let spans := t.nodes.map (·.span)
  (chainEnds (((edgesOf i t).filter fun e => !e.1).map (·.2)) spans spans.length spans).foldl max 0

/-- A checked image with the critical path of each template (R86). -/
def timedImage (i : Image) : Image := { i with templates := i.templates.map fun t => { t with critical := criticalPath i t } }

/-! ### What an image takes of the die (R91, R161, R184, R213) -/

/-- Slots of the image's slot groups, as (LCID, base, index). -/
def slotsOf (i : Image) : List (Nat × Nat × Nat) :=
  let groups := ((i.experts.filter fun x => x.exec == 0).map fun x => (x.groupLcid, x.base, x.slotCount)).eraseDups
  groups.flatMap fun g => (List.range g.2.2).map fun j => (g.1, g.2.1, j)

def State.otherCtxs (s : State) (k : Fin 16) : List Ctx := (allSlots.filter (· != k)).map s.ctx

def State.storeOk (s : State) (k : Fin 16) (i : Image) : Bool :=
  let widest := (i.templates.map fun t => t.nodes.length).foldl max 0
  let used := ((s.otherCtxs k).map (·.graphStoreEntries)).sum
  decide (i.instanceEntries ≥ i.stepsInFlight * widest) && decide ((i.templates.map fun t => t.nodes.length).sum + i.instanceEntries + used ≤ 65536)

def State.resourcesOk (s : State) (k : Fin 16) (i : Image) : Bool :=
  let others := s.otherCtxs k
  decide (i.flowCount + ((others.filter (!·.released)).map fun c => c.image.flowCount).sum ≤ 65536)
    && decide (i.counters.length + (others.map fun c => c.counters.length).sum ≤ 16384)
    && decide (i.rings.length + (others.map fun c => c.rings.length).sum ≤ 1024)
    && decide ((slotsOf i).length + (others.map fun c => c.residency.length).sum ≤ 512)

/-! ### The whole check (R90) -/

/-- The reason code of a refused body, or the decoded image; `reserved` says that the signature block's reserved bytes are zero. -/
def State.checkBody (s : State) (k : Fin 16) (fast reserved : Bool) (b : Bytes) : Nat ⊕ Image :=
  if field b 68 4 ≠ b.length ∨ sectionsOk b.length 128 (sectionsOf b) = false then .inl 0x23
  else
    let i := decodeBody b
    if reserved = false ∨ s.fieldsOk (s.ctx k) fast b i = false then .inl 0x24
    else if crcsOk i = false then .inl 0x25
    else if listsOk i = false then .inl 0x26
    else if countsOk i = false then .inl 0x27
    else if acyclicOk i = false then .inl 0x28
    else if s.storeOk k i = false then .inl 0x29
    else if s.resourcesOk k i = false then .inl 0x2A
    else .inr (timedImage i)

/-- The reason code of a refused image, or the decoded image (R90). -/
def State.checkImage (s : State) (k : Fin 16) (fast : Bool) (named : Nat) (image key : Bytes) (x y : Nat) : Nat ⊕ Image :=
  if envelopeOk image named = false then .inl 0x20
  else if imageSigned image x y = false then .inl 0x21
  else match imageBody image key with
    | none => .inl 0x22
    | some b => s.checkBody k fast (signatureReserved image) b

/-! ### Taking an image in -/

/-- The n lowest numbers of a pool that are not taken. -/
def lowestFree (size n : Nat) (taken : List Nat) : List Nat := ((List.range size).filter fun i => !taken.contains i).take n

/-- The ledger an image declares (R266, R268). -/
def imageLedger (i : Image) : Ledger :=
  match i.symbols.find? fun x => x.layer == 0xFFFF && x.operatorId == 0xFFE0 with
  | none => {}
  | some a =>
    let tokens := 2 ^ a.stepRing
    let groups := (groupSymbols i).map fun x => (x.node, x.length)
    let frame := tokens * (groups.map (·.2)).foldl max 0
    { area := a.address, areaLength := a.length, blocks := (a.length - 524288) / 4096, pageTokens := tokens, groups := groups, frameBytes := frame
      pools := (poolSymbols i).map fun x =>
        { tier := if x.operatorId < 64 then 0 else if x.operatorId = 0x100 then 1 else 2, lcid := x.lcid, address := x.address
          frames := if frame = 0 then 0 else x.length / frame, length := x.length } }

/-- The confluence regions an image declares, all zero (R242). -/
def State.regionsOf (s : State) (lcids : BitVec 64) (fast : Bool) (i : Image) : List Region :=
  (regionSymbols i).map fun p =>
    let cs := s.clusterCores lcids p.1
    { cluster := Fin.ofNat 8 p.1, cores := cs, address := p.2.address, length := p.2.length
      elements := (if fast then 8 else 1) * cs.length * p.2.length / 32 }

/-- Reserves what an image takes and writes it into the context slot (R91, R161, R184, R213, R242, R272). A load zeroes the ledger area; for
the thaw of a released freeze the page tables stand in memory and stay (R301). -/
def State.takeImage (s : State) (k : Fin 16) (fast : Bool) (i : Image) : State :=
  let c := s.ctx k
  let taken := (s.otherCtxs k).flatMap fun c => c.counters.map (·.physical)
  let phys := lowestFree 16384 i.counters.length taken
  let l := (imageLedger i)
  let c := { c with
    image := i, fast := fast
    graphStoreEntries := (i.templates.map fun t => t.nodes.length).sum + i.instanceEntries
    counters := (i.counters.zip phys).map fun p => { decl := p.1, physical := p.2 }
    rings := i.rings.map fun r => { decl := r }
    residency := (slotsOf i).map fun g => { lcid := g.1, base := g.2.1, index := g.2.2 }
    regions := s.regionsOf c.lcids fast i, ledger := l }
  let s := s.setCtx k c
  let used := ((allSlots.map s.ctx).map fun c => c.counters.length).sum
  let rings := ((allSlots.map s.ctx).map fun c => c.rings.length).sum
  { s with
    mem := if c.thawReleased then s.mem else s.mem.scrub l.area (l.area + l.areaLength)
    counterLow := min s.counterLow (16384 - used), ringLow := min s.ringLow (1024 - rings) }

end Sys2Proof.Machine
end

