-- ==== Sys2Proof/Machine/Manifest.lean ====
section
/-! DEFINITION. Catchments (R305–R310, R338–R348, R355, R499–R502): the catchment manifest and its checks, the limits of the catchment
table, and the launch of a multi-member catchment. -/

namespace Sys2Proof.Machine

/-! ### The limits of a die (R143, R305, R500) -/

/-- Whether two entries share a bit. -/
def overlap {n : Nat} (a b : BitVec n) : Bool := a &&& b != 0

/-- Entries of the catchment table in force, but for one. -/
def State.otherCatches (s : State) (k : Fin 16) : List Catch :=
  (allSlots.filter fun j => j != k && (s.catch_ j).valid).map s.catch_

/-- The first row of the table of R305 that an entry would break, from 1; none where it breaks none. -/
def State.limitRow (s : State) (k : Fin 16) (e : Catch) : Option Nat :=
  let others := s.otherCatches k
  let all := e :: others
  let lc := all.filter (!·.be)
  let anyBe := all.any (·.be)
  let populated := bitList 64 e.lcids.toNat |>.all fun l => decide (l < s.cfg.coreMap.length)
  let served := bitList 8 e.clusters.toNat |>.all fun c => !(s.clusterCores e.lcids c).isEmpty
  let inlet := (lc.map (·.inletQuota)).sum + (if anyBe then 64 else 0)
  let hor := (lc.map (·.horizonQuota)).sum + (if anyBe then 16 else 0)
  if !populated || others.any fun o => overlap o.lcids e.lcids then some 1
  else if others.any fun o => overlap o.ctids e.ctids then some 2
  else if !served || others.any fun o => overlap o.clusters e.clusters then some 3
  else if others.any fun o => overlap o.outSlots e.outSlots || overlap o.inSlots e.inSlots then some 4
  else if others.any fun o => overlap o.memSlots e.memSlots then some 5
  else if e.share = 0 ∨ e.share > 1023 ∨ (all.map (·.share)).sum > s.cfg.dieBudget then some 6
  else if (if e.be then e.inletQuota != 0 else decide (e.inletQuota < 64 ∨ e.inletQuota > 7167)) || decide (inlet > 7167) then some 7
  else if (if e.be then e.horizonQuota != 0 else decide (e.horizonQuota < 16 ∨ e.horizonQuota > 3839)) || decide (hor > 3839) then some 8
  else if e.horizon = 0 ∨ e.horizon > 63 then some 10
  else none

/-- The check of a transit entry, which owns link time-slots alone. -/
def State.transitRow (s : State) (k : Fin 16) (e : Catch) : Option Nat :=
  if (s.otherCatches k).any fun o => overlap o.outSlots e.outSlots || overlap o.inSlots e.inSlots then some 4 else none

/-! ### Decoding a manifest (R339–R341) -/

/-- The address of an unconnected port (R340). -/
def noPartner : Nat := 0xFFFFFFFF

def words4 (b : Bytes) : Nat → List Nat
  | 0 => []
  | n + 1 => field b 0 4 :: words4 (b.drop 4) n

/-- Counts that follow from the offsets: partners, routes, bytes of the groups. -/
def partnerTotal (b : Bytes) : Nat := (field b 48 4 - field b 44 4) / 4
def routeTotal (b : Bytes) : Nat := (field b 52 4 - field b 48 4) / 8

def decodeEntry (b : Bytes) (i : Nat) : ManifestEntry :=
  let e := entryOf b (field b 40 4) 128 i
  { instanceAddr := field e 0 4, role := field e 4 1, energyShare := field e 6 2, lcidMask := BitVec.ofNat 64 (field e 8 8)
    ctidMask := BitVec.ofNat 8 (field e 16 1), clusterMask := BitVec.ofNat 8 (field e 17 1)
    partners := words4 (b.drop (field b 44 4 + field e 20 4 * 4)) (field e 18 2)
    outSlots := BitVec.ofNat 64 (field e 24 8), inSlots := BitVec.ofNat 64 (field e 32 8), memSlots := BitVec.ofNat 64 (field e 40 8)
    inletQuota := field e 48 2, horizonQuota := field e 50 2
    routes := (entriesOf b (field b 48 4 + field e 52 4 * 8) 8 (field e 56 2)).map fun r => (field r 0 4, field r 4 4 % 8)
    neighbours := words4 (e.drop 60) 5, framesT0 := field e 80 4, framesT1 := field e 84 4, framesT2 := field e 88 4
    tableBlocks := field e 92 4, lockstepPeer := field e 96 4 }

/-- The member indices of a placement group. -/
def decodeGroup (b : Bytes) (g : Nat) : List Nat :=
  let e := entryOf b (field b 52 4) 8 g
  let list := b.drop (field b 52 4 + field b 56 2 * 8)
  (List.range (field e 4 2)).map fun j => field list ((field e 0 4 + j) * 2) 2

def decodeManifest (b : Bytes) : Manifest :=
  let signed := b.take (field b 64 8)
  { cmid := field b 10 2, be := bit (field b 12 1) 0, lockstep := bit (field b 12 1) 1, horizon := field b 13 1
    rota := (List.range (field b 14 1)).map fun i => field b (32 + 2 * i) 2
    headwater := field b 20 2, lockstepCmid := field b 22 2, launchGtc := field b 24 8
    entries := (List.range (field b 16 4)).map (decodeEntry b)
    groups := (List.range (field b 56 2)).map (decodeGroup b)
    hash := sha384 signed, hashNoLaunch := sha384 (signed.take 24 ++ zeros 8 ++ signed.drop 32) }

/-! ### Format (code 0x50) -/

def manifestHeadOk (b : Bytes) : Bool :=
  let n := field b 16 4
  let sig := field b 64 8
  field b 0 8 == 0x4D5441434B535550 && field b 8 2 == 1 && field b 10 2 / 4096 == 0 && field b 12 1 / 4 == 0
    && decide (1 ≤ field b 13 1 ∧ field b 13 1 ≤ 63) && decide (1 ≤ field b 14 1 ∧ field b 14 1 ≤ 4) && zeroField b 15 1
    && decide (2 ≤ n ∧ n ≤ 32768) && decide (field b 20 2 < n) && field b 22 2 / 4096 == 0
    && (bit (field b 12 1) 1 || field b 22 2 == 0) && field b 24 8 / 2 ^ 48 == 0 && zeroField b (32 + 2 * field b 14 1) (8 - 2 * field b 14 1)
    && decide (1 ≤ field b 56 2 ∧ field b 56 2 ≤ 256) && zeroField b 58 6 && zeroField b 72 184
    && (field b 40 4 % 64 == 0 && field b 44 4 % 64 == 0 && field b 48 4 % 64 == 0 && field b 52 4 % 64 == 0 && sig % 64 == 0)
    && decide (256 ≤ field b 40 4 ∧ field b 40 4 + n * 128 ≤ field b 44 4 ∧ field b 44 4 ≤ field b 48 4 ∧ field b 48 4 ≤ field b 52 4
        ∧ field b 52 4 + field b 56 2 * 8 ≤ sig) && sig + 256 == b.length && zeroField (b.drop sig) 192 64

def manifestEntryOk (b : Bytes) (i : Nat) : Bool :=
  let e := entryOf b (field b 40 4) 128 i
  let role := field e 4 1
  decide (role ≤ 2) && zeroField e 5 1 && zeroField e 58 2 && zeroField e 100 28 && (role == 1) == (i == field b 20 2)
    && decide (field e 18 2 ≤ 256) && decide (field e 18 2 = 0 ∨ field e 20 4 + field e 18 2 ≤ partnerTotal b)
    && decide (1 ≤ field e 56 2 ∧ field e 56 2 ≤ 4096) && decide (field e 52 4 + field e 56 2 ≤ routeTotal b)
    && (entriesOf b (field b 48 4 + field e 52 4 * 8) 8 (field e 56 2)).all (fun r => field r 0 8 / 2 ^ 35 == 0 && decide (field r 4 4 ≤ 4)
        && validInstance (field r 0 4))
    && validInstance (field e 0 4) && (words4 (e.drop 60) 5).all (fun a => a == noPartner || validInstance a) && validInstance (field e 96 4)
    && (words4 (b.drop (field b 44 4 + field e 20 4 * 4)) (field e 18 2)).all validInstance
    && (bit (field b 12 1) 1 || zeroField e 96 4)
    && (role != 2 || (zeroField e 6 18 && zeroField e 40 12 && zeroField e 80 20))

def manifestGroupOk (b : Bytes) (m : Manifest) (g : Nat) : Bool :=
  let e := entryOf b (field b 52 4) 8 g
  let room := (field b 64 8 - (field b 52 4 + field b 56 2 * 8)) / 2
  decide (1 ≤ field e 4 2) && zeroField e 6 2 && decide (field e 0 4 + field e 4 2 ≤ room)
    && (m.groups.getD g []).all fun i => match m.entries[i]? with | some x => x.role != 2 | none => false

def manifestFormat (b : Bytes) (m : Manifest) : Bool :=
  manifestHeadOk b && (List.range m.entries.length).all (manifestEntryOk b) && (List.range m.groups.length).all (manifestGroupOk b m)

/-! ### Signature (code 0x51) -/

/-- Whether the signature verifies under the operator key of the configuration image (R338). -/
def State.manifestSigned (s : State) (b : Bytes) : Bool :=
  let off := field b 64 8
  let sig := b.drop off
  sha384 (slice sig 0 96) == slice s.cfg.operatorKeyHash 0 48
    && ecdsaVerify (field sig 0 48) (field sig 48 48) (sha384 (b.take off)) (field sig 96 48) (field sig 144 48)

/-! ### Topology and routes (codes 0x53, 0x54) -/

def State.topologyOk (s : State) (e : ManifestEntry) : Bool := (List.range 5).all fun p => s.time.far.getD p noPartner == e.neighbours.getD p noPartner

def entryAt (m : Manifest) (a : Nat) : Option ManifestEntry := m.entries.find? fun e => e.instanceAddr == a

/-- Whether following the routes from an instance reaches a destination within a number of hops. -/
def reaches (m : Manifest) (d : Nat) : Nat → Nat → Bool
  | 0, a => a == d
  | n + 1, a =>
    a == d || match entryAt m a with
      | none => false
      | some e => match portTo e d with
        | none => false
        | some p => reaches m d n (e.neighbours.getD p noPartner)

/-- R345. -/
def routesOk (m : Manifest) : Bool :=
  let isMember (a : Nat) : Bool := match entryAt m a with | some e => e.role != 2 | none => false
  let peers := if m.lockstep then m.entries.map (·.lockstepPeer) else []
  let head := ((m.entries[m.headwater]?).map (·.instanceAddr)).getD 0
  m.entries.all fun e =>
    e.routes.all (fun r => (isMember r.1 || peers.contains r.1)
      && (match entryAt m (e.neighbours.getD r.2 noPartner) with | some _ => true | none => e.neighbours.getD r.2 noPartner == r.1)
      && (e.role == 2 || reaches m r.1 64 e.instanceAddr))
    && (e.role == 2 || ((head :: e.partners) ++ (if m.lockstep then [e.lockstepPeer] else [])).all fun d =>
        d == e.instanceAddr || (portTo e d).isSome)

/-! ### Lock-step (code 0x56) -/

/-- R355, as far as one die can see: its own manifest, and the peer's where the die has accepted that one too. -/
def State.lockstepOk (s : State) (m : Manifest) : Bool :=
  let ms := m.entries.filter fun e => e.role != 2
  if !m.lockstep then true
  else m.lockstepCmid != m.cmid
    && s.catches.toList.all fun c => match c.manifest with
      | some q =>
        !(c.valid && q.cmid == m.lockstepCmid) ||
          (q.lockstep && q.lockstepCmid == m.cmid && q.launchGtc == m.launchGtc && q.horizon == m.horizon
            && (q.entries.filter fun e => e.role != 2).length == ms.length
            && ((List.range m.entries.length).zip m.entries).all fun x => x.2.role == 2 || match q.entries[x.1]? with
              | some y => y.role != 2 && x.2.lockstepPeer == y.instanceAddr && y.lockstepPeer == x.2.instanceAddr
              | none => false)
      | none => true

/-! ### Acceptance (R342, R347, R502) -/

/-- The catchment table entry a manifest's entry fills. -/
def catchOf (m : Manifest) (i : Nat) (e : ManifestEntry) : Catch :=
  { cmid := m.cmid, be := m.be, headwater := i == m.headwater, horizon := m.horizon, ctids := e.ctidMask, clusters := e.clusterMask
    share := e.energyShare, valid := true, lcids := e.lcidMask, outSlots := e.outSlots, inSlots := e.inSlots, memSlots := e.memSlots
    inletQuota := e.inletQuota, horizonQuota := e.horizonQuota, manifest := some m, index := i }

/-- Entries of a manifest that name this instance, with their indices. -/
def State.mine (s : State) (m : Manifest) : List (Nat × ManifestEntry) :=
  ((List.range m.entries.length).zip m.entries).filter fun x => x.2.instanceAddr == s.cfg.instanceAddr

/-- The lowest entry of the table that is neither valid nor staged. -/
def State.freeCatch (s : State) : Option (Fin 16) := allSlots.find? fun k => !(s.catch_ k).valid && !(s.catch_ k).staged

/-- The checks of R342 in their order: a reason code, or the table entry and what fills it. -/
def State.checkManifest (s : State) (b : Bytes) : Nat ⊕ (Fin 16 × Catch) :=
  let m := decodeManifest b
  if b.length < 512 ∨ manifestHeadOk b = false ∨ manifestFormat b m = false then .inl 0x50
  else if s.manifestSigned b = false then .inl 0x51
  else match s.mine m with
    | [(i, e)] =>
      if s.catches.toList.any fun c => c.valid && c.cmid == m.cmid then .inl 0x57
      else if s.topologyOk e = false then .inl 0x53
      else if routesOk m = false then .inl 0x54
      else match s.freeCatch with
        | none => .inl 0x2A
        | some k =>
          let c := catchOf m i e
          if (if e.role = 2 then s.transitRow k c else s.limitRow k c).isSome then .inl 0x2A
          else if s.lockstepOk m = false then .inl 0x56
          else if m.launchGtc < s.time.gtc + m.horizon + 1 then .inl 0x55
          else .inr (k, c)
    | _ => .inl 0x52

/-! ### Messages before launch (R347, R348, R355) -/

/-- Member instances of an entry's manifest, as (index, address). -/
def Catch.members (c : Catch) : List (Nat × Nat) :=
  match c.manifest with
  | none => []
  | some m => ((List.range m.entries.length).zip m.entries).filterMap fun x => if x.2.role = 2 then none else some (x.1, x.2.instanceAddr)

def Catch.entry? (c : Catch) : Option ManifestEntry := c.manifest.bind fun m => m.entries[c.index]?

def Catch.headAddr (c : Catch) : Nat := ((c.manifest.bind fun m => m.entries[m.headwater]?).map (·.instanceAddr)).getD 0

/-- The horizon partners of this instance in a catchment: a lock-step peer counts as one, and no seal goes to or comes from
the instance itself (R62, R176, R355). -/
def Catch.partners (c : Catch) : List Nat :=
  match c.manifest, c.entry? with
  | some m, some e => (if m.lockstep then (e.partners ++ [e.lockstepPeer]).eraseDups else e.partners).filter (· != e.instanceAddr)
  | _, _ => []

/-- Sends a launch message of a catchment, stamped with the GTC; its own takes effect at T + H like the others. -/
def State.sendLaunch (s : State) (k : Fin 16) (dest : Nat) (x : Ctrl) : State :=
  let c := s.catch_ k
  let now := s.time.localTick
  if dest = s.cfg.instanceAddr then s.setCatch k { c with held := c.held ++ [(now + c.horizon, dest, x)] }
  else
    let cxid := (c.manifest.bind fun m => m.rota.head?).getD 0
    s.sendMsg dest { sender := s.cfg.instanceAddr, cmid := c.cmid, cxid := cxid, tick := now, epoch := 0, vc := 2 } (.ctrl x)

/-- The first 8 bytes of the manifest hash as a number (R347). -/
def Catch.hash64 (c : Catch) : Nat := (c.manifest.map fun m => leNat (slice m.hash 0 8)).getD 0

/-- The refuse message of a member that refuses a manifest (R347), as far as the manifest's bytes name a headwater and make this
instance a member. Its routes are loaded by no accepted manifest, so it leaves by the route its own entry names (log entry 66). -/
def State.refuseMsg (s : State) (m : Manifest) (code : Nat) : State :=
  match s.mine m, m.entries[m.headwater]? with
  | (i, e) :: _, some head =>
    if e.role = 2 ∨ head.instanceAddr = s.cfg.instanceAddr then s
    else s.linkSend ((portTo e head.instanceAddr).getD 0) head.instanceAddr
      { sender := s.cfg.instanceAddr, cmid := m.cmid, cxid := m.rota.headD 0, tick := s.time.localTick, epoch := 0, vc := 2 }
      (.ctrl (.refuse i code))
  | _, _ => s

/-- MANIFEST (R342, R347, R355): accepted into the catchment table, or refused with a refuse message to its headwater. -/
def State.takeManifest (s : State) (h : SubHdr) (b : Bytes) (due : Nat) : State :=
  match s.checkManifest b with
  | .inl code => (s.result h 2 0 code none due).refuseMsg (decodeManifest b) code
  | .inr (k, c) =>
    let s := ((s.setCatch k c).horizonWeirs.raise 0x2C 1).result h 2 0 0 none due
    match c.manifest, c.entry? with
    | some m, some e =>
      if m.lockstep ∧ e.role ≠ 2 then
        s.sendMsg e.lockstepPeer
          { sender := s.cfg.instanceAddr, cmid := c.cmid, cxid := m.rota.headD 0, tick := s.time.localTick, epoch := 0, vc := 2 }
          (.ctrl (.lockHello m.horizon m.launchGtc c.index))
      else s
    | _, _ => s

def execManifest (h : SubHdr) (bytes : Bytes) (s : State) : Host.Outcome State Fault Refusal :=
  .next (if !s.boot.ready then s else if s.safety.fenced then s.countTaken.fencedRefusal h (.manifest 0 bytes.length) s.nextTick
    else s.countTaken.takeManifest h bytes s.nextTick)

/-- Whether a message comes from the lock-step peer that a catchment's manifest names for this instance (R355). -/
def Catch.fromPeer (c : Catch) (h : MsgHdr) : Bool :=
  match c.manifest, c.entry? with
  | some m, some e => m.lockstep && m.lockstepCmid == h.cmid && e.lockstepPeer == h.sender
  | _, _ => false

/-- The catchment a launch message names: its own CMID, or, for a lock-step message from the named peer, that of the peer. -/
def State.launchCatch (s : State) (h : MsgHdr) (peer : Bool) : Option (Fin 16) :=
  allSlots.find? fun k =>
    let c := s.catch_ k
    c.valid && !c.isLocal && (if peer then c.fromPeer h else c.cmid == h.cmid)

/-- A launch message arrives: held until its GTC of effect, or a stray (R36, R347). -/
def State.launchMsg (s : State) (h : MsgHdr) (peer : Bool) (x : Ctrl) : State :=
  match s.launchCatch h peer with
  | none => s.stray h.sender
  | some k =>
    let c := s.catch_ k
    s.setCatch k { c with held := c.held ++ [(h.tick + c.horizon, h.sender, x)] }

def execJoinMessage (h : MsgHdr) (index hash : Nat) (summary : MemberSummary) (s : State) : Host.Outcome State Fault Refusal :=
  .next (s.launchMsg h false (.join index hash summary))
/-- REFUSE: from a member, or from the lock-step peer whose check of a hello failed (R347, R355). -/
def execRefuse (h : MsgHdr) (index reason : Nat) (s : State) : Host.Outcome State Fault Refusal :=
  .next (s.launchMsg h (s.launchCatch h false).isNone (.refuse index reason))
def execConfirm (m : ConfirmMsg) (s : State) : Host.Outcome State Fault Refusal := .next (s.launchMsg m.hdr false (.confirm m.batch))
def execAbort (h : MsgHdr) (s : State) : Host.Outcome State Fault Refusal := .next (s.launchMsg h false .abort)
def execLockstepHello (h : MsgHdr) (horizon launch index : Nat) (s : State) : Host.Outcome State Fault Refusal :=
  .next (s.launchMsg h true (.lockHello horizon launch index))

/-- One launch message takes effect. -/
def State.launchEffect (s : State) (k : Fin 16) (sender : Nat) (x : Ctrl) : State :=
  let c := s.catch_ k
  match x with
  | .join i hash sm => s.setCatch k { c with hw := { c.hw with
      joins := (i, hash == c.hash64) :: c.hw.joins.filter (fun p => p.1 != i)
      summaries := (i, sm) :: c.hw.summaries.filter fun p => p.1 != i } }
  | .refuse i code => s.setCatch k { c with hw := { c.hw with refusals := (i, code) :: c.hw.refusals } }
  | .confirm changes => s.setCatch k { c with confirmed := true, batch := changes }
  | .abort => s.setCatch k { c with aborted := true }
  | .lockHello h l i =>
    (match c.manifest with
     | some m => if h = m.horizon ∧ l = m.launchGtc ∧ i = c.index then s else s.sendLaunch k sender (.refuse c.index 0x56)
     | none => s)
  | _ => s

/-- The launch messages of a catchment that take effect at this tick start. -/
def State.launchEffects (s : State) (k : Fin 16) : State :=
  let c := s.catch_ k
  let due := c.held.filter fun x => decide (x.1 ≤ s.time.localTick)
  if due.isEmpty then s
  else
    (due.mergeSort fun a b => a.2.1 ≤ b.2.1).foldl (fun s x => s.launchEffect k x.2.1 x.2.2)
      (s.setCatch k { c with held := c.held.filter fun x => !(x.1 ≤ s.time.localTick) })

/-- Whether slot j holds a context of catchment table entry k that is still Loading. -/
def State.loadingIn (s : State) (k : Fin 16) (j : Fin 16) : Bool :=
  let c := s.ctx j
  decide (c.phase = .loading ∧ c.catchment = k) && c.multiMember

/-- The batch of step 0 (R349, R350): the changes taken while the headwater's context was Loading. -/
def State.firstBatch (s : State) (k : Fin 16) : State × List Change :=
  match allSlots.find? fun j => s.loadingIn k j && (s.ctx j).rota == 0 with
  | none => (s, [])
  | some j => (s.modCtx j fun c => { c with hw := { c.hw with summaries := (s.catch_ k).hw.summaries } }).buildChanges j 0

/-- The headwater's launch decision at launch_gtc − H − 1 (R348). -/
def State.launchDecision (s : State) (k : Fin 16) : State :=
  let c := s.catch_ k
  match c.manifest with
  | none => s
  | some m =>
    if s.safety.fenced || !c.valid || !c.headwater || c.isLocal || c.hw.decided || decide (s.time.localTick + m.horizon + 1 < m.launchGtc) then s
    else
      let go := c.members.all fun p => c.hw.joins.any fun j => j.1 == p.1 && j.2
      let s := s.setCatch k { c with hw := { c.hw with decided := true } }
      let (s, batch) := if go then s.firstBatch k else (s, [])
      c.members.foldl (fun s p => s.sendLaunch k p.2 (if go then .confirm batch else .abort)) s

/-- A context still Loading when its catchment's launch is aborted (R348). -/
def State.dropLoading (s : State) (k : Fin 16) (j : Fin 16) : State :=
  let c := s.ctx j
  if s.loadingIn k j then
    let s := match c.loadSub with
      | some w => s.result w.hdr 1 w.taken 0x0D (some j) s.time.localTick
      | none => s
    ((s.requestsCancelled j).clearKey j).emptySlot j
  else s

/-- An aborted launch at launch_gtc (R348, R398). -/
def State.launchAbort (s : State) (k : Fin 16) : State :=
  let c := s.catch_ k
  match c.manifest, c.entry? with
  | some m, some e =>
    if !c.valid || c.isLocal || e.role == 2 || c.confirmed || decide (s.time.localTick < m.launchGtc) then s
    else
      let missing := (c.members.map (·.1)).filter fun i => !(c.hw.joins.any fun j => j.1 == i && j.2)
      let bad := if c.headwater then missing else []
      let f : FaultInfo :=
        { code := 0x20, scope := 1, stamp := s.stamp, member := c.index, detail1 := bad.length, detail2 := bad.foldl min (bad.headD 0) }
      let s := match allSlots.find? (s.loadingIn k ·) with
        | some j => s.fault j f
        | none => s.pushRec { kind := 8, due := s.nextTick, fault := some f }
      let s := allSlots.foldl (·.dropLoading k ·) s
      (s.setCatch k {}).raise 0x2C 1
  | _, _ => s

/-! ### Local catchments (R500, R501) -/

/-- A commit is checked at the die tick start (R500). -/
def State.commitCheck (s : State) (k : Fin 16) : State :=
  let c := s.catch_ k
  if !c.commitDue then s
  else if c.valid then s.setCatch k { c with commitDue := false }
  else
    let refuse (row : Nat) : State := ((s.setCatch k { c with commitDue := false, staged := true }).pageError 0x2C 0x06 row).raise 0x2C 2
    if (s.otherCatches k).any fun o => o.cmid == c.cmid then refuse 0
    else match s.limitRow k c with
      | some r => refuse r
      | none =>
        (s.setCatch k { c with
          commitDue := false, staged := false, valid := true, isLocal := true, headwater := true, manifest := none, index := 0, confirmed := true }).raise 0x2C 1

/-- Whether a context slot holds a context of a catchment table entry. -/
def State.catchHeld (s : State) (k : Fin 16) : Bool := allSlots.any fun j => (s.ctx j).phase != .empty && (s.ctx j).catchment == k

/-- A release takes effect at the die tick start (R501). -/
def State.releaseCheck (s : State) (k : Fin 16) : State :=
  let c := s.catch_ k
  if !c.releaseDue then s
  else if c.valid && s.catchHeld k then (s.setCatch k { c with releaseDue := false }).pageError 0x2C 0x05 (0x100 + 0x40 * k.val + c.releaseBy)
  else
    let s' := s.setCatch k { rotateTicks := 0, rotateNow := 0 }
    if c.valid then s'.raise 0x2C 1 else s'

/-- The effects of a write with commit or release set; a release keeps the privilege that asked for it. -/
def State.writeCommit (s : State) (k : Fin 16) (commit release : Bool) (priv : Nat) : State :=
  let c := s.catch_ k
  s.setCatch k { c with
    commitDue := c.commitDue || commit, releaseDue := c.releaseDue || release, releaseBy := if release then priv else c.releaseBy }

end Sys2Proof.Machine
end

