-- ==== Sys2Proof/Machine/Load.lean ====
section
/-! DEFINITION. Loads and thaws of released freezes (R21, R60, R302–R304, R329, R331, R332, R355, R372, R402–R404, R451, R452, R479,
R480, R502, R514), and the enables that wait for a shutdown. -/

namespace Sys2Proof.Machine

/-! ### The wrapped context key (R402–R404) -/

/-- The key slot a wrapped blob gives, or the reason code of R403. -/
def State.unwrap (s : State) (blob : Bytes) (cxid : Nat) : Nat ⊕ KeySlot :=
  let id := leBytes 2 cxid
  let ex := field blob 32 48
  let ey := field blob 80 48
  let tx := field blob 128 48
  let ty := field blob 176 48
  if field blob 0 8 ≠ 0x504152574B535550 ∨ field blob 8 2 ≠ 1 ∨ field blob 10 2 ≠ cxid
      ∨ !(zeroField blob 12 4 && zeroField blob 236 4 && zeroField blob 288 32) then .inl 0x30
  else if field blob 16 16 ≠ s.cfg.dieId then .inl 0x31
  else if !(onCurve ex ey && onCurve tx ty) then .inl 0x32
  else
    let z := beBytes 48 (ecdhX s.steward.privateKey ex ey)
    let kek := hkdf32 (slice blob 16 16) z (ascii "PUSKA wrap" ++ id)
    match gcmDecrypt kek (slice blob 224 12) (blob.take 236) (slice blob 240 32) (slice blob 272 16) with
    | none => .inl 0x33
    | some key =>
      .inr { contextKey := key, tenantX := tx, tenantY := ty, freezeKey := hkdf32 [] key (ascii "PUSKA freeze" ++ id)
             dumpKey := hkdf32 [] key (ascii "PUSKA dump" ++ id) }

/-! ### Taking a slot (R303, R479, R480, R502) -/

/-- A slot whose context page has taken its reset values but for the load-latched fields. -/
def Ctx.fresh (c : Ctx) : Ctx :=
  { phase := c.phase, backlog := c.backlog, deferring := c.deferring
    controls := { fastEn := c.controls.fastEn, movesPerStep := c.controls.movesPerStep, marginPct := c.controls.marginPct } }

/-- Binds a context to a catchment of the die. -/
def State.bindCatch (s : State) (k e : Fin 16) (rota : Nat) : State :=
  let q := s.catch_ e
  let multi := !q.isLocal
  s.modCtx k fun c =>
    { c with
      catchment := e, cmid := q.cmid, rota := rota, multiMember := multi, headwater := q.headwater, lcids := q.lcids, ctids := q.ctids
      clusters := q.clusters, share := q.share, horizon := q.horizon, be := q.be
      outSlots := (bitList 64 q.outSlots.toNat).length, memSlots := (bitList 64 q.memSlots.toNat).length
      memberIndex := q.index, manifestHash := (q.manifest.map (·.hashNoLaunch)).getD (zeros 48)
      launchGtc := (q.manifest.map (·.launchGtc)).getD 0, partners := q.partners
      lock := match q.manifest, q.entry? with
        | some m, some x => { active := m.lockstep, peer := x.lockstepPeer, peerCmid := m.lockstepCmid }
        | _, _ => {} }

/-- The lowest-numbered Empty slot (R303). -/
def State.emptyOne (s : State) : Option (Fin 16) := allSlots.find? fun k => (s.ctx k).phase == .empty

/-- The table entry a load names (R452, R502). -/
def State.loadCatch (s : State) (cxid : Nat) (r : LoadReq) : Option (Fin 16) :=
  allSlots.find? fun e =>
    let q := s.catch_ e
    q.valid && q.cmid == r.cmid &&
      (if r.multiMember then (match q.manifest, q.entry? with
        | some m, some x => x.role != 2 && m.rota[r.rota]? == some cxid
        | _, _ => false)
       else q.isLocal)

/-- Whether a rota position of a catchment is held by another slot. -/
def State.rotaHeld (s : State) (k e : Fin 16) (rota : Nat) : Bool :=
  allSlots.any fun j => j != k && (s.ctx j).phase != .empty && (s.ctx j).catchment == e && (s.ctx j).rota == rota

/-- A load or a released thaw that fails a check after it was accepted: its dump requests are answered and the slot returns to Empty
(R331, R434, R514). -/
def State.loadRefused (s : State) (k : Fin 16) (w : Waiting) (reason due : Nat) : State :=
  let s := s.result w.hdr w.sub.kind w.taken reason (some k) due
  let s := if 0x30 ≤ reason ∧ reason ≤ 0x33 then s.log 0x07 1 (Config.logPayload 0x07 [1, reason]) else s
  let c := s.ctx k
  let s := if c.thawReleased && c.multiMember && c.headwater then s.sendOthers k (.resume 0) else s
  ((s.requestsCancelled k).clearKey k).emptySlot k

/-- Check 1 of R514, with the wait of R332 for a slot that is tearing down. -/
def State.pickSlot (s : State) (cxid : Nat) : Option (Fin 16) ⊕ Fin 16 :=
  match s.findCxid cxid with
  | some j => if (s.ctx j).phase = .tearingDown then .inr j else .inl none
  | none => match s.emptyOne with
    | some k => .inl (some k)
    | none => match allSlots.find? fun j => (s.ctx j).phase == .tearingDown with
      | some j => .inr j
      | none => .inl none

/-- LOAD (R303, R451, R514): accepted into a slot, which is Loading from then on, or refused. -/
def State.takeLoad (s : State) (h : SubHdr) (r : LoadReq) (due : Nat) : State :=
  let w : Waiting := { hdr := h, taken := 0, sub := .load r }
  if r.mode > 2 ∨ r.rota > 3 ∨ r.cmid > 4095 then s.result h 1 0 2 none due
  else match s.pickSlot h.cxid with
    | .inr j => s.holdEnable j w due
    | .inl none => s.result h 1 0 0x2A none due
    | .inl (some k) =>
      let mode := match r.mode with | 0 => Mode.scheduleExact | 1 => Mode.resultExact | _ => Mode.relaxed
      let s := (s.modCtx k fun c => { c.fresh with cxid := h.cxid, mode := mode, loadSub := some w }).setPhase k .loading
      match s.loadCatch h.cxid r with
      | none => s.loadRefused k w 9 due
      | some e => if s.rotaHeld k e r.rota then s.loadRefused k w 0x2A due else s.bindCatch k e r.rota

def execLoad (h : SubHdr) (r : LoadReq) (s : State) : Host.Outcome State Fault Refusal :=
  .next (if !s.boot.ready then s else if s.safety.fenced then s.countTaken.fencedRefusal h (.load r) s.nextTick
    else s.countTaken.takeLoad h r s.nextTick)

/-! ### The thaw of a released freeze (R329, R331) -/

/-- The catchment of a released context: that of the image found at the address, or the one whose rota names it. -/
def State.thawCatch (s : State) (cxid addr : Nat) : Option (Fin 16 × Nat) :=
  match s.images.find? fun f => f.address == addr && f.cxid == cxid with
  | some f => (allSlots.find? fun e => (s.catch_ e).valid && (s.catch_ e).cmid == f.cmid).map fun e => (e, f.ctx.rota)
  | none => (allSlots.find? fun e => (s.catch_ e).valid && (match (s.catch_ e).manifest with | some m => m.rota.contains cxid | none => false)).map
      fun e => (e, ((s.catch_ e).manifest.map fun m => m.rota.idxOf cxid).getD 0)

/-- A released thaw is accepted into an Empty slot. -/
def State.takeReleasedThaw (s : State) (h : SubHdr) (r : ThawReq) (due : Nat) : State :=
  let w : Waiting := { hdr := h, taken := 0, sub := .thaw r }
  match s.pickSlot h.cxid with
  | .inr j => s.holdEnable j w due
  | .inl none => s.result h 4 0 0x2A none due
  | .inl (some k) =>
    let s := (s.modCtx k fun c => { c.fresh with cxid := h.cxid, thawSub := some w, thawReleased := true }).setPhase k .thawing
    match s.thawCatch h.cxid r.imageAddr with
    | none => s.loadRefused k w 0x2A due
    | some (e, rota) => if s.rotaHeld k e rota then s.loadRefused k w 0x2A due else s.bindCatch k e rota

/-- THAW: of a Frozen context, or of a released freeze, whose payload holds the wrapped key (R451). -/
def State.takeAnyThaw (s : State) (h : SubHdr) (r : ThawReq) (taken due : Nat) : State :=
  match s.findCxid h.cxid with
  | some _ => s.accept h (.thaw r) [] taken due
  | none => if r.wrappedKey.length < 320 then s.result h 4 0 2 none due else s.takeReleasedThaw h r due

def execThaw (h : SubHdr) (r : ThawReq) (s : State) : Host.Outcome State Fault Refusal :=
  .next (if !s.boot.ready then s else if s.safety.fenced then s.countTaken.fencedRefusal h (.thaw r) s.nextTick
    else s.countTaken.takeAnyThaw h r (s.takenTick h.cxid) s.nextTick)

/-! ### Completion of a load (R60, R90, R372, R403, R452, R514) -/

/-- Mode conflicts, in the order of check 5 of R514. `peerGraph` is the graph hash of the lock-step peer's context where it is known
(R355; log entry 63). -/
def modeConflict (c : Ctx) (r : LoadReq) (cache : BitVec 64) (peerGraph : Option Bytes) (i : Image) : Bool :=
  (r.mode == 0 && overlap cache c.lcids) || (c.lock.active && (r.mode != 0 || peerGraph.any (· != i.graphHash)))
    || (i.arrangementInvariant && r.mode == 2 && c.controls.fastEn)

/-- Keys and image of a load or released thaw: refused, or taken in. -/
def State.loadChecks (s : State) (k : Fin 16) (w : Waiting) (blob image : Bytes) (named : Nat) (fast : Bool) (conflict : Image → Bool)
    (go : State → State) : State :=
  match s.unwrap blob w.hdr.cxid with
  | .inl code => s.loadRefused k w code s.nextTick
  | .inr key =>
    let s := { s with steward := { s.steward with keys := s.steward.keys.set k.val (some key) } }
    match s.checkImage k fast named image key.contextKey key.tenantX key.tenantY with
    | .inl code => s.loadRefused k w code s.nextTick
    | .inr i => if conflict i then s.loadRefused k w 0x0A s.nextTick else go (s.takeImage k fast i)

/-- What follows the checks of a load: ready to launch; a member of the first rota position joins (R347, R452). -/
def State.loadReady (s : State) (k : Fin 16) : State :=
  let s := s.modCtx k fun c => { c with loadDone := true }
  let c := s.ctx k
  if c.multiMember ∧ c.rota = 0 then
    let e := c.catchment
    let q := s.catch_ e
    let s := s.sendLaunch e q.headAddr (.join q.index q.hash64 (s.summary k))
    s.setCatch e { s.catch_ e with joinSent := true }
  else s

/-- LOAD_COMPLETE: the image is read and every check of R514 after the second is made; so too for a thaw of a released freeze,
whose restore then begins at a single-member context. `cache` names the LCIDs whose cache portion Puska finds enabled (R21), `peerGraph` the graph hash of a
lock-step peer's context (R355). -/
def State.loadComplete (s : State) (k : Fin 16) (cache : BitVec 64) (image : Bytes) (peerGraph : Option Bytes) : State :=
  let c := s.ctx k
  if c.fault.isSome then s
  else match c.phase, c.loadSub, c.thawSub with
    | .loading, some w, _ =>
      (match w.sub with
       | .load r =>
         if c.loadDone then s
         else s.loadChecks k w r.wrappedKey image r.imageLength (r.mode == 2 && c.controls.fastEn) (modeConflict c r cache peerGraph) (·.loadReady k)
       | _ => s)
    | .thawing, _, some w =>
      (match w.sub with
       | .thaw r =>
         if !c.thawReleased || c.loadDone then s
         else s.loadChecks k w r.wrappedKey image r.graphLength false (fun _ => false) fun s =>
           let s := s.modCtx k fun c => { c with loadDone := true }
           if c.multiMember && c.headwater then s.sendAll k .thaw else s
       | _ => s)
    | _, _, _ => s

def execLoadComplete (slot : Fin 16) (cache : BitVec 64) (input : LoadInput) (s : State) : Host.Outcome State Fault Refusal :=
  .next (s.loadComplete slot cache input.image input.peerGraph)

/-! ### Enables that waited (R332) -/

/-- Takes the enable that waited for a slot's shutdown. -/
def State.takePending (s : State) (k : Fin 16) : State :=
  let c := s.ctx k
  match c.enablePending with
  | none => s
  | some w =>
    if c.phase ≠ .empty ∧ c.phase ≠ .frozen then s
    else
      let s := s.setCtx k { c with enablePending := none }
      match w.sub with
      | .load r => s.takeLoad w.hdr r s.nextTick
      | .thaw r => s.takeAnyThaw w.hdr r w.taken s.nextTick
      | _ => s

/-- A thaw message that has waited for the freeze's end takes effect (R332). -/
def State.thawMessage (s : State) (k : Fin 16) : State :=
  let c := s.ctx k
  if c.thawHeld then (s.setCtx k { c with thawHeld := false }).thawEffect k else s

/-- FREEZE_SCRUB_END (R302, R323, R332), and the thaw a rotation asked for when the freeze ends (R337). -/
def State.freezeScrubEnd (s : State) (k : Fin 16) : State :=
  let before := (s.ctx k).phase
  let s := s.freezeEnd k
  if before = .freezing ∧ (s.ctx k).phase ≠ .freezing then (s.takePending k).thawMessage k else s

end Sys2Proof.Machine
end

