-- ==== Sys2Proof/Machine/Steward.lean ====
section
/-! DEFINITION. The steward (R406–R414, R486): heartbeats and their watchdog, firmware updates; and the errors of Puska's SRAMs
(R162, R207, R243, R388, R393, R505). -/

namespace Sys2Proof.Machine

/-- Bits 14:12 of an access error's detail (R476). -/
def Priv.detail : Priv → Nat
  | .steward => 2 ^ 12
  | .operator => 2 ^ 13
  | .tenant => 2 ^ 14

/-- Records an access error in PAGE_ERR (R476). -/
def State.accessError (s : State) (page : Fin 64) (code : Nat) (p : Priv) (offset : Nat) : State :=
  s.pageError page code (offset % 2 ^ 12 + Priv.detail p)

/-! ### Heartbeats (R408, R413, R477) -/

/-- STEWARD_HEARTBEAT, served. -/
def State.heartbeat (s : State) (p : Priv) (value : Word) : State :=
  if p ≠ .steward then s.accessError 0x04 0x02 p 0x040
  else
    let w := s.steward
    { s with steward := { w with
        heartbeat := value.toNat % 2 ^ 32, lastHeartbeat := s.time.localTick, lastHeartbeatGtc := s.time.localTick
        lateRaised := false, state := if w.state = 2 then 1 else w.state } }

/-- STEWARD_HEARTBEAT. -/
def State.stewardHeartbeat (s : State) (p : Priv) (value : Word) : State := (s.serve 0x04).heartbeat p value

def execStewardHeartbeat (p : Priv) (value : Word) (s : State) : Host.Outcome State Fault Refusal := .next (s.stewardHeartbeat p value)

/-- Ticks since the last heartbeat. -/
def State.silent (s : State) : Nat := s.time.localTick - s.steward.lastHeartbeat

/-- HEARTBEAT_LATE (R477). -/
def State.heartbeatLate (s : State) : State :=
  if s.time.tickRunning ∧ s.steward.state ≠ 0 ∧ s.steward.lateRaised = false ∧ s.silent ≥ 512 then
    ({ s with steward := { s.steward with lateRaised := true } }).raise 0x04 0
  else s

def execHeartbeatLate (s : State) : Host.Outcome State Fault Refusal := .next s.heartbeatLate

/-- STEWARD_WATCHDOG (R408). -/
def State.stewardWatchdog (s : State) : State :=
  if s.time.tickRunning ∧ s.steward.state ≠ 0 ∧ s.steward.state ≠ 2 ∧ s.silent ≥ 1024 then s.fence 0x85 s.silent s.steward.running else s

def execStewardWatchdog (s : State) : Host.Outcome State Fault Refusal := .next s.stewardWatchdog

/-! ### Firmware (R411–R413) -/

/-- Header of a firmware image, and the reserved bytes of it and of its signature block (code 0x60). -/
def firmwareHead (b : Bytes) : Bool :=
  let len := field b 16 4
  field b 0 8 == 0x445754534B535550 && field b 8 2 == 1 && zeroField b 10 2 && zeroField b 24 40 && len % 64 == 0
    && decide (field b 20 4 < len) && b.length == 64 + len + 256 && zeroField (b.drop (64 + len)) 192 64

/-- Signature of a firmware image under the Balyon firmware key (code 0x61). -/
def State.firmwareSigned (s : State) (b : Bytes) : Bool :=
  let off := 64 + field b 16 4
  let sig := b.drop off
  sha384 (slice sig 0 96) == slice s.cfg.firmwareKeyHash 0 48
    && ecdsaVerify (field sig 0 48) (field sig 48 48) (sha384 (b.take off)) (field sig 96 48) (field sig 144 48)

/-- The first failing check of an update (R412). -/
def State.firmwareRefusal (s : State) (b : Bytes) : Option Nat :=
  if !firmwareHead b then some 0x60
  else if !s.firmwareSigned b then some 0x61
  else if field b 12 4 < s.cfg.minFirmware then some 0x62
  else if s.steward.staged.isSome then some 0x63
  else none

/-- FW_UPDATE: staged, or refused (R412). -/
def State.takeFirmware (s : State) (h : SubHdr) (b : Bytes) (due : Nat) : State :=
  let old := s.steward.running
  match s.firmwareRefusal b with
  | some code => (s.log 0x08 1 (Config.logPayload 0x08 [1, code, old, field b 12 4])).result h 0x0D 0 code none due
  | none =>
    let w : Waiting := { hdr := h, taken := 0, sub := .fwUpdate 0 b.length }
    let s := ({ s with steward := { s.steward with staged := some (field b 12 4), stagedSub := some w } }).raise 0x04 1
    (s.log 0x08 0 (Config.logPayload 0x08 [0, 0, old, field b 12 4])).result h 0x0D 0 0 none due

/-- Whether Puska takes submissions (R463). -/
def State.takesSubs (s : State) : Bool := s.boot.ready

def execFwUpdate (h : SubHdr) (image : Bytes) (s : State) : Host.Outcome State Fault Refusal :=
  .next (if s.takesSubs then s.countTaken.takeFirmware h image s.nextTick else s)

/-- Whether a context keeps a staged image from being activated (R413). -/
def Ctx.blocksFirmware (c : Ctx) : Bool :=
  match c.phase with
  | .loading => true
  | .freezing => true
  | .thawing => true
  | .tearingDown => true
  | .running => c.mode == .scheduleExact || (c.firedTick.isSome && !c.graph.isEmpty)
  | _ => false

/-- FW_ACTIVATE: at a tick start at which nothing blocks it (R413). -/
def State.fwActivate (s : State) : State :=
  match s.steward.staged with
  | none => s
  | some v =>
    let atStart := s.time.tickRunning && !s.time.inMargin && s.time.slot == 0 && s.time.offset == 0
    let records := s.sluice.due.any fun r => r.kind == 9 && decide (r.due ≤ s.time.localTick)
    if !atStart || records || s.ctxs.toList.any (·.blocksFirmware) then s
    else
      let old := s.steward.running
      let s := (s.log 0x08 0 (Config.logPayload 0x08 [2, 0, old, v])).raise 0x04 2
      let s := { s with steward := { s.steward with
        staged := none, stagedSub := none, previous := old, running := v, state := 2, activatedTick := s.time.localTick
        lastHeartbeat := s.time.localTick, lateRaised := false } }
      s.pushRec { kind := 0x0B, due := s.nextTick, detail := .firmware 1 old v }

def execFwActivate (s : State) : Host.Outcome State Fault Refusal := .next s.fwActivate

/-- FW_REVERTED: new code that has not sent a heartbeat for 4,096 ticks (R413). -/
def State.fwReverted (s : State) : State :=
  if s.steward.state = 2 ∧ s.steward.activatedTick + 4096 ≤ s.time.localTick then
    let old := s.steward.running
    let back := s.steward.previous
    let s := (s.log 0x08 2 (Config.logPayload 0x08 [3, 0, old, back])).raise 0x04 3
    let s := { s with steward := { s.steward with
      running := back, state := 3, lastHeartbeat := s.time.localTick, lateRaised := false } }
    s.pushRec { kind := 0x0B, reason := 0x64, due := s.nextTick, detail := .firmware 2 old back }
  else s

def execFwReverted (s : State) : Host.Outcome State Fault Refusal := .next s.fwReverted

/-! ### SRAM errors (R388, R393, R505) -/

/-- Whether an SRAM identifier has scope die (R505). -/
def sramShared (i : Nat) : Bool := [5, 8, 9, 14, 15, 16, 18].contains i

/-- The fault of an uncorrectable error that a context owns (R162, R207, R243, R388). -/
def SramError.fault (e : SramError) : FaultInfo :=
  match e.sram.val with
  | 0 => { code := 0x12, detail1 := e.entry, detail2 := e.detail }
  | 3 => { code := 0x09, detail1 := e.detail }
  | 4 => { code := 0x09, detail1 := e.detail }
  | 7 => { code := 0x10, detail1 := e.detail }
  | i => { code := 0x1D, detail1 := i, detail2 := e.entry }

/-- The slot that holds the entry, if its context is on the die. -/
def State.sramOwner (s : State) (e : SramError) : Option (Fin 16) :=
  e.owner.bind fun k => if (s.ctx k).phase = .empty then none else some k

/-- A fault of logic: the die is fenced (R388, R392), or a copy of a counter differs from the other until a read compares them (R162). A
fault of the time unit is in no SRAM, and its record names identifier 0 (DESIGN CHOICE, log entry 139). -/
def State.logicFault (s : State) : LogicFault → State
  | .comparators p => s.fence 0x82 p 0
  | .timeUnit => State.fence { s with safety := { s.safety with timeFault := true } } 0x81 0 0
  | .counterCopy k v x =>
    s.modCtx k fun c => { c with counters := c.counters.map fun q => if q.decl.vid == v then { q with copy := wrap 48 x } else q }

/-- An error of an SRAM: corrected and counted, or counted and charged to its context or to the die. -/
def State.memoryError (s : State) (e : SramError) : State :=
  let i := e.sram.val
  if e.correctable then
    (if i = 0 then s
     else
      let s := ({ s with safety := { s.safety with corrected := s.safety.corrected.set i (wrap 32 (s.safety.corrected.getD i 0 + 1)) } }).raise 0x34 1
      if i = 7 then ({ s with inletCorrected := wrap 32 (s.inletCorrected + 1) }).raise 0x20 0 else s)
  else
    let s := if i = 0 then s
      else { s with safety := { s.safety with uncorrected := s.safety.uncorrected.set i (sat 16 (s.safety.uncorrected.getD i 0 + 1)) } }
    if sramShared i then s.fence 0x81 i e.entry
    else if e.free then s
    else match s.sramOwner e with
      | some k => s.fault k (SramError.fault e)
      | none => if i = 0 then s else s.fence 0x81 i e.entry

/-- SRAM_ERROR. -/
def State.sramError (s : State) (e : SramError) : State := match e.logic with | some f => s.logicFault f | none => s.memoryError e

def execSramError (e : SramError) (s : State) : Host.Outcome State Fault Refusal := .next (s.sramError e)

end Sys2Proof.Machine
end

