-- ==== Sys2Proof/Machine/Boundary.lean ====
section
/-! DEFINITION. Slot boundaries (R38–R45, R76, R115, R116, R140, R157, R473): what the cores bring at a boundary, the slot that has
passed, the lag limit, MARGIN_START and SLOT_BOUNDARY. -/

namespace Sys2Proof.Machine

/-! ### GTC boundaries (R41, R43, R54) -/

/-- The GTC passes its next boundary, with the trim of that tick. -/
def TimeUnit.nextGtc (t : TimeUnit) (len : Nat) : TimeUnit :=
  { t with
    gtc := t.gtc + 1, boundaryRef := ((t.boundaryRef : Int) + len + t.nextTrim).toNat
    boundaries := (t.boundaryRef :: t.boundaries).take 9, trimLeft := t.trimLeft - t.nextTrim }

/-- Every GTC boundary up to a reference position passes. -/
def State.catchUp (p : Nat) : Nat → State → State
  | 0, s => s
  | n + 1, s => if s.time.running && decide (s.nextBoundary ≤ p) then State.catchUp p n { s with time := s.time.nextGtc s.tickLength } else s

/-- The GTC boundaries up to the ac that comes next. -/
def State.gtcUp (s : State) : State := s.catchUp s.time.nextRef ((s.time.nextRef - s.time.boundaryRef) / 512 + 1)

/-- Reference position of GTC boundary k, not after the latest one. -/
def TimeUnit.boundaryOf (t : TimeUnit) (len k : Nat) : Nat :=
  match t.gtc - k with
  | 0 => t.boundaryRef
  | d + 1 => t.boundaries.getD d (t.boundaryRef - (d + 1) * len)

/-! ### What a boundary brings -/

/-- Bytes of the ports since the last boundary (R503). -/
def State.countPorts (s : State) (b : BoundaryIn) : State :=
  if s.obs.run = .on then
    let add (xs ys : List Nat) : List Nat := (List.range 5).map fun p => wrap 64 (xs.getD p 0 + ys.getD p 0)
    { s with obs := { s.obs with portOut := add s.obs.portOut b.sent, portIn := add s.obs.portIn b.received } }
  else s

/-- A level that has held for 8 consecutive ac by `ac` is accepted (R72); `ref` is the reference position of that ac. -/
def ExtIn.settle (x : ExtIn) (ac ref : Nat) : ExtIn :=
  if x.raw = x.level ∨ ac < x.rawAt + 8 then x
  else { x with level := x.raw, since := if x.raw then ref - (ac - (x.rawAt + 8)) else x.since }

/-- The level of an input from an ac on, behind the synchroniser: a change begins a new count of 8 ac (R72). -/
def ExtIn.sample (x : ExtIn) (ac ref : Nat) (level : Bool) : ExtIn :=
  let x := { x.settle ac ref with seen := true }
  if level = x.raw then x else { x with raw := level, rawAt := ac }

/-- The accepted levels after the levels of a slot (R72, R507). No level before the first tick start is sampled (DESIGN CHOICE, log entry
160). -/
def State.filterLevels (s : State) (levels : List (Nat × Bool × Bool)) : ExtUnit :=
  let t := s.time
  let step (e : ExtUnit) (p : Nat × Bool × Bool) : ExtUnit :=
    let ac := t.ac - (t.offset - p.1)
    let ref := t.ref - (t.offset - p.1)
    { e with sync := e.sync.sample ac ref p.2.1, xtrig := e.xtrig.sample ac ref p.2.2 }
  let e := levels.foldl step s.ext
  { e with sync := e.sync.settle t.ac t.ref, xtrig := e.xtrig.settle t.ac t.ref }

/-- Whether a store of the task in service on a core touches a confluence region of its context (R243). -/
def State.touchesRegion (s : State) (x : Nat × Nat × Bytes) : Bool :=
  match (s.core (lcidOf x.1)).serving with
  | some e => !x.2.2.isEmpty && (s.ctx e.task.slot).overlapsRegion x.1 x.2.1 (x.2.1 + x.2.2.length)
  | none => false

/-- A store that touches a confluence region ends its task with engine-fault status, whatever it had reported (R243). -/
def State.regionFault (s : State) (x : Nat × Nat × Bytes) : State :=
  let f (e : PondEntry) : PondEntry :=
    if e.state = .inService then
      { e with report := some { (e.report.getD {}) with status := .engineFault, code := 0xFF, detail := x.2.1 } }
    else e
  s.modCore (lcidOf x.1) (·.mapEntries f)

/-- Takes in what the cores bring at a boundary: stores, windows, regions and port counts (R27, R117, R289), and what external memory
has been written (R121). A store into a confluence region is not performed (R243). -/
def State.boundaryIn (s : State) (b : BoundaryIn) : State :=
  let stores := b.stores.filter fun x => decide (x.1 < 64 ∧ x.2.1 + x.2.2.length ≤ spadSize)
  let bad := stores.filter s.touchesRegion
  let stores := stores.filter fun x => !s.touchesRegion x
  let s := bad.foldl (·.regionFault ·) s
  State.countPorts { s with
    ext := s.filterLevels b.levels
    mem := b.memory.foldl (fun (m : Memory) (x : Nat × Bytes) => m.writeBytes x.1 x.2) s.mem
    spad := stores.foldl (fun (m : Memory) (x : Nat × Nat × Bytes) => m.writeBytes (spadAddr x.1 x.2.1) x.2.2) s.spad
    windows := b.windows.foldl openWindow s.windows
    stagingRegions := b.regions.foldl (fun rs r => r :: rs.filter fun x => !(x.lcid == r.lcid && x.region == r.region)) s.stagingRegions } b

/-- Counts a slot of every core as busy or idle (R503). -/
def State.countBusy (s : State) : State :=
  if s.obs.run = .on then
    let up (xs : List Nat) (on : Nat → Bool) : List Nat := (List.range xs.length).map fun i => wrap 32 (xs.getD i 0 + b2n (on i))
    let busy (l : Nat) : Bool := (s.core (lcidOf l)).serving.isSome
    let runs (c : Nat) : Bool := (s.runningFrame (Fin.ofNat 8 c)).isSome
    { s with obs := { s.obs with
        coreBusy := up s.obs.coreBusy busy, coreIdle := up s.obs.coreIdle fun l => !busy l
        ctrlBusy := up s.obs.ctrlBusy runs, ctrlIdle := up s.obs.ctrlIdle fun c => !runs c } }
  else s

/-- A slot has passed: spans, slices, pass engines and issue offsets of the contexts that run count it (R58, R140, R157, R215, R292). -/
def State.slotPassed (s : State) : State :=
  let s := s.threadSlot.countBusy
  let step (e : PondEntry) : PondEntry :=
    if e.state = .inService ∧ (s.ctx e.task.slot).runs then { e with slotsLeft := e.slotsLeft - 1 } else e
  { s with
    cores := s.cores.map fun (c : Core) => c.mapEntries step
    ctxs := s.ctxs.map fun (c : Ctx) => if c.runs then c.jobSlot.stageSlot else c }

/-! ### The lag limit (R45) -/

/-- Contexts live on the die that the lag limit does not tear down: those of one member (R45, R368). -/
def State.liveOn (s : State) : List (Fin 16) := s.live.filter fun k => !(s.ctx k).multiMember

/-- The lag limit test at the end of slot N − 1, which is the reference position p; after a clock stop in the margin, at the restart
(R47). -/
def State.lagTest (s : State) (p : Nat) : State :=
  let t := s.time
  let due := t.boundaryOf s.tickLength (t.localTick + 1)
  if t.jumps || decide (t.gtc ≤ t.localTick) || decide (p < due + s.cfg.lagLimit * s.tickLength) then s
  else
    let s := allSlots.foldl (fun s k => if (s.ctx k).multiMember then s.faultCode k 0x18 (p - due) 0 else s) s
    let s := ({ s with time := { s.time with jumping := true } }).raise 0x02 1
    s.liveOn.foldl (fun s k => s.modCtx k fun c => (c.count 6).cause 2) s

/-- Whether the tick is in its last slot. -/
def State.inLastSlot (s : State) : Bool := s.time.tickRunning && !s.time.inMargin && s.time.slot + 1 == s.cfg.slotsPerTick

/-- LAG_LIMIT_TEST: the cycles to the end of slot N − 1 pass, and the lag is tested there. -/
def State.lagLimitTest (s : State) : State :=
  if s.inLastSlot then
    let s := s.runOut.gtcUp
    if 255 ≤ s.time.offset then s.lagTest s.time.nextRef else s
  else s

def execLagLimitTest (s : State) : Host.Outcome State Fault Refusal := .next s.lagLimitTest

/-! ### External inputs and pages at a slot boundary (R76, R432, R473, R507) -/

/-- A page that waits for its enable, at a slot boundary. -/
def PageRun.enable (r : PageRun) (pending : Bool) : PageRun := if pending && r == .off then .on else r

/-- The enables of pages 0x30 and 0x38 that were written to 0 take effect at a tick start: a page that is ON drains (R466, R473). -/
def State.pageDisables (s : State) : State :=
  { s with
    obs := { s.obs with run := if !s.obsEnable && s.obs.run == .on then .draining (s.time.ac + 64) else s.obs.run }
    extRun := if !s.extEnable && s.extRun == .on then .draining (s.ext.outUntil.getD s.time.ac) else s.extRun }

/-- The configurations of page 0x38 in force, and the enables of pages 0x30 and 0x38 that take effect. -/
def State.pageBoundary (s : State) : State :=
  { s with
    ext := { s.ext with cfgEffective := s.ext.cfg, outCfgEffective := s.ext.outCfg }
    extRun := s.extRun.enable s.extEnablePending, extEnablePending := s.extEnablePending && s.extRun != .off
    obs := { s.obs with run := s.obs.run.enable s.obsEnablePending }, obsEnablePending := s.obsEnablePending && s.obs.run != .off }

/-- The actions a counted XTRIG_IN edge asked for: a halt of a catchment's contexts, counted in each of them
that is live (R368), a trace trigger of every context (R76, R432). -/
def State.extActions (s : State) : State :=
  let halt := s.ext.haltPending
  let trig := s.ext.tracePending
  let s := { s with ext := { s.ext with haltPending := none, tracePending := false } }
  let s := match halt with
    | some cmid => allSlots.foldl (fun s k =>
        if (s.ctx k).phase = .running ∧ (s.ctx k).cmid = cmid then (s.modCtx k (·.count 10)).haltContext k 1 0 0xFF else s) s
    | none => s
  if trig then allSlots.foldl (fun s k => s.trigger k 0 0 0xFFFF 0xFFFF) s else s

/-! ### Steps 3 to 5 of R115 -/

/-- The counters that armed watches and blocked threads of a context read (R113, R156, R162). -/
def State.watchedBy (s : State) (k : Fin 16) : List Nat :=
  let c := s.ctx k
  (c.steps.flatMap fun r => (List.range r.insts.length).filterMap fun n =>
      if (r.inst n).watch.isSome then some (c.node r.template n).watchCounter else none)
    ++ allFrames.filterMap fun p => match (s.frame p.1 p.2).state with
      | .onCounter v _ => if (s.frame p.1 p.2).task.slot = k then some v else none
      | _ => none

/-- Watches and releases of one context (step 3 of R115, with its units' publications, issues and cancelled steps). A pair in overrun
or underrun releases no waiter (R173, R174). -/
def State.beforeSwitch (s : State) (k : Fin 16) : State :=
  if (s.ctx k).runs then
    let s := ((s.cancelBoundary k).routingBoundary k).stagingBoundary k
    let s := s.compareCopies k (s.watchedBy k)
    if (s.ctx k).stats.overrun || (s.ctx k).stats.underrun then s
    else (s.modCtx k (·.compareWatches s.time.slotCount)).releaseThreads k
  else s

/-- Resolution and sweep of one context (steps 4 and 5 of R115). -/
def State.afterSwitch (s : State) (k : Fin 16) : State := ((s.resolve k).completeSteps k).sweep k

/-- Steps 3 to 5 of R115 with the thread switches between them. -/
def State.dispatch (s : State) : State :=
  let s := allSlots.foldl (·.beforeSwitch ·) s
  let s := allCtrl.foldl (·.threadSwitch ·) s
  allSlots.foldl (·.afterSwitch ·) s

/-- The end of a boundary's work: the scrubs that fall due (R261), the starts asserted for it, its ac of the units, the seals of a freeze
that can now follow, and the dispatch. -/
def State.startSlot (s : State) : State :=
  let s := allSlots.foldl (fun s k => if (s.ctx k).runs then s.scrubDue k else s) s
  (allSlots.foldl (·.sealCheck ·) s.startAll.work).dispatch

/-- The steps that the ends of a boundary complete, and the cancelled steps whose last started task has ended (R102, R103). -/
def State.closeSteps (s : State) : State :=
  allSlots.foldl (fun s k => let s := s.completeSteps k; if (s.ctx k).runs then s.freeCancelled k else s) s

/-- Step 1 of R115 for compute cores: task ends, and the steps they complete. -/
def State.endAll (s : State) : State := s.ends.closeSteps

/-- Step 1 of R115 for the control threads (R154), and the frames loaded during the slot. -/
def State.threadEnds (s : State) : State := s.threadCommands.framesLoaded.closeSteps

/-! ### The end of a slot -/

/-- The end of a slot: the cycles left pass, with the tests of the SENDs of the last one (R193), the boundary's inputs are taken in and the
slot is counted. -/
def State.endSlot (s : State) (b : BoundaryIn) : State := ((s.runOut.sendTests.boundaryIn b).slotPassed).gtcUp

/-- The end of slot N − 1, with the lag limit test. -/
def State.endLast (s : State) (b : BoundaryIn) : State :=
  let s := s.endSlot b
  s.lagTest s.time.nextRef

/-- Whether the next local tick begins at the end of slot N − 1, without a margin; after the lag limit only where a GTC boundary falls
exactly on that end (R43, R45). -/
def TimeUnit.noMargin (t : TimeUnit) : Bool := decide (t.gtc > t.localTick) && (!t.jumps || (t.running && t.boundaryRef == t.nextRef))

/-- The first ac of the margin: the ends of the tasks that close with slot N − 1 (R116). -/
def State.enterMargin (s : State) (stretch : List Nat) : State := ((s.newSlot s.time.slot true stretch).gapDue.endAll).work

/-- Whether the slot in progress ends before the next local tick must begin: always but for a clock restart with no context running,
after which the tick begins at the next GTC boundary wherever its slots stand (R47). -/
def State.slotCloses (s : State) : Bool := !s.time.resync || decide (255 ≤ s.runOut.time.offset)

/-- MARGIN_START: after slot N − 1, where the next local tick does not begin at once. -/
def State.marginStart (s : State) (b : BoundaryIn) : State :=
  if s.inLastSlot && s.slotCloses then
    let t := s.endLast b
    if t.time.noMargin then s else t.enterMargin b.stretched
  else s

def execMarginStart (b : BoundaryIn) (s : State) : Host.Outcome State Fault Refusal := .next (s.marginStart b)

/-- Contexts that resume from a halt in the middle of a tick (R438). -/
def State.resumeHere (s : State) (k : Fin 16) : State := if s.resumesHere k then s.resumeHalt k else s

/-- SLOT_BOUNDARY: a boundary within a tick. -/
def State.slotBoundary (s : State) (b : BoundaryIn) : State :=
  if !s.time.tickRunning || s.time.inMargin || decide (s.time.slot + 1 ≥ s.cfg.slotsPerTick) || !s.slotCloses then s
  else
    let s := s.endSlot b
    let s := (s.newSlot (s.time.slot + 1) false b.stretched).gapDue
    let s := { s with time := { s.time with slotCount := s.time.slotCount + 1 } }
    let s := (allSlots.foldl (·.resumeHere ·) s.pageBoundary).teardowns
    let s := s.ends.threadEnds.extActions
    s.startSlot

def execSlotBoundary (b : BoundaryIn) (s : State) : Host.Outcome State Fault Refusal := .next (s.slotBoundary b)

end Sys2Proof.Machine
end

