-- ==== Sys2Proof/Machine/Rotation.lean ====
section
/-! DEFINITION. Rotas (R336, R337): the blocked catchment, the rotation and stagnation; and the commands that end a freeze's scrub and a
restore (R302, R323, R329–R331). -/

namespace Sys2Proof.Machine

/-- The valid catchment table entry of a CMID. -/
def State.catchOf (s : State) (cmid : Nat) : Option (Fin 16) := allSlots.find? fun e => (s.catch_ e).valid && (s.catch_ e).cmid == cmid

/-- The resident member of a catchment: the one that runs. -/
def State.residentOf (s : State) (e : Fin 16) : Option (Fin 16) :=
  allSlots.find? fun k => let c := s.ctx k; c.phase == .running && c.launched && c.catchment == e

/-- Whether every member's latest report has the catchment blocked (R336). -/
def State.catchBlocked (s : State) (k : Fin 16) : Bool :=
  let c := s.ctx k
  if c.multiMember then (s.members k).all fun p => c.hw.blocked.any fun q => q.1 == p.1 && q.2 else s.blockedHere k

/-- Whether a Frozen member has work: a step in flight or a submission that waits (R336). -/
def State.runnable (s : State) (k : Fin 16) : Bool :=
  let c := s.ctx k
  c.phase == .frozen && c.thawSub.isNone && (!c.steps.isEmpty || s.subWaits k)

/-- The first runnable member after a rota position, wrapping from 3 to 0 (R337). -/
def State.nextRunnable (s : State) (e : Fin 16) (rota : Nat) : Option (Fin 16) :=
  [1, 2, 3].findSome? fun d => allSlots.find? fun j =>
    let c := s.ctx j
    c.catchment == e && c.rota == (rota + d) % 4 && s.runnable j

/-- The freeze or thaw a rotation asks for: no submission stands behind it (log entry 15). -/
def autoSub (sub : Sub) : Waiting := { hdr := {}, taken := 0, sub := sub, auto := true }

/-- The freeze a rotation asks for on this die. -/
def State.autoFreeze (s : State) (k : Fin 16) : State :=
  let c := s.ctx k
  s.setCtx k { c with freezeSub := some (autoSub (.freeze (Config.rotationSave k.val c.freezeSerial) (s.imageBytes k) false)) }

/-- The headwater freezes the resident member, to thaw another when the freeze ends. -/
def State.rotate (s : State) (e k j : Fin 16) : State :=
  let s := s.setCatch e { s.catch_ e with thawNext := some j }
  let s := (s.modCtx k (·.count 11)).modCtx j (·.count 11)
  let s := s.autoFreeze k
  let c := s.ctx k
  if c.multiMember then s.sendAll k (.freeze (c.tick + c.horizon + 1)) else s.freezeEffect k (c.tick + 1)

/-- No rotation is possible: the event and the log entry, once until a member makes progress. -/
def State.stagnate (s : State) (e : Fin 16) : State :=
  let q := s.catch_ e
  if q.stagnant then s
  else ((s.setCatch e { q with stagnant := true }).raise 0x2C 0).log 0x06 1 (Config.logPayload 0x06 [q.cmid])

/-- ROTATION: a blocked catchment rotates or stagnates (R337). -/
def State.rotation (s : State) (cmid : Nat) : State :=
  match s.catchOf cmid with
  | none => s
  | some e =>
    match s.residentOf e with
    | none => s
    | some k =>
      let c := s.ctx k
      if !c.headwater || c.fault.isSome || c.halted || c.freezeStage != .none || c.freezeSub.isSome || c.freezePending || !s.catchBlocked k then s
      else match (if (s.catch_ e).autoNow then s.nextRunnable e c.rota else none) with
        | some j => s.rotate e k j
        | none => s.stagnate e

def execRotation (cmid : Nat) (s : State) : Host.Outcome State Fault Refusal := .next (s.rotation cmid)

/-- The thaw of the next member, when the freeze of a rotation has ended. -/
def State.rotateThaw (s : State) (k : Fin 16) : State :=
  let e := (s.ctx k).catchment
  match (s.catch_ e).thawNext with
  | none => s
  | some j =>
    let s := s.setCatch e { s.catch_ e with thawNext := none }
    let c := s.ctx j
    if c.phase = .frozen ∧ c.thawSub.isNone then s.takeThaw j (s.autoThaw j) s.nextTick else s

/-- FREEZE_SCRUB_END. -/
def State.scrubEnd (s : State) (k : Fin 16) : State :=
  let t := s.freezeScrubEnd k
  if (s.ctx k).phase = .freezing ∧ (t.ctx k).phase ≠ .freezing then t.rotateThaw k else t

def execFreezeScrubEnd (slot : Fin 16) (s : State) : Host.Outcome State Fault Refusal := .next (s.scrubEnd slot)

/-- RESTORE_END. -/
def execRestoreEnd (slot : Fin 16) (image : FreezeImageRef) (s : State) : Host.Outcome State Fault Refusal := .next (s.restoreEnd slot image)

end Sys2Proof.Machine
end

