-- ==== Sys2Proof/Machine/Poll.lean ====
section
/-! DEFINITION. The sluice poll (R40 step 1, R380, R446–R451): which slots are taken, how a payload is read, and how a taken
submission acts at the tick start after its taking. -/

namespace Sys2Proof

/-! ### Slots (R446, R450) -/

def SlotImage.owner (q : SlotImage) : Nat := Machine.bits q.word0.toNat 7 0
def SlotImage.kind (q : SlotImage) : Nat := Machine.bits q.word0.toNat 15 8
def SlotImage.length (q : SlotImage) : Nat := Machine.bits q.word0.toNat 31 16
def SlotImage.cxid (q : SlotImage) : Nat := Machine.bits q.word0.toNat 47 32
def SlotImage.timed (q : SlotImage) : Bool := q.word0.getLsbD 48
def SlotImage.hdr (q : SlotImage) : SubHdr := { slot := q.slot, cxid := q.cxid, tag := q.tag }

/-- Length and reserved bits of the first word and of bytes 22–63. -/
def SlotImage.formatOk (q : SlotImage) : Bool := decide (q.length ≤ 960) && Machine.bits q.word0.toNat 63 49 == 0 && q.restZero

end Sys2Proof

namespace Sys2Proof.Machine

/-! ### Payloads (R451) -/

/-- Whether a payload reaches a length. -/
def longEnough (n len : Nat) : Bool := decide (n ≤ len)

/-- A payload read as its kind gives it: none for an unknown kind, `inr none` for a wrong length or reserved field. Bytes that R451 leaves
unnamed (import 12–15, leave 5–7, set_flag 5) are not tested (DESIGN CHOICE, log entry 144). -/
def decodeSub (kind len : Nat) (b : Bytes) : Option (Option Sub) :=
  let p := b.take len
  let need (n : Nat) (ok : Bool) (x : Sub) : Option (Option Sub) := some (if longEnough n len && ok then some x else none)
  match kind with
  | 1 => need 352 (zeroField p 20 12) (.load
      { imageAddr := field p 0 8, imageLength := field p 8 8, mode := field p 16 1, rota := field p 17 1, cmid := field p 18 2 % 2 ^ 15
        multiMember := bit (field p 18 2) 15, wrappedKey := slice p 32 320 })
  | 2 => need 16 true (.manifest (field p 0 8) (field p 8 8))
  | 3 => need 17 (field p 16 1 < 2) (.freeze (field p 0 8) (field p 8 8) (bit (field p 16 1) 0))
  | 4 => need 16 true (.thaw
      { imageAddr := field p 0 8, imageLength := field p 8 8, graphAddr := field p 16 8, graphLength := field p 24 8, wrappedKey := (p.drop 32).take 320 })
  | 5 => need 0 true .teardown
  | 6 => need 5 true (.cancel (field p 0 5))
  | 7 => need 14 (field p 8 1 < 2 && field p 9 1 < 2) (.join
      { globalId := field p 0 4, maxTokens := field p 4 4, be := field p 8 1 == 1, imported := field p 9 1 == 1, deadline := field p 10 2
        group := field p 12 2 })
  | 8 => need 24 (field p 4 1 < 2) (.leave
      { globalId := field p 0 4, export_ := bit (field p 4 1) 0, hostBase := field p 8 8, stride := field p 16 8 })
  | 9 => need 24 true (.importSeq { globalId := field p 0 4, maxTokens := field p 4 4, tokens := field p 8 4, hostAddr := field p 16 8 })
  | 10 => need 8 true (.appendCount (field p 0 4) (field p 4 4))
  | 11 => need 12 true (.setFlag (field p 0 5) (field p 6 2) (BitVec.ofNat 32 (field p 8 4)))
  | 12 => need 0 true .runRecord
  | 13 => need 16 true (.fwUpdate (field p 0 8) (field p 8 8))
  | 14 => need 4 true (.step (field p 0 2) (field p 2 2))
  | _ => none

/-! ### The poll (R448) -/

/-- What a poll finds of a slot's take tick: ahead, passed, or neither (R380, R448). -/
inductive TakeTime where
  | now
  | ahead
  | passed
  deriving DecidableEq, Repr, Inhabited

def State.takeTime (s : State) (q : SlotImage) : TakeTime :=
  if !q.timed then .now
  else match s.findCxid q.cxid with
    | none => .now
    | some k =>
      let c := s.ctx k
      if !c.launched || decide (c.tick < q.takeTick) then .ahead else if q.takeTick = c.tick then .now else .passed

/-- The context tick of taking (R380). -/
def State.tickOf (s : State) (cxid : Nat) : Nat := match s.findCxid cxid with | some k => (s.ctx k).tick | none => 0

/-- Puska gives the slot back: bytes 0–7 with owner 0 and every other byte zero (R448). -/
def State.giveBack (s : State) (q : SlotImage) : State :=
  { s with
    mem := s.mem.writeBytes (s.cfg.window + 0x1000 + q.slot.val * 1024) (zeros 8)
    sluice := { s.sluice with takenCount := wrap 32 (s.sluice.takenCount + 1) } }

/-- A refusal of a taken slot, recorded at the next tick start; a kind that names no context of the die, or a load, which holds no slot
yet, has a die record (R455). -/
def State.refuseSlot (s : State) (q : SlotImage) (reason : Nat) : State :=
  let named := !([1, 2, 13] : List Nat).contains q.kind
  s.pushRec
    { kind := 1, reason := reason, cxid := q.cxid, ctx := if named then s.findCxid q.cxid else none, slot := q.slot.val, tag := q.tag
      taken := if named then s.tickOf q.cxid else 0, subKind := q.kind, due := s.nextTick, detail := if q.kind = 1 then .loadSlot 0xFF else .none }

/-- One slot of the poll: a slot whose take tick lies ahead stays as it is, every other one is taken, and refused where it is malformed or
late (R448, R380). -/
def State.pollSlot (s : State) (q : SlotImage) : State :=
  if q.owner = 0 then s
  else
    let s := if q.owner = 1 then { s with sluice := { s.sluice with ownerSeen := s.sluice.ownerSeen ||| (1#16 <<< q.slot.val) } } else s
    if q.owner ≠ 1 then (s.giveBack q).refuseSlot q 1
    else
      let time := s.takeTime q
      if time = .ahead then { s with sluice := { s.sluice with ahead := s.sluice.ahead ++ [q.cxid] } }
      else match decodeSub q.kind q.length q.payload with
        | none => (s.giveBack q).refuseSlot q 1
        | some x =>
          if !q.formatOk then (s.giveBack q).refuseSlot q 2
          else if time = .passed then (s.giveBack q).refuseSlot q 4
          else match x with
            | none => (s.giveBack q).refuseSlot q 2
            | some sub =>
              let s := s.giveBack q
              { s with sluice := { s.sluice with taken := s.sluice.taken ++ [{ hdr := q.hdr, sub := sub, tick := s.tickOf q.cxid, payload := q.payload.take q.length }] } }

/-- The poll of slots 0 to 15 (R448): from READY on, but not while the die is fenced (R464). -/
def State.poll (s : State) (slots : List SlotImage) : State :=
  if !s.boot.ready || s.safety.fenced then s
  else
    let s := { s with sluice := { s.sluice with ownerSeen := 0, ahead := [], gtcPoll := s.time.gtc % 2 ^ 48 } }
    (slots.mergeSort fun a b => a.slot.val ≤ b.slot.val).foldl (·.pollSlot ·) s

/-! ### Taken submissions act (R40, R448, R451) -/

/-- The bytes Puska read at an address a payload names. -/
def blobAt (blobs : List (Nat × Bytes)) (addr length : Nat) : Bytes := slice (((blobs.find? fun b => b.1 == addr).map (·.2)).getD []) 0 length

/-- A submission taken at the previous tick start acts; the record of a refusal is due now. -/
def State.act (s : State) (blobs : List (Nat × Bytes)) (x : Taken) : State :=
  let now := s.time.localTick
  let fenced := s.safety.fenced
  match x.sub with
  | .load r => if fenced then s.fencedRefusal x.hdr x.sub now else s.takeLoad x.hdr r now
  | .manifest a n => if fenced then s.fencedRefusal x.hdr x.sub now else s.takeManifest x.hdr (blobAt blobs a n) now
  | .thaw r => if fenced then s.fencedRefusal x.hdr x.sub now else s.takeAnyThaw x.hdr r x.tick now
  | .fwUpdate a n => s.takeFirmware x.hdr (blobAt blobs a n) now
  | sub => s.accept x.hdr sub x.payload x.tick now

/-- Every submission the previous poll took, in slot order. -/
def State.acts (s : State) (blobs : List (Nat × Bytes)) : State :=
  s.sluice.taken.foldl (·.act blobs ·) { s with sluice := { s.sluice with taken := [] } }

end Sys2Proof.Machine
end

