-- ==== Sys2Proof/Machine/Governor.lean ====
section
/-! DEFINITION. The governor's temperature and current-limit checks (R146–R148, R394), the comparator self-test (R392), lane changes (R71)
and the steward's sensor log (R406). Temperatures are in 0.1 °C (R398, code 0x83). -/

namespace Sys2Proof.Machine

/-! ### Temperature (R146, R147, R394) -/

/-- The comparison with temp_high and temp_low at a tick start. -/
def State.thermalCheck (s : State) (tenths : Nat) : State :=
  let g := s.gov
  let hot := decide (tenths ≥ s.cfg.tempHigh * 10)
  let cold := decide (tenths < s.cfg.tempLow * 10)
  let g' := { g with
    maxTemp := min 255 (tenths / 10), hotRun := if hot then sat 16 (g.hotRun + 1) else 0
    hotAtFloor := if hot && g.fraction == 4 then g.hotAtFloor + 1 else 0
    coldRun := if cold then g.coldRun + 1 else 0, fraction := if hot then max 4 (g.fraction - 2) else g.fraction }
  let s := { s with gov := g' }
  let s := if g'.fraction < g.fraction then s.raise 0x18 1 else s
  let rising := b2n (decide (g'.coldRun ≥ 64))
  if g'.fraction + rising < 16 then s.live.foldl (fun s k => s.modCtx k fun c => (c.count 7).cause 3) s else s

/-- Ticks at whose every start decision ILIMIT was asserted (R394). -/
def Governor.endTick (g : Governor) : Governor :=
  { g with ilimitRun := if g.ilimitAll && g.ilimitAny then g.ilimitRun + 1 else 0, ilimitAll := true, ilimitAny := false }

/-- THERMAL_FRACTION_RISE: 64 consecutive tick starts below temp_low (R146). -/
def State.fractionRise (s : State) : State :=
  let g := s.gov
  if g.coldRun < 64 then s
  else
    let f := min 16 (g.fraction + 1)
    let s := { s with gov := { g with fraction := f, coldRun := g.coldRun - 64 } }
    if g.fraction < 16 ∧ f = 16 then s.raise 0x18 2 else s

def execThermalFractionRise (s : State) : Host.Outcome State Fault Refusal := .next s.fractionRise

/-- THERMAL_EXCURSION (R394). -/
def State.thermalExcursion (s : State) (tenths : Nat) : State :=
  if tenths ≥ s.cfg.tempCritical * 10 ∨ s.gov.hotAtFloor ≥ s.cfg.hotTicks then s.fence 0x83 tenths s.gov.fraction else s

def execThermalExcursion (tenths : Nat) (s : State) : Host.Outcome State Fault Refusal := .next (s.thermalExcursion tenths)

/-- CURRENT_LIMIT_PERSIST (R394). -/
def State.currentLimitPersist (s : State) : State := if s.gov.ilimitRun ≥ s.cfg.ilimitTicks then s.fence 0x84 s.gov.ilimitRun 0 else s

def execCurrentLimitPersist (s : State) : Host.Outcome State Fault Refusal := .next s.currentLimitPersist

/-! ### Calibration (R69, R71, R392) -/

/-- The comparator self-test of a calibration tick. -/
def State.selfTest (s : State) (ok : Bool) : State :=
  if s.calibrationTick then
    let s := { s with safety := { s.safety with selfTestPass := ok, selfTestGtc := s.time.localTick } }
    if ok then s else s.fence 0x82 Config.spareCounter 0
  else s

/-- One port's new lane count takes effect; every context of the die that has launched counts it (R71, R383). -/
def State.laneChange (s : State) (p n : Nat) : State :=
  if s.time.lanes.getD p 0 = n then s
  else
    let s := { s with time := { s.time with
      lanes := s.time.lanes.set p n, lastChangePort := p, lastChangeLanes := n, lastChangeGtc := s.time.localTick } }
    let s := (allSlots.filter fun k => (s.ctx k).launched && (s.ctx k).phase != .empty).foldl (fun s k =>
      s.modCtx k fun c => { c with laneChanges := wrap 32 (c.laneChanges + 1) }) s
    (s.live.foldl (fun s k => s.modCtx k (·.cause 5)) s).raise 0x3C 0

/-- The lane counts of a calibration take effect in the tick after it. -/
def State.laneChanges (s : State) : State :=
  match s.time.nextLanes with
  | none => s
  | some ns =>
    (List.range 5).foldl (fun s p => s.laneChange p (ns.getD p 0)) { s with time := { s.time with nextLanes := none, lanesBefore := s.time.lanes, lanesAc := some s.time.ac } }

/-! ### The steward's sensor log (R406) -/

/-- A temperature entry for a block at or above temp_high, at most once per 64 ticks per block. -/
def State.logHot (s : State) (b : Nat × Nat) : State :=
  let now := s.time.localTick
  if b.2 < s.cfg.tempHigh * 10 then s
  else if s.steward.tempLogged.any fun p => p.1 == b.1 && decide (now < p.2 + 64) then s
  else
    ({ s with steward := { s.steward with tempLogged := (b.1, now) :: s.steward.tempLogged.filter fun p => p.1 != b.1 } }).log 0x04 1
      (Config.logPayload 0x04 [0, b.1, b.2])

/-- The sensor entries and, every 65,536 ticks, the corrected-error summary. -/
def State.sensorLog (s : State) (blocks lagging : List (Nat × Nat)) : State :=
  if s.steward.state = 0 then s
  else
    let s := blocks.foldl (·.logHot ·) s
    let s := lagging.foldl (fun s m => s.log 0x04 1 (Config.logPayload 0x04 [1, m.1, m.2])) s
    if s.steward.summaryTick + 65536 ≤ s.time.localTick then
      let counts := (List.range 19).map fun i => wrap 32 (s.safety.corrected.getD i 0 + 2 ^ 32 - s.steward.summaryCounts.getD i 0)
      ({ s with steward := { s.steward with summaryTick := s.time.localTick, summaryCounts := s.safety.corrected } }).log 0x05 0
        (Config.logPayload 0x05 counts)
    else s

end Sys2Proof.Machine
end

