-- ==== Sys2Proof/Machine/WaitGraph.lean ====
section
/-! DEFINITION. Hang analysis (R181, R407, R439–R442): the waits in force in a context, their graph with its cycles, and the commands
STILL_WATER, WAIT_FOR_GRAPH and WATCHDOG_TEARDOWN_LIMIT. -/

namespace Sys2Proof.Machine

/-- One edge of a wait-for graph (R440, R441), with the ordering key of its waiter and the mark that sets the wait apart. -/
structure WaitEdge where
  waiter : Nat := 0
  holder : Nat := 0
  kind : Nat := 0
  waiterCore : Nat := 0xFF
  holderCore : Nat := 0xFF
  inCycle : Bool := false
  isInstance : Bool := false
  unknown : Bool := false
  notices : Bool := false
  object : Nat := 0
  value : Nat := 0
  target : Nat := 0
  since : Nat := 0
  key : Nat := 0
  mark : Nat := 0
  deriving DecidableEq, Repr, Inhabited

/-! ### The waits of R441 -/

/-- The sender of the earliest held notice for a counter. -/
def State.noticeFor (s : State) (k : Fin 16) (vid : Nat) : Option Nat :=
  let mine := s.horizon.filter fun h => h.slot == k && (match h.body with
    | .ripple v _ => v == vid
    | .landing l => l.increment != 0 && l.vid == vid
    | _ => false)
  ((mine.mergeSort fun a b => a.order ≤ b.order).head?).map (·.hdr.sender)

/-- A wait on a counter (kind 0x01). -/
def State.counterEdge (s : State) (k : Fin 16) (e : WaitEdge) (vid target : Nat) : WaitEdge :=
  let e := { e with kind := 1, object := vid, value := (s.ctx k).counterValue vid, target := target }
  match s.noticeFor k vid with
  | some a => { e with holder := a, isInstance := true, notices := true }
  | none => { e with unknown := true }

/-- An edge held by a task, if one is known. -/
def State.heldBy (s : State) (e : WaitEdge) (t : Option (Task × Nat)) : WaitEdge :=
  match t with
  | some (t, core) => { e with holder := t.name (s.ctx t.slot).cxid, holderCore := core }
  | none => { e with unknown := true }

/-- The inlet weir a context's writers wait at: occupancy and low weir (R149, R309). -/
def State.inletWeirOf (s : State) (k : Fin 16) : Nat × Nat :=
  if s.inletStalled then (s.inletWords, 5120)
  else if (s.ctx k).be then (((allSlots.filter fun j => (s.ctx j).be).map s.inletHeld).sum, 3 * s.beInletPool / 4)
  else (s.inletHeld k, 3 * (s.catch_ (s.ctx k).catchment).inletQuota / 4)

/-- The horizon weir a context's senders wait at. -/
def State.horizonWeirOf (s : State) (k : Fin 16) : Nat × Nat :=
  if s.horizonStalled then (((allSlots.map s.horizonHeld)).sum, 3328)
  else if (s.ctx k).be then (((allSlots.filter fun j => (s.ctx j).be).map s.horizonHeld).sum, 3 * s.beHorizonPool / 4)
  else (s.horizonHeld k, 3 * (s.catch_ (s.ctx k).catchment).horizonQuota / 4)

/-- The end slot of the task in service on a core, in context slots. -/
def State.endSlotOf (s : State) (k : Fin 16) (e : PondEntry) : Nat :=
  (s.ctx k).tick * s.cfg.slotsPerTick + s.time.slot + e.slotsLeft

/-- Waits of the task in service on a core, and of the pond entry behind it. -/
def State.coreEdges (s : State) (k : Fin 16) (l : Nat) : List WaitEdge :=
  let q := s.core (lcidOf l)
  let c := s.ctx k
  match q.serving with
  | none => []
  | some e =>
    if e.task.slot ≠ k then []
    else
      let b : WaitEdge := { waiter := e.task.name c.cxid, waiterCore := l, key := e.task.key }
      let cnt := match q.cntWait with
        | some w => if w.reached.isNone then [s.counterEdge k { b with mark := w.at_ } w.vid w.target] else []
        | none => []
      let snd := match q.sendWait with
        | some w => match c.ring? w.ring with
          | some r =>
            [s.heldBy { b with kind := 2, object := w.ring, value := r.size - r.room, target := w.units * 64, mark := w.at_ }
              ((s.serving (lcidOf r.decl.receiver)).map fun t => (t, r.decl.receiver))]
          | none => []
        | none => []
      let rcv := match q.recvWait with
        | some w => [{ b with kind := 3, object := w.rings.headD 0, unknown := true, mark := w.since }]
        | none => []
      let inl := if q.inletWait.isEmpty then [] else
        let w := s.inletWeirOf k
        [{ b with kind := 9, object := 1, value := w.1, target := w.2, unknown := true, mark := q.inletCount }]
      let cfl := if !q.offers.isEmpty && (s.unit (s.unitOf l)).localStalled then
          [{ b with kind := 9, object := 2, value := (s.unit (s.unitOf l)).localPart.length, target := 1536, unknown := true, mark := q.accepted }]
        else []
      let held := (([0, 1] : List Nat).zip [q.e0, q.e1]) ++ ((c.parked.filter fun p => p.1 == l).map fun p => (b2n p.2.1, p.2.2))
      let behind := (held.filter fun p => p.2.unstarted && p.2.task.slot == k).map fun p =>
        s.heldBy { waiter := p.2.task.name c.cxid, waiterCore := l, key := p.2.task.key, kind := 4, object := p.1
                   target := s.endSlotOf k e, mark := p.2.order } (some (e.task, l))
      cnt ++ snd ++ rcv ++ inl ++ cfl ++ behind

/-- Waits of the blocked threads of a context. -/
def State.threadEdges (s : State) (k : Fin 16) : List WaitEdge :=
  let c := s.ctx k
  allFrames.filterMap fun p =>
    let v := s.frame p.1 p.2
    let b : WaitEdge := { waiter := v.task.name c.cxid, waiterCore := 0x80 + p.1.val, key := v.task.key, mark := v.since }
    if v.task.slot ≠ k then none
    else match v.state with
      | .onCounter vid target => some (s.counterEdge k b vid target)
      | .onFlags mask _ =>
        let f := ((c.run? v.task.step).map fun r => (r.inst v.task.node).flags.toNat).getD 0
        some { b with kind := 8, object := mask.toNat, value := f, unknown := true }
      | _ => none

/-- The task that holds a flow of a context, with its core. -/
def State.flowHolder (s : State) (k : Fin 16) (f : Nat) : Option (Task × Nat) :=
  let ponds := allCores.flatMap fun l => ([(s.core l).e0, (s.core l).e1].filter fun e => e.holds k && e.task.flow == some f).map fun e => (e.task, l.val)
  let frames := (allFrames.filter fun p => let v := s.frame p.1 p.2; v.state != .free && v.task.slot == k && v.task.flow == some f).map fun p =>
    ((s.frame p.1 p.2).task, 0x80 + p.1.val)
  (ponds ++ frames).head?

/-- The staging task of a block, if Puska has made it. -/
def State.stagingTask (s : State) (k : Fin 16) (step n i : Nat) : Option (Task × Nat) :=
  let is (t : Task) : Bool := t.slot == k && t.step == step && t.service == .staging n i
  let ponds := allCores.flatMap fun l => ([(s.core l).e0, (s.core l).e1].filter fun e => e.state != .free && is e.task).map fun e => (e.task, l.val)
  let aux := ((s.ctx k).aux.filter fun a => is a.task).map fun a => (a.task, 0xFF)
  (ponds ++ aux).head?

/-- The lowest incomplete node of a step whose list decrements a node. -/
def decrementer (c : Ctx) (r : StepRun) (n : Nat) : Option Nat :=
  (List.range r.insts.length).find? fun m =>
    (r.inst m).state != .complete && (succOf c.image (c.node r.template m)).any fun e => e.target == n && e.decrement && !e.nextStep

/-- A wait for a ready-pool entry (R129). -/
def State.poolEdge (s : State) (k : Fin 16) (e : WaitEdge) (n : Nat) : WaitEdge :=
  { e with kind := 0x0B, object := n, value := (s.ctx k).occupancy, target := 448, unknown := true, mark := (s.ctx k).began.pool }

/-- Waits of a dump or service task that is not placed: for the node whose output it reads, or for a ready-pool entry. -/
def State.auxEdges (s : State) (k : Fin 16) (a : Aux) : List WaitEdge :=
  let c := s.ctx k
  let t := a.task
  let b : WaitEdge := { waiter := t.name c.cxid, key := t.key }
  match a.after with
  | some n => [{ b with kind := 7, object := t.node, value := 1, holder := packName c.cxid t.step t.template n 0 }]
  | none => if a.ready && !a.pooled && c.poolStalled then [s.poolEdge k b t.node] else []

/-- Waits of one node instance: each fan-out index that is not placed waits for its block and for its flow. -/
def State.nodeEdges (s : State) (k : Fin 16) (r : StepRun) (n : Nat) : List WaitEdge :=
  let c := s.ctx k
  let i := r.inst n
  let d := c.node r.template n
  let at_ (f : Nat) : WaitEdge := { waiter := packName c.cxid r.step r.template n f, key := (c.nodeTask k r n i.count f).key }
  let b := at_ 0
  let watch := match i.watch with | some v => [s.counterEdge k { b with mark := i.armedAt } d.watchCounter v] | none => []
  let state :=
    if i.state = .waiting then
      let deps := if i.deps = 0 then [] else
        let e : WaitEdge := { b with kind := 7, object := n, value := i.deps }
        match decrementer c r n with
        | some m => [{ e with holder := packName c.cxid r.step r.template m 0 }]
        | none => [{ e with unknown := true }]
      let flags := if waitHolds d.waitAny d.waitMask i.flags then [] else
        [{ b with kind := 8, object := d.waitMask.toNat, value := i.flags.toNat, unknown := true }]
      let pool := if i.eligible d && c.poolStalled then [s.poolEdge k b n] else []
      deps ++ flags ++ pool
    else if i.pooled then
      i.unplaced.flatMap fun x =>
        let stage := if d.fanoutSource = 7 ∧ c.blockStaged r.step n x = false then
            let bytes := ((c.ledger.stages.find? fun g => g.step == r.step && g.node == n && g.index == x).map (·.bytes)).getD 0
            [s.heldBy { at_ x with kind := 0x0A, object := NodeP.region d, value := bytes } (s.stagingTask k r.step n x)]
          else []
        let flow := match (c.nodeTask k r n i.count x).flow with
          | some f =>
            let h := s.flowHolder k f
            if c.flowsHeld.contains f then
              [s.heldBy { at_ x with kind := 6, object := f, mark := (h.map fun t => t.1.name c.cxid).getD 0 } h]
            else []
          | none => []
        stage ++ flow
    else []
  watch ++ state

/-- Waits of the context as a whole: seals, credits and the step barrier. -/
def State.contextEdges (s : State) (k : Fin 16) : List WaitEdge :=
  let c := s.ctx k
  let b : WaitEdge := { waiter := packName c.cxid 0 0 0 0 }
  let need := c.tick + 1 - c.horizon
  let last (xs : List Nat) : Nat := xs.foldl max 0
  let seals := if !c.held then [] else
    (c.partners.flatMap fun p => ([0, 1] : List Nat).filterMap fun vc =>
      let got := last ((c.seals.filter fun q => q.1 == p && q.2.1 == vc).map (·.2.2))
      let has := c.seals.any fun q => q.1 == p && q.2.1 == vc && decide (q.2.2 ≥ need)
      if has then none else some { b with kind := 5, holder := p, isInstance := true, object := vc, value := got, target := need, mark := need }) ++
    (s.controlSenders k).filterMap fun p =>
      let got := last ((c.controlSeals.filter fun q => q.1 == p).map (·.2))
      if c.controlSeals.any fun q => q.1 == p && decide (q.2 ≥ need) then none
      else some { b with kind := 5, holder := p, isInstance := true, object := 2, value := got, target := need, mark := need }
  let credits := if s.creditWait k then
      let w := s.horizonWeirOf k
      [{ b with kind := 9, object := 3, value := w.1, target := w.2, unknown := true, mark := c.began.credits }]
    else []
  let newest := (c.steps.map (·.step)).foldl max 0
  let barrier :=
    if c.deferring then [{ b with kind := 0x0C, object := 1, value := newest, target := c.nextStep, unknown := true, mark := c.nextStep }]
    else if c.steps.length < c.image.stepsInFlight then
      let e : WaitEdge := { b with kind := 0x0C, object := 0, value := newest, target := c.nextStep, mark := c.nextStep }
      (if c.multiMember ∧ c.headwater = false then [{ e with holder := s.headwaterAddr k, isInstance := true }] else [{ e with unknown := true }])
    else []
  seals ++ credits ++ barrier

/-- Every wait of a context in force. -/
def State.waitEdges (s : State) (k : Fin 16) : List WaitEdge :=
  let c := s.ctx k
  let nodes := (c.steps.filter fun r => !r.cancelled).flatMap fun r => (List.range r.insts.length).flatMap (s.nodeEdges k r ·)
  let all := c.cores.flatMap (s.coreEdges k ·) ++ s.threadEdges k ++ nodes ++ c.aux.flatMap (s.auxEdges k ·) ++ s.contextEdges k
  all.map fun e =>
    let m := c.waits.find? fun w => w.waiter == e.waiter && w.kind == e.kind && w.object == e.object && w.mark == e.mark
    { e with since := (m.map (·.since)).getD c.tick }

/-! ### Cycles and order (R442) -/

/-- Whether following holder to waiter from a name reaches another. -/
def leads (es : List WaitEdge) (goal : Nat) : Nat → Nat → Bool
  | 0, _ => false
  | n + 1, x => es.any fun e => e.waiter == x && !e.isInstance && !e.unknown && (e.holder == goal || leads es goal n e.holder)

/-- Marks the edges that lie on a cycle. -/
def markCycles (es : List WaitEdge) : List WaitEdge :=
  es.map fun e => { e with inCycle := !e.isInstance && !e.unknown && (e.holder == e.waiter || leads es e.waiter es.length e.holder) }

/-- The edges of a cycle from a waiter on, in holder order. -/
def walkCycle : Nat → List WaitEdge → Nat → List WaitEdge
  | 0, _, _ => []
  | n + 1, es, x => match es.find? fun e => e.waiter == x with
    | none => []
    | some e => e :: walkCycle n (es.erase e) e.holder

/-- Cycle after cycle, each from its waiter with the lowest key. -/
def cycleOrder : Nat → List WaitEdge → List WaitEdge
  | 0, es => es
  | n + 1, es => match (es.mergeSort fun a b => a.key ≤ b.key).head? with
    | none => []
    | some e =>
      let run := walkCycle es.length es e.waiter
      run ++ cycleOrder n (es.filter fun x => !run.contains x)

/-- The graph of R442: cycle edges, then the others by waiter key and kind; at most 256. -/
def orderEdges (es : List WaitEdge) : List WaitEdge × Bool × Bool :=
  let es := markCycles es
  let cyc := es.filter (·.inCycle)
  let rest := (es.filter (!·.inCycle)).mergeSort fun a b => a.key < b.key || (a.key == b.key && a.kind ≤ b.kind)
  let all := cycleOrder cyc.length cyc ++ rest
  (all.take 256, decide (all.length > 256), !cyc.isEmpty)

/-- The 56 bytes of an edge (R440). -/
def WaitEdge.bytes (e : WaitEdge) : Bytes :=
  leBytes 16 e.waiter ++ leBytes 16 (if e.unknown then 0 else e.holder) ++ leBytes 1 e.kind ++ leBytes 1 e.waiterCore ++ leBytes 1 e.holderCore
    ++ leBytes 1 (b2n e.inCycle + 2 * b2n e.isInstance + 4 * b2n e.unknown + 8 * b2n e.notices) ++ leBytes 4 e.object ++ leBytes 6 e.value
    ++ leBytes 6 e.target ++ leBytes 4 e.since

/-- The payloads of a graph's log entries (R440). -/
def State.graphPayloads (s : State) (k : Fin 16) (serial : Nat) : List Bytes :=
  let c := s.ctx k
  let (es, cut, cyc) := orderEdges (s.waitEdges k)
  let parts := max 1 (ceilDiv es.length 4)
  (List.range parts).map fun i =>
    leBytes 4 serial ++ leBytes 2 c.cxid ++ leBytes 1 i ++ leBytes 1 parts ++ leBytes 2 es.length ++ leBytes 1 (b2n cut + 2 * b2n cyc)
      ++ zeros 1 ++ leBytes 4 c.tick ++ (((es.drop (4 * i)).take 4).map (·.bytes)).flatten

/-! ### The waits noted at a tick start -/

/-- Notes the waits in force as a tick ends, for the ticks at which they began. -/
def State.noteWaits (s : State) (k : Fin 16) : State :=
  let c := s.ctx k
  if c.phase = .running ∧ c.launched ∧ c.halted = false ∧ c.steps ≠ [] then
    let ms : List WaitMark := (s.waitEdges k).map fun e => { waiter := e.waiter, kind := e.kind, object := e.object, mark := e.mark, since := e.since }
    s.setCtx k { c with waits := ms }
  else s

/-! ### The watchdog (R181, R407, R439) -/

/-- STILL_WATER: the watchdog of a context fires at a tick start, and its waits are read. -/
def State.stillWater (s : State) (k : Fin 16) : State :=
  let c := s.ctx k
  if !s.atTickStart || c.phase != .running || !c.launched || c.halted || c.fault.isSome || c.firedTick.isSome
      || decide (c.stillCount < c.inForce.stillTicks) then s
  else
    let serial := s.steward.graphSerial + 1
    let s := s.setCtx k { c with firedTick := some s.time.localTick, graph := s.graphPayloads k serial }
    let s := { s with steward := { s.steward with graphSerial := serial } }
    ((s.raise (ctxPage k) 3).trigger k 3 0 0xFFFF 0xFFFF).signalOut 4

def execStillWater (slot : Fin 16) (s : State) : Host.Outcome State Fault Refusal := .next (s.stillWater slot)

/-- The teardown of a context whose watchdog has fired. -/
def State.stillFault (s : State) (k : Fin 16) (seq : Nat) : State := s.faultCode k 0x0E (s.ctx k).inForce.stillTicks seq

/-- WAIT_FOR_GRAPH: the steward posts the graph, and the context is torn down. -/
def State.waitForGraph (s : State) (k : Fin 16) : State :=
  let c := s.ctx k
  if c.graph.isEmpty || s.steward.state == 0 then s
  else
    let seq := s.steward.nextSeq % 2 ^ 32
    let s := c.graph.foldl (fun s b => s.log 0x09 2 b) s
    let s := s.modCtx k fun c => { c with graph := [], graphSeq := seq }
    if c.fault.isNone then s.stillFault k seq else s

def execWaitForGraph (slot : Fin 16) (s : State) : Host.Outcome State Fault Refusal := .next (s.waitForGraph slot)

/-- WATCHDOG_TEARDOWN_LIMIT: 64 ticks after the firing the context is torn down without a graph (R407). -/
def State.watchdogLimit (s : State) (k : Fin 16) : State :=
  let c := s.ctx k
  match c.firedTick with
  | some t => if c.fault.isNone ∧ t + 64 ≤ s.time.localTick then s.stillFault k 0 else s
  | none => s

def execWatchdogTeardownLimit (slot : Fin 16) (s : State) : Host.Outcome State Fault Refusal := .next (s.watchdogLimit slot)

end Sys2Proof.Machine
end

