-- ==== Sys2Proof/Machine/Tick.lean ====
section
/-! DEFINITION. TICK_START (R40, R43–R45, R58, R115, R180, R317, R334, R448, R458): the start of a local tick, in the order of its work. -/

namespace Sys2Proof.Machine

/-! ### Where a tick may begin (R43, R45) -/

/-- The state at the end of the tick in progress, where the next local tick begins with the ac that follows; none elsewhere. The ends of
slot N − 1 are taken in a margin of no length where the next tick begins at once. -/
def State.tickReady (s : State) (b : BoundaryIn) : Option State :=
  if !s.time.running then none
  else if !s.time.tickRunning then some s.runOut.gtcUp
  else if s.time.inMargin then some (s.runOut.boundaryIn b).gtcUp
  else if s.inLastSlot && s.slotCloses then
    let u := s.endLast b
    if u.time.noMargin then
      some (State.endAll { u with time := { u.time with ref := u.time.nextRef - 1, stretch := [], inMargin := true, offset := 0 } })
    else none
  else if s.time.resync then
    let u := (s.runOut.boundaryIn b).gtcUp
    if u.time.atBoundary then some u else none
  else none

/-- The ac that begins a local tick: its number, its lag and the lag event (R43–R45). A margin whose last cycle is stretched over the
GTC boundary is no lag. -/
def State.beginTick (s : State) (stretch : List Nat) : State :=
  let fresh := !s.time.tickRunning
  let free := fresh || s.time.jumps
  let k := if free then s.time.gtc else s.time.localTick + 1
  let lag := if free then 0 else s.time.ref + 1 - s.time.boundaryOf s.tickLength k
  let s := s.newSlot 0 false stretch
  let t := s.time
  let s := { s with
    time := { t with
      localTick := k, slotCount := t.slotCount + 1, lag := lag, lagTicks := wrap 32 (t.lagTicks + b2n (lag != 0))
      stretchedTick := lag != 0 || stretch.contains 0, jumping := false, resync := false
      closing := if fresh then none else some s.time.localTick }
    steward := if fresh then { s.steward with lastHeartbeat := k, summaryTick := k } else s.steward }
  let s := s.gapDue
  if lag = 0 then s else (s.live.foldl (fun s j => s.modCtx j fun c => (c.count 5).cause 2) s).raise 0x02 0

/-! ### Counts of the tick just ended -/

/-- Progress and the still count (R179, R180). The count stands still while the context is Freezing, Frozen or Thawing (DEDUCED, log entry
134). -/
def Ctx.countStill (c : Ctx) : Ctx :=
  let still :=
    if c.phase == .running && c.launched && !c.halted && !c.steps.isEmpty then (if c.progress then 0 else sat 20 (c.stillCount + 1)) else c.stillCount
  { c with stillCount := still, progress := false }

/-- The interference gauge (R317). -/
def Ctx.gauge (c : Ctx) (inlet horizon : Bool) : Ctx :=
  if c.be && (inlet || horizon) then c.modStats fun t => { t with igaugeTicks := t.igaugeTicks + 1, igaugeCause := if horizon then 2 else 1 } else c

/-- The controls in force from this tick start (R466), and the counts of the tick just ended. -/
def State.tickCounts (s : State) : State :=
  let moved := allSlots.filter fun k => (s.ctx k).progress
  let s := moved.foldl (fun s k => let e := (s.ctx k).catchment; s.setCatch e { s.catch_ e with stagnant := false }) s
  let s := { s with
    ctxs := s.ctxs.map fun (c : Ctx) => { c.countStill with inForce := c.controls }
    catches := s.catches.map fun (q : Catch) => { q with autoNow := q.autoEn, rotateNow := q.rotateTicks } }
  let s := allSlots.foldl (fun s k => s.modCtx k (·.gauge (s.beInletDelay.getLsbD k.val) (s.beHorizonDelay.getLsbD k.val))) s
  let s := { s with beInletDelay := 0, beHorizonDelay := 0 }
  allSlots.foldl (fun s e => match s.residentOf e with
    | some k => if (s.catch_ e).valid then s.setCatch e { s.catch_ e with blocked := s.blockedHere k } else s
    | none => s) s

/-- The end of a calibration tick (R69, R477). -/
def State.calibrationEnd (s : State) (was : Bool) : State :=
  if was then ({ s with time := { s.time with calDone := wrap 16 (s.time.calDone + 1) } }).raise 0x3C 1 else s

/-- What the die's own units do first: lanes, governor, self-test, sensor log (R71, R146, R392, R394, R406). -/
def State.dieChecks (s : State) (t : TickIn) : State :=
  let s := (s.laneChanges).thermalCheck t.temperature
  let s := { s with gov := s.gov.endTick }
  (s.selfTest t.selfTestOk).sensorLog t.blocks t.lagging

/-! ### Launches, shutdowns and enables (R60, R332, R334, R348, R500, R501) -/

/-- The final run record of a context, where it is not formed yet: it is formed from the context, before the slot is Empty (R382). -/
def State.formFinal (s : State) (k : Fin 16) : State :=
  let formed (r : Rec) : Rec := if r.ctx = some k ∧ r.kind = 9 ∧ r.payload = [] then { r with payload := s.runBytes k r.runFinal } else r
  { s with sluice := { s.sluice with due := s.sluice.due.map formed } }

/-- Step 4 of R334: the records of a context whose scrub has ended, and the Empty slot. -/
def State.finishTeardown (s : State) (k : Fin 16) : State :=
  let c := s.ctx k
  match c.scrubEnd with
  | none => s
  | some e =>
    if c.phase ≠ .tearingDown ∨ s.time.slotCount < e then s
    else
      let s := (if c.released then s else s.release k).formFinal k
      let now := s.time.localTick
      let code := (c.fault.map (·.code)).getD 1
      let (s, r) := s.formRec { kind := 8, cxid := c.cxid, ctx := some k, due := now, fault := some (c.fault.getD { code := 1 }) }
      let t : Rec := { kind := 0x0A, cxid := c.cxid, ctx := some k, due := now, detail := .teardown code }
      let t := match c.teardownSub with
        | some w => { t with slot := w.hdr.slot.val, tag := w.hdr.tag, taken := w.taken, subKind := 5 }
        | none => t
      ((s.pushRec r).pushRec t).emptySlot k

/-- An enable that waited for an Empty slot (R332), refused while the die is fenced (R395). -/
def State.enableNow (s : State) (k : Fin 16) : State :=
  let c := s.ctx k
  match c.enablePending with
  | none => s
  | some w =>
    if c.phase ≠ .empty then s
    else if s.safety.fenced then (s.setCtx k { c with enablePending := none }).fencedRefusal w.hdr w.sub s.nextTick
    else s.takePending k

/-- Launch messages, decisions and aborts, then the contexts that end and those that launch at this tick start. -/
def State.lives (s : State) : State :=
  let s := allSlots.foldl (fun s e => ((s.launchEffects e).launchDecision e).launchAbort e) s
  let s := (allSlots.foldl (·.finishTeardown ·) s).teardowns
  let s := allSlots.foldl (·.rotaLaunch ·) s
  allSlots.foldl (fun s k => if s.launchNow k then s.launch k else s) s

/-- A context that thaws and whose restore has not begun. -/
def State.thawBegins (s : State) (k : Fin 16) : State :=
  let c := s.ctx k
  if c.phase = .thawing ∧ c.freezeStage = .none ∧ c.multiMember = false ∧ c.fault.isNone ∧ (c.thawReleased = false ∨ c.loadDone = true) then
    s.restoreBegin k
  else s

/-- A resume that was written on the headwater's page is taken (R438): the resume tick is the next die tick, or t + H + 1 on every
member. -/
def State.takeResume (s : State) (k : Fin 16) : State :=
  let c := s.ctx k
  let now := s.time.localTick
  if !c.resumeTaken || c.phase != .running || !c.halted then s
  else
    let s := s.setCtx k { c with resumeTaken := false }
    if c.multiMember then s.sendAll k (.resume (now + c.horizon + 1)) else s.modCtx k fun c => { c with resumeGtc := some (now + 1) }

/-- The context ticks that begin at this die tick start, in ascending context slot (R58, R64, R330, R438). -/
def State.beginTicks (s : State) : State × List (Fin 16) :=
  let s := allSlots.foldl (fun s k => (s.resumeThaw k).takeResume k) s
  let (s, begun) := allSlots.foldl (fun (acc : State × List (Fin 16)) k =>
    let (t, b) := acc.1.advanceCtx k
    (t, if b then acc.2 ++ [k] else acc.2)) (s, [])
  let s := allSlots.foldl (fun s k => (s.freezePending k).thawBegins k) s
  (begun.foldl (·.lockCompare ·) s, begun)

/-! ### The sluice (R40 step 1, R152, R458, R459) -/

/-- The poll, and the records due at this tick start. -/
def State.sluiceWork (s : State) (t : TickIn) : State :=
  let s := s.poll t.slots
  let s := { s with steward := { s.steward with areaTail := t.logTail % 2 ^ 32 }, ctxs := s.ctxs.map Ctx.resumeSteps }
  let s := if s.boot.ready then s.writeRecords t.completionTail else if s.boot.configured then s.writeWindow else s
  let s := allSlots.foldl (·.enableNow ·) s
  allSlots.foldl (·.deferSteps ·) s

/-! ### Steps 2 and 3 of R40 -/

/-- Notices due at the context ticks that have begun. -/
def State.notices (s : State) (begun : List (Fin 16)) : State :=
  begun.foldl (fun s k => if (s.ctx k).runs then s.applyNotices k (s.ctx k).tick else s) s

/-- Control messages, submissions and the headwater's step starts of one context. -/
def State.stepWork (s : State) (k : Fin 16) : State :=
  if (s.ctx k).runs then ((((s.exhaust k).submissionsDue k).pace k).importsDue k).leaveOutcomes k else s

/-- TICK_START. -/
def State.tickStart (s : State) (t : TickIn) : State :=
  match s.tickReady t.boundary with
  | none => s
  | some s =>
    let was := s.time.tickRunning && s.calibrationTick
    let s := allSlots.foldl (·.noteWaits ·) s
    let s := ((s.beginTick t.boundary.stretched).pageBoundary.pageDisables.tickCounts).calibrationEnd was
    let ended := s.time.closing
    let s := State.dieChecks { s with time := { s.time with closing := none } } t
    let s := { s with time := { s.time with closing := ended } }
    let s := (allSlots.foldl (fun s k => (s.commitCheck k).releaseCheck k) s).horizonWeirs
    let s := allSlots.foldl (·.takeSeals ·) (s.acts t.blobs)
    let s := allSlots.foldl (·.endTick ·) s
    let s := State.lives { s with time := { s.time with closing := none } }
    let (s, begun) := s.beginTicks
    let s := (s.threadEnds.sluiceWork t).extActions
    let s := s.notices begun
    let s := allSlots.foldl (·.controlDue ·) s
    let s := (allSlots.foldl (·.stepWork ·) s).seedDelays
    s.startSlot

def execTickStart (t : TickIn) (s : State) : Host.Outcome State Fault Refusal := .next (s.tickStart t)

end Sys2Proof.Machine
end

