-- ==== Sys2Proof/Machine/Movers.lean ====
section
/-! DEFINITION. What movers report (R30–R34, R166, R291, R511, R512), and the idle beat and headwater loss of R353. -/

namespace Sys2Proof.Machine

/-! ### Mover entries (R31) -/

/-- A move entry with valid fields (R31, R34): `b` is its 32 bytes. Length is a multiple of 64 from 64 to 0xFFFF_FFC0. -/
def entryOk (b : Bytes) : Bool :=
  let len := field b 16 4
  let flags := field b 23 1
  let notify := bit flags 1
  len % 64 == 0 && decide (len ≥ 64) && decide (flags < 8) && zeroField b 28 4
    && (if notify then decide (field b 20 3 < 2 ^ 20) && field b 24 4 != 0 else zeroField b 20 3 && zeroField b 24 4)

/-- A header with valid fields (R30, R34): `b` is its 16 bytes. -/
def moverHeaderOk (b : Bytes) : Bool :=
  decide (1 ≤ field b 0 2 ∧ field b 0 2 ≤ 255) && field b 2 1 != 3 && decide (field b 2 1 < 4) && zeroField b 3 1 && zeroField b 6 10

/-- The entry of an index in an argument block. -/
def moveEntryAt (block : Bytes) (i : Nat) : Bytes := slice block (16 + 32 * i) 32

/-- The name the header of an argument block has in detail2, where an entry has its index (R34; log entry 136). -/
def headerName : Nat := 0xFFFF

/-- The first invalid field of an argument block: none, the header, or the first invalid entry (R34). -/
def moverBlockBad (block : Bytes) : Option Nat :=
  if !moverHeaderOk (slice block 0 16) then some headerName
  else (List.range (field block 0 2)).find? fun i => !entryOk (moveEntryAt block i)

/-- The entry that the mover of an entry executes before it: DMV0 takes the even entries and DMV1 the odd ones where both movers run,
and one mover takes them all otherwise (R30, R32, R512). -/
def entryBefore (block : Bytes) (i : Nat) : Option Nat :=
  let step := if field block 2 1 = 0 then 2 else 1
  if i < step then none else some (i - step)

/-- Whether an entry is the next of its mover. -/
def nextOfMover (block : Bytes) (moved : List Nat) (i : Nat) : Bool :=
  decide (i < field block 0 2) && !moved.contains i && (entryBefore block i).all moved.contains

/-- The argument block of a mover service task: Puska's own for the tasks it builds (R233, R290, R435), otherwise as the routine read
it, which stands from its first report on. -/
def State.moverBlock (s : State) (l : Fin 64) (t : Task) (block : Bytes) : Bytes :=
  match t.service with
  | .node => (s.core l).moverBlock.getD block
  | _ =>
    let es := (s.ctx t.slot).serviceEntries t
    moverHeader es.length t.epoch ++ es.flatten

/-- The page a crc_check entry names (R291). -/
def State.checkedPage (s : State) (t : Task) (index source : Nat) : Option Page :=
  let l := (s.ctx t.slot).ledger
  match s.crcPage t index with
  | some (q, p) => (l.seq? q).bind fun sq => sq.pages.find? fun x => x.page == p && x.address == source
  | none => (l.seqs.flatMap (·.pages)).find? fun x => x.address == source

/-- The increment of a completed entry: effective 8 ac later (R166). -/
def State.moverNotify (s : State) (l : Fin 64) (t : Task) (vid n : Nat) : State :=
  { s with cntOps := s.cntOps ++
      [{ lcid := l.val, slot := t.slot, vid := vid, kind := .inc n, due := some (s.time.ac + 8), epoch := t.epoch }] }

/-- Whether a task is a mover service task: a node of that kind, or one that Puska created. -/
def Task.moves (t : Task) : Bool := t.kind == .mover || t.service != .node

/-- What a mover's report of entry `i` of a valid block does: an undeclared counter or a CRC mismatch ends the task with engine fault, and
the mover moves nothing more; otherwise the entry is done and its increment is on its way (R32, R34, R291, R511). -/
def State.entryDone (s : State) (l : Fin 64) (t : Task) (i : Nat) (crc : BitVec 16) (b : Bytes) : State :=
  let vid := field b 20 3
  let notify := bit (field b 23 1) 1
  let check := bit (field b 23 1) 2
  let bad := match s.checkedPage t i (field b 0 8) with | some x => x.crcValid && x.crc != crc | none => false
  if notify && (vid == 0xFFFFF || ((s.ctx t.slot).counter? vid).isNone) then s.engineFault l 0xFF i
  else if check && bad then s.engineFault l 0xFF i
  else
    let s := s.modCore l fun c => { c with moved := c.moved ++ [i], crc := some crc }
    if notify then s.moverNotify l t vid (field b 24 4) else s

/-- MOVER_ENTRY_COMPLETE. The header and every entry are checked before any byte moves: a task with an invalid field issues no increment
and ends with engine fault (R34). A mover executes its own entries in index order, so that a report of any other entry than its next is
none of an entry completed and has no effect (R32, R512). -/
def State.moverEntryComplete (s : State) (l : Fin 64) (i : Nat) (crc : BitVec 16) (block : Bytes) : State :=
  match s.issues l with
  | none => s
  | some t =>
    if !t.moves then s
    else
      let block := s.moverBlock l t block
      match moverBlockBad block with
      | some bad => s.engineFault l 0xFF bad
      | none =>
        if nextOfMover block (s.core l).moved i then
          (s.modCore l fun c => { c with moverBlock := some block }).entryDone l t i crc (moveEntryAt block i)
        else s

def execMoverEntryComplete (lcid : Fin 64) (index : Nat) (crc : BitVec 16) (block : Bytes) (s : State) : Host.Outcome State Fault Refusal :=
  .next (s.moverEntryComplete lcid index crc block)

/-! ### Idle beats (R353) -/

/-- Context tick of the last control message to a member. -/
def Headwater.sentAt (h : Headwater) (member : Nat) : Nat := ((h.lastSent.find? fun p => p.1 == member).map (·.2)).getD 0

/-- IDLE_BEAT_SEND. -/
def State.idleBeatSend (s : State) (k : Fin 16) (member : Nat) : State :=
  let c := s.ctx k
  if !s.atTickStart || !c.runs || !c.multiMember || !c.headwater || decide (c.tick < c.hw.sentAt member + 128) then s
  else match (s.members k).find? fun p => p.1 == member with
    | some p => (s.sendCtrl k p.2 .idleBeat).modCtx k fun c => c.sentTo member
    | none => s

def execIdleBeatSend (slot : Fin 16) (member : Nat) (s : State) : Host.Outcome State Fault Refusal := .next (s.idleBeatSend slot member)

/-- HEADWATER_LOSS. -/
def State.headwaterLoss (s : State) (k : Fin 16) : State :=
  let c := s.ctx k
  if c.runs && c.multiMember && !c.headwater && decide (c.lastControl + 256 ≤ c.tick) then s.faultCode k 0x1C (c.tick - c.lastControl) 0 else s

def execHeadwaterLoss (slot : Fin 16) (s : State) : Host.Outcome State Fault Refusal := .next (s.headwaterLoss slot)

end Sys2Proof.Machine
end

