-- ==== Sys2Proof/Machine/Observe.lean ====
section
/-! DEFINITION. What cores report for observation (R189, R418, R424–R430): markers, program-counter samples, command records. -/

namespace Sys2Proof.Machine

/-- TRACE_MARK (R428), behind a stalled SEND where there is one (R194). -/
def State.traceMark (s : State) (l : Fin 64) (value : Nat) (trigger : Bool) : State :=
  match s.issues l with
  | none => s
  | some t => if (s.core l).laneStalled then s.laneWaits l (.mark value trigger) else s.performMark l t value trigger

def execTraceMark (lcid : Fin 64) (value : BitVec 32) (trigger : Bool) (s : State) : Host.Outcome State Fault Refusal :=
  .next (s.traceMark lcid value.toNat trigger)

/-- INVALID_COMMAND (R189): a command code the command lane does not have ends the task with engine fault. -/
def execInvalidCommand (lcid : Fin 64) (code : BitVec 4) (s : State) : Host.Outcome State Fault Refusal :=
  .next (match s.issues lcid with
    | some _ => s.engineFault lcid code.toNat 0
    | none => s)

/-! ### Program-counter samples (R425) -/

/-- The task whose layer and operator a core's sample carries. -/
def State.sampledTask (s : State) (x : CoreSample) : Option Task :=
  if x.control then
    let c := Fin.ofNat 8 x.core
    (s.runningFrame c).map fun f => (s.frame c f).task
  else s.serving (lcidOf x.core)

/-- A sample record. -/
def sampleBytes (stamp : Nat) (x : CoreSample) (t : Option Task) : Bytes :=
  let pc := if t.isNone then 0xFFFFF else min x.pc 0xFFFFF
  let stall := if t.isNone then 1 else x.stall % 8
  leBytes 8 stamp ++ leBytes 8 (b2n x.control * 4 + x.core % 64 * 8 + stall * 2 ^ 9 + pc * 2 ^ 12
    + ((t.map (·.layer)).getD 0xFFFF) % 2 ^ 16 * 2 ^ 32 + ((t.map (·.operatorId)).getD 0xFFFF) % 2 ^ 16 * 2 ^ 48)

/-- Place of a core's samples among records of one stamp (R418). -/
def CoreSample.order (x : CoreSample) : Nat := if x.control then 128 + 2 * x.core else 2 * x.core

/-- Whether a core belongs to a context on this die. -/
def Ctx.hasCore (c : Ctx) (x : CoreSample) : Bool := if x.control then x.core < 8 && c.ctids.getLsbD x.core else x.core < 64 && c.lcids.getLsbD x.core

/-- PC_SAMPLE: at a sample count that is a multiple of 2^sample_log2, one record for each core of the catchment. -/
def State.pcSample (s : State) (k : Fin 16) (xs : List CoreSample) : State :=
  let c := s.ctx k
  let n := 2 ^ bits c.trace.effective.toNat 6 2
  if c.runs && c.trace.effective.getLsbD 0 && c.trace.samples % n == 0 then
    (xs.filter fun x => c.hasCore x).foldl (fun s x => s.modCtx k (·.capture s.stamp (CoreSample.order x) false (sampleBytes s.stamp x (s.sampledTask x)))) s
  else s

def execPcSample (slot : Fin 16) (samples : List CoreSample) (s : State) : Host.Outcome State Fault Refusal := .next (s.pcSample slot samples)

/-! ### Command records (R426, R429, R430) -/

def Engine.code : Engine → Nat
  | .mxe => 0
  | .vxe => 1
  | .dmv0 => 2
  | .dmv1 => 3

/-- The value a sounding selector latches; the core reports sources 2 to 6, in the place of their selector. -/
def State.sounding (s : State) (k : Fin 16) (l : Fin 64) (e : PondEntry) (latched : List Nat) (j : Nat) : Nat :=
  let sel := (s.ctx k).trace.selEffective.getD j 0
  let q := s.core l
  match bits sel 3 0 with
  | 1 => s.time.ac - e.startAc
  | 7 => q.inletCount
  | 8 => q.pairCount
  | 9 => (s.ctx k).counterValue (bits sel 23 4)
  | _ => latched.getD j 0

/-- The sounding units behind a command record: the values of the selectors in use, four to a unit. -/
def State.soundings (s : State) (k : Fin 16) (l : Fin 64) (e : PondEntry) (latched : List Nat) : Bytes :=
  let used := (List.range 8).filter fun j => bits ((s.ctx k).trace.selEffective.getD j 0) 3 0 != 0
  let vs := used.map fun j => leBytes 6 (s.sounding k l e latched j) ++ zeros 2
  vs.flatten ++ zeros ((ceilDiv used.length 4 * 4 - used.length) * 8)

/-- A command record. -/
def commandBytes (stamp type number opcode : Nat) (l : Fin 64) (e : Engine) (t : Task) (units : Bytes) : Bytes :=
  leBytes 8 stamp ++ leBytes 1 type ++ leBytes 1 (Engine.code e) ++ leBytes 1 l.val ++ zeros 1 ++ leBytes 2 t.layer ++ leBytes 2 t.operatorId
    ++ leBytes 4 number ++ leBytes 4 opcode ++ leBytes 2 t.node ++ leBytes 2 t.fanout ++ leBytes 2 (t.template % 1024)
    ++ leBytes 1 (units.length / 32) ++ zeros 1 ++ units

/-- The counters the soundings of a context read (R429). -/
def Ctx.soundedCounters (c : Ctx) : List Nat :=
  (c.trace.selEffective.filter fun sel => bits sel 3 0 == 9).map fun sel => bits sel 23 4

/-- Offers a command record of the task in service on a core; a counter it samples is read, so its copies are compared (R162). -/
def State.commandRecord (s : State) (l : Fin 64) (p : PondEntry) (type number opcode : Nat) (e : Engine) (latched : List Nat) : State :=
  let k := p.task.slot
  if (s.ctx k).trace.effective.getLsbD 1 then
    let s := s.compareCopies k (s.ctx k).soundedCounters
    let b := commandBytes s.stamp type number opcode l e p.task (s.soundings k l p latched)
    s.modCtx k (·.capture s.stamp (2 * l.val + 1) false b)
  else s

/-- CMD_BEGIN: an engine accepts a command of the task in service. -/
def State.cmdBegin (s : State) (l : Fin 64) (e : Engine) (opcode : Nat) (latched : List Nat) : State :=
  match (s.core l).serving with
  | none => s
  | some p =>
    if p.windowClosed then s
    else
      let n := (s.core l).commands
      let s := s.commandRecord l p 0x01 n opcode e latched
      s.modCore l fun q => { q with commands := q.commands + 1, engines := q.engines ++ [(e, n)] }

/-- CMD_END: an engine completes the oldest command it holds. -/
def State.cmdEnd (s : State) (l : Fin 64) (e : Engine) (opcode : Nat) (latched : List Nat) : State :=
  match (s.core l).serving, (s.core l).engines.find? fun x => x.1 == e with
  | some p, some x =>
    let s := s.commandRecord l p 0x05 x.2 opcode e latched
    s.modCore l fun q => { q with engines := q.engines.erase x }
  | _, _ => s

def execCmdBegin (lcid : Fin 64) (engine : Engine) (opcode : BitVec 32) (latched : List Nat) (s : State) : Host.Outcome State Fault Refusal :=
  .next (s.cmdBegin lcid engine opcode.toNat latched)

def execCmdEnd (lcid : Fin 64) (engine : Engine) (opcode : BitVec 32) (latched : List Nat) (s : State) : Host.Outcome State Fault Refusal :=
  .next (s.cmdEnd lcid engine opcode.toNat latched)

end Sys2Proof.Machine
end

