-- ==== Sys2Proof/Machine/Startup.lean ====
section
/-! DEFINITION. Start-up (R343, R399, R400, R460–R463) and the clearing of a fence (R396, R464). -/

namespace Sys2Proof

/-! ### The ranges of the configuration image (R38, R45, R53, R68, R73, R143, R394, R409, R443, R460) -/

/-- Whether a core map gives every populated LCID its canonical core or the spare of that core's cluster, no core twice, and so none that
the disabled-unit map lists (R18, R20, R375; DEDUCED, log entry 143); an image that gives none takes the canonical map. -/
def coreMapOk (disabled map : List Nat) : Bool :=
  let canon := Machine.canonicalMap disabled
  map.isEmpty ||
    (map.length == canon.length && map.eraseDups.length == map.length && (canon.zip map).all fun x =>
      x.2 == x.1 || (decide (x.2 < 72) && x.2 / 9 == x.1 / 9 && !disabled.contains x.2 && !canon.contains x.2))

/-- Whether a range lies in external memory of the die's package (R460). -/
def ConfigImage.holds (c : ConfigImage) (address length : Nat) : Bool :=
  c.tray.any fun p => p.package == c.instanceAddr / 8 && decide (p.base ≤ address ∧ address + length ≤ p.base + p.size)

/-- Whether every field lies in its range. -/
def ConfigImage.inRange (c : ConfigImage) : Bool :=
  [2, 4, 8, 16, 32, 64].contains c.slotsPerTick
    && decide (64 ≤ c.tickMargin ∧ c.tickMargin ≤ 4096 ∧ c.tickMargin % 64 = 0)
    && decide (1 ≤ c.lagLimit ∧ c.lagLimit ≤ 8) && decide (c.gtcStart < 2 ^ 48)
    && (match c.beaconParent with | some p => decide (p < 5) | none => true)
    && decide (c.beaconExp ≤ 8) && decide (12 ≤ c.calLog2 ∧ c.calLog2 ≤ 20) && decide (c.calPhase < 2 ^ c.calLog2)
    && decide (256 ≤ c.dieBudget ∧ c.dieBudget ≤ 1023) && decide (1 ≤ c.hotTicks ∧ c.hotTicks ≤ 65535)
    && decide (1 ≤ c.ilimitTicks ∧ c.ilimitTicks ≤ 65535) && c.latencyClass.all (fun x => decide (x ≤ 3))
    && decide (c.logLog2 ≤ 8) && decide (c.window % 2 ^ 16 = 0) && decide (c.completionLog2 ≤ 6) && decide (c.logAreaLog2 ≤ 8)
    && c.holds c.window (0x8000 + 2 ^ 16 * 2 ^ c.completionLog2 + 2 ^ 16 * 2 ^ c.logAreaLog2) && c.holds c.logAddr (2 ^ 16 * 2 ^ c.logLog2)
    && c.disabled.all (fun p => decide (p < 72)) && (Machine.canonicalMap c.disabled).length == (if c.grade56 then 56 else 64) && coreMapOk c.disabled c.coreMap && Machine.validInstance c.instanceAddr
    && decide (1 ≤ c.syncSpacing ∧ c.syncSpacing ≤ 65535) && decide (1 ≤ c.xtrigSpacing ∧ c.xtrigSpacing ≤ 65535)

end Sys2Proof

namespace Sys2Proof.Machine

/-! ### Reset (R461) -/

/-- The die after a reset: everything of the die as at reset; external memory keeps its bytes and the commands still wait. It stands for a
power-up too (DESIGN CHOICE, log entry 159). -/
def State.dieReset (s : State) : State := { State.reset with pending := s.pending, mem := s.mem, images := s.images }

def execDieReset (s : State) : Host.Outcome State Fault Refusal := .next s.dieReset

/-! ### Stages 1 to 3 (R461) -/

/-- The image is refused: the die stays OFF with the code in PAGE_ERR of page 0x01 (R476). -/
def State.refuseImage (s : State) (code detail : Nat) : State :=
  ({ s with boot := { s.boot with failed := true } }).pageError 0x01 code detail

/-- Stage 1 passed: this die's sections are kept, with the canonical core map where the image gives none (R460), and page 0x38 is ON (R473, R507). -/
def State.keepImage (s : State) (c : ConfigImage) : State :=
  let cfg : Word := BitVec.ofNat 64 (c.syncSpacing % 2 ^ 16 + c.xtrigSpacing % 2 ^ 16 * 2 ^ 16)
  let c := { c with coreMap := if c.coreMap.isEmpty then canonicalMap c.disabled else c.coreMap }
  { s with config := some c, ext := { s.ext with cfg := cfg, cfgEffective := cfg }, extRun := .on }

/-- Stage 3: the window with state starting, every slot's word 0 zero, both heads zero and the header's reserved bytes zero (R10, R444). -/
def State.initWindow (s : State) : State :=
  let b := s.cfg.window
  let m := (List.range 16).foldl (fun (m : Memory) k => m.writeBytes (b + 0x1000 + k * 1024) (zeros 8)) (s.mem.writeBytes (b + 112) (zeros 3984))
  ({ s with
    mem := m
    sluice := { s.sluice with head := 0, windowState := 0 }
    steward := { s.steward with areaHead := 0 } } : State).writeWindow

/-- Stage 2: the steward starts on the image's firmware. -/
def State.startSteward (s : State) : State :=
  { s with
    boot := { s.boot with configured := true }
    steward := { s.steward with state := 1, running := s.cfg.firmware, lastHeartbeat := s.time.localTick } }

/-- CONFIG_IMAGE: the checks of stages 1 and 2 in order, then stage 3. -/
def State.configImage (s : State) (c : ConfigImage) (malformed : Option Nat) (signatureOk chainOk : Bool) (rangeOffset : Nat)
    (firmwareRefusal : Option Nat) : State :=
  if s.config.isSome || s.boot.failed then s
  else match malformed with
    | some off => s.refuseImage 0x10 off
    | none =>
      if !signatureOk then s.refuseImage 0x11 0
      else if !chainOk then s.refuseImage 0x12 0
      else if !c.inRange then s.refuseImage 0x13 rangeOffset
      else match firmwareRefusal with
        | some r => (s.keepImage c).refuseImage 0x14 r
        | none => (s.keepImage c).startSteward.initWindow

def execConfigImage (c : ConfigImage) (malformed : Option Nat) (signatureOk chainOk : Bool) (rangeOffset : Nat)
    (firmwareRefusal : Option Nat) (s : State) : Host.Outcome State Fault Refusal :=
  .next (s.configImage c malformed signatureOk chainOk rangeOffset firmwareRefusal)

/-! ### Stages 4 and 5 -/

/-- The first failure of a self-test: its fault code and details (R388, R391, R392). -/
def State.selfTestFault (s : State) (railsOk comparatorsOk : Bool) (secdedBad : Option (Nat × Nat)) : Option (Nat × Nat × Nat) :=
  if !railsOk then some (0x80, s.time.slot, (Config.compareVector s.time.ac).toNat)
  else if !comparatorsOk then some (0x82, Config.spareCounter, 0)
  else secdedBad.map fun b => (0x81, b.1, b.2)

/-- SELF_TEST_DONE. -/
def State.selfTestDone (s : State) (railsOk comparatorsOk : Bool) (secdedBad : Option (Nat × Nat)) : State :=
  if !s.boot.configured || s.boot.selfTest || s.safety.fenced then s
  else match s.selfTestFault railsOk comparatorsOk secdedBad with
    | none => { s with boot := { s.boot with selfTest := true } }
    | some (code, d1, d2) => (s.fence code d1 d2).writeWindow

def execSelfTestDone (railsOk comparatorsOk : Bool) (secdedBad : Option (Nat × Nat)) (s : State) : Host.Outcome State Fault Refusal :=
  .next (s.selfTestDone railsOk comparatorsOk secdedBad)

/-- SRAM_SCRUB_DONE. -/
def State.sramScrubDone (s : State) (bad : Option (Nat × Nat)) : State :=
  if !s.boot.selfTest || s.boot.scrub || s.safety.fenced then s
  else match bad with
    | none => { s with boot := { s.boot with scrub := true } }
    | some (i, e) => (s.fence 0x81 i e).writeWindow

def execSramScrubDone (bad : Option (Nat × Nat)) (s : State) : Host.Outcome State Fault Refusal := .next (s.sramScrubDone bad)

/-! ### Stage 6 (R399, R400) -/

/-- The private key derived from the corrected PUF value. -/
def instanceKey (k : BitVec 256) : Nat := beNat (hmac384 (leBytes 32 k.toNat) (ascii "PUSKA instance v1")) % (p384N - 1) + 1

/-- A key failure: page 0x01 in FAULT, the window fenced, the event logged. -/
def State.keyFailure (s : State) : State :=
  let s := { s with boot := { s.boot with key := some false }, sluice := { s.sluice with windowState := 2 } }
  ((s.log 0x07 2 (Config.logPayload 0x07 [0])).raise 0x04 4).writeWindow

/-- The key pair is kept where its public point is the certificate's (R400). -/
def State.takeKey (s : State) (d : Nat) (public_ : Option (Nat × Nat)) : State :=
  match public_ with
  | none => s.keyFailure
  | some (x, y) =>
    if x ≠ s.cfg.certX ∨ y ≠ s.cfg.certY then s.keyFailure
    else { s with
      boot := { s.boot with key := some true }
      steward := { s.steward with keyOk := true, privateKey := d, publicX := x, publicY := y } }

/-- KEY_DERIVATION. -/
def State.keyDerivation (s : State) (puf : Option (BitVec 256)) : State :=
  if !s.boot.scrub || s.boot.key.isSome || s.safety.fenced then s
  else match puf with
    | none => s.keyFailure
    | some k => s.takeKey (instanceKey k) (pointMul 384 (instanceKey k) (some p384G))

def execKeyDerivation (puf : Option (BitVec 256)) (s : State) : Host.Outcome State Fault Refusal := .next (s.keyDerivation puf)

/-! ### Stages 7 and 8 (R343, R461, R462) -/

/-- Five values, one for each port. -/
def ports5 (xs : List Nat) (d : Nat) : List Nat := (List.range 5).map fun p => xs.getD p d

/-- TOPOLOGY_REPORT: the far ends, the link delays and the trained lanes, which count from the next tick start where ticks run (R343, R509). -/
def State.topologyReport (s : State) (far delays lanes : List Nat) : State :=
  if !s.boot.configured || s.boot.topology then s
  else
    { s with
      boot := { s.boot with topology := true }
      time := { s.time with
        far := ports5 far 0xFFFFFFFF, linkDelay := ports5 delays 0
        nextLanes := if s.time.tickRunning then some (ports5 lanes 0) else s.time.nextLanes
        lanes := if s.time.tickRunning then s.time.lanes else ports5 lanes 0 } }

def execTopologyReport (far delays lanes : List Nat) (s : State) : Host.Outcome State Fault Refusal :=
  .next (s.topologyReport far delays lanes)

/-- Whether stages 1 to 7 have ended and the GTC is aligned; a stuck SYNC_PULSE_IN holds the die in stage 7 (R462). -/
def State.mayReady (s : State) : Bool :=
  s.boot.configured && s.boot.selfTest && s.boot.scrub && s.boot.key == some true && s.boot.topology && s.time.aligned
    && !s.ext.sync.stuck && !s.boot.ready && !s.safety.fenced

/-- The GTC of the tick in progress (R483). -/
def State.tickGtc (s : State) : Nat := if s.time.tickRunning then s.time.localTick else s.time.gtc

/-- READY. -/
def State.goReady (s : State) : State :=
  if s.mayReady then
    let s := { s with
      boot := { s.boot with ready := true, readyGtc := s.tickGtc }
      sluice := { s.sluice with windowState := 1 }
      obs := { s.obs with run := if s.obsEnable then .on else .off } }
    (s.raise 0x01 0).writeWindow
  else s

def execReady (s : State) : Host.Outcome State Fault Refusal := .next s.goReady

/-! ### Clearing a fence (R396, R464, R504) -/

/-- FENCE_CLEAR, served: stages 4 and 5 run again. -/
def State.clearFence (s : State) (p : Priv) : State :=
  if p = .tenant then s.accessError 0x34 0x02 p 0x040
  else if !s.safety.fenced then s.accessError 0x34 0x05 p 0x040
  else if s.safety.powerOnly || s.boot.key == some false then s
  else { s with boot := { s.boot with clearing := true } }

/-- FENCE_CLEAR. -/
def State.fenceClear (s : State) (p : Priv) : State := (s.serve 0x34).clearFence p

def execFenceClear (p : Priv) (s : State) : Host.Outcome State Fault Refusal := .next (s.fenceClear p)

/-- Whether a context on the die owns a core. -/
def State.owned (s : State) (l : Nat) : Bool := s.ctxs.toList.any fun c => c.phase != .empty && c.lcids.getLsbD l

/-- The fence ends: the SRAMs hold zero, cores that no context owns run again, and the die goes on where start-up stood. -/
def State.unfence (s : State) : State :=
  let free := allCores.filter fun l => !s.owned l.val
  let s := { s with
    boot := { s.boot with clearing := false, selfTest := true, scrub := true }
    safety := { s.safety with fenced := false, timeFault := false }
    sluice := { s.sluice with windowState := if s.boot.ready then 1 else 0 }
    horizon := [], packets := [], cntOps := [], chanOps := [], writes := [] }
  let s := free.foldl (fun s l => s.modCore l fun c => { c with halted := false, boundaryReached := false, drained := false }) s
  let s := s.inletWeirs.horizonWeirs
  (if s.boot.ready then ({ s with boot := { s.boot with readyGtc := s.tickGtc } } : State).raise 0x01 0 else s).writeWindow

/-- The fence stays: a further die fault record with the same code. -/
def State.stayFenced (s : State) (powerOnly : Bool) : State :=
  let s := { s with boot := { s.boot with clearing := false }, safety := { s.safety with powerOnly := s.safety.powerOnly || powerOnly } }
  let f : FaultInfo := { code := s.safety.fenceCode, scope := 2, stamp := s.stamp, fenced := true, detail1 := s.safety.fenceDetail1, detail2 := s.safety.fenceDetail2 }
  s.pushRec { kind := 8, due := s.nextTick, fault := some f }

/-- FENCE_CLEAR_DONE. -/
def State.fenceClearDone (s : State) (railsOk comparatorsOk : Bool) (secdedBad bad : Option (Nat × Nat)) (stewardStoreOk : Bool) : State :=
  if !s.boot.clearing then s
  else if railsOk && comparatorsOk && secdedBad.isNone && bad.isNone && stewardStoreOk then s.unfence
  else s.stayFenced (!stewardStoreOk)

def execFenceClearDone (railsOk comparatorsOk : Bool) (secdedBad bad : Option (Nat × Nat)) (stewardStoreOk : Bool) (s : State) :
    Host.Outcome State Fault Refusal :=
  .next (s.fenceClearDone railsOk comparatorsOk secdedBad bad stewardStoreOk)

end Sys2Proof.Machine
end

