-- ==== Sys2Proof/Machine/Timing.lean ====
section
/-! DEFINITION. Time and the board inputs (R41, R47, R51–R57, R71–R77, R346, R462, R507, R508): edges, the start of the GTC, clock
restarts, beacons, retraining results and port changes. -/

namespace Sys2Proof.Machine

/-! ### Edges of the board inputs (R72–R76, R508) -/

/-- What an edge on an input is: ignored as chatter, or counted (R73). -/
def ExtIn.chatters (x : ExtIn) (ac spacing : Nat) : Bool :=
  match x.lastEdge with
  | some p => decide (ac < p + spacing * 256)
  | none => false

/-- An accepted edge, counted or not: the input has been active for 8 ac (R72). -/
def ExtIn.edge (x : ExtIn) (s : State) (counted : Bool) : ExtIn :=
  let x := { x with level := true, seen := true, since := s.time.ref, raw := true, rawAt := s.time.ac - 8 }
  if counted then { x with lastEdge := some s.time.ac, lastStamp := s.stamp } else { x with chatter := wrap 16 (x.chatter + 1) }

/-- A counted edge starts the GTC 1,024 reference cycles later, if sync_arm was set before its ac (R52, R484). -/
def State.armedStart (s : State) : State :=
  let t := s.time
  if s.boot.configured && t.syncArm && !t.running && t.startAt.isNone && decide (t.armedAc < t.ac) then
    { s with time := { t with startAt := some (t.ref + 1024) } }
  else s

/-- SYNC_EDGE. -/
def State.syncEdge (s : State) : State :=
  if s.extRun ≠ .on ∨ s.ext.sync.stuck then s
  else if s.ext.sync.chatters s.time.ac (bits s.ext.cfgEffective.toNat 15 0) then
    ({ s with ext := { s.ext with sync := s.ext.sync.edge s false } }).raise 0x38 6
  else (({ s with ext := { s.ext with sync := s.ext.sync.edge s true } }).raise 0x38 0).armedStart

def execSyncEdge (s : State) : Host.Outcome State Fault Refusal := .next s.syncEdge

/-- What a counted XTRIG_IN edge asks for at the next slot boundary (R76). -/
def ExtUnit.ask (e : ExtUnit) : ExtUnit :=
  match bits e.cfgEffective.toNat 33 32 with
  | 1 => { e with tracePending := true }
  | 2 => { e with haltPending := some (bits e.cfgEffective.toNat 47 36) }
  | _ => e

/-- XTRIG_EDGE. -/
def State.xtrigEdge (s : State) : State :=
  if s.extRun ≠ .on ∨ s.ext.xtrig.stuck then s
  else if s.ext.xtrig.chatters s.time.ac (bits s.ext.cfgEffective.toNat 31 16) then
    ({ s with ext := { s.ext with xtrig := s.ext.xtrig.edge s false } }).raise 0x38 6
  else
    let e := { s.ext with xtrig := s.ext.xtrig.edge s true }
    (({ s with ext := e.ask }).raise 0x38 1).signalOut 5

def execXtrigEdge (s : State) : Host.Outcome State Fault Refusal := .next s.xtrigEdge

/-! ### Stuck inputs (R74) -/

/-- An input of the pair. -/
def ExtUnit.input (e : ExtUnit) : ExtInput → ExtIn
  | .syncPulse => e.sync
  | .xtrig => e.xtrig

def ExtUnit.setInput (e : ExtUnit) (i : ExtInput) (x : ExtIn) : ExtUnit :=
  match i with
  | .syncPulse => { e with sync := x }
  | .xtrig => { e with xtrig := x }

/-- Event bit of an input's stuck event; the stuck-clear event is the next bit (R477). -/
def stuckBit : ExtInput → Nat
  | .syncPulse => 2
  | .xtrig => 4

/-- INPUT_STUCK: active for more than 16 tick lengths of reference cycles; an input never seen since reset may have been held active
through it (R74). -/
def State.inputStuck (s : State) (i : ExtInput) : State :=
  let x := s.ext.input i
  if s.extRun = .on ∧ x.stuck = false ∧ (x.level ∨ !x.seen) ∧ s.time.ref > x.since + 16 * s.tickLength then
    ({ s with ext := s.ext.setInput i { x with stuck := true, level := true, seen := true, raw := true } }).raise 0x38 (stuckBit i)
  else s

def execInputStuck (i : ExtInput) (s : State) : Host.Outcome State Fault Refusal := .next (s.inputStuck i)

/-- INPUT_STUCK_CLEAR: the input deasserts. -/
def State.inputStuckClear (s : State) (i : ExtInput) : State :=
  let x := s.ext.input i
  if x.stuck then
    let s := { s with ext := s.ext.setInput i { x with stuck := false, level := false, raw := false } }
    if s.extRun = .on then s.raise 0x38 (stuckBit i + 1) else s
  else s

def execInputStuckClear (i : ExtInput) (s : State) : Host.Outcome State Fault Refusal := .next (s.inputStuckClear i)

/-- XTRIG_OUT_END (R77). -/
def State.xtrigOutEnd (s : State) : State :=
  match s.ext.outUntil with
  | some p => if p ≤ s.time.ac then { s with ext := { s.ext with outUntil := none } } else s
  | none => s

def execXtrigOutEnd (s : State) : Host.Outcome State Fault Refusal := .next s.xtrigOutEnd

/-! ### The GTC (R41, R51, R52, R462) -/

/-- The GTC starts with a value at a reference position. -/
def State.startGtc (s : State) (gtc boundary : Nat) : State :=
  ({ s with time := { s.time with
      running := true, gtc := gtc, boundaryRef := boundary, boundaries := [], startAt := none, syncArm := false, lastBeaconTick := gtc } }).raise 0x02 4

/-- The instance becomes aligned (R462). -/
def State.align (s : State) : State :=
  if s.time.aligned then s else ({ s with time := { s.time with aligned := true } }).raise 0x02 5

/-- GTC_START: the cycles up to boundary G0 pass; a beacon that set the GTC first leaves nothing to start. -/
def State.gtcStart (s : State) : State :=
  match s.time.startAt with
  | none => s
  | some p => if s.time.running then { s with time := { s.time with startAt := none } } else (s.runOut.startGtc s.cfg.gtcStart p).align

def execGtcStart (s : State) : Host.Outcome State Fault Refusal := .next s.gtcStart

/-- GTC_BOUNDARY: in a margin or before the first tick the cycles up to the boundary pass; a lagging slot goes on over it. -/
def State.gtcBoundary (s : State) : State :=
  if !s.time.running then s
  else if s.time.inMargin || !s.time.tickRunning then s.runOut.gtcUp
  else s.gtcUp

def execGtcBoundary (s : State) : Host.Outcome State Fault Refusal := .next s.gtcBoundary

/-! ### Stopped clocks (R46, R47) -/

/-- The reference count goes on while the arithmetic clock stands; with no context running the local tick takes the GTC at the next
GTC boundary; otherwise the time elapsed is a lag, tested here where the stop fell into the margin. -/
def State.stopped (s : State) (elapsed : Nat) : State :=
  let idle := s.live.isEmpty && s.time.tickRunning
  let s := State.gtcUp { s with time := { s.time with ref := s.time.ref + elapsed } }
  if idle then { s with time := { s.time with resync := true } }
  else if s.time.tickRunning && s.time.inMargin then s.lagTest s.time.nextRef
  else s

/-- CLOCK_RESTART: the first ac after the restart gives the record its second stamp; where that ac begins a slot, a margin or a tick,
the record follows with it. -/
def State.clockRestart (s : State) (elapsed : Nat) : State :=
  let last := s.stamp
  let s := s.stopped elapsed
  match s.acLeft with
  | some 0 => { s with time := { s.time with gapFrom := some (last, elapsed) } }
  | _ => let s := s.tick1; s.gap s.stamp last elapsed

def execClockRestart (elapsed : Nat) (s : State) : Host.Outcome State Fault Refusal := .next (s.clockRestart elapsed)

/-! ### Beacons (R53–R57, R462) -/

/-- BEACON_SEND: 64 reference cycles after a boundary whose GTC is a multiple of 2^b, once; a die fenced for a fault of its time unit
sends none (R395). -/
def State.beaconSend (s : State) : State :=
  let t := s.time
  if s.safety.timeFault || !t.running || t.gtc % 2 ^ s.cfg.beaconExp != 0 || t.lastSent == some t.gtc then s
  else
    let n := t.acUntil (t.boundaryRef + 64)
    let reach := match s.acLeft with | some m => decide (n ≤ m) | none => false
    if !reach then s
    else
      let s := s.advance n
      let hdr : MsgHdr := { sender := s.cfg.instanceAddr, tick := t.gtc, vc := 3 }
      let s := { s with time := { s.time with sendSeq := wrap 16 (s.time.sendSeq + 1), lastSent := some t.gtc } }
      s.cfg.beaconChildren.foldl (fun s p => s.linkSend p (s.time.far.getD p 0xFFFFFFFF) hdr (.beacon t.gtc 64 t.sendSeq)) s

def execBeaconSend (s : State) : Host.Outcome State Fault Refusal := .next s.beaconSend

/-- The instance's own time less the parent's, in reference cycles; `since` is the parent's offset at arrival. -/
def State.beaconError (s : State) (gtc since : Nat) : Int :=
  ((s.time.gtc : Int) - gtc) * s.tickLength + ((s.time.ref : Int) - s.time.boundaryRef) - since

/-- Before READY the child takes the parent's GTC and boundary position; its next local tick begins at a boundary of them. -/
def State.takeBeacon (s : State) (gtc since : Nat) : State :=
  let len := s.tickLength
  let fresh := !s.time.running
  let s := { s with time := { s.time with
    running := true, gtc := (gtc + since / len) % 2 ^ 48, boundaryRef := s.time.ref - since % len, boundaries := [], trimLeft := 0
    startAt := none, tickRunning := false, inMargin := false } }
  if fresh then s.raise 0x02 4 else s

/-- After READY the error is trimmed; more than one slot of it is a fault of every context with more than one member (R57). -/
def State.trimBeacon (s : State) (e : Int) : State :=
  let s := { s with time := { s.time with trimLeft := -e } }
  if e.natAbs > 256 then
    (allSlots.foldl (fun s k => if (s.ctx k).multiMember then s.faultCode k 0x19 (twos 32 e) 0 else s) s).raise 0x02 3
  else s

/-- BEACON: from the parent's port. -/
def State.beacon (s : State) (port : Fin 5) (gtc : Nat) (refOffset seq : Nat) : State :=
  if s.cfg.beaconParent ≠ some port.val ∨ s.boot.configured = false then s
  else
    let since := refOffset + s.time.linkDelay.getD port.val 0
    let was := s.time.running
    let e := if was then s.beaconError gtc since else 0
    let later := s.time.firstBeacon
    let s := { s with time := { s.time with
      firstBeacon := true, beaconLost := false, beaconSeq := seq, lastError := max (-32767) (min 32767 e) } }
    let s := if s.boot.ready then s.trimBeacon e else if was ∧ e = 0 then s else s.takeBeacon gtc since
    let s := { s with time := { s.time with lastBeaconTick := s.time.gtc } }
    if later ∧ was ∧ e.natAbs ≤ 8 then s.align else s

def execBeacon (port : Fin 5) (gtc : BitVec 48) (refOffset : Nat) (seq : BitVec 16) (s : State) : Host.Outcome State Fault Refusal :=
  .next (s.beacon port gtc.toNat refOffset seq.toNat)

/-- BEACON_LOSS: eight beacon periods without one (R56). -/
def State.beaconLoss (s : State) : State :=
  let t := s.time
  if s.cfg.beaconParent.isSome && t.running && !t.beaconLost && decide (t.lastBeaconTick + 8 * 2 ^ s.cfg.beaconExp ≤ t.gtc) then
    ({ s with time := { t with beaconLost := true } }).raise 0x02 2
  else s

def execBeaconLoss (s : State) : Host.Outcome State Fault Refusal := .next s.beaconLoss

/-! ### Links (R54, R71, R346) -/

/-- Whether a catchment that has launched sends through a port whose far end is not the expected neighbour or that has lost its lanes. -/
def Catch.brokenBy (e : Catch) (now port far lanes : Nat) : Bool :=
  match e.manifest with
  | none => false
  | some m => match m.entries[e.index]? with
    | none => false
    | some x => e.valid && decide (m.launchGtc ≤ now) && x.routes.any (fun r => r.2 == port)
        && (decide (x.neighbours.getD port 0xFFFFFFFF ≠ far) || lanes == 0)

/-- The fabric has reported a port's far end and lane count: every context that the report breaks is torn down (R346). -/
def State.portReport (s : State) (port far lanes : Nat) : State :=
  allSlots.foldl (fun s k =>
    let c := s.ctx k
    if c.multiMember && (s.catch_ c.catchment).brokenBy s.tickGtc port far lanes then s.faultCode k 0x1B port far else s) s

/-- PORT_CHANGE. -/
def State.portChange (s : State) (port : Fin 5) (far lanes : Nat) : State :=
  let s := { s with time := { s.time with
    far := (ports5 s.time.far 0xFFFFFFFF).set port.val far
    nextLanes := some ((ports5 (s.time.nextLanes.getD s.time.lanes) 0).set port.val lanes) } }
  s.portReport port.val far lanes

/-- CALIBRATION_RESULT: link delays at once, lane counts from the tick after the calibration tick; a port reported without lanes is lost
(R71, R346). -/
def State.calibrationResult (s : State) (lanes delays : List Nat) : State :=
  if s.time.tickRunning && s.calibrationTick then
    let ns := ports5 lanes 0
    let s := { s with time := { s.time with nextLanes := some ns, linkDelay := ports5 delays 0 } }
    ((List.range 5).filter fun p => ns.getD p 0 == 0).foldl (fun s p => s.portReport p ((ports5 s.time.far 0xFFFFFFFF).getD p 0xFFFFFFFF) 0) s
  else s

def execCalibrationResult (lanes delays : List Nat) (s : State) : Host.Outcome State Fault Refusal := .next (s.calibrationResult lanes delays)

def execPortChange (port : Fin 5) (far : BitVec 32) (lanes : Nat) (s : State) : Host.Outcome State Fault Refusal :=
  .next (s.portChange port far.toNat lanes)

end Sys2Proof.Machine
end

