-- ==== Sys2Proof/Machine/Pages.lean ====
section
/-! DEFINITION. What the registers read as (R12–R17, R469–R473, R482–R509): the pages, their privileges and states, and the value of
every register. -/

namespace Sys2Proof.Machine

/-! ### Pages (R469–R473) -/

/-- Reserved pages (R470). -/
def pageReserved (p : Nat) : Bool :=
  (5 ≤ p && p ≤ 7) || p == 0x1E || p == 0x1F || p == 0x23 || p == 0x26 || p == 0x27 || (0x29 ≤ p && p ≤ 0x2B) || (0x2D ≤ p && p ≤ 0x2F)
    || p == 0x33 || p == 0x35 || p == 0x37 || (0x39 ≤ p && p ≤ 0x3B) || (0x3D ≤ p && p ≤ 0x3F)

/-- The context slot of a context page. -/
def slotOfPage (p : Nat) : Option (Fin 16) := if 8 ≤ p ∧ p ≤ 0x17 then some (Fin.ofNat 16 (p - 8)) else none

/-- Kind code of a page (R469). -/
def pageKind (p : Nat) : Nat :=
  if pageReserved p then 0xFF
  else if (slotOfPage p).isSome then 8
  else match p with
    | 0x19 => 0x18
    | 0x1A => 0x18
    | 0x1B => 0x18
    | 0x25 => 0x24
    | 0x31 => 0x30
    | 0x32 => 0x30
    | n => n

/-- Whether a page is switchable (R471). -/
def pageSwitchable (p : Nat) : Bool := p == 0x30 || p == 0x38

/-- Highest defined page-specific register offset (R471). -/
def lastOffset (p : Nat) : Nat :=
  if (slotOfPage p).isSome then 0x1A8
  else match p with
    | 0x00 => 0x0B8
    | 0x01 => 0x068
    | 0x02 => 0x090
    | 0x03 => 0x050
    | 0x04 => 0x070
    | 0x18 => 0x058
    | 0x19 => 0x238
    | 0x1A => 0x0B8
    | 0x1B => 0x078
    | 0x25 => 0x078
    | 0x2C => 0x4F8
    | 0x30 => 0x278
    | 0x31 => 0x0F8
    | 0x32 => 0x058
    | 0x34 => 0x110
    | 0x36 => 0x0B8
    | 0x38 => 0x060
    | 0x3C => 0x058
    | n => if pageReserved n then 0 else 0x040

/-- Whether a page-specific register is defined at an offset. -/
def regDefined (p off : Nat) : Bool :=
  !pageReserved p && off % 8 == 0 && decide (0x040 ≤ off ∧ off ≤ lastOffset p)
    && !(p == 0x2C && decide (0x048 ≤ off ∧ off < 0x100)) && !(p == 0x34 && decide (0x060 ≤ off ∧ off < 0x088))

/-- State code of a context page (R302, R472). -/
def phaseState : Phase → Nat
  | .empty => 0
  | .loading => 1
  | .running => 2
  | .freezing => 3
  | .frozen => 0
  | .thawing => 1
  | .tearingDown => 3

/-- State code of a switchable page. -/
def PageRun.code : PageRun → Nat
  | .off => 0
  | .starting => 1
  | .on => 2
  | .draining _ => 3

/-- PAGE_STATUS.state (R473). -/
def State.pageState (s : State) (p : Nat) : Nat :=
  match slotOfPage p with
  | some k => phaseState (s.ctx k).phase
  | none =>
    match p with
    | 0x01 =>
      if !s.boot.configured then 0 else if s.boot.key = some false then 4 else if s.boot.ready then 2 else 1
    | 0x34 => if s.safety.fenced then 4 else if s.boot.ready then 2 else 1
    | 0x30 => PageRun.code s.obs.run
    | 0x38 => PageRun.code s.extRun
    | n => if pageReserved n then 0 else if s.boot.ready then 2 else 1

/-- PAGE_STATUS.enable_pending (R332, R473). -/
def State.pagePending (s : State) (p : Nat) : Bool :=
  match slotOfPage p with
  | some k => (s.ctx k).enablePending.isSome || (s.ctx k).thawHeld
  | none =>
    match p with
    | 0x30 => s.obsEnablePending && PageRun.code s.obs.run == 3
    | 0x38 => s.extEnablePending && PageRun.code s.extRun == 3
    | _ => false

/-- PAGE_CTRL.enable (R472). -/
def State.pageEnabled (s : State) (p : Nat) : Bool :=
  match p with
  | 0x30 => s.obsEnable
  | 0x38 => s.extEnable
  | n => let st := s.pageState n; st == 1 || st == 2 || st == 3

/-- Number of events a page defines. -/
def eventCount (p : Nat) : Nat := (bitList 32 (eventMask p).toNat).length

/-- The event line of a page (R475). -/
def State.eventLine (s : State) (p : Fin 64) : Bool := (s.page p).raw &&& ~~~ (s.page p).mask != 0

/-- A field's value at its place in a register. -/
def at_ (lo w v : Nat) : Nat := v % 2 ^ w * 2 ^ lo

/-! ### The header (R471–R476) -/

/-- EVT_RAW as it stood at the start of the ac (R465). -/
def PageHdr.rawRead (h : PageHdr) (ac : Nat) : BitVec 32 := if h.rawAc = ac then h.rawOld else h.raw

def State.readHeader (s : State) (p : Fin 64) (off : Nat) : Nat :=
  let n := p.val
  let h := s.page p
  if off = 0x000 then at_ 48 16 0x5055 + at_ 40 8 (pageKind n) + at_ 32 8 n + at_ 16 16 1 + Config.implRevision.toNat
  else if pageReserved n then 0
  else match off with
    | 0x008 => 3 + at_ 2 1 (b2n (slotOfPage n).isSome) + at_ 3 1 (b2n (pageSwitchable n)) + at_ 8 8 (eventCount n) + at_ 16 12 (lastOffset n)
    | 0x010 => b2n (s.pageEnabled n)
    | 0x018 => s.pageState n + at_ 3 1 (b2n (s.pagePending n))
    | 0x020 => (h.rawRead s.time.ac).toNat
    | 0x028 => h.mask.toNat
    | _ => 0

/-! ### Identity, global, time, sluice and steward pages (R482–R486) -/

/-- A value that reads zero until stage 1 of start-up ends (R478). -/
def State.image (s : State) (v : Nat) : Nat := if s.config.isSome then v else 0

/-- Populated LCIDs (R19, R20). -/
def State.populated (s : State) (l : Nat) : Bool := decide (l < s.cfg.coreMap.length)

def maskOf (n : Nat) (f : Nat → Bool) : Nat := ((List.range n).map fun i => at_ i 1 (b2n (f i))).sum

def State.readIdentity (s : State) (off : Nat) : Nat :=
  let c := s.cfg
  s.image <| match off with
    | 0x040 => at_ 0 64 c.dieId
    | 0x048 => at_ 0 64 (c.dieId / 2 ^ 64)
    | 0x050 => at_ 0 32 c.instanceAddr + at_ 32 3 c.instanceAddr
    | 0x058 => if c.grade56 then 0x38 + at_ 8 8 56 else 0x40 + at_ 8 8 64
    | 0x060 => maskOf 64 s.populated
    | 0x068 =>
      let canon := canonicalMap c.disabled
      maskOf 64 fun l => match c.coreMap[l]?, canon[l]? with | some p, some q => p != q | _, _ => false
    | o =>
      if o < 0x0A0 then field c.configHash (o - 0x070) 8
      else ((List.range 16).map fun i =>
        let l := (o - 0x0A0) / 8 * 16 + i
        if s.populated l then at_ (4 * i) 4 (s.clusterOf l % 8 + 8) else 0).sum

def State.readGlobal (s : State) (off : Nat) : Nat :=
  match off with
  | 0x040 => (allSlots.map fun k => at_ (4 * k.val) 4 (s.ctx k).phase.code).sum
  | 0x068 => at_ 0 48 s.boot.readyGtc
  | o => ((List.range 4).map fun i =>
      let c := s.ctx (Fin.ofNat 16 ((o - 0x048) / 8 * 4 + i))
      if c.phase = .empty then 0 else at_ (16 * i) 16 c.cxid).sum

def State.readTime (s : State) (off : Nat) : Nat :=
  let t := s.time
  let c := s.cfg
  match off with
  | 0x040 => s.image (at_ 0 7 c.slotsPerTick + at_ 8 13 c.tickMargin + at_ 24 15 s.tickLength + at_ 40 4 c.lagLimit + at_ 44 4 c.beaconExp)
  | 0x048 => b2n t.syncArm
  | 0x050 =>
    b2n t.running + at_ 1 1 (b2n t.aligned) + s.image (at_ 2 1 (b2n c.beaconParent.isNone) + at_ 8 3 (c.beaconParent.getD 7))
      + at_ 3 1 (b2n t.beaconLost) + at_ 4 1 (b2n s.ext.sync.stuck) + at_ 16 16 (twos 16 t.lastError) + at_ 32 16 t.beaconSeq
  | 0x058 => s.stamp
  | 0x060 => s.image (at_ 0 48 c.gtcStart)
  | 0x068 => sat 32 t.lag + at_ 32 32 t.lagTicks
  | o => at_ 0 16 (t.linkDelay.getD ((o - 0x070) / 8) 0)

def State.readSluice (s : State) (off : Nat) : Nat :=
  let q := s.sluice
  match off with
  | 0x040 => s.image (at_ 0 48 s.cfg.window + at_ 48 4 s.cfg.completionLog2 + at_ 52 4 s.cfg.logAreaLog2)
  | 0x048 => sat 16 q.dieLost + at_ 16 5 q.dieBacklog.length + at_ 24 16 q.ownerSeen.toNat
  | _ => at_ 0 32 q.takenCount + at_ 32 32 q.records

def State.readSteward (s : State) (off : Nat) : Nat :=
  let w := s.steward
  match off with
  | 0x040 => at_ 0 32 w.heartbeat
  | 0x048 => at_ 0 3 w.state + at_ 16 48 w.lastHeartbeatGtc
  | 0x050 => at_ 0 32 w.running + s.image (at_ 32 32 s.cfg.minFirmware)
  | 0x058 => at_ 0 32 (w.staged.getD 0) + at_ 32 1 (b2n w.staged.isSome)
  | 0x060 => s.image (at_ 0 48 s.cfg.logAddr + at_ 48 4 s.cfg.logLog2)
  | 0x068 => at_ 0 32 w.overwritten + at_ 32 32 w.nextSeq
  | _ => b2n w.keyOk + at_ 16 16 (maskOf 16 fun k => (w.keys[k]?.getD none).isSome)

/-! ### Context pages (R487–R495) -/

def Mode.code : Mode → Nat
  | .scheduleExact => 0
  | .resultExact => 1
  | .relaxed => 2

def Capture.code : Capture → Nat
  | .idle => 0
  | .armed => 1
  | .triggered => 2
  | .stopped => 3

/-- Identity, time and graph registers (R488). -/
def State.readCtxIdentity (s : State) (k : Fin 16) (off : Nat) : Nat :=
  let c := s.ctx k
  match off with
  | 0x040 =>
    at_ 0 16 c.cxid + at_ 16 3 c.phase.code + at_ 19 1 (b2n c.freezePending) + at_ 20 2 (Mode.code c.mode) + at_ 24 2 c.rota
      + at_ 26 1 (b2n c.multiMember) + at_ 27 1 (b2n c.headwater) + at_ 28 1 (b2n c.fast) + at_ 29 1 (b2n c.lock.active)
      + at_ 32 12 c.cmid + at_ 48 2 c.steps.length
  | 0x048 => at_ 0 48 c.launchGtc + at_ 48 16 c.holdCount
  | 0x050 => at_ 0 48 c.holdCount
  | 0x058 => if c.launched then at_ 0 48 c.tick else 0
  | 0x090 => at_ 0 32 c.stats.lateFlags + at_ 32 11 c.image.templates.length + at_ 48 16 c.stats.noticeDiscards
  | o => field c.image.graphHash (o - 0x060) 8

/-- Dispatch, counter, routing, confluence, ledger and admission registers (R489–R491). -/
def State.readCtxStats (s : State) (k : Fin 16) (off : Nat) : Nat :=
  let c := s.ctx k
  let t := c.stats
  match off with
  | 0x098 => b2n c.controls.balEn + at_ 8 8 c.controls.balThreshold + at_ 16 10 c.share
  | 0x0A0 => at_ 0 16 t.poolStalls + at_ 16 16 t.balanceMoves + at_ 32 16 t.deferredStarts + at_ 48 16 t.completionStalls
  | 0x0A8 => at_ 0 20 c.controls.stillTicks + at_ 32 20 c.stillCount
  | 0x0B0 => b2n t.overrun + at_ 1 1 (b2n t.underrun) + at_ 2 1 (b2n t.saturated) + at_ 12 20 (t.firstVid.getD 0) + at_ 32 15 c.image.counters.length
  | 0x0B8 => at_ 0 16 t.spills + at_ 16 16 t.dropped + at_ 32 16 t.unassigned + at_ 48 16 t.renormSkipped
  | 0x0C0 =>
    let v := if c.phase = .empty then c.began.rates else s.fetchRates k
    at_ 0 32 v.1 + at_ 32 6 v.2.1 + at_ 40 7 c.outSlots
  | 0x0C8 => b2n c.controls.fastEn
  | 0x0D0 => b2n t.rangeFault + at_ 1 3 t.rangeCluster + at_ 8 24 t.rangeElement
  | 0x0D8 => at_ 0 16 t.flushed + at_ 16 16 t.nonfinite + at_ 32 8 t.drainOverflow + at_ 40 16 t.epochDiscards + at_ 56 8 t.fastCommands
  | 0x0E0 => at_ 0 11 c.controls.movesPerStep
  | 0x0E8 =>
    let v := if c.phase = .empty then c.began.rates else s.fetchRates k
    at_ 0 32 v.2.2.1 + at_ 32 32 v.2.2.2
  | 0x0F0 => at_ 0 32 t.stageWaits + at_ 32 16 t.promotions + at_ 48 16 t.demotions
  | 0x0F8 => at_ 0 8 c.controls.marginPct + at_ 16 16 t.estimateFaults
  | 0x100 => at_ 0 48 t.igaugeTicks + at_ 48 2 t.igaugeCause
  | 0x108 => sat 48 c.ndetTotal
  | o =>
    let j := (o - 0x110) / 8
    sat 32 (c.ndetKinds.getD (2 * j) 0) + at_ 32 32 (sat 32 (c.ndetKinds.getD (2 * j + 1) 0))

/-- Observation registers (R492–R495). -/
def State.readCtxTrace (s : State) (k : Fin 16) (off : Nat) : Nat :=
  let c := s.ctx k
  let t := c.trace
  match off with
  | 0x150 => at_ 0 20 t.ctrl.toNat
  | 0x158 => Capture.code t.capture + at_ 2 1 (b2n t.drainSlot) + at_ 16 48 t.nextSerial
  | 0x160 => at_ 0 32 t.lost + at_ 32 32 t.lossRecords
  | 0x188 => field t.digest 0 8
  | 0x190 => c.controls.dumpArg.toNat
  | 0x198 => c.controls.dumpDest.toNat
  | 0x1A0 => at_ 8 8 c.controls.dumpStepHi + at_ 16 5 c.dumps.length
  | 0x1A8 =>
    at_ 1 1 (b2n (c.halted && c.lock.diverged.isNone)) + at_ 2 2 c.haltCause + at_ 8 8 c.haltBreakpoint + at_ 16 48 c.haltTick
  | o =>
    let j := (o - 0x168) / 8
    at_ 0 24 (t.sel.getD (2 * j) 0) + at_ 32 24 (t.sel.getD (2 * j + 1) 0)

def State.readCtxReg (s : State) (k : Fin 16) (off : Nat) : Nat :=
  if off < 0x098 then s.readCtxIdentity k off else if off < 0x150 then s.readCtxStats k off else s.readCtxTrace k off

/-! ### Dispatch and resource pages (R496–R498) -/

def State.readGovernor (s : State) (off : Nat) : Nat :=
  let c := s.cfg
  let g := s.gov
  match off with
  | 0x040 => s.image (at_ 0 10 c.dieBudget + at_ 16 8 c.tempHigh + at_ 24 8 c.tempLow + at_ 32 8 c.tempCritical)
  | 0x048 => s.image (at_ 0 16 c.hotTicks + at_ 16 16 c.ilimitTicks)
  | 0x050 => at_ 0 5 g.fraction + at_ 8 8 g.maxTemp + at_ 16 32 g.ilimitSlots + at_ 48 16 g.hotRun
  | _ => at_ 0 11 ((s.catches.toList.filter (·.valid)).map (·.share)).sum

def EntryState.code : EntryState → Nat
  | .free => 0
  | .loading => 1
  | .valid => 2
  | .invalid => 1
  | .starting => 2
  | .inService => 3

def FrameState.code : FrameState → Nat
  | .free => 0
  | .loading => 1
  | .ready => 1
  | .running => 2
  | .onFlags _ _ => 3
  | .onCounter _ _ => 4
  | .halted => 5
  | .ending => 6

def State.readPond (s : State) (l : Nat) : Nat :=
  if s.populated l then
    let c := s.core (lcidOf l)
    let slot (e : PondEntry) : Nat := if e.state = .free then 0 else e.task.slot.val
    EntryState.code c.e0.state + at_ 2 2 (EntryState.code c.e1.state) + at_ 4 4 (slot c.e0) + at_ 8 4 (slot c.e1) + at_ 12 1 (b2n c.halted)
      + at_ 16 16 (sat 16 ((c.serving.map (·.slotsLeft)).getD 0))
  else 0

def State.readFrames (s : State) (c : Fin 8) : Nat :=
  (allCtrl.map fun f =>
    let v := s.frame c f
    if v.state = .free then 0 else at_ (8 * f.val) 8 (FrameState.code v.state + at_ 3 4 v.task.slot.val)).sum

def State.readInlet (s : State) : Nat :=
  at_ 0 32 s.inletCorrected + at_ 32 14 s.inletWords + at_ 46 1 (b2n s.inletStalled)
    + at_ 48 7 (s.packets.filter fun p => !p.closed).length

/-- Whether slot k's pass engine runs a job, and whether a collected job waits for it. -/
def Ctx.routeBusy (c : Ctx) : Bool := c.jobs.any fun j => j.started && !j.published

def Ctx.routeWaits (c : Ctx) : Bool := c.jobs.any fun j => !j.started

/-- The context slot a confluence unit serves: the context on the die that has a region in its cluster. -/
def State.servedBy (s : State) (k : Fin 8) : Nat :=
  match allSlots.find? fun j => (s.ctx j).phase == .running && (s.ctx j).regions.any fun r => r.cluster == k with
  | some j => j.val
  | none => ((allSlots.find? fun j => (s.ctx j).phase != .empty && (s.ctx j).regions.any fun r => r.cluster == k).map (·.val)).getD 0

def State.readIntake (s : State) (k : Fin 8) : Nat :=
  let u := s.unit k
  at_ 0 12 u.localPart.length + at_ 12 12 u.remoteHeld.length + at_ 24 1 (b2n u.localStalled) + at_ 25 1 (b2n u.remoteStalled)
    + at_ 26 4 (s.servedBy k) + at_ 30 1 (b2n (u.scrubbing s.time.ac)) + at_ 31 1 (b2n (u.busy s.time.ac))

/-- Regions of every context on the die. -/
def State.allRegions (s : State) : List Region := (s.ctxs.toList.filter fun c => c.phase != .empty).flatMap (·.regions)

def State.readResource (s : State) (p off : Nat) : Nat :=
  let cs := s.ctxs.toList
  match p with
  | 0x1A => let c := s.ctx (Fin.ofNat 16 ((off - 0x040) / 8)); at_ 0 10 c.occupancy + at_ 10 1 (b2n c.poolStalled)
  | 0x1B => s.readFrames (Fin.ofNat 8 ((off - 0x040) / 8))
  | 0x1C => at_ 0 15 (16384 - (cs.map fun c => c.counters.length).sum) + at_ 16 15 s.counterLow
  | 0x1D => at_ 0 11 (1024 - (cs.map fun c => c.rings.length).sum) + at_ 16 11 s.ringLow
  | 0x20 => s.readInlet
  | 0x21 =>
    maskOf 16 (fun k => (s.ctx (Fin.ofNat 16 k)).routeBusy) + at_ 16 16 (maskOf 16 fun k => (s.ctx (Fin.ofNat 16 k)).routeWaits)
      + at_ 32 32 s.jobsPublished
  | 0x22 =>
    at_ 0 10 (512 - (cs.map fun c => c.residency.length).sum)
      + at_ 16 10 (cs.map fun c => (c.residency.filter fun r => r.state == .arriving).length).sum + at_ 32 32 s.served
  | 0x24 =>
    at_ 0 10 (ceilDiv (s.allRegions.map fun r => r.cores.length * r.length).sum (2 ^ 20))
      + at_ 16 8 (maskOf 8 fun k => s.allRegions.any fun r => r.cluster.val == k)
  | 0x25 => s.readIntake (Fin.ofNat 8 ((off - 0x040) / 8))
  | 0x28 => at_ 0 14 (cs.map fun c => (c.ledger.seqs.filter fun q => q.state == 1).length).sum + at_ 32 32 s.movesCreated
  | _ => s.readPond ((off - 0x040) / 8)

/-! ### Classes and catchments (R499) -/

def State.readClasses (s : State) : Nat :=
  let be := allSlots.filter fun k => (s.ctx k).phase ≠ .empty ∧ (s.ctx k).be
  at_ 0 13 s.beInletPool + at_ 16 13 s.beHorizonPool + at_ 32 13 (be.map s.inletHeld).sum + at_ 48 13 (be.map s.horizonHeld).sum

/-- The fields of CATCH_CFG that a write changes. -/
def Catch.cfgFields (e : Catch) : Nat :=
  at_ 0 12 e.cmid + at_ 12 1 (b2n e.be) + at_ 16 6 e.horizon + at_ 24 8 e.ctids.toNat + at_ 32 8 e.clusters.toNat + at_ 40 10 e.share

def State.readCatch (s : State) (k : Fin 16) (r : Nat) : Nat :=
  let e := s.catch_ k
  match r with
  | 0 => e.cfgFields + at_ 13 1 (b2n e.isLocal) + at_ 14 1 (b2n e.headwater) + at_ 52 1 (b2n e.valid) + at_ 55 1 (b2n e.staged)
  | 1 => e.lcids.toNat
  | 2 => e.outSlots.toNat
  | 3 => e.inSlots.toNat
  | 4 => e.memSlots.toNat
  | 5 => at_ 0 13 e.inletQuota + at_ 16 12 e.horizonQuota
  | 6 => b2n e.autoEn + at_ 16 16 e.rotateTicks + at_ 32 2 (match s.residentOf k with | some j => (s.ctx j).rota | none => e.resident)
  | _ =>
    maskOf 16 (fun j => let c := s.ctx (Fin.ofNat 16 j); e.valid && c.phase != .empty && c.catchment == k) + at_ 16 1 (b2n e.blocked)
      + at_ 17 1 (b2n e.stagnant)

/-! ### Observation, safety, lock-step, external inputs and calibration (R503–R509) -/

def State.readObs (s : State) (p off : Nat) : Nat :=
  let o := s.obs
  match p with
  | 0x30 =>
    if off < 0x240 then let n := (off - 0x040) / 8; at_ 0 32 (o.coreBusy.getD n 0) + at_ 32 32 (o.coreIdle.getD n 0)
    else let n := (off - 0x240) / 8; at_ 0 32 (o.ctrlBusy.getD n 0) + at_ 32 32 (o.ctrlIdle.getD n 0)
  | 0x31 =>
    if off < 0x080 then o.cfl.getD ((off - 0x040) / 8) 0
    else if off < 0x0A8 then o.portOut.getD ((off - 0x080) / 8) 0
    else if off < 0x0D0 then o.portIn.getD ((off - 0x0A8) / 8) 0
    else o.weir.getD ((off - 0x0D0) / 8) 0
  | _ =>
    match off with
    | 0x040 => o.place
    | 0x048 => o.threadPlace
    | 0x050 => o.defer
    | _ => 0

/-- The peaks a read of OBS_PEAK returns: those before the updates of this ac (R17). -/
def ObsUnit.peakRead (o : ObsUnit) (ac : Nat) : Peaks :=
  if o.peakAc = ac then o.peaks
  else ⟨max o.peaks.horizon o.newPeaks.horizon, max o.peaks.inlet o.newPeaks.inlet, max o.peaks.pool o.newPeaks.pool⟩

def Peaks.word (p : Peaks) : Nat := at_ 0 13 p.horizon + at_ 16 14 p.inlet + at_ 32 14 p.pool

def State.readSafety (s : State) (off : Nat) : Nat :=
  let f := s.safety
  match off with
  | 0x040 => 0
  | 0x048 => b2n f.fenced + at_ 8 8 f.fenceCode + at_ 16 48 f.fenceGtc
  | 0x050 => b2n f.selfTestPass + at_ 16 48 f.selfTestGtc
  | 0x058 => at_ 0 32 f.strays
  | o => let i := (o - 0x080) / 8; at_ 0 32 (f.corrected.getD i 0) + at_ 32 16 (f.uncorrected.getD i 0)

def State.readLockstep (s : State) (k : Fin 16) : Nat :=
  let c := s.ctx k
  if c.phase = .empty then 0
  else at_ 0 12 c.lock.peerCmid + at_ 12 1 (b2n c.lock.active) + at_ 13 1 (b2n c.lock.diverged.isSome) + at_ 16 48 c.lock.compared

def State.readExt (s : State) (off : Nat) : Nat :=
  let e := s.ext
  match off with
  | 0x040 => e.cfg.toNat
  | 0x048 => e.outCfg.toNat
  | 0x050 =>
    b2n e.sync.level + at_ 1 1 (b2n e.sync.stuck) + at_ 2 1 (b2n e.xtrig.level) + at_ 3 1 (b2n e.xtrig.stuck) + at_ 16 16 e.sync.chatter
      + at_ 32 16 e.xtrig.chatter
  | 0x058 => e.sync.lastStamp
  | _ => e.xtrig.lastStamp

/-- The lanes a read returns: in the ac of a change those before it (R509). -/
def TimeUnit.lanesRead (t : TimeUnit) : List Nat := if t.lanesAc = some t.ac then t.lanesBefore else t.lanes

/-- GTC of the next calibration tick, which may be the first tick itself (R68, R509). -/
def State.nextCalibration (s : State) : Nat :=
  let i := 2 ^ s.cfg.calLog2
  let t := if !s.time.tickRunning && s.time.atBoundary then s.time.gtc else s.tickGtc + 1
  t + (s.cfg.calPhase + i - t % i) % i

def State.readCal (s : State) (off : Nat) : Nat :=
  let t := s.time
  match off with
  | 0x040 => s.image (at_ 0 5 s.cfg.calLog2 + at_ 8 20 s.cfg.calPhase)
  | 0x048 => (if t.running then at_ 0 48 s.nextCalibration else 0) + at_ 48 16 t.calDone
  | 0x050 => ((List.range 5).map fun p => at_ (4 * p) 4 (t.lanesRead.getD p 0)).sum + at_ 20 6 t.lanesRead.sum
  | _ => at_ 0 3 t.lastChangePort + at_ 3 4 t.lastChangeLanes + at_ 16 48 t.lastChangeGtc

/-! ### One page-specific register -/

/-- The value of a defined page-specific register. -/
def State.readSpecific (s : State) (p off : Nat) : Nat :=
  match slotOfPage p with
  | some k => s.readCtxReg k off
  | none =>
    match p with
    | 0x00 => s.readIdentity off
    | 0x01 => s.readGlobal off
    | 0x02 => s.readTime off
    | 0x03 => s.readSluice off
    | 0x04 => s.readSteward off
    | 0x18 => s.readGovernor off
    | 0x2C => if off = 0x040 then s.readClasses else s.readCatch (Fin.ofNat 16 ((off - 0x100) / 0x40)) ((off - 0x100) % 0x40 / 8)
    | 0x30 => s.readObs 0x30 off
    | 0x31 => s.readObs 0x31 off
    | 0x32 => s.readObs 0x32 off
    | 0x34 => s.readSafety off
    | 0x36 => s.readLockstep (Fin.ofNat 16 ((off - 0x040) / 8))
    | 0x38 => s.readExt off
    | 0x3C => s.readCal off
    | n => s.readResource n off

end Sys2Proof.Machine
end

