-- ==== Sys2Proof/Machine/Registers.lean ====
section
/-! DEFINITION. Register accesses (R12–R17, R465–R468, R472–R476, R480, R487–R509): reads, writes, and the rows of the table that are
accesses to one register. -/

namespace Sys2Proof.Machine

/-! ### The header (R472–R476) -/

/-- PAGE_ERR as it stood at the start of the ac, and what the read leaves: the errors of this ac (R17, R476). -/
def PageHdr.errRead (h : PageHdr) (ac : Nat) : Nat × PageHdr :=
  let fresh := if h.errAc = ac then h.newCount else 0
  let old := h.errCount - fresh
  let word := if old = 0 then 0 else at_ 0 8 h.errCode + at_ 16 16 (sat 16 old) + at_ 32 32 h.errDetail
  (word, if fresh = 0 then { h with errCode := 0, errCount := 0, errDetail := 0, newCount := 0 }
    else { h with errCode := h.newCode, errCount := fresh, errDetail := h.newDetail })

/-- A read of PAGE_ERR. -/
def State.readErr (s : State) (p : Fin 64) : State :=
  let (v, h) := (s.page p).errRead s.time.ac
  { s.setPage p h with readData := BitVec.ofNat 64 v }

/-- A write of ones to EVT_RAW: those bits clear, but for bits the hardware set in this ac (R16). -/
def PageHdr.clear (h : PageHdr) (ac : Nat) (v : BitVec 32) : PageHdr :=
  { h with raw := h.raw &&& ~~~ (v &&& ~~~ (if h.rawAc = ac then h.fresh else 0)) }

/-- A write of EVT_FORCE (R475). -/
def PageHdr.force (h : PageHdr) (p : Nat) (v : BitVec 32) : PageHdr := { h with raw := h.raw ||| (v &&& eventMask p) }

/-- A write of 1 to PAGE_CTRL.enable (R332, R473). -/
def State.enablePage (s : State) (p : Nat) : State :=
  let waits (r : PageRun) : Bool := match r with | .off => true | .draining _ => true | _ => false
  match p with
  | 0x30 => { s with obsEnable := true, obsEnablePending := s.obsEnablePending || waits s.obs.run }
  | 0x38 => { s with extEnable := true, extEnablePending := s.extEnablePending || (s.config.isSome && waits s.extRun) }
  | _ => s

/-- A write of 0 to PAGE_CTRL.enable, which takes effect at the next tick start (R466, R473). -/
def State.disablePage (s : State) (p : Nat) : State :=
  match p with
  | 0x30 => { s with obsEnable := false, obsEnablePending := false }
  | 0x38 => { s with extEnable := false, extEnablePending := false }
  | _ => s

/-- A write to a header register by a privilege that may write it. -/
def State.writeHeader (s : State) (p : Fin 64) (off : Nat) (v : Word) : State :=
  let lo := v.setWidth 32
  match off with
  | 0x010 => if v.getLsbD 0 then s.enablePage p.val else s.disablePage p.val
  | 0x020 => s.setPage p ((s.page p).clear s.time.ac lo)
  | 0x028 => s.setPage p { s.page p with mask := lo &&& eventMask p.val }
  | 0x030 => s.setPage p ((s.page p).force p.val lo)
  | _ => s

/-! ### Context pages (R480, R489–R495) -/

/-- Whether the context of a slot may set pc_en or cmd_en (R416, R417). -/
def Ctx.mayTrace (c : Ctx) : Bool :=
  c.phase != .empty && (c.symbol? 0xFFFF 0xFFD0).isSome && (c.symbol? 0xFFFF 0xFFD1).isSome && decide (c.memSlots ≥ 2)

/-- A write of CTX_TRACE_CTRL (R492): the error it meets, or the controls with arm and flush noted. -/
def Ctx.writeTrace (c : Ctx) (v : Nat) : Sum Nat Ctx :=
  if bits v 6 2 < 6 ∨ 16 < bits v 6 2 ∨ bits v 8 7 = 3 ∨ bits v 12 9 = 0 then .inl 0x04
  else if (bit v 0 || bit v 1) && !c.mayTrace then .inl 0x08
  else .inr { c with trace := { c.trace with
    ctrl := BitVec.ofNat 64 (v % 2 ^ 20), armPending := c.trace.armPending || bit v 20, flushPending := c.trace.flushPending || bit v 21 } }

/-- The error a selector meets (R429, R493). -/
def Ctx.selectorError (c : Ctx) (sel : Nat) : Option Nat :=
  let source := sel % 16
  let vid := sel / 16 % 2 ^ 20
  if source ≥ 10 then some 0x08
  else if source = 9 then
    (if c.phase = .empty ∨ vid = 0xFFFFF ∨ !(c.counters.any fun x => x.decl.vid == vid) then some 0x08 else none)
  else if vid ≠ 0 then some 0x04 else none

/-- A write of CTX_SOUND_SEL_j. -/
def Ctx.writeSel (c : Ctx) (j v : Nat) : Sum Nat Ctx :=
  let a := v % 2 ^ 24
  let b := v / 2 ^ 32 % 2 ^ 24
  match c.selectorError a, c.selectorError b with
  | some e, _ => .inl e
  | none, some e => .inl e
  | none, none => .inr { c with trace := { c.trace with sel := (c.trace.sel.set (2 * j) a).set (2 * j + 1) b } }

/-- A write of a load-latched field: only while the slot is Empty (R480). -/
def Ctx.latched (c : Ctx) (ok : Bool) (f : Controls → Controls) : Sum Nat Ctx :=
  if !ok then .inl 0x04 else if c.phase ≠ .empty then .inl 0x05 else .inr { c with controls := f c.controls }

/-- A write of CTX_DISPATCH, CTX_WATCHDOG, CTX_CFL_CTRL, CTX_LEDGER_CTRL, CTX_ADMIT, CTX_TRACE_CTRL, CTX_SOUND_SEL, CTX_DUMP_ARG or
CTX_DUMP_DEST: the error it meets, or the context it leaves. -/
def Ctx.writeReg (c : Ctx) (off : Nat) (w : Word) : Sum Nat Ctx :=
  let v := w.toNat
  match off with
  | 0x098 =>
    if bits v 15 8 = 0 then .inl 0x04
    else .inr { c with controls := { c.controls with balEn := bit v 0, balThreshold := bits v 15 8 } }
  | 0x0A8 => if bits v 19 0 < 16 then .inl 0x04 else .inr { c with controls := { c.controls with stillTicks := bits v 19 0 } }
  | 0x0C8 => c.latched true fun q => { q with fastEn := bit v 0 }
  | 0x0E0 => c.latched (decide (1 ≤ bits v 10 0 ∧ bits v 10 0 ≤ 1024)) fun q => { q with movesPerStep := bits v 10 0 }
  | 0x0F8 => c.latched true fun q => { q with marginPct := bits v 7 0 }
  | 0x150 => c.writeTrace v
  | 0x168 => c.writeSel 0 v
  | 0x170 => c.writeSel 1 v
  | 0x178 => c.writeSel 2 v
  | 0x180 => c.writeSel 3 v
  | 0x190 => .inr { c with controls := { c.controls with dumpArg := w } }
  | 0x198 => .inr { c with controls := { c.controls with dumpDest := w } }
  | _ => .inr c

/-- A submit of CTX_DUMP_CMD (R434, R495): a request, or a record with queue_full. -/
def State.submitDump (s : State) (k : Fin 16) : State :=
  let c := s.ctx k
  let step := bits c.controls.dumpArg.toNat 63 32 + c.controls.dumpStepHi * 2 ^ 32
  let dest := bits c.controls.dumpDest.toNat 41 0 * 64
  let nameId := bits c.controls.dumpArg.toNat 31 0
  if c.dumps.length ≥ 16 then
    s.pushRec { kind := 7, cxid := c.cxid, ctx := some k, due := s.nextTick, detail := .dumped 0x73 nameId step dest }
  else
    s.setCtx k { c with dumps := c.dumps ++
      [{ nameId := nameId, step := step, dest := dest, length := bits c.controls.dumpDest.toNat 63 42 * 4096 }] }

/-- A write of CTX_DUMP_CMD; a slot without a context takes no request. -/
def State.writeDump (s : State) (k : Fin 16) (p : Priv) (v : Nat) : State :=
  let c := s.ctx k
  if bit v 0 && (c.phase == .empty || c.phase == .tearingDown) then s.accessError (ctxPage k) 0x05 p 0x1A0
  else
    let s := s.setCtx k { c with controls := { c.controls with dumpStepHi := bits v 15 8 } }
    if bit v 0 then s.submitDump k else s

/-- A write of CTX_DEBUG: a resume is noted for the next tick start (R438, R495). -/
def State.writeDebug (s : State) (k : Fin 16) (p : Priv) (v : Nat) : State :=
  let c := s.ctx k
  if !bit v 0 then s
  else if c.phase ≠ .running ∨ c.halted = false ∨ c.lock.diverged.isSome ∨ c.headwater = false then s.accessError (ctxPage k) 0x05 p 0x1A8
  else s.setCtx k { c with resumeTaken := true }

/-- Whether a context page register has a writable field, and whether the tenant may write it (R487). -/
def ctxWritable (off : Nat) : Option Bool :=
  if off = 0x0A8 ∨ off = 0x0F8 then some false
  else if [0x098, 0x0C8, 0x0E0, 0x150, 0x168, 0x170, 0x178, 0x180, 0x190, 0x198, 0x1A0, 0x1A8].contains off then some true
  else none

/-- A write to a defined register of a context page. -/
def State.writeCtxReg (s : State) (k : Fin 16) (p : Priv) (off : Nat) (v : Word) : State :=
  match ctxWritable off with
  | none => s
  | some tenant =>
    if p = .tenant ∧ tenant = false then s.accessError (ctxPage k) 0x02 p off
    else if off = 0x1A0 then s.writeDump k p v.toNat
    else if off = 0x1A8 then s.writeDebug k p v.toNat
    else match (s.ctx k).writeReg off v with
      | .inl code => s.accessError (ctxPage k) code p off
      | .inr c => s.setCtx k c

/-! ### The catchment table (R499–R501) -/

/-- A write of CATCH_CFG_k. -/
def State.writeCatchCfg (s : State) (k : Fin 16) (p : Priv) (v : Nat) : State :=
  let e := s.catch_ k
  if bit v 54 then
    (if e.valid && s.catchHeld k then s.accessError 0x2C 0x05 p (0x100 + 0x40 * k.val) else s.writeCommit k false true (Priv.detail p))
  else if e.valid then (if bit v 53 then s else s.accessError 0x2C 0x05 p (0x100 + 0x40 * k.val))
  else
    (s.setCatch k { e with
      cmid := bits v 11 0, be := bit v 12, horizon := bits v 21 16, ctids := BitVec.ofNat 8 (bits v 31 24)
      clusters := BitVec.ofNat 8 (bits v 39 32), share := bits v 49 40, staged := true }).writeCommit k (bit v 53) false 0

/-- A field of an entry other than CATCH_CFG_k and ROTA_CFG_k. -/
def Catch.writeField (e : Catch) (r : Nat) (v : Word) : Catch :=
  match r with
  | 1 => { e with lcids := v, staged := true }
  | 2 => { e with outSlots := v, staged := true }
  | 3 => { e with inSlots := v, staged := true }
  | 4 => { e with memSlots := v, staged := true }
  | _ => { e with inletQuota := bits v.toNat 12 0, horizonQuota := bits v.toNat 27 16, staged := true }

/-- A write to register r of entry k. -/
def State.writeCatch (s : State) (k : Fin 16) (r : Nat) (p : Priv) (v : Word) : State :=
  let e := s.catch_ k
  let off := 0x100 + 0x40 * k.val + 8 * r
  if r = 0 then s.writeCatchCfg k p v.toNat
  else if r = 6 then
    (if bits v.toNat 31 16 = 0 then s.accessError 0x2C 0x04 p off
     else s.setCatch k { e with autoEn := v.getLsbD 0, rotateTicks := bits v.toNat 31 16, staged := e.staged || !e.valid })
  else if r ≥ 7 then s
  else if e.valid then s.accessError 0x2C 0x05 p off
  else s.setCatch k (e.writeField r v)

/-! ### Time and external inputs (R52, R484, R507) -/

/-- A write of TIME_CTRL. -/
def State.writeTime (s : State) (v : Nat) : State :=
  if bit v 0 && !s.time.running then { s with time := { s.time with syncArm := true, armedAc := s.time.ac } } else s

/-- A write of EXT_IN_CFG or XTRIG_OUT_CFG. -/
def State.writeExt (s : State) (p : Priv) (off : Nat) (v : Nat) : State :=
  if off = 0x040 then
    (if bits v 15 0 = 0 ∨ bits v 31 16 = 0 ∨ bits v 33 32 = 3 then s.accessError 0x38 0x04 p off
     else { s with ext := { s.ext with cfg := BitVec.ofNat 64 (v % 2 ^ 34 + bits v 47 36 * 2 ^ 36) } })
  else if off = 0x048 then { s with ext := { s.ext with outCfg := BitVec.ofNat 64 (v % 64) } }
  else s

/-! ### One write -/

/-- A write to a defined page-specific register outside the context pages. -/
def State.writeSpecific (s : State) (p : Nat) (pr : Priv) (off : Nat) (v : Word) : State :=
  match p with
  | 0x02 => if off = 0x048 then s.writeTime v.toNat else s
  | 0x04 => if off = 0x040 then s.heartbeat pr v else s
  | 0x2C => if off = 0x040 then s else s.writeCatch (Fin.ofNat 16 ((off - 0x100) / 0x40)) ((off - 0x100) % 0x40 / 8) pr v
  | 0x34 => if off = 0x040 ∧ v.getLsbD 0 then s.clearFence pr else s
  | 0x38 => s.writeExt pr off v.toNat
  | _ => s

/-- A whole-word write that has passed the checks of R13, R14 and R468. -/
def State.write (s : State) (p : Fin 64) (pr : Priv) (off : Nat) (v : Word) : State :=
  if pageReserved p.val then s.accessError p 0x03 pr off
  else if off < 0x040 then (if pr = .tenant then s.accessError p 0x02 pr off else s.writeHeader p off v)
  else if !regDefined p.val off then s.accessError p 0x03 pr off
  else match slotOfPage p.val with
    | some k => s.writeCtxReg k pr off v
    | none => s.writeSpecific p.val pr off v

end Sys2Proof.Machine

namespace Sys2Proof

/-- Where an access lands (R468): through an aperture it carries T and reaches that slot's context page only. -/
def RegAccess.reach (a : RegAccess) : Priv × Fin 64 :=
  match a.aperture with
  | some k => (.tenant, Machine.ctxPage k)
  | none => (a.priv, a.page)

/-- The access error an access meets before any register is looked at (R13, R14, R468, R476). -/
def RegAccess.refusal (a : RegAccess) : Option Nat :=
  if a.aperture.isSome ∧ a.offset ≥ 0x1000 then some 0x02
  else if a.bytes ≠ 8 ∨ a.offset % 8 ≠ 0 then some 0x01
  else if a.reach.1 = .tenant ∧ (Machine.slotOfPage a.reach.2.val).isNone then some 0x02
  else none

end Sys2Proof

namespace Sys2Proof.Machine

/-- REGISTER_WRITE. -/
def State.registerWrite (s : State) (a : RegAccess) (v : Word) : State :=
  let (pr, p) := a.reach
  let s := s.serve p
  match a.refusal with
  | some code => s.accessError p code pr a.offset
  | none => s.write p pr a.offset v

def execRegisterWrite (a : RegAccess) (value : Word) (s : State) : Host.Outcome State Fault Refusal := .next (s.registerWrite a value)

/-! ### One read -/

/-- A read of OBS_PEAK: the peaks before the updates of this ac, and those updates stay (R17, R503). -/
def State.readPeak (s : State) : State :=
  let v := (s.obs.peakRead s.time.ac).word
  { s with
    readData := BitVec.ofNat 64 v
    obs := { s.obs with peaks := {}, newPeaks := if s.obs.peakAc = s.time.ac then s.obs.newPeaks else {} } }

/-- A whole-word read that has passed the checks of R13, R14 and R468. -/
def State.read (s : State) (p : Fin 64) (off : Nat) : State :=
  if off = 0x038 then s.readErr p
  else if p = 0x32 ∧ off = 0x058 then s.readPeak
  else
    let v := if off < 0x040 then s.readHeader p off else if regDefined p.val off then s.readSpecific p.val off else 0
    { s with readData := BitVec.ofNat 64 v }

/-- REGISTER_READ. -/
def State.registerRead (s : State) (a : RegAccess) : State :=
  let (pr, p) := a.reach
  let s := s.serve p
  match a.refusal with
  | some code => { s.accessError p code pr a.offset with readData := 0 }
  | none => s.read p a.offset

def execRegisterRead (a : RegAccess) (s : State) : Host.Outcome State Fault Refusal := .next (s.registerRead a)

/-! ### The rows that are accesses to one register -/

/-- A whole-word access of a privilege to one register. -/
def access (p : Priv) (page : Fin 64) (off : Nat) : RegAccess := { priv := p, page := page, offset := off }

/-- SYNC_ARM. -/
def execSyncArm (p : Priv) (s : State) : Host.Outcome State Fault Refusal := .next (s.registerWrite (access p 0x02 0x048) 1)

/-- PAGE_ENABLE. -/
def execPageEnable (p : Priv) (page : Fin 64) (s : State) : Host.Outcome State Fault Refusal :=
  .next (s.registerWrite (access p page 0x010) 1)

/-- PAGE_DISABLE. -/
def execPageDisable (p : Priv) (page : Fin 64) (s : State) : Host.Outcome State Fault Refusal :=
  .next (s.registerWrite (access p page 0x010) 0)

/-- PAGE_DRAIN_END: the page is OFF, and a pending enable is taken at the slot boundary that follows (R332, R473, R508). -/
def State.pageDrainEnd (s : State) (p : Nat) : State :=
  match p with
  | 0x30 => match s.obs.run with
    | .draining e => if e ≤ s.time.ac then { s with obs := { s.obs with run := .off } } else s
    | _ => s
  | 0x38 => match s.extRun with
    | .draining e => if max e (s.ext.outUntil.getD 0) ≤ s.time.ac then { s with extRun := .off, ext := { s.ext with outUntil := none } } else s
    | _ => s
  | _ => s

def execPageDrainEnd (page : Fin 64) (s : State) : Host.Outcome State Fault Refusal := .next (s.pageDrainEnd page.val)

/-- EVT_RAW_CLEAR. -/
def execEvtRawClear (p : Priv) (page : Fin 64) (value : Word) (s : State) : Host.Outcome State Fault Refusal :=
  .next (s.registerWrite (access p page 0x020) value)

/-- EVT_FORCE. -/
def execEvtForce (p : Priv) (page : Fin 64) (value : Word) (s : State) : Host.Outcome State Fault Refusal :=
  .next (s.registerWrite (access p page 0x030) value)

/-- PAGE_ERR_READ. -/
def execPageErrRead (p : Priv) (page : Fin 64) (s : State) : Host.Outcome State Fault Refusal :=
  .next (s.registerRead (access p page 0x038))

/-- OBS_PEAK_READ. -/
def execObsPeakRead (p : Priv) (s : State) : Host.Outcome State Fault Refusal := .next (s.registerRead (access p 0x32 0x058))

/-- CATCH_COMMIT: a write of CATCH_CFG_k with commit set. -/
def execCatchCommit (p : Priv) (k : Fin 16) (value : Word) (s : State) : Host.Outcome State Fault Refusal :=
  .next (s.registerWrite (access p 0x2C (0x100 + 0x40 * k.val)) (value ||| BitVec.ofNat 64 (2 ^ 53)))

/-- CATCH_RELEASE: a write of CATCH_CFG_k with release set. -/
def execCatchRelease (p : Priv) (k : Fin 16) (value : Word) (s : State) : Host.Outcome State Fault Refusal :=
  .next (s.registerWrite (access p 0x2C (0x100 + 0x40 * k.val)) (value ||| BitVec.ofNat 64 (2 ^ 54)))

/-- TRACE_ARM: a write of CTX_TRACE_CTRL with arm set. -/
def execTraceArm (p : Priv) (slot : Fin 16) (value : Word) (s : State) : Host.Outcome State Fault Refusal :=
  .next (s.registerWrite (access p (ctxPage slot) 0x150) (value ||| BitVec.ofNat 64 (2 ^ 20)))

/-- TRACE_FLUSH: a write of CTX_TRACE_CTRL with flush set. -/
def execTraceFlush (p : Priv) (slot : Fin 16) (value : Word) (s : State) : Host.Outcome State Fault Refusal :=
  .next (s.registerWrite (access p (ctxPage slot) 0x150) (value ||| BitVec.ofNat 64 (2 ^ 21)))

/-- DUMP_SUBMIT: a write of CTX_DUMP_CMD with submit set. -/
def execDumpSubmit (p : Priv) (slot : Fin 16) (value : Word) (s : State) : Host.Outcome State Fault Refusal :=
  .next (s.registerWrite (access p (ctxPage slot) 0x1A0) (value ||| 1))

/-- DEBUG_RESUME: a write of CTX_DEBUG with resume set. -/
def execDebugResume (p : Priv) (slot : Fin 16) (value : Word) (s : State) : Host.Outcome State Fault Refusal :=
  .next (s.registerWrite (access p (ctxPage slot) 0x1A8) (value ||| 1))

end Sys2Proof.Machine
end

