-- ==== Sys2Proof/Machine/Dispatch.lean ====
section
/-! DEFINITION. The meaning of each command, one arm per row of the table, in the table's order. -/

namespace Sys2Proof.Machine

def exec (i : Instr) (s : State) : Host.Outcome State Fault Refusal :=
  match i with
  | .dieReset => Sys2Proof.Machine.execDieReset s
  | .configImage img malformed signatureOk chainOk rangeOffset firmwareRefusal => Sys2Proof.Machine.execConfigImage img malformed signatureOk chainOk rangeOffset firmwareRefusal s
  | .selfTestDone railsOk comparatorsOk secdedBad => Sys2Proof.Machine.execSelfTestDone railsOk comparatorsOk secdedBad s
  | .sramScrubDone bad => Sys2Proof.Machine.execSramScrubDone bad s
  | .keyDerivation puf => Sys2Proof.Machine.execKeyDerivation puf s
  | .topologyReport far delays lanes => Sys2Proof.Machine.execTopologyReport far delays lanes s
  | .ready => Sys2Proof.Machine.execReady s
  | .fenceClear p => Sys2Proof.Machine.execFenceClear p s
  | .fenceClearDone railsOk comparatorsOk secdedBad bad stewardStoreOk => Sys2Proof.Machine.execFenceClearDone railsOk comparatorsOk secdedBad bad stewardStoreOk s
  | .syncEdge => Sys2Proof.Machine.execSyncEdge s
  | .gtcStart => Sys2Proof.Machine.execGtcStart s
  | .xtrigEdge => Sys2Proof.Machine.execXtrigEdge s
  | .inputStuck x => Sys2Proof.Machine.execInputStuck x s
  | .inputStuckClear x => Sys2Proof.Machine.execInputStuckClear x s
  | .xtrigOutEnd => Sys2Proof.Machine.execXtrigOutEnd s
  | .clockRestart elapsed => Sys2Proof.Machine.execClockRestart elapsed s
  | .gtcBoundary => Sys2Proof.Machine.execGtcBoundary s
  | .lagLimitTest => Sys2Proof.Machine.execLagLimitTest s
  | .marginStart b => Sys2Proof.Machine.execMarginStart b s
  | .tickStart t => Sys2Proof.Machine.execTickStart t s
  | .thermalFractionRise => Sys2Proof.Machine.execThermalFractionRise s
  | .thermalExcursion tenths => Sys2Proof.Machine.execThermalExcursion tenths s
  | .currentLimitPersist => Sys2Proof.Machine.execCurrentLimitPersist s
  | .rotation cmid => Sys2Proof.Machine.execRotation cmid s
  | .idleBeatSend slot member => Sys2Proof.Machine.execIdleBeatSend slot member s
  | .headwaterLoss slot => Sys2Proof.Machine.execHeadwaterLoss slot s
  | .slotBoundary b => Sys2Proof.Machine.execSlotBoundary b s
  | .teardownScrubEnd slot => Sys2Proof.Machine.execTeardownScrubEnd slot s
  | .startDecision ilimit railsAgree => Sys2Proof.Machine.execStartDecision ilimit railsAgree s
  | .pondCrcResult lcid entry ok crc => Sys2Proof.Machine.execPondCrcResult lcid entry ok crc s
  | .taskEnd lcid r => Sys2Proof.Machine.execTaskEnd lcid r s
  | .windowClose lcid => Sys2Proof.Machine.execWindowClose lcid s
  | .coreHalted lcid drained => Sys2Proof.Machine.execCoreHalted lcid drained s
  | .cntInc lcid vid increment => Sys2Proof.Machine.execCntInc lcid vid increment s
  | .cntTake lcid vid => Sys2Proof.Machine.execCntTake lcid vid s
  | .cntRead lcid vid => Sys2Proof.Machine.execCntRead lcid vid s
  | .cntWait lcid vid target => Sys2Proof.Machine.execCntWait lcid vid target s
  | .cntWaitRelease lcid => Sys2Proof.Machine.execCntWaitRelease lcid s
  | .ripple lcid dest vid increment dmv1 => Sys2Proof.Machine.execRipple lcid dest vid increment dmv1 s
  | .ringOpen lcid ring persist => Sys2Proof.Machine.execRingOpen lcid ring persist s
  | .ringClose lcid ring => Sys2Proof.Machine.execRingClose lcid ring s
  | .send lcid ring units tag check epoch payload => Sys2Proof.Machine.execSend lcid ring units tag check epoch payload s
  | .sendAccept lcid => Sys2Proof.Machine.execSendAccept lcid s
  | .messageWritten cluster => Sys2Proof.Machine.execMessageWritten cluster s
  | .recv lcid rings rotation poll => Sys2Proof.Machine.execRecv lcid rings rotation poll s
  | .recvRelease lcid => Sys2Proof.Machine.execRecvRelease lcid s
  | .release lcid ring => Sys2Proof.Machine.execRelease lcid ring s
  | .cflDrain lcid first count format dest clear => Sys2Proof.Machine.execCflDrain lcid first count format dest clear s
  | .cflExport lcid first count dest cluster destFirst clear => Sys2Proof.Machine.execCflExport lcid first count dest cluster destFirst clear s
  | .cflClear lcid first count => Sys2Proof.Machine.execCflClear lcid first count s
  | .cflCommandBegin cluster => Sys2Proof.Machine.execCflCommandBegin cluster s
  | .fetchHandoff lcid => Sys2Proof.Machine.execFetchHandoff lcid s
  | .traceMark lcid value trigger => Sys2Proof.Machine.execTraceMark lcid value trigger s
  | .invalidCommand lcid code => Sys2Proof.Machine.execInvalidCommand lcid code s
  | .pairRecord lcid pairs => Sys2Proof.Machine.execPairRecord lcid pairs s
  | .confluenceScrub cluster => Sys2Proof.Machine.execConfluenceScrub cluster s
  | .moverEntryComplete lcid index crc block => Sys2Proof.Machine.execMoverEntryComplete lcid index crc block s
  | .setFlags ctid nextStep node flags => Sys2Proof.Machine.execSetFlags ctid nextStep node flags s
  | .waitFlags ctid mask any => Sys2Proof.Machine.execWaitFlags ctid mask any s
  | .waitCounter ctid vid target => Sys2Proof.Machine.execWaitCounter ctid vid target s
  | .yield ctid => Sys2Proof.Machine.execYield ctid s
  | .endThread ctid status => Sys2Proof.Machine.execEndThread ctid status s
  | .breakThread ctid id => Sys2Proof.Machine.execBreakThread ctid id s
  | .reservedThreadCommand ctid code => Sys2Proof.Machine.execReservedThreadCommand ctid code s
  | .openRecord lcid record => Sys2Proof.Machine.execOpenRecord lcid record s
  | .choiceRecord lcid record => Sys2Proof.Machine.execChoiceRecord lcid record s
  | .closeRecord lcid record => Sys2Proof.Machine.execCloseRecord lcid record s
  | .jobPublish slot => Sys2Proof.Machine.execJobPublish slot s
  | .stagingIssue slot node => Sys2Proof.Machine.execStagingIssue slot node s
  | .rippleReceived h vid increment => Sys2Proof.Machine.execRippleReceived h vid increment s
  | .landingNotice h l => Sys2Proof.Machine.execLandingNotice h l s
  | .wideLanding h cluster index word => Sys2Proof.Machine.execWideLanding h cluster index word s
  | .forwardedPair h cluster record => Sys2Proof.Machine.execForwardedPair h cluster record s
  | .tickSeal h => Sys2Proof.Machine.execTickSeal h s
  | .controlSeal h => Sys2Proof.Machine.execControlSeal h s
  | .beaconSend => Sys2Proof.Machine.execBeaconSend s
  | .beacon port gtc refOffset seq => Sys2Proof.Machine.execBeacon port gtc refOffset seq s
  | .beaconLoss => Sys2Proof.Machine.execBeaconLoss s
  | .calibrationResult lanes delays => Sys2Proof.Machine.execCalibrationResult lanes delays s
  | .portChange port far lanes => Sys2Proof.Machine.execPortChange port far lanes s
  | .fetchRequest h f => Sys2Proof.Machine.execFetchRequest h f s
  | .stepStart h step template changes => Sys2Proof.Machine.execStepStart h step template changes s
  | .stepReport h step cancelled b r1 r2 => Sys2Proof.Machine.execStepReport h step cancelled b r1 r2 s
  | .blockedReport h blocked => Sys2Proof.Machine.execBlockedReport h blocked s
  | .cancelMessage h step => Sys2Proof.Machine.execCancelMessage h step s
  | .freezeMessage h tick => Sys2Proof.Machine.execFreezeMessage h tick s
  | .thawMessage h => Sys2Proof.Machine.execThawMessage h s
  | .resumeMessage h gtc => Sys2Proof.Machine.execResumeMessage h gtc s
  | .restoreReport h serial ok => Sys2Proof.Machine.execRestoreReport h serial ok s
  | .teardownMessage h code member => Sys2Proof.Machine.execTeardownMessage h code member s
  | .idleBeat h => Sys2Proof.Machine.execIdleBeat h s
  | .joinMessage h index hash summary => Sys2Proof.Machine.execJoinMessage h index hash summary s
  | .refuse h index reason => Sys2Proof.Machine.execRefuse h index reason s
  | .confirm m => Sys2Proof.Machine.execConfirm m s
  | .abort h => Sys2Proof.Machine.execAbort h s
  | .lockstepHello h horizon launch index => Sys2Proof.Machine.execLockstepHello h horizon launch index s
  | .digestMessage h tick d => Sys2Proof.Machine.execDigestMessage h tick d s
  | .lockstepList h tick entries => Sys2Proof.Machine.execLockstepList h tick entries s
  | .lockstepHalt h => Sys2Proof.Machine.execLockstepHalt h s
  | .haltRelay h cause bp => Sys2Proof.Machine.execHaltRelay h cause bp s
  | .load h r => Sys2Proof.Machine.execLoad h r s
  | .manifest h bytes => Sys2Proof.Machine.execManifest h bytes s
  | .freeze h addr length release => Sys2Proof.Machine.execFreeze h addr length release s
  | .freezeSaveBegin slot => Sys2Proof.Machine.execFreezeSaveBegin slot s
  | .freezeSaveEnd slot => Sys2Proof.Machine.execFreezeSaveEnd slot s
  | .freezeScrubEnd slot => Sys2Proof.Machine.execFreezeScrubEnd slot s
  | .thaw h r => Sys2Proof.Machine.execThaw h r s
  | .restoreEnd slot image => Sys2Proof.Machine.execRestoreEnd slot image s
  | .teardown h => Sys2Proof.Machine.execTeardown h s
  | .cancel h step => Sys2Proof.Machine.execCancel h step s
  | .join h r => Sys2Proof.Machine.execJoin h r s
  | .leave h r => Sys2Proof.Machine.execLeave h r s
  | .importSeq h r => Sys2Proof.Machine.execImportSeq h r s
  | .appendCount h globalId tokens => Sys2Proof.Machine.execAppendCount h globalId tokens s
  | .setFlag h step node flags => Sys2Proof.Machine.execSetFlag h step node flags s
  | .runRecord h => Sys2Proof.Machine.execRunRecord h s
  | .fwUpdate h image => Sys2Proof.Machine.execFwUpdate h image s
  | .step h template count => Sys2Proof.Machine.execStep h template count s
  | .stillWater slot => Sys2Proof.Machine.execStillWater slot s
  | .waitForGraph slot => Sys2Proof.Machine.execWaitForGraph slot s
  | .watchdogTeardownLimit slot => Sys2Proof.Machine.execWatchdogTeardownLimit slot s
  | .stewardHeartbeat p value => Sys2Proof.Machine.execStewardHeartbeat p value s
  | .heartbeatLate => Sys2Proof.Machine.execHeartbeatLate s
  | .stewardWatchdog => Sys2Proof.Machine.execStewardWatchdog s
  | .fwActivate => Sys2Proof.Machine.execFwActivate s
  | .fwReverted => Sys2Proof.Machine.execFwReverted s
  | .sramError e => Sys2Proof.Machine.execSramError e s
  | .pcSample slot samples => Sys2Proof.Machine.execPcSample slot samples s
  | .cmdBegin lcid engine opcode latched => Sys2Proof.Machine.execCmdBegin lcid engine opcode latched s
  | .cmdEnd lcid engine opcode latched => Sys2Proof.Machine.execCmdEnd lcid engine opcode latched s
  | .chunkDrain slot => Sys2Proof.Machine.execChunkDrain slot s
  | .chunkWritten slot => Sys2Proof.Machine.execChunkWritten slot s
  | .traceArm p slot value => Sys2Proof.Machine.execTraceArm p slot value s
  | .traceFlush p slot value => Sys2Proof.Machine.execTraceFlush p slot value s
  | .dumpSubmit p slot value => Sys2Proof.Machine.execDumpSubmit p slot value s
  | .debugResume p slot value => Sys2Proof.Machine.execDebugResume p slot value s
  | .syncArm p => Sys2Proof.Machine.execSyncArm p s
  | .pageEnable p page => Sys2Proof.Machine.execPageEnable p page s
  | .pageDisable p page => Sys2Proof.Machine.execPageDisable p page s
  | .pageDrainEnd page => Sys2Proof.Machine.execPageDrainEnd page s
  | .evtRawClear p page value => Sys2Proof.Machine.execEvtRawClear p page value s
  | .evtForce p page value => Sys2Proof.Machine.execEvtForce p page value s
  | .pageErrRead p page => Sys2Proof.Machine.execPageErrRead p page s
  | .obsPeakRead p => Sys2Proof.Machine.execObsPeakRead p s
  | .catchCommit p k value => Sys2Proof.Machine.execCatchCommit p k value s
  | .catchRelease p k value => Sys2Proof.Machine.execCatchRelease p k value s
  | .registerWrite a value => Sys2Proof.Machine.execRegisterWrite a value s
  | .loadComplete slot cache input => Sys2Proof.Machine.execLoadComplete slot cache input s
  | .registerRead a => Sys2Proof.Machine.execRegisterRead a s

end Sys2Proof.Machine
end

