-- ==== Sys2Proof/Safety.lean ====
section
/-! DEFINITION. What counts as a safe run, in the terms the statements use. -/

namespace Sys2Proof.Machine

/-- The memories of a state are in their canonical form. -/
structure State.Sound (s : State) : Prop where
  mem : Memory.wf s.mem
  spad : Memory.wf s.spad

/-- What no command but DIE_RESET may do: touch the queue of waiting commands; change the configuration image once it is in (R38, R460);
break the canonical form of a memory; take back READY (R462); derive the key pair again or change its public point (R400); run the arithmetic clock backwards (R41). -/
structure Carries (s t : State) : Prop where
  pending : t.pending = s.pending
  config : s.config.isSome = true → t.config = s.config
  mem : Memory.wf s.mem → Memory.wf t.mem
  spad : Memory.wf s.spad → Memory.wf t.spad
  ready : s.boot.ready = true → t.boot.ready = true
  ac : s.time.ac ≤ t.time.ac
  key : s.boot.key.isSome = true → t.boot.key = s.boot.key ∧
    (t.steward.privateKey, t.steward.publicX, t.steward.publicY) = (s.steward.privateKey, s.steward.publicX, s.steward.publicY)

/-- `Carries`, and a fenced die stays fenced: what no command but DIE_RESET and FENCE_CLEAR_DONE may break (R396, R464). -/
structure Keeps (s t : State) : Prop extends Carries s t where
  fenced : s.safety.fenced = true → t.safety.fenced = true

/-! ### Frames -/

/-- `t` differs from `s` in the context of slot `k` alone. -/
structure OnlyCtx (k : Fin 16) (s t : State) : Prop where
  rest : t = { s with ctxs := t.ctxs }
  others : ∀ j, j ≠ k → t.ctx j = s.ctx j

/-- `t` differs from `s` in compute core `l` alone. -/
structure OnlyCore (l : Fin 64) (s t : State) : Prop where
  rest : t = { s with cores := t.cores }
  others : ∀ j, j ≠ l → t.core j = s.core j

/-- `t` differs from `s` in the thread frame `f` of control core `c` and in the progress mark of context `k` alone. -/
structure OnlyFrame (c f : Fin 8) (k : Fin 16) (s t : State) : Prop where
  rest : t = { s with ctrl := t.ctrl, ctxs := t.ctxs }
  frames : ∀ d g, (d, g) ≠ (c, f) → t.frame d g = s.frame d g
  others : ∀ j, j ≠ k → t.ctx j = s.ctx j
  ctx : t.ctx k = { s.ctx k with progress := true }

/-- `t` differs from `s` in catchment table entry `k` alone. -/
structure OnlyCatch (k : Fin 16) (s t : State) : Prop where
  rest : t = { s with catches := t.catches }
  others : ∀ j, j ≠ k → t.catch_ j = s.catch_ j

/-- `t` differs from `s` in cluster unit `k` alone. -/
structure OnlyUnit (k : Fin 8) (s t : State) : Prop where
  rest : t = { s with units := t.units }
  others : ∀ j, j ≠ k → t.unit j = s.unit j

/-- The state once an access to page `p` has been served in this ac, with nothing else changed (R465). -/
def State.accessed (s : State) (p : Fin 64) : State := s.setPage p { s.page p with served := some s.time.ac }

/-- Of the pages, `t` differs from `s` in page `p` alone, and there in neither the mask nor the errors. -/
def OnlyEvents (p : Fin 64) (s t : State) : Prop :=
  (∀ q, q ≠ p → t.page q = s.page q) ∧ (t.page p).mask = (s.page p).mask ∧ (t.page p).errCode = (s.page p).errCode ∧
    (t.page p).errDetail = (s.page p).errDetail ∧ (t.page p).errCount = (s.page p).errCount

/-- Of the pages, `t` differs from `s` in page `p` alone, where one more error is counted and no event and no mask changes. -/
def OnlyError (p : Fin 64) (s t : State) : Prop :=
  (∀ q, q ≠ p → t.page q = s.page q) ∧ (t.page p).mask = (s.page p).mask ∧ (t.page p).raw = (s.page p).raw ∧
    (t.page p).errCount = (s.page p).errCount + 1

/-- A register write that is discarded: nothing changes but the error counted on the page it reaches, with its code where it is the first. -/
def WriteRefused (a : RegAccess) (v : Word) (code : Nat) (s : State) : Prop :=
  ∃ t, exec (.registerWrite a v) s = .next t ∧ t = { s with pages := t.pages } ∧ OnlyError a.reach.2 s t ∧
    ((s.page a.reach.2).errCount = 0 → (t.page a.reach.2).errCode = code)

/-- A context with another ac noted at which a wait for horizon credits began (R440). -/
def Ctx.creditsSince (c : Ctx) (n : Nat) : Ctx := { c with began := { c.began with credits := n } }

/-- The contexts of slots other than `k` are those of `s`, but for the ac at which a wait for horizon credits began: a message that enters
or leaves the queue can begin one for any context. -/
def OthersStand (k : Fin 16) (s t : State) : Prop := ∀ j, j ≠ k → ∃ n, t.ctx j = (s.ctx j).creditsSince n

/-- A die fenced with a code (R395): the window reads fenced, every core is halted, and every context on the die has a fault. -/
structure Fenced (code : Nat) (t : State) : Prop where
  fenced : t.safety.fenced = true
  code : t.safety.fenceCode = code
  window : t.sluice.windowState = 2
  cores : ∀ l, (t.core l).halted = true
  ctxs : ∀ k, (t.ctx k).phase ≠ .empty → (t.ctx k).fault.isSome = true

/-- A run of steps that none of them stops. -/
def runs : Nat → State → Option State
  | 0, s => some s
  | n + 1, s => match step s with
    | .next t => runs n t
    | _ => none

end Sys2Proof.Machine
end

