-- ==== Sys2Proof/Certificates/Slice0/Obligations.lean ====
section
/-! DEFINITION. The statements about the model that the provers settle: each is one proposition, its docstring names the rules of the spec it
rests on. Where a clause rests on a choice of the model, the docstring names the log entry. -/

open Sys2Proof Sys2Proof.Machine

/-! ### The queue and the step -/

/-- One step takes the command at the front of the queue and runs it with the rest waiting. -/
def Obligations.StepTakesFront : Prop :=
  ∀ (c : Instr) (rest : List Instr) (s : State), s.pending = c :: rest → step s = exec c { s with pending := rest }

/-- With no command waiting one ac passes within the slot, the margin or the time before the first tick, and none past its last ac. That a
step on an empty queue is one ac is the model's choice (log entry 16). -/
def Obligations.IdleStep : Prop :=
  ∀ s : State, s.pending = [] →
    (s.acLeft = some 0 → step s = .next s) ∧
    (s.acLeft ≠ some 0 → ∃ t, step s = .next t ∧ t.pending = [] ∧ t.time.ac = s.time.ac + 1 ∧ t.time.ref = s.time.nextRef ∧
      t.time.gtc = s.time.gtc ∧ t.time.localTick = s.time.localTick ∧ t.time.slot = s.time.slot ∧ t.time.inMargin = s.time.inMargin)

/-- What every command but DIE_RESET and FENCE_CLEAR_DONE keeps: the queue behind it, the configuration image once it is in (R460), the
canonical form of both memories (log entry 1), READY (R462), the key pair and its public point (R399), the run of the arithmetic clock (R41) and the fence (R396, R464). -/
def Obligations.CommandsKeep : Prop :=
  ∀ (c : Instr) (s t : State), c ≠ .dieReset → (∀ a b d e f, c ≠ .fenceClearDone a b d e f) → exec c s = .next t → Keeps s t

/-- From every sound state a step gives a sound state: both memories keep the one form in which equal contents are equal data. That a memory is
a list of cells in that form is the model's representation, no rule of the spec (log entry 1). -/
def Obligations.StepKeepsSound : Prop :=
  ∀ s t : State, s.Sound → step s = .next t → t.Sound

/-- A fence ends with a reset, or with a clear whose self-test, scrub and store check have all passed; nothing else ends it (R396, R464). -/
def Obligations.FenceEndsOnlyByClear : Prop :=
  ∀ (c : Instr) (s t : State), exec c s = .next t → s.safety.fenced = true → t.safety.fenced = false →
    c = .dieReset ∨ (c = .fenceClearDone true true none none true ∧ s.boot.clearing = true)

/-- The steward's key pair and its public point never change once stage 6 has ended, whatever steps follow that are no reset: over any run of
commands without DIE_RESET the private key stays what it was (R399, R401). -/
def Obligations.KeyNeverChanges : Prop :=
  ∀ (n : Nat) (s t : State), (∀ c ∈ s.pending, c ≠ .dieReset) → s.boot.key.isSome = true → runs n s = some t →
    t.boot.key = s.boot.key ∧ t.steward.privateKey = s.steward.privateKey ∧ t.steward.publicX = s.steward.publicX ∧
    t.steward.publicY = s.steward.publicY

/-! ### Reset and start-up (R461) -/

/-- The machine after reset: no command waits, no image is in, the die is neither ready nor fenced, no tick has begun, every context slot is
Empty, every event mask holds every defined bit, no event and no error stands (R302, R461, R473, R474, R476). Both memories have their canonical form at reset. DIE_RESET brings every part of the die to its reset value (R461); what it leaves alone, the bytes of external memory, the freeze images in it and
the commands that wait, is the model's reading (log entry 17). -/
def Obligations.Reset : Prop :=
  (State.reset.pending = [] ∧ State.reset.config = none ∧ State.reset.boot.ready = false ∧ State.reset.safety.fenced = false ∧
   State.reset.time.running = false ∧ State.reset.time.tickRunning = false ∧ (∀ k, (State.reset.ctx k).phase = .empty) ∧
   (∀ p, (State.reset.page p).mask = eventMask p.val ∧ (State.reset.page p).raw = 0 ∧ (State.reset.page p).errCode = 0 ∧
     (State.reset.page p).errCount = 0) ∧
   State.reset.extRun = .off ∧ State.reset.obs.run = .starting ∧ State.reset.steward.state = 0 ∧ State.reset.steward.log = []) ∧
  (State.reset.Sound) ∧
  (∀ s : State, ∃ t, exec .dieReset s = .next t ∧ t = { State.reset with pending := s.pending, mem := s.mem, images := s.images } ∧
     (∀ a, t.mem.read a = s.mem.read a) ∧ ∀ a, t.spad.read a = 0)

/-- CONFIG_IMAGE with every check passed: the image is kept with the canonical core map where it gives none, the steward runs the image's
firmware, page 0x38 is ON, the window state is starting, both heads, the reserved bytes of the window's header and bytes 0–7 of every submission slot are zero, and no byte outside the
window's first 0x8000 changes (R10, R444, R460, R461 stages 1 to 3, R473). The first check of CONFIG_IMAGE that fails gives the code of PAGE_ERR on page 0x01, with its detail, and the die stays OFF; no window is
written (R461, R476). -/
def Obligations.StageOne : Prop :=
  (∀ (c : ConfigImage) (off : Nat) (s : State), s.config = none → s.boot.failed = false → c.inRange = true →
     ∃ t, exec (.configImage c none true true off none) s = .next t ∧
       t.config = some { c with coreMap := if c.coreMap.isEmpty then canonicalMap c.disabled else c.coreMap } ∧
       t.boot = { s.boot with configured := true } ∧ t.steward.state = 1 ∧ t.steward.running = c.firmware ∧ t.extRun = .on ∧
       t.sluice.windowState = 0 ∧ t.sluice.head = 0 ∧ t.steward.areaHead = 0 ∧
       (Memory.wf s.mem → (∀ (k : Fin 16) (i : Nat), i < 8 → t.mem.read (c.window + 0x1000 + k.val * 1024 + i) = 0) ∧
         (∀ i, 112 ≤ i → i < 4096 → t.mem.read (c.window + i) = 0) ∧
         ∀ a, (a < c.window ∨ c.window + 0x8000 ≤ a) → t.mem.read a = s.mem.read a) ∧
       t = { s with config := t.config, boot := t.boot, steward := t.steward, ext := t.ext, extRun := t.extRun, sluice := t.sluice, mem := t.mem }) ∧
  (∀ (c : ConfigImage) (malformed : Option Nat) (sig chain : Bool) (off : Nat) (fw : Option Nat) (s : State) (code detail : Nat),
     s.config = none → s.boot.failed = false →
     (match malformed with
       | some o => code = 0x10 ∧ detail = o
       | none => if sig = false then code = 0x11 ∧ detail = 0
         else if chain = false then code = 0x12 ∧ detail = 0
         else if c.inRange = false then code = 0x13 ∧ detail = off
         else code = 0x14 ∧ fw = some detail) →
     ∃ t, exec (.configImage c malformed sig chain off fw) s = .next t ∧ t.boot = { s.boot with failed := true } ∧
       (t.page 0x01).errCount = (s.page 0x01).errCount + 1 ∧
       ((s.page 0x01).errCount = 0 → (t.page 0x01).errCode = code ∧ (t.page 0x01).errDetail = detail % 2 ^ 32) ∧
       (∀ p, p ≠ 0x01 → t.page p = s.page p) ∧ t.mem = s.mem ∧ t.ctxs = s.ctxs ∧ t.sluice = s.sluice ∧ t.steward = s.steward ∧
       (code ≠ 0x14 → t.config = none))

/-- CONFIG_IMAGE on a die that is OFF and has taken no image completes for every image and every outcome of its checks, with the machine's next state: the image is refused
with the code of the first check that fails, or kept, and then the steward starts and the window is written. Once an image is in, or one was refused, a further
one changes nothing until a reset, and an image refused with 0x14 is kept: both are the model's reading (log entry 96; R460, R461). -/
def Obligations.ConfigImageCompletes : Prop :=
  ∀ (c : ConfigImage) (s : State),
    (s.config = none → s.boot.failed = false →
      (c.inRange = true → ∀ off, exec (.configImage c none true true off none) s = .next (s.keepImage c).startSteward.initWindow) ∧
      (c.inRange = true → ∀ off r, exec (.configImage c none true true off (some r)) s = .next ((s.keepImage c).refuseImage 0x14 r)) ∧
      (c.inRange = false → ∀ off fw, exec (.configImage c none true true off fw) s = .next (s.refuseImage 0x13 off)) ∧
      (∀ off fw, exec (.configImage c none true false off fw) s = .next (s.refuseImage 0x12 0)) ∧
      (∀ chain off fw, exec (.configImage c none false chain off fw) s = .next (s.refuseImage 0x11 0)) ∧
      ∀ m sig chain off fw, exec (.configImage c (some m) sig chain off fw) s = .next (s.refuseImage 0x10 m)) ∧
    (s.config.isSome = true ∨ s.boot.failed = true → ∀ malformed sig chain off fw, exec (.configImage c malformed sig chain off fw) s = .next s) ∧
    (∀ malformed sig chain off fw, ∃ t, exec (.configImage c malformed sig chain off fw) s = .next t ∧ t.pending = s.pending ∧ t.time = s.time ∧
      t.ctxs = s.ctxs ∧ t.spad = s.spad ∧
      (s.config = none → s.boot.failed = false → (t.boot.configured = true ∧ t.config.isSome = true) ∨ t.boot.failed = true))

/-- SELF_TEST_DONE and SRAM_SCRUB_DONE end their stage where everything passed, and change nothing else (R461 stages 4 and 5). TOPOLOGY_REPORT takes the far end, the link delay and the lanes of each of the five ports, which count at once where no tick runs, and
from the next tick start otherwise (R343, R461 stage 7, R509). KEY_DERIVATION with a corrected PUF value: d is the key of R399 and Q = d·G; where Q is the certificate's key the pair is kept, and otherwise
the die goes to FAULT with the window fenced (R399, R400, R461 stage 6). -/
def Obligations.StartupStages : Prop :=
  (∀ s : State, s.safety.fenced = false →
     (s.boot.configured = true → s.boot.selfTest = false →
       exec (.selfTestDone true true none) s = .next { s with boot := { s.boot with selfTest := true } }) ∧
     (s.boot.selfTest = true → s.boot.scrub = false →
       exec (.sramScrubDone none) s = .next { s with boot := { s.boot with scrub := true } })) ∧
  (∀ (far delays lanes : List Nat) (s : State), s.boot.configured = true → s.boot.topology = false →
     ∃ t, exec (.topologyReport far delays lanes) s = .next t ∧ t.boot = { s.boot with topology := true } ∧
       (∀ p, p < 5 → t.time.far[p]? = some (far.getD p 0xFFFFFFFF) ∧ t.time.linkDelay[p]? = some (delays.getD p 0) ∧
         (s.time.tickRunning = false → t.time.lanes[p]? = some (lanes.getD p 0)) ∧
         (s.time.tickRunning = true → ∃ ns, t.time.nextLanes = some ns ∧ ns[p]? = some (lanes.getD p 0))) ∧
       (s.time.tickRunning = false → t.time.nextLanes = s.time.nextLanes) ∧ (s.time.tickRunning = true → t.time.lanes = s.time.lanes) ∧
       t = { s with boot := t.boot, time := { s.time with
         far := t.time.far, linkDelay := t.time.linkDelay, lanes := t.time.lanes, nextLanes := t.time.nextLanes } }) ∧
  (∀ (puf : BitVec 256) (s : State), s.boot.scrub = true → s.boot.key = none → s.safety.fenced = false →
     ∃ t, exec (.keyDerivation (some puf)) s = .next t ∧
       t.boot.key = some (decide (pointMul 384 (instanceKey puf) (some p384G) = some (s.cfg.certX, s.cfg.certY))) ∧
       (t.boot.key = some true → t.steward.privateKey = instanceKey puf ∧ t.steward.publicX = s.cfg.certX ∧ t.steward.publicY = s.cfg.certY ∧
         t = { s with boot := t.boot, steward := t.steward }) ∧
       (t.boot.key = some false → t.sluice.windowState = 2 ∧ t.steward.privateKey = s.steward.privateKey ∧
         t.steward.nextSeq = s.steward.nextSeq + 1 ∧ (t.page 0x04).raw.getLsbD 4 = true))

/-- READY: once stages 1 to 7 have ended, the instance key matches and the GTC is aligned, and the die is not fenced, the window state is ready
(also in the window's byte 11), the READY GTC is noted and the event is set; where any of these is missing, or SYNC_PULSE_IN is stuck, READY changes nothing (R444, R461,
R462, R477). That the READY GTC is that of the tick in progress is the model's reading (log entry 98). -/
def Obligations.Ready : Prop :=
  ∀ s : State,
    (s.boot.configured = true ∧ s.boot.selfTest = true ∧ s.boot.scrub = true ∧ s.boot.key = some true ∧ s.boot.topology = true ∧
        s.time.aligned = true ∧ s.boot.ready = false ∧ s.safety.fenced = false ∧ s.ext.sync.stuck = false →
      ∃ t, exec .ready s = .next t ∧ t.boot.ready = true ∧ t.boot.readyGtc = s.tickGtc ∧ t.sluice.windowState = 1 ∧
        t.mem.read (s.cfg.window + 11) = 1 ∧ (t.page 0x01).raw.getLsbD 0 = true ∧ t.ctxs = s.ctxs ∧ t.time = s.time) ∧
    ((s.boot.configured = false ∨ s.boot.selfTest = false ∨ s.boot.scrub = false ∨ s.boot.key ≠ some true ∨ s.boot.topology = false ∨
        s.time.aligned = false ∨ s.boot.ready = true ∨ s.safety.fenced = true ∨ s.ext.sync.stuck = true) → exec .ready s = .next s)

/-! ### The fence (R388, R391, R394–R396, R408, R464) -/

/-- Every cause of a fence fences the die with its code: a failed self-test or scrub, the core rails' disagreement, found at ac 240 of the slot, heat, current, the
steward's silence, an error of a shared SRAM, a disagreement of duplicated comparators, a fault of the time unit's logic (its code is the model's choice, log entry 139). The window state reads fenced, every core is halted, and every context on the die has a fault, so that it is torn
down (R388, R391, R392, R394, R395, R408, R461). -/
def Obligations.FenceCauses : Prop :=
  ∀ s : State, s.safety.fenced = false →
    (∀ rails comps secded, s.boot.configured = true → s.boot.selfTest = false → (rails && comps && secded.isNone) = false →
      ∃ t, exec (.selfTestDone rails comps secded) s = .next t ∧
        Fenced (if rails = false then 0x80 else if comps = false then 0x82 else 0x81) t) ∧
    (∀ bad, s.boot.selfTest = true → s.boot.scrub = false → ∃ t, exec (.sramScrubDone (some bad)) s = .next t ∧ Fenced 0x81 t) ∧
    (∀ ilimit, s.time.tickRunning = true → s.time.inMargin = false → s.time.resync = false → s.time.offset = 224 →
      ∃ t, exec (.startDecision ilimit false) s = .next t ∧ Fenced 0x80 t ∧ t.time.offset = 240) ∧
    (∀ tenths, s.cfg.tempCritical * 10 ≤ tenths ∨ s.cfg.hotTicks ≤ s.gov.hotAtFloor →
      ∃ t, exec (.thermalExcursion tenths) s = .next t ∧ Fenced 0x83 t) ∧
    (s.cfg.ilimitTicks ≤ s.gov.ilimitRun → ∃ t, exec .currentLimitPersist s = .next t ∧ Fenced 0x84 t) ∧
    (s.time.tickRunning = true → s.steward.state = 1 → s.steward.lastHeartbeat + 1024 ≤ s.time.localTick →
      ∃ t, exec .stewardWatchdog s = .next t ∧ Fenced 0x85 t) ∧
    (∀ e : SramError,
      (e.logic = none → e.correctable = false → sramShared e.sram.val = true → ∃ t, exec (.sramError e) s = .next t ∧ Fenced 0x81 t) ∧
      (∀ pair, e.logic = some (.comparators pair) → ∃ t, exec (.sramError e) s = .next t ∧ Fenced 0x82 t) ∧
      (e.logic = some .timeUnit → ∃ t, exec (.sramError e) s = .next t ∧ Fenced 0x81 t))

/-- FENCE_CLEAR by the steward or the operator on a fenced die runs stages 4 and 5 again; from the tenant it is a privilege error, and on a die that
is not fenced an error of state, each with no other effect than the access (R14, R464, R476, R504). FENCE_CLEAR_DONE: where every check passed the fence ends and the stages stand as passed; where one failed the die stays fenced, and a
further die fault record with the fence's code is filed (R396, R464). That a clear before READY leaves the window state starting (0) is the model's reading (log entry 98). -/
def Obligations.FenceClear : Prop :=
  (∀ (p : Priv) (s : State), (s.page 0x34).served ≠ some s.time.ac →
     (p ≠ .tenant → s.safety.fenced = true → s.safety.powerOnly = false → s.boot.key ≠ some false →
       ∃ t, exec (.fenceClear p) s = .next t ∧ t.boot = { s.boot with clearing := true } ∧ t = { s with boot := t.boot, pages := t.pages } ∧
         (t.page 0x34).errCount = (s.page 0x34).errCount) ∧
     (p = .tenant ∨ s.safety.fenced = false →
       ∃ t, exec (.fenceClear p) s = .next t ∧ t = { s with pages := t.pages } ∧
         (t.page 0x34).errCount = (s.page 0x34).errCount + 1 ∧
         ((s.page 0x34).errCount = 0 → (t.page 0x34).errCode = if p = .tenant then 0x02 else 0x05))) ∧
  (∀ s : State, s.boot.clearing = true → s.safety.fenced = true →
     (∃ t, exec (.fenceClearDone true true none none true) s = .next t ∧ t.safety.fenced = false ∧ t.boot.clearing = false ∧
       t.boot.selfTest = true ∧ t.boot.scrub = true ∧ t.boot.configured = s.boot.configured ∧ t.boot.topology = s.boot.topology ∧ t.boot.ready = s.boot.ready ∧
       t.boot.key = s.boot.key ∧ t.steward.privateKey = s.steward.privateKey ∧ t.sluice.windowState = (if s.boot.ready then 1 else 0) ∧
       (∀ k, ∃ n, t.ctx k = (s.ctx k).creditsSince n) ∧ t.time = s.time) ∧
     (∀ rails comps secded bad store, (rails && comps && secded.isNone && bad.isNone && store) = false →
       ∃ t r f, exec (.fenceClearDone rails comps secded bad store) s = .next t ∧ t.safety.fenced = true ∧ t.boot.clearing = false ∧
         t.safety.powerOnly = (s.safety.powerOnly || !store) ∧ t.sluice.due = s.sluice.due ++ [r] ∧ r.kind = 8 ∧ r.ctx = none ∧
         r.fault = some f ∧ f.code = s.safety.fenceCode ∧ f.scope = 2))

/-! ### Board inputs (R52, R72–R77, R507) -/

/-- The first counted SYNC_PULSE_IN edge after sync_arm was set puts GTC boundary G0 1,024 reference cycles later; without sync_arm it starts
nothing (R52, R462, R484). GTC_START: at the armed boundary the GTC starts at the image's start value, and the instance is aligned; the start event and the aligned
event are set (R51, R52, R462, R477). After the GTC has started, a counted SYNC_PULSE_IN edge never changes the GTC, and its time-stamp is recorded: EXT_SYNC_LAST (offset 0x058 of page 0x38)
reads it (R75, R507). -/
def Obligations.GtcStart : Prop :=
  (∀ s : State, s.extRun = .on → s.ext.sync.stuck = false → s.time.running = true →
     (∀ p, s.ext.sync.lastEdge = some p → p + bits s.ext.cfgEffective.toNat 15 0 * 256 ≤ s.time.ac) →
     ∃ t, exec .syncEdge s = .next t ∧ t.time = s.time ∧ t.readSpecific 0x38 0x058 = s.stamp ∧ t.ext.sync.lastEdge = some s.time.ac ∧
       (t.page 0x38).raw.getLsbD 0 = true ∧ OnlyEvents 0x38 s t ∧ t = { s with ext := { s.ext with sync := t.ext.sync }, pages := t.pages }) ∧
  (∀ s : State, s.extRun = .on → s.ext.sync.stuck = false → s.boot.configured = true → s.time.running = false → s.time.startAt = none →
     s.ext.sync.lastEdge = none →
     ∃ t, exec .syncEdge s = .next t ∧ t.ext.sync.lastEdge = some s.time.ac ∧
       t.time = { s.time with startAt := if s.time.syncArm = true ∧ s.time.armedAc < s.time.ac then some (s.time.ref + 1024) else none }) ∧
  (∀ (p : Nat) (s : State), s.time.startAt = some p → s.time.running = false → s.time.tickRunning = false →
     ∃ t, exec .gtcStart s = .next t ∧ t.time.running = true ∧ t.time.gtc = s.cfg.gtcStart ∧ t.time.boundaryRef = p ∧ t.time.startAt = none ∧
       t.time.aligned = true ∧ t.time.ref = s.time.ref + (p - 1 - s.time.ref) ∧ (t.page 0x02).raw.getLsbD 4 = true ∧
       (s.time.aligned = false → (t.page 0x02).raw.getLsbD 5 = true))

/-- An edge closer to the last counted edge of its input than the minimum spacing adds one to that input's chatter count and does nothing else: the
spacing goes on from the last counted edge (R73, R507). A counted XTRIG_IN edge notes the action EXT_IN_CFG selects, for the next slot boundary: a trace trigger, a halt of the named catchment, or
none; it changes no context itself (R76, R507, R508). An input that stays active for more than 16 tick lengths of reference cycles is stuck and raises its event, and one that is
inactive never is; a stuck input's deassertion raises the stuck-clear event; while stuck it yields no edges. Each changes that input alone (R74, R477). That an
input not sampled since reset may be stuck too is the model's choice (log entry 100). -/
def Obligations.InputFilters : Prop :=
  (∀ (s : State) (p : Nat), s.extRun = .on →
     (s.ext.sync.stuck = false → s.ext.sync.lastEdge = some p → s.time.ac < p + bits s.ext.cfgEffective.toNat 15 0 * 256 →
       ∃ t, exec .syncEdge s = .next t ∧ t.ext.sync.chatter = wrap 16 (s.ext.sync.chatter + 1) ∧ t.ext.sync.lastEdge = some p ∧
         t.ext.sync.lastStamp = s.ext.sync.lastStamp ∧ OnlyEvents 0x38 s t ∧ t = { s with ext := { s.ext with sync := t.ext.sync }, pages := t.pages }) ∧
     (s.ext.xtrig.stuck = false → s.ext.xtrig.lastEdge = some p → s.time.ac < p + bits s.ext.cfgEffective.toNat 31 16 * 256 →
       ∃ t, exec .xtrigEdge s = .next t ∧ t.ext.xtrig.chatter = wrap 16 (s.ext.xtrig.chatter + 1) ∧ t.ext.xtrig.lastEdge = some p ∧
         t.ext.xtrig.lastStamp = s.ext.xtrig.lastStamp ∧ OnlyEvents 0x38 s t ∧ t = { s with ext := { s.ext with xtrig := t.ext.xtrig }, pages := t.pages })) ∧
  (∀ s : State, s.extRun = .on → s.ext.xtrig.stuck = false →
     (∀ p, s.ext.xtrig.lastEdge = some p → p + bits s.ext.cfgEffective.toNat 31 16 * 256 ≤ s.time.ac) →
     ∃ t, exec .xtrigEdge s = .next t ∧ t.ext.xtrig.lastEdge = some s.time.ac ∧ t.ext.xtrig.lastStamp = s.stamp ∧
       (t.page 0x38).raw.getLsbD 1 = true ∧
       (bits s.ext.cfgEffective.toNat 33 32 = 1 → t.ext.tracePending = true ∧ t.ext.haltPending = s.ext.haltPending) ∧
       (bits s.ext.cfgEffective.toNat 33 32 = 2 →
         t.ext.haltPending = some (bits s.ext.cfgEffective.toNat 47 36) ∧ t.ext.tracePending = s.ext.tracePending) ∧
       (bits s.ext.cfgEffective.toNat 33 32 = 0 → t.ext.tracePending = s.ext.tracePending ∧ t.ext.haltPending = s.ext.haltPending) ∧
       t.ext.sync = s.ext.sync ∧ OnlyEvents 0x38 s t ∧ t = { s with ext := t.ext, pages := t.pages }) ∧
  (∀ (x : ExtInput) (s : State), s.extRun = .on →
     ((s.ext.input x).level = false → (s.ext.input x).seen = true → exec (.inputStuck x) s = .next s) ∧
     ((s.ext.input x).stuck = false → (s.ext.input x).level = true ∨ (s.ext.input x).seen = false →
       (s.ext.input x).since + 16 * s.tickLength < s.time.ref →
       ∃ t, exec (.inputStuck x) s = .next t ∧ t.ext = s.ext.setInput x { s.ext.input x with stuck := true, level := true, seen := true, raw := true } ∧
         (t.page 0x38).raw.getLsbD (match x with | .syncPulse => 2 | .xtrig => 4) = true ∧ OnlyEvents 0x38 s t ∧ t = { s with ext := t.ext, pages := t.pages }) ∧
     ((s.ext.input x).stuck = true →
       ∃ t, exec (.inputStuckClear x) s = .next t ∧ t.ext = s.ext.setInput x { s.ext.input x with stuck := false, level := false, raw := false } ∧
         (t.page 0x38).raw.getLsbD (match x with | .syncPulse => 3 | .xtrig => 5) = true ∧ OnlyEvents 0x38 s t ∧ t = { s with ext := t.ext, pages := t.pages }) ∧
     ((s.ext.input x).stuck = true → exec (match x with | .syncPulse => .syncEdge | .xtrig => .xtrigEdge) s = .next s))

/-- Puska drives XTRIG_OUT active for 64 ac for each configured event, and an event that arrives while the output is active extends the pulse to 64 ac
after that event: a counted XTRIG_IN edge with the echo bit set is such an event, and XTRIG_OUT_END ends the pulse then and not before. -/
def Obligations.XtrigOut : Prop :=
  ∀ s : State,
    (s.extRun = .on → s.ext.xtrig.stuck = false → s.ext.xtrig.lastEdge = none → s.ext.outCfgEffective.getLsbD 5 = true →
      ∃ t, exec .xtrigEdge s = .next t ∧ t.ext.outUntil = some (s.time.ac + 64)) ∧
    (∀ b, s.extRun = .on → s.ext.outCfgEffective.getLsbD b = true →
      s.signalOut b = { s with ext := { s.ext with outUntil := some (s.time.ac + 64) } }) ∧
    (∀ e, s.ext.outUntil = some e →
      (e ≤ s.time.ac → exec .xtrigOutEnd s = .next { s with ext := { s.ext with outUntil := none } }) ∧
      (s.time.ac < e → exec .xtrigOutEnd s = .next s))

/-! ### The GTC, ticks and slots (R38–R47, R51–R57) -/

/-- GTC_BOUNDARY before the first tick or in a margin: the GTC counts one, at the boundary position of the tick before plus the tick length plus the
trim of at most 8 reference cycles, once the ac that reaches it comes next (R41, R54). CLOCK_RESTART within a slot, or in a margin whose next GTC boundary has not come: the elapsed reference cycles pass without an ac, the first ac
after the restart follows, and the gap record with the last time-stamp before the stop, the first after the restart and the elapsed count goes to the traces and
the steward's log; where a new slot, margin or tick begins with that ac, the record waits for it (R46, R47). That the first ac after the stop is part of the command and that the record waits so is
the model's reading (log entry 104). -/
def Obligations.GtcRuns : Prop :=
  (∀ s : State, s.time.running = true → s.time.inMargin = true ∨ s.time.tickRunning = false → s.time.startAt = none →
     s.time.boundaryRef ≤ s.time.ref → s.time.jumping = true ∨ s.time.gtc ≤ s.time.localTick ∨ s.time.tickRunning = false →
     s.time.ref < s.nextBoundary → 16 < s.tickLength →
     ∃ t, exec .gtcBoundary s = .next t ∧ t.time.gtc = s.time.gtc + 1 ∧ t.time.boundaryRef = s.nextBoundary ∧ t.time.ref < s.nextBoundary ∧
       s.nextBoundary ≤ t.time.nextRef ∧ t.time.localTick = s.time.localTick ∧ t.time.inMargin = s.time.inMargin ∧
       t.time.trimLeft = s.time.trimLeft - max (-8) (min 8 s.time.trimLeft)) ∧
  (∀ (elapsed : Nat) (s : State), s.time.tickRunning = true → s.time.running = true → s.live.isEmpty = false → s.time.jumping = false →
     s.time.resync = false →
     (s.time.inMargin = false ∧ s.time.offset < 255) ∨ (s.time.inMargin = true ∧ s.time.gtc = s.time.localTick ∧
       s.time.ref + elapsed + 2 < s.nextBoundary ∧ s.time.boundaryRef ≤ s.time.ref + elapsed) →
     ∃ u t : State, exec (.clockRestart elapsed) s = .next t ∧ t = u.gap u.stamp s.stamp elapsed ∧ u.time.ac = s.time.ac + 1 ∧
       u.time.ref = s.time.nextRef + elapsed ∧ u.time.localTick = s.time.localTick ∧ u.time.slot = s.time.slot ∧
       (s.time.inMargin = true → u.time.gtc = s.time.gtc) ∧ t.time = u.time ∧ t.steward.nextSeq = u.steward.nextSeq + 1) ∧
  (∀ (elapsed : Nat) (s : State), s.time.tickRunning = true → s.live.isEmpty = false → s.time.inMargin = false → s.time.resync = false →
     s.time.offset = 255 →
     ∃ t, exec (.clockRestart elapsed) s = .next t ∧ t.time.gapFrom = some (s.stamp, elapsed) ∧ t.time.ac = s.time.ac ∧
       t.time.ref = s.time.ref + elapsed ∧ t = { s with time := t.time })

/-- SLOT_BOUNDARY within a tick: the rest of the slot passes, with its stretched cycles on the reference clock alone, and the next slot begins in the same
local tick (R38, R42). That the command brings the boundary with it is the model's choice (log entry 18), and that the stretched cycles of a slot are given at its
begin is too (log entry 47). MARGIN_START at the end of slot N − 1, where no GTC boundary has been passed: the margin begins, in the same local tick (R38, R43). TICK_START in a margin whose GTC boundary comes next: local tick k begins with the ac
that reaches GTC boundary k, in slot 0 and without lag (R41, R43). -/
def Obligations.SlotGrid : Prop :=
  (∀ (b : BoundaryIn) (s : State) (n : Nat), s.time.tickRunning = true → s.time.inMargin = false → s.time.resync = false →
     s.time.slot + 1 < s.cfg.slotsPerTick → n = 255 - s.time.offset + 1 →
     ∃ t, exec (.slotBoundary b) s = .next t ∧ t.time.slot = s.time.slot + 1 ∧ t.time.offset = 0 ∧ t.time.inMargin = false ∧
       t.time.localTick = s.time.localTick ∧ t.time.slotCount = s.time.slotCount + 1 ∧ t.time.ac = s.time.ac + n ∧
       t.time.ref = s.time.ref + n + s.time.longer n ∧ t.time.stretch = b.stretched.eraseDups) ∧
  (∀ (b : BoundaryIn) (s : State) (n : Nat), s.time.tickRunning = true → s.time.inMargin = false → s.time.resync = false →
     s.time.slot + 1 = s.cfg.slotsPerTick → n = 255 - s.time.offset + 1 → s.time.gtc = s.time.localTick →
     s.time.ref + n + s.time.longer n < s.nextBoundary →
     ∃ t, exec (.marginStart b) s = .next t ∧ t.time.inMargin = true ∧ t.time.offset = 0 ∧ t.time.slot = s.time.slot ∧
       t.time.localTick = s.time.localTick ∧ t.time.gtc = s.time.gtc ∧ t.time.slotCount = s.time.slotCount ∧
       t.time.ac = s.time.ac + n ∧ t.time.ref = s.time.ref + n + s.time.longer n) ∧
  (∀ (b : TickIn) (s : State), s.time.tickRunning = true → s.time.inMargin = true → s.time.running = true → s.time.jumping = false →
     s.time.resync = false → s.time.gtc = s.time.localTick → s.time.boundaryRef ≤ s.time.ref → s.time.ref < s.nextBoundary → 16 < s.tickLength →
     ∃ t, exec (.tickStart b) s = .next t ∧ t.time.localTick = s.time.localTick + 1 ∧ t.time.gtc = s.time.gtc + 1 ∧ t.time.slot = 0 ∧
       t.time.offset = 0 ∧ t.time.inMargin = false ∧ t.time.slotCount = s.time.slotCount + 1 ∧ s.nextBoundary ≤ t.time.ref ∧
       t.time.ref ≤ s.nextBoundary + 1 ∧ t.time.lag = 0 ∧
       (s.time.stretch = [] → t.time.ref = s.nextBoundary ∧ t.time.ac = s.time.ac + (s.nextBoundary - s.time.ref)))

/-- LAG_LIMIT_TEST: the rest of slot N − 1 passes, and the lag is tested at its end, whatever GTC boundaries passed. Where the reference cycles since the next local
tick's GTC boundary have reached the lag limit, the next tick waits for a GTC boundary, the event is set, every context whose catchment has more than one member
has a fault, so that it is torn down, and every other live one counts a tick jump; below the limit, be the die behind by less or not at all, only the rest of the slot passes.
In any other slot it does nothing (R45). That the row brings the cycles before it, and that those to be stretched are given at the slot's begin, is the model's choice (log entries 18 and 47). -/
def Obligations.LagLimit : Prop :=
  (∀ (s u : State), s.inLastSlot = true → s.time.jumps = false → s.time.resync = false → u = s.runOut.gtcUp →
     (u.time.localTick < u.time.gtc →
       u.time.boundaryOf u.tickLength (u.time.localTick + 1) + u.cfg.lagLimit * u.tickLength ≤ u.time.nextRef →
       ∃ t, exec .lagLimitTest s = .next t ∧ t.time = { u.time with jumping := true } ∧ (t.page 0x02).raw.getLsbD 1 = true ∧
         (∀ k, (u.ctx k).phase ≠ .empty → (u.ctx k).multiMember = true → (t.ctx k).fault.isSome = true) ∧
         ∀ k ∈ u.liveOn, t.ctx k = ((u.ctx k).count 6).cause 2) ∧
     (u.time.gtc ≤ u.time.localTick ∨
         u.time.nextRef < u.time.boundaryOf u.tickLength (u.time.localTick + 1) + u.cfg.lagLimit * u.tickLength →
       exec .lagLimitTest s = .next u)) ∧
  (∀ (s : State) (n : Nat), s.inLastSlot = true → s.time.jumping = false → s.time.resync = false → s.time.offset ≤ 255 → n = 255 - s.time.offset + 1 →
     s.time.ref + n + s.time.longer n < s.nextBoundary →
     (s.time.localTick < s.time.gtc →
       s.time.boundaryOf s.tickLength (s.time.localTick + 1) + s.cfg.lagLimit * s.tickLength ≤ s.time.ref + n + s.time.longer n →
       ∃ t, exec .lagLimitTest s = .next t ∧ t.time.jumping = true ∧ (t.page 0x02).raw.getLsbD 1 = true ∧
         t.time.localTick = s.time.localTick ∧ (∀ k, (t.ctx k).phase ≠ .empty → (t.ctx k).multiMember = true → (t.ctx k).fault.isSome = true)) ∧
     (s.time.gtc ≤ s.time.localTick ∨
         s.time.ref + n + s.time.longer n < s.time.boundaryOf s.tickLength (s.time.localTick + 1) + s.cfg.lagLimit * s.tickLength →
       ∃ t, exec .lagLimitTest s = .next t ∧ t.time.jumping = false ∧ t.time.localTick = s.time.localTick ∧ t.time.gtc = s.time.gtc ∧
         t.time.ac = s.time.ac + (255 - s.time.offset) ∧ t.time.slot = s.time.slot ∧ t.time.inMargin = false ∧ t.time.offset = 255)) ∧
  (∀ s : State, s.inLastSlot = false → exec .lagLimitTest s = .next s)

/-- BEACON_SEND on a boundary whose GTC is a multiple of 2^b: 64 reference cycles after the boundary each beacon child is sent the GTC with the reference
offset 64 and the sequence number, once (R53). BEACON from the parent: before READY a first beacon sets the GTC and its boundary position from the parent's tick and the time since its boundary, with
the link delay; after READY the error e is trimmed, and more than one slot of it is a fault of every context of more than one member; an error of
at most 8 cycles, shown by a later beacon, aligns the instance (R54, R57, R462). That the sends come at the boundaries whose GTC is a multiple of 2^b, that a late send still
says 64 and that each names its port's far end is the model's reading (log entry 101). BEACON_LOSS: no beacon for 8 beacon periods raises the event once and lets the GTC run free (R56). -/
def Obligations.Beacons : Prop :=
  (∀ (s : State) (n : Nat), s.safety.timeFault = false → s.time.running = true → s.time.gtc % 2 ^ s.cfg.beaconExp = 0 →
     s.time.lastSent ≠ some s.time.gtc → n = s.time.acUntil (s.time.boundaryRef + 64) → (∃ m, s.acLeft = some m ∧ n ≤ m) →
     ∃ t, exec .beaconSend s = .next t ∧ t.time.lastSent = some s.time.gtc ∧ t.time.sendSeq = wrap 16 (s.time.sendSeq + 1) ∧
       t.time.ac = s.time.ac + n ∧ (s.time.stretchNow = [] → s.time.ref ≤ s.time.boundaryRef + 64 → t.time.ref = s.time.boundaryRef + 64) ∧
       t.time.gtc = s.time.gtc ∧
       ∃ before, t.linkOut = before ++ s.cfg.beaconChildren.map fun p =>
         { dest := s.time.far.getD p 0xFFFFFFFF, port := p, hdr := { sender := s.cfg.instanceAddr, tick := s.time.gtc, vc := 3 },
           body := .beacon s.time.gtc 64 s.time.sendSeq }) ∧
  (∀ (port : Fin 5) (gtc : BitVec 48) (offset : Nat) (seq : BitVec 16) (s : State), s.cfg.beaconParent = some port.val → s.boot.configured = true →
     (s.boot.ready = false → s.time.running = false →
       ∃ t, exec (.beacon port gtc offset seq) s = .next t ∧ t.time.running = true ∧ t.time.firstBeacon = true ∧
         t.time.gtc = (gtc.toNat + (offset + s.time.linkDelay.getD port.val 0) / s.tickLength) % 2 ^ 48 ∧
         t.time.boundaryRef = s.time.ref - (offset + s.time.linkDelay.getD port.val 0) % s.tickLength ∧ t.time.beaconSeq = seq.toNat) ∧
     (s.boot.ready = true → s.time.running = true →
       ∃ t, exec (.beacon port gtc offset seq) s = .next t ∧
         t.time.trimLeft = -(s.beaconError gtc.toNat (offset + s.time.linkDelay.getD port.val 0)) ∧
         t.time.gtc = s.time.gtc ∧ t.time.boundaryRef = s.time.boundaryRef ∧
         (256 < (s.beaconError gtc.toNat (offset + s.time.linkDelay.getD port.val 0)).natAbs →
           (t.page 0x02).raw.getLsbD 3 = true ∧
           ∀ k, (t.ctx k).phase ≠ .empty → (t.ctx k).multiMember = true → (t.ctx k).fault.isSome = true) ∧
         ((s.beaconError gtc.toNat (offset + s.time.linkDelay.getD port.val 0)).natAbs ≤ 8 → s.time.firstBeacon = true → t.time.aligned = true))) ∧
  (∀ s : State, s.cfg.beaconParent.isSome = true → s.time.running = true → s.time.beaconLost = false →
     (s.time.lastBeaconTick + 8 * 2 ^ s.cfg.beaconExp ≤ s.time.gtc →
       ∃ t, exec .beaconLoss s = .next t ∧ t.time = { s.time with beaconLost := true } ∧ (t.page 0x02).raw.getLsbD 2 = true ∧
         t = { s with time := t.time, pages := t.pages }) ∧
     (s.time.gtc < s.time.lastBeaconTick + 8 * 2 ^ s.cfg.beaconExp → exec .beaconLoss s = .next s))

/-- CALIBRATION_RESULT in a calibration tick: the link delays hold at once, the lane counts from the next tick on, and a port reported without lanes is
broken. PORT_CHANGE notes the far end and the
lane count of its port, and a context of more than one member that sends through a port that is broken for it has a fault (R54, R71, R346). That the lanes of PORT_CHANGE count from the next tick on, and that
only a launched context has a fault, is the model's reading (log entry 103). -/
def Obligations.LinkChanges : Prop :=
  ∀ s : State,
    (∀ lanes delays, s.time.tickRunning = true → s.calibrationTick = true →
      ∃ t, exec (.calibrationResult lanes delays) s = .next t ∧ t.time.linkDelay = ports5 delays 0 ∧ t.time.nextLanes = some (ports5 lanes 0) ∧
        t.time.lanes = s.time.lanes ∧
        ((∀ p, p < 5 → lanes.getD p 0 ≠ 0) →
          t = { s with time := { s.time with linkDelay := t.time.linkDelay, nextLanes := t.time.nextLanes } }) ∧
        ∀ p k, p < 5 → lanes.getD p 0 = 0 → (s.ctx k).phase ≠ .empty → (s.ctx k).multiMember = true →
          (s.catch_ (s.ctx k).catchment).brokenBy s.tickGtc p ((ports5 s.time.far 0xFFFFFFFF).getD p 0xFFFFFFFF) 0 = true →
          (t.ctx k).fault.isSome = true) ∧
    (∀ (port : Fin 5) (far : BitVec 32) (lanes : Nat),
      ∃ t, exec (.portChange port far lanes) s = .next t ∧ t.time.far[port.val]? = some far.toNat ∧ t.time.lanes = s.time.lanes ∧
        (∃ ns, t.time.nextLanes = some ns ∧ ns[port.val]? = some lanes) ∧
        ∀ k, (s.ctx k).phase ≠ .empty → (s.ctx k).multiMember = true →
          (s.catch_ (s.ctx k).catchment).brokenBy s.tickGtc port.val far.toNat lanes = true → (t.ctx k).fault.isSome = true)

/-! ### The work of a tick start and of a slot boundary (R40, R115) -/

/-- What a tick start does besides time (R40). Its work comes in this order: the context ticks begin; what the threads' slot has left, the polled slots and the records due; the
board inputs' actions; the notices due at the context ticks that began; the control messages due; the steps; then the slot starts as every other. A polled slot whose take tick lies ahead keeps its owner; any other
is given back with its word 0 zero, and taken with its tick or refused, 1 for an unknown owner or kind, 2 for a bad form, 4 for a tick passed (R380, R448–R450); no slot is polled before READY or on a fenced die
(R448, R464). A ripple due adds to its counter and leaves the queue, one not yet due stays; a landing due raises its window's committed bound (R27, R61, R65). A context whose seals are missing is held, its cores
halted and its hold counted, and begins its tick when they are in; at its freeze tick it stops instead (R58, R64, R320). A step boundary adds the step with an instance for each node and its dependency count; a
template that is no step template, or a step too many in flight, is a fault (R97–R100); that the template's fault comes first is the model's choice (log entry 127). A record that fits goes into the ring at its head; of a context, one without
room waits in the backlog with those behind it, and what enters there raises the event (R152, R445, R458, R477). -/
def Obligations.TickStartWork : Prop :=
  (∀ (b : TickIn) (s r : State), s.tickReady b.boundary = some r →
     ∃ (u v : State) (begun : List (Fin 16)), u.beginTicks = (v, begun) ∧ u.pending = s.pending ∧ u.time.slot = 0 ∧ u.time.offset = 0 ∧ u.time.inMargin = false ∧
       u.time.tickRunning = true ∧
       u.time.localTick = (if r.time.tickRunning = false ∨ r.time.jumps = true then r.time.gtc else r.time.localTick + 1) ∧
       exec (.tickStart b) s = .next ((allSlots.foldl (·.stepWork ·) (allSlots.foldl (·.controlDue ·)
         ((v.threadEnds.sluiceWork b).extActions.notices begun))).seedDelays.startSlot)) ∧
  (∀ (q : SlotImage) (s : State), Memory.wf s.mem →
     (q.owner = 0 → s.pollSlot q = s) ∧
     (q.owner = 1 → s.takeTime q = .ahead → ∃ t, t = s.pollSlot q ∧ t.sluice.ahead = s.sluice.ahead ++ [q.cxid] ∧
       t = { s with sluice := { s.sluice with ownerSeen := t.sluice.ownerSeen, ahead := t.sluice.ahead } }) ∧
     (q.owner ≠ 0 → (q.owner = 1 → s.takeTime q ≠ .ahead) →
       ∃ t, t = s.pollSlot q ∧ (∀ i, i < 8 → t.mem.read (s.cfg.window + 0x1000 + q.slot.val * 1024 + i) = 0) ∧
         (∀ a, (a < s.cfg.window + 0x1000 + q.slot.val * 1024 ∨ s.cfg.window + 0x1000 + q.slot.val * 1024 + 8 ≤ a) → t.mem.read a = s.mem.read a) ∧
         t.sluice.takenCount = wrap 32 (s.sluice.takenCount + 1) ∧ t = { s with mem := t.mem, sluice := t.sluice } ∧
         (∀ x, q.owner = 1 → s.takeTime q = .now → decodeSub q.kind q.length q.payload = some (some x) → q.formatOk = true →
           t.sluice.due = s.sluice.due ∧ t.sluice.taken = s.sluice.taken ++
             [{ hdr := q.hdr, sub := x, tick := s.tickOf q.cxid, payload := q.payload.take q.length }]) ∧
         (∀ reason, (q.owner ≠ 1 ∧ reason = 1) ∨ (q.owner = 1 ∧ decodeSub q.kind q.length q.payload = none ∧ reason = 1) ∨
             (q.owner = 1 ∧ (decodeSub q.kind q.length q.payload).isSome = true ∧
               (if q.formatOk = false then reason = 2
                else if s.takeTime q = .passed then reason = 4 else decodeSub q.kind q.length q.payload = some none ∧ reason = 2)) →
           t.sluice.taken = s.sluice.taken ∧ ∃ r, t.sluice.due = s.sluice.due ++ [r] ∧ r.kind = 1 ∧ r.reason = reason ∧ r.slot = q.slot.val ∧
             r.tag = q.tag ∧ r.subKind = q.kind ∧ r.due = s.nextTick)) ∧
     (∀ slots, s.boot.ready = false ∨ s.safety.fenced = true → s.poll slots = s)) ∧
  (∀ (k : Fin 16) (tick : Nat) (s : State),
     ((∀ e ∈ s.horizon, e.slot = k → tick < e.hdr.tick + (s.ctx k).horizon) → s.applyNotices k tick = s) ∧
     (∀ e, s.dueOps k = [] → s.lateBehind k tick = s → s.dueAt k tick = [e] → (s.ctx k).epochCancelled e.hdr.epoch = false →
       (∀ q ∈ (s.ctx k).counters, q.value = q.copy) →
       (∀ vid n q, e.body = .ripple vid n → vid ≠ 0xFFFFF → (s.ctx k).counter? vid = some q → q.decl.remote = true → q.value ≤ counterMax →
         ∃ t, t = s.applyNotices k tick ∧ (t.ctx k).counterValue vid = min counterMax (q.value + n) ∧
           t.horizon = s.horizon.filter (fun d => d.order != e.order) ∧ t.windows = s.windows ∧ t.mem = s.mem ∧ t.spad = s.spad) ∧
       (∀ l, e.body = .landing l → e.whileFrozen = false → l.increment = 0 →
         ∃ t, t = s.applyNotices k tick ∧ t.horizon = s.horizon.filter (fun d => d.order != e.order) ∧
           t.windows = s.windows.map (fun w => if w.lcid == l.lcid && w.id == l.window then
             { w with committed := max w.committed (w.lo + l.offset + l.length) } else w) ∧
           (t.ctx k).counters = (s.ctx k).counters ∧ t.mem = s.mem ∧ t.spad = s.spad))) ∧
  (∀ (k : Fin 16) (s : State), (s.ctx k).phase = .running → (s.ctx k).launched = true → (s.ctx k).fault = none → (s.ctx k).halted = false →
     ((∀ f, (s.ctx k).freezeStage = .scheduled f → s.dueTick k < f) →
       (s.sealsIn k (s.dueTick k) = true → ∃ t, s.advanceCtx k = (t, true) ∧ (t.ctx k).tick = s.dueTick k ∧ (t.ctx k).tickDie = s.time.localTick ∧
         (t.ctx k).held = false ∧ (t.ctx k).holdCount = (s.ctx k).holdCount ∧ (∀ j, j ≠ k → t.ctx j = s.ctx j) ∧
         ((s.ctx k).held = true → ∀ l ∈ (s.ctx k).cores, (t.core (lcidOf l)).halted = false)) ∧
       (s.sealsIn k (s.dueTick k) = false → ∃ t, s.advanceCtx k = (t, false) ∧ (t.ctx k).held = true ∧ (t.ctx k).tick = (s.ctx k).tick ∧
         (t.ctx k).holdCount = (s.ctx k).holdCount + 1 ∧ (∀ j, j ≠ k → t.ctx j = s.ctx j) ∧
         ((s.ctx k).held = false → ∀ l ∈ s.coresOf k, (t.core (lcidOf l)).halted = true))) ∧
     (∀ f, (s.ctx k).freezeStage = .scheduled f → f ≤ s.dueTick k →
       ∃ t, s.advanceCtx k = (t, false) ∧ (t.ctx k).phase = .freezing ∧ (t.ctx k).freezeStage = .draining ∧ (t.ctx k).freezeTick = f ∧
         (t.ctx k).tick = (s.ctx k).tick ∧ (t.ctx k).sealDue = true ∧ (∀ j, j ≠ k → t.ctx j = s.ctx j) ∧
         ∀ l ∈ s.coresOf k, (t.core (lcidOf l)).halted = true)) ∧
  (∀ (k : Fin 16) (step tpl : Nat) (x : Template) (s : State), (s.ctx k).phase ≠ .empty → (s.ctx k).fault = none → step < lastStep →
     (((s.ctx k).image.templates[tpl]?).all (fun y => !y.stepTemplate) = true → ∀ changes,
       ∃ t f, t = s.stepBoundary k step (some tpl) changes ∧ (t.ctx k).fault = some f ∧ f.code = 0x21 ∧ f.detail1 = tpl ∧ f.detail2 = step ∧
         (t.ctx k).steps.map (·.insts) = (s.ctx k).steps.map (·.insts)) ∧
     ((s.ctx k).image.templates[tpl]? = some x → x.stepTemplate = true →
       ((s.ctx k).image.stepsInFlight ≤ (s.ctx k).steps.length → ∀ changes,
         ∃ t f, t = s.stepBoundary k step (some tpl) changes ∧ (t.ctx k).fault = some f ∧ f.code = 0x06 ∧ f.detail2 = step ∧
           (t.ctx k).steps.map (·.insts) = (s.ctx k).steps.map (·.insts)) ∧
       ((s.ctx k).steps.length < (s.ctx k).image.stepsInFlight → badNode x = none → (s.ctx k).run? step = none → (s.ctx k).ledger = {} →
         (s.ctx k).dumps = [] → (s.ctx k).outcomes = [] →
         ∃ t r, t = s.stepBoundary k step (some tpl) [] ∧ OnlyCtx k s t ∧ (t.ctx k).steps = (s.ctx k).steps ++ [r] ∧ (t.ctx k).nextStep = step + 1 ∧
           (t.ctx k).lastTemplate = some tpl ∧ (t.ctx k).tallies = [] ∧ r.step = step ∧ r.template = tpl ∧ r.cancelled = false ∧
           r.startTick = s.time.localTick ∧ r.startSlot = s.time.slotCount ∧ r.insts.length = x.nodes.length ∧
           ∀ n, n < x.nodes.length → (r.inst n).state = .waiting ∧ (r.inst n).flags = ((s.ctx k).tally tpl n).2 ∧
             (r.inst n).deps = (if (s.ctx k).lastTemplate = some tpl ∧ (s.ctx k).lastCancelled = false then
               (x.nodes.getD n {}).depCount + (x.nodes.getD n {}).carryIn - ((s.ctx k).tally tpl n).1 else (x.nodes.getD n {}).depCount)))) ∧
  (∀ (r : Rec) (s : State) (gap used : Nat),
     gap = (if s.sluice.head % s.ringSize + (64 + r.payload.length) > s.ringSize then s.ringSize - s.sluice.head % s.ringSize else 0) →
     used = (s.sluice.head + 2 ^ 32 - s.sluice.tail % 2 ^ 32) % 2 ^ 32 →
     (used + gap + (64 + r.payload.length) ≤ s.ringSize →
       ∃ t, s.writeRec r = (t, true) ∧ t.sluice.head = wrap 32 (s.sluice.head + gap + (64 + r.payload.length)) ∧
         t.sluice.seq = wrap 32 (s.sluice.seq + 1) ∧ t.sluice.records = wrap 32 (s.sluice.records + 1) ∧ t.sluice.tail = s.sluice.tail ∧
         t.mem = writeRing s.mem (s.cfg.window + 0x8000) s.ringSize s.sluice.head
           ((if gap = 0 then [] else fillerBytes s.stamp gap s.sluice.seq) ++ r.bytes s.stamp s.time.localTick s.sluice.seq) ∧
         (Memory.wf s.mem → ∀ a, (a < s.cfg.window + 0x8000 ∨ s.cfg.window + 0x8000 + s.ringSize ≤ a) → t.mem.read a = s.mem.read a) ∧
         t = { s with mem := t.mem, sluice := t.sluice, pages := t.pages }) ∧
     (s.ringSize < used + gap + (64 + r.payload.length) → s.writeRec r = (s, false) ∧
       ∀ (k : Fin 16) (rs : List Rec) (old : Nat), ∃ t, t = s.writeCtx k old (r :: rs) ∧ OnlyCtx k { s with pages := t.pages } t ∧
         t.ctx k = { s.ctx k with backlog := (s.ctx k).backlog ++ r :: rs } ∧ t.sluice = s.sluice ∧
         (old ≤ rs.length → (t.page 0x03).raw.getLsbD 2 = true) ∧ (rs.length < old → t.pages = s.pages)))

/-- What a slot boundary does besides time (R115). The tasks whose spans close end, then the threads' commands take effect and the board inputs' actions; the starts that were asserted
begin; then, each for every context in turn, watches are compared and waits released, the control cores switch threads, and nodes are resolved and placed. The end of slot N − 1 brings its task ends alone (R116). A task
that ends leaves its core; one without a report is a span overrun (R25, R140). An instance's normal end counts for its node, whose list is applied once, with the last one (R108, R120): a successor entry takes one from its target's
dependency count and adds its flags, in its own step or the next of the same template, and before that one starts to the tally (R100, R105). A watch armed before this boundary whose counter has reached its target sets its flag and is no longer armed
(R113). A node's count above its bound is a fault; otherwise the node is resolved, and complete where the count is zero (R118, R120). A placement goes to the most preferred allowed core with a
free entry, or control core with a free frame, to which this sweep has placed nothing (R131–R134, R153); where none is, there is no target. An idle control core switches in the ready thread with the lowest key; one whose thread has slots left keeps it (R157).
A step that completes leaves the steps in flight and has its record (R102, R456). -/
def Obligations.BoundaryWork : Prop :=
  (∀ (b : BoundaryIn) (s : State), s.time.tickRunning = true → s.time.inMargin = false → s.time.resync = false →
     (s.time.slot + 1 < s.cfg.slotsPerTick →
       ∃ u v : State, u.time.slot = s.time.slot + 1 ∧ u.time.offset = 0 ∧ u.time.slotCount = s.time.slotCount + 1 ∧ u.time.localTick = s.time.localTick ∧
         v = allSlots.foldl (·.sealCheck ·) (State.startAll (allSlots.foldl (fun t k => if (t.ctx k).runs then t.scrubDue k else t)
           u.ends.threadEnds.extActions)).work ∧
         exec (.slotBoundary b) s = .next (allSlots.foldl (·.afterSwitch ·) (allCtrl.foldl (·.threadSwitch ·) (allSlots.foldl (·.beforeSwitch ·) v)))) ∧
     (∀ n, s.time.slot + 1 = s.cfg.slotsPerTick → n = 255 - s.time.offset + 1 → s.time.gtc = s.time.localTick →
       s.time.ref + n + s.time.longer n < s.nextBoundary →
       ∃ u : State, u.time.inMargin = true ∧ u.time.offset = 0 ∧ u.time.slot = s.time.slot ∧ u.time.localTick = s.time.localTick ∧
         exec (.marginStart b) s = .next u.ends.closeSteps.work)) ∧
  (∀ (l : Fin 64) (e : PondEntry) (s : State), (s.core l).serving = some e →
     ∃ t, t = s.endTask l e ∧ (t.core l).serving = none ∧
       (e.report = none → (s.core l).halted = false → s.openPacket l.val = none → (s.ctx e.task.slot).phase ≠ .empty →
         (s.ctx e.task.slot).fault = none →
         ∃ f, (t.ctx e.task.slot).fault = some f ∧ f.code = 0x03 ∧ f.detail1 = e.task.span ∧ f.core = l.val)) ∧
  (∀ (k : Fin 16) (t : Task) (r : StepRun) (i : NodeInst) (s : State), (s.ctx k).run? t.step = some r → r.cancelled = false → i = r.inst t.node →
     t.node < r.insts.length →
     (i.ended + 1 < i.count → ∃ u r', u = s.instanceEnded k t ∧ OnlyCtx k s u ∧ (u.ctx k).run? t.step = some r' ∧
       r'.inst t.node = { i with ended := i.ended + 1 } ∧ ∀ n, n ≠ t.node → r'.inst n = r.inst n) ∧
     (i.count ≤ i.ended + 1 → i.count ≤ i.placed → i.returned = [] → ∃ u r', u = s.instanceEnded k t ∧ OnlyCtx k s u ∧
       (u.ctx k).run? t.step = some r' ∧ (r'.inst t.node).state = .complete ∧ (r'.inst t.node).ended = i.ended + 1)) ∧
  (∀ (c : Ctx) (step tpl : Nat) (e : SuccEntry),
     (∀ st r, (e.nextStep = false ∧ st = step ∨ e.nextStep = true ∧ st = step + 1 ∧ r.template = tpl ∧ r.cancelled = false) →
       c.run? st = some r → e.target < r.insts.length → (r.inst e.target).state = .waiting →
       ∃ r', (c.applyEntry step tpl e).run? st = some r' ∧ r'.inst e.target = { r.inst e.target with
           deps := (r.inst e.target).deps - (if e.decrement then 1 else 0), flags := (r.inst e.target).flags ||| e.setFlags } ∧
         (∀ n, n ≠ e.target → r'.inst n = r.inst n) ∧ (∀ st', st' ≠ st → (c.applyEntry step tpl e).run? st' = c.run? st') ∧
         (c.applyEntry step tpl e).tallies = c.tallies) ∧
     (e.nextStep = true → c.run? (step + 1) = none → c.nextStep = step + 1 →
       (c.applyEntry step tpl e).tally tpl e.target = ((c.tally tpl e.target).1 + (if e.decrement then 1 else 0), e.setFlags ||| (c.tally tpl e.target).2) ∧
       (c.applyEntry step tpl e).steps = c.steps)) ∧
  (∀ (c : Ctx) (step n now v : Nat) (r : StepRun), c.run? step = some r → r.cancelled = false → n < r.insts.length → (r.inst n).watch = some v →
     ((r.inst n).state = .waiting → (r.inst n).armedAt < now → v ≤ c.counterValue (c.node r.template n).watchCounter →
       ∃ r', (c.compareWatch step n now).run? step = some r' ∧ r'.inst n = { r.inst n with
         watch := none, flags := (r.inst n).flags ||| BitVec.ofNat 32 (2 ^ (c.node r.template n).watchFlag) } ∧
         ∀ m, m ≠ n → r'.inst m = r.inst m) ∧
     (now ≤ (r.inst n).armedAt ∨ c.counterValue (c.node r.template n).watchCounter < v → c.compareWatch step n now = c)) ∧
  (∀ (k : Fin 16) (step n count : Nat) (r : StepRun) (d : NodeDesc) (s : State), (s.ctx k).run? step = some r → d = (s.ctx k).node r.template n →
     r.cancelled = false → n < r.insts.length → count = s.fanoutCount k r d →
     (d.fanoutSource ≠ 0 → d.fanoutMax < count → (s.ctx k).phase ≠ .empty → (s.ctx k).fault = none →
       ∃ t f, t = s.resolveNode k step n ∧ (t.ctx k).fault = some f ∧ f.code = 0x07 ∧ f.detail1 = count ∧ f.detail2 = d.fanoutMax ∧
         (t.ctx k).steps.map (·.insts) = (s.ctx k).steps.map (·.insts)) ∧
     (d.fanoutSource = 0 ∨ count ≤ d.fanoutMax → topFlow d r count = none → OnlyCtx k s (s.resolveNode k step n) ∧
       ∃ r', ((s.resolveNode k step n).ctx k).run? step = some r' ∧ (r'.inst n).count = count ∧
         (r'.inst n).state = if count = 0 then .complete else .resolved)) ∧
  (∀ (t : Task) (taken : Placed) (s : State),
     (∀ g, s.chooseTarget t taken = some g → g ∈ (s.ctx t.slot).preference t ∧
       (t.kind ≠ .control → g < 64 ∧ g ∉ taken.cores ∧ ((s.core (lcidOf g)).e0.state = .free ∨ (s.core (lcidOf g)).e1.state = .free)) ∧
       (t.kind = .control → g < 8 ∧ g ∉ taken.ctrls ∧ ∃ f, (s.frame (Fin.ofNat 8 g) f).state = .free)) ∧
     (s.chooseTarget t taken = none → t.kind ≠ .control → ∀ g ∈ (s.ctx t.slot).preference t, g < 64 → g ∉ taken.cores →
       (s.core (lcidOf g)).e0.state ≠ .free ∧ (s.core (lcidOf g)).e1.state ≠ .free) ∧
     (∀ g : Fin 64, t.kind ≠ .control → (s.core g).hasFree = true → ∃ e u, u = s.place t g.val ∧ e.state = .loading ∧ e.task = t ∧
       e.order = s.placeOrder ∧ u.placeOrder = s.placeOrder + 1 ∧ (∀ l, l ≠ g → u.core l = s.core l) ∧ (∀ j, j ≠ t.slot → u.ctx j = s.ctx j) ∧
       u.core g = (if (s.core g).e0.state = .free then { s.core g with e0 := e } else { s.core g with e1 := e }) ∧ u.ctrl = s.ctrl) ∧
     (∀ g f : Fin 8, t.kind = .control → s.freeFrame g = some f → ∃ u, u = s.place t g.val ∧ u.frame g f = { state := .loading, task := t } ∧
       (∀ d h, (d, h) ≠ (g, f) → u.frame d h = s.frame d h) ∧ u.cores = s.cores ∧ ∀ j, j ≠ t.slot → u.ctx j = s.ctx j)) ∧
  (∀ (c : Fin 8) (s : State),
     (∀ f, s.runningFrame c = none → s.nextThread c = some f → (s.frame c f).state = .ready ∧ s.works (s.frame c f).task.slot = true ∧
       (∀ g, (s.frame c g).state = .ready → s.works (s.frame c g).task.slot = true → (s.frame c f).task.key ≤ (s.frame c g).task.key) ∧
       ∃ t, t = s.threadSwitch c ∧ t.frame c f = { s.frame c f with state := .running, slice := 0, started := true } ∧
         (∀ d g, (d, g) ≠ (c, f) → t.frame d g = s.frame d g) ∧ t = { s with ctrl := t.ctrl, ctxs := t.ctxs }) ∧
     (∀ f, s.runningFrame c = some f → (s.frame c f).slice < (s.frame c f).task.span → s.threadSwitch c = s)) ∧
  (∀ (k : Fin 16) (r : StepRun) (s : State), r ∈ (s.ctx k).steps → (s.ctx k).withheld = false → (s.ctx k).lock.active = false →
     ∃ t, t = s.completeStep k r ∧ (t.ctx k).steps.map (·.step) = ((s.ctx k).steps.map (·.step)).filter (· != r.step) ∧
       (t.ctx k).lastCompleted = some r.step ∧ (t.ctx k).progress = true ∧ stepRec (s.ctx k) k r 0 (s.recordDue k) ∈ t.sluice.due)

/-! ### The governor (R146–R148, R394) -/

/-- THERMAL_FRACTION_RISE after 64 tick starts below temp_low: the fraction rises by 1/16, to 1 at most, and its return to 1 raises the event; before
that nothing happens, and neither does THERMAL_EXCURSION below its limits nor CURRENT_LIMIT_PERSIST before its tick count (R146, R147, R394). START_DECISION of a die on which one context is at work: of its candidates in ascending key, with those of a class above 0 left out under ILIMIT, the prefix
that fits the effective share on top of the running energy is asserted to start; every other entry stays as it was, each candidate left is counted in
deferred_starts, and ILIMIT is counted and raises its event (R139, R145, R148). That a rise
waits for its row and takes 64 ticks from the run is the model's reading (log entry 92), and so is that ILIMIT is counted once a decision (log entry 34). -/
def Obligations.GovernorUnit : Prop :=
  (∀ s : State,
     (64 ≤ s.gov.coldRun → ∃ t, exec .thermalFractionRise s = .next t ∧
       t.gov = { s.gov with fraction := min 16 (s.gov.fraction + 1), coldRun := s.gov.coldRun - 64 } ∧
       (s.gov.fraction = 15 → (t.page 0x18).raw.getLsbD 2 = true ∧ (∀ p, p ≠ 0x18 → t.page p = s.page p) ∧ t = { s with gov := t.gov, pages := t.pages }) ∧
       (s.gov.fraction ≠ 15 → t = { s with gov := t.gov })) ∧
     (s.gov.coldRun < 64 → exec .thermalFractionRise s = .next s) ∧
     (∀ tenths, tenths < s.cfg.tempCritical * 10 → s.gov.hotAtFloor < s.cfg.hotTicks → exec (.thermalExcursion tenths) s = .next s) ∧
     (s.gov.ilimitRun < s.cfg.ilimitTicks → exec .currentLimitPersist s = .next s)) ∧
  (∀ (ilimit : Bool) (k : Fin 16) (s : State) (go : List (Fin 64 × PondEntry)), s.safety.fenced = false → s.time.tickRunning = true →
     s.time.inMargin = false → s.time.offset = 224 → s.works k = true → (∀ j, j ≠ k → s.works j = false) →
     (∀ l, (s.core l).e0.state = .valid → (s.core l).e1.state = .valid → (s.core l).e0.order ≠ (s.core l).e1.order) →
     go = admitted (s.effectiveShare k) (s.runningEnergy k)
       (if ilimit then (s.candidates k).filter fun x => x.2.task.energy == 0 else s.candidates k) →
     ∃ t, exec (.startDecision ilimit true) s = .next t ∧
       (∀ l e, (l, e) ∈ go → { e with state := .starting } ∈ [(t.core l).e0, (t.core l).e1]) ∧
       (∀ l, (∀ e, (l, e) ∉ go) → t.core l = s.core l) ∧ (∀ j, j ≠ k → t.ctx j = s.ctx j) ∧
       (t.ctx k).stats.deferredStarts = (s.ctx k).stats.deferredStarts + ((s.candidates k).length - go.length) ∧
       (ilimit = true → t.gov.ilimitSlots = wrap 32 (s.gov.ilimitSlots + 1) ∧ (t.page 0x18).raw.getLsbD 0 = true) ∧
       (ilimit = false → t.gov.ilimitSlots = s.gov.ilimitSlots ∧ t.pages = s.pages) ∧ t.time = s.time ∧ t.mem = s.mem ∧ t.spad = s.spad)

/-! ### Rotas and the headwater's beats (R336, R337, R353) -/

/-- ROTATION of a catchment whose resident single-member context is blocked: with rotation enabled and a runnable member, the resident's freeze is fixed for
its next context tick, the first runnable member after it in rota order is noted for the thaw, and each of the two counts one rotation event; otherwise
the stagnation event and a log entry, once, and no other action (R337). -/
def Obligations.Rotation : Prop :=
  ∀ (cmid : Nat) (e k : Fin 16) (s : State), s.catchOf cmid = some e → s.residentOf e = some k → (s.ctx k).headwater = true →
    (s.ctx k).multiMember = false → (s.ctx k).fault = none → (s.ctx k).halted = false → (s.ctx k).freezeStage = .none →
    (s.ctx k).freezeSub = none → (s.ctx k).freezePending = false → s.catchBlocked k = true →
    (∀ j, (s.catch_ e).autoNow = true → s.nextRunnable e (s.ctx k).rota = some j →
      ∃ t, exec (.rotation cmid) s = .next t ∧ (t.catch_ e).thawNext = some j ∧
        (t.ctx k).freezeStage = .scheduled ((s.ctx k).tick + 1) ∧ (t.ctx k).freezeSub.isSome = true ∧
        (t.ctx k).ndetTotal = ((s.ctx k).count 11).ndetTotal ∧ (t.ctx k).ndetKinds = ((s.ctx k).count 11).ndetKinds ∧
        t.ctx j = (s.ctx j).count 11 ∧ (∀ i, i ≠ k → i ≠ j → t.ctx i = s.ctx i) ∧ (∀ d, d ≠ e → t.catch_ d = s.catch_ d) ∧
        t = { s with ctxs := t.ctxs, catches := t.catches }) ∧
    ((s.catch_ e).autoNow = false ∨ s.nextRunnable e (s.ctx k).rota = none →
      ((s.catch_ e).stagnant = false → ∃ t, exec (.rotation cmid) s = .next t ∧ t.catch_ e = { s.catch_ e with stagnant := true } ∧
        (t.page 0x2C).raw.getLsbD 0 = true ∧ t.steward.nextSeq = s.steward.nextSeq + 1 ∧ t.ctxs = s.ctxs ∧ t.cores = s.cores ∧
        t.time = s.time ∧ ∀ d, d ≠ e → t.catch_ d = s.catch_ d) ∧
      ((s.catch_ e).stagnant = true → exec (.rotation cmid) s = .next s))

/-- IDLE_BEAT_SEND at a tick start: a member to whom the headwater has sent nothing for 128 ticks is sent an idle beat out of the port of its route, or the beat
is discarded as stray where the table holds no route, and the tick is noted; earlier, nothing. HEADWATER_LOSS: a worker without a control message in effect for 256 ticks has the headwater-loss fault and its cores halt; earlier,
nothing. Neither touches another context (R353). -/
def Obligations.HeadwaterBeats : Prop :=
  ∀ (k : Fin 16) (s : State), (s.ctx k).runs = true → (s.ctx k).multiMember = true →
    (∀ member addr, (s.ctx k).headwater = true → s.atTickStart = true → (s.members k).find? (fun p => p.1 == member) = some (member, addr) →
      addr ≠ s.cfg.instanceAddr →
      ((s.ctx k).hw.sentAt member + 128 ≤ (s.ctx k).tick → s.safety.fenced = false →
        ∃ t, exec (.idleBeatSend k member) s = .next t ∧ t.ctx k = (s.ctx k).sentTo member ∧ (∀ j, j ≠ k → t.ctx j = s.ctx j) ∧
          (∀ port, s.routeTo (s.ctx k).cmid addr = some port →
            t.linkOut = s.linkOut ++ [{ port := port, dest := addr, hdr := s.hdrOf k 2 0, body := .ctrl .idleBeat }] ∧
            t = { s with ctxs := t.ctxs, linkOut := t.linkOut }) ∧
          (s.routeTo (s.ctx k).cmid addr = none →
            t.safety.strays = wrap 32 (s.safety.strays + 1) ∧ (t.page 0x34).raw.getLsbD 2 = true ∧
            t = { s with ctxs := t.ctxs, safety := { s.safety with strays := t.safety.strays }, pages := t.pages })) ∧
      ((s.ctx k).tick < (s.ctx k).hw.sentAt member + 128 → exec (.idleBeatSend k member) s = .next s)) ∧
    ((s.ctx k).headwater = false →
      ((s.ctx k).lastControl + 256 ≤ (s.ctx k).tick → (s.ctx k).fault = none →
        ∃ t f, exec (.headwaterLoss k) s = .next t ∧ (t.ctx k).fault = some f ∧ f.code = 0x1C ∧ f.scope = 0 ∧
          (∀ l ∈ s.coresOf k, (t.core (lcidOf l)).halted = true) ∧ (∀ j, j ≠ k → t.ctx j = s.ctx j) ∧ t.time = s.time ∧ t.mem = s.mem ∧
          t.spad = s.spad) ∧
      ((s.ctx k).tick < (s.ctx k).lastControl + 256 → exec (.headwaterLoss k) s = .next s))

/-! ### Teardown (R323, R334) -/

/-- TEARDOWN_SCRUB_END once the scrub's slots have passed: every byte of the scratchpads of the context's cores is zero and no other scratchpad byte changes;
external memory is that of the scrub of the context's ledger area, pools and list areas, and with a key slot cleared the steward's log entry beside it: outside the log ring
and the log area of the window every byte is the scrub's; the cores
are reset, and the counters, rings, steps, residency entries, held notices, inlet packets and the key slot of the context are gone. Before that nothing
changes (R334). -/
def Obligations.TeardownScrubEnd : Prop :=
  ∀ (k : Fin 16) (s : State) (e : Nat), s.Sound → (s.ctx k).phase = .tearingDown → (s.ctx k).released = false → (s.ctx k).scrubEnd = some e →
    (e ≤ s.time.slotCount → ∃ t, exec (.teardownScrubEnd k) s = .next t ∧ (t.ctx k).released = true ∧ (t.ctx k).phase = .tearingDown ∧
      (t.ctx k).steps = [] ∧ (t.ctx k).counters = [] ∧ (t.ctx k).rings = [] ∧ (t.ctx k).residency = [] ∧ (t.ctx k).ledger = {} ∧
      (t.ctx k).fault = (s.ctx k).fault ∧ (t.steward.keys[k.val]) = none ∧
      (∀ l ∈ s.coresOf k, t.core (lcidOf l) = {}) ∧ (∀ h ∈ t.horizon, h.slot ≠ k) ∧ (∀ p ∈ t.packets, p.slot ≠ k) ∧
      (∀ l ∈ s.coresOf k, ∀ a, spadAddr l 0 ≤ a → a < spadAddr (l + 1) 0 → t.spad.read a = 0) ∧
      (∀ a, (∀ l ∈ s.coresOf k, a < spadAddr l 0 ∨ spadAddr (l + 1) 0 ≤ a) → t.spad.read a = s.spad.read a) ∧
      (s.steward.keys[k.val] = none → t.mem = ((s.scrubSpads k).scrubLedger k).mem) ∧
      t.mem = (((s.scrubSpads k).scrubLedger k).clearKey k).mem ∧
      (∀ a, (a < s.cfg.logAddr ∨ s.cfg.logAddr + 2 ^ 16 * 2 ^ s.cfg.logLog2 ≤ a) →
        (a < s.cfg.window + 0x8000 + s.ringSize ∨ s.cfg.window + 0x8000 + s.ringSize + s.areaSize ≤ a) →
        t.mem.read a = ((s.scrubSpads k).scrubLedger k).mem.read a) ∧ OthersStand k s t ∧
      t.time = s.time ∧ t.catches = s.catches) ∧
    (s.time.slotCount < e → exec (.teardownScrubEnd k) s = .next s)

/-! ### Start decisions and pond entries (R24, R25, R139–R148) -/

/-- If the CRC check fails, the pond marks the entry invalid and reports the failure, and Puska treats it as a descriptor fault of the owning context; where
the check passes the entry is valid. The core starts no invalid entry: an invalid entry is no candidate. -/
def Obligations.PondCrc : Prop :=
  ∀ (l : Fin 64) (b : Bool) (crc : BitVec 32) (s : State),
    ((if b then (s.core l).e1 else (s.core l).e0).state = .loading →
      (∃ t, exec (.pondCrcResult l b true crc) s = .next t ∧ OnlyCore l s t ∧
        t.core l = (if b then { s.core l with e1 := { (s.core l).e1 with state := .valid } }
          else { s.core l with e0 := { (s.core l).e0 with state := .valid } })) ∧
      (∃ t, exec (.pondCrcResult l b false crc) s = .next t ∧
        (if b then (t.core l).e1 else (t.core l).e0).state = .invalid ∧
        (∀ j, j ≠ (if b then (s.core l).e1 else (s.core l).e0).task.slot → t.ctx j = s.ctx j) ∧
        ∀ k, k = (if b then (s.core l).e1 else (s.core l).e0).task.slot → (s.ctx k).phase ≠ .empty → (s.ctx k).fault = none →
          ∃ f, (t.ctx k).fault = some f ∧ f.code = 0x02 ∧ f.scope = 0 ∧ f.core = l.val ∧
            f.detail1 = (if b then (s.core l).e1 else (s.core l).e0).task.node ∧ f.detail2 = crc.toNat)) ∧
    (∀ e, s.candidate l = some e → e.state = .valid)

/-- TASK_END before the window closes: the first report of the task in service is kept for its end boundary with its status, code and detail. WINDOW_CLOSE in
the last slot of the span, at or after the core's stagger: the window is closed and the task's waits, offered pairs, unaccepted records, and commands that no unit
has accepted are abandoned; a task without a report has overrun its span, also where the core reports its end after the close: of such a report only the checksum and the cache use count, and so of one that comes after an engine fault Puska found. The
SENDs of the ac are tested first. (That the missing report is a span overrun, and what a late one counts, is log entry 35's reading; that SENDs are tested first log entry 22's.) CORE_HALTED: a halted core's acknowledgement is noted. Reports and acknowledgements change that core alone (R4, R21, R25, R26, R140, R253). -/
def Obligations.TaskEnds : Prop :=
  ∀ (l : Fin 64) (s : State),
    (∀ e r, (s.core l).serving = some e → e.windowClosed = false →
      (e.report = none → ∃ t, exec (.taskEnd l r) s = .next t ∧ OnlyCore l s t ∧ (t.core l).serving.bind (·.report) = some r) ∧
      (∀ q, e.report = some q → ∃ t, exec (.taskEnd l r) s = .next t ∧ OnlyCore l s t ∧
        (t.core l).serving.bind (·.report) = some { q with checksum := r.checksum, cache := q.cache || r.cache })) ∧
    (∀ e r, (s.core l).serving = some e → e.windowClosed = true → e.report = none →
      ∃ t, exec (.taskEnd l r) s = .next t ∧ OnlyCore l s t ∧
        (t.core l).serving.bind (·.report) = some { r with status := .spanOverrun, code := 0, detail := 0 }) ∧
    (∀ e, (s.core l).serving = some e → e.slotsLeft ≤ 1 → s.time.inMargin = false → 224 + s.stagger l.val ≤ s.time.offset →
      (s.ctx e.task.slot).runs = true →
      ∃ t, exec (.windowClose l) s = .next t ∧ (t.core l).cntWait = none ∧ (t.core l).sendWait = none ∧
        (t.core l).recvWait = none ∧ (t.core l).laneQueue = [] ∧ (t.core l).offers = [] ∧ (t.core l).inletWait = [] ∧
        (t.core l).serving = some { e with windowClosed := true } ∧ (∀ j, j ≠ l → t.core j = s.sendTests.core j) ∧
        t.cntOps = s.sendTests.cntOps.filter (fun o => !(o.lcid == l.val && o.due.isNone)) ∧
        (∀ u, (t.unit u) = { s.sendTests.unit u with behind := (s.sendTests.unit u).behind.filter (·.lcid != l.val) }) ∧
        t = { s.sendTests with cores := t.cores, cntOps := t.cntOps, units := t.units }) ∧
    (∀ (e : PondEntry) (h : Bool), e.windowClosed = true → e.report = none → endReport h e = { status := .spanOverrun }) ∧
    ((s.core l).halted = true → ∀ d, ∃ t, exec (.coreHalted l d) s = .next t ∧ OnlyCore l s t ∧
      t.core l = { s.core l with boundaryReached := true, drained := (s.core l).drained || d })

/-! ### Counters (R164–R178, R253) -/

/-- A counter command of the task in service, with no SEND of its core stalled before it, is queued with its operands: effective 8 ac after its acceptance, and, while its core has pairs outstanding or an
earlier command held, held unaccepted, with the pairs it follows and, of a ripple, the mover commands it follows (R164, R175, R253). One that names 0xF_FFFF, an undeclared counter of this instance or an increment of zero is not performed: the task has
an engine fault with the command's code and performs no further command (R165). In one ac a counter gains every increment that is due, notices first, then one for each CNT_TAKE, and stops at its largest value; takes are served in ascending
LCID, each returning the value before its own increment 4 ac later; a read returns the value after all of it (R164, R167, R174). -/
def Obligations.CounterCommands : Prop :=
  (∀ (l : Fin 64) (v : BitVec 20) (n dest : BitVec 32) (target : BitVec 48) (dmv1 : Bool) (s : State) (x : Task), s.issues l = some x →
     (s.core l).laneStalled = false →
     (∀ c kind code, (c, kind, code) ∈ [(Instr.cntInc l v n, CntKind.inc n.toNat, 1), (.cntTake l v, .take, 2), (.cntRead l v, .read, 3),
         (.cntWait l v target, .wait target.toNat, 4), (.ripple l dest v n dmv1, .ripple dest.toNat n.toNat dmv1, 5)] →
       (v.toNat ≠ 0xFFFFF → (code = 5 ∨ ((s.ctx x.slot).counter? v.toNat).isSome = true) → (code = 1 ∨ code = 5 → n ≠ 0) →
         ∀ movers, movers = (if code = 5 then (s.core l).moverBusy dmv1 else []) →
         (s.pairsOutstanding l.val (s.core l).offered = false → (∀ o ∈ s.cntOps, o.lcid = l.val → o.due.isSome = true) →
           exec c s = .next { s with cntOps := s.cntOps ++
             [{ lcid := l.val, slot := x.slot, vid := v.toNat, kind := kind, due := some (s.time.ac + 8), epoch := x.epoch
                movers := movers, after := (s.core l).offered }] }) ∧
         (s.pairsOutstanding l.val (s.core l).offered = true ∨ (∃ o ∈ s.cntOps, o.lcid = l.val ∧ o.due = none) →
           exec c s = .next { s with cntOps := s.cntOps ++
             [{ lcid := l.val, slot := x.slot, vid := v.toNat, kind := kind, due := none, epoch := x.epoch
                movers := movers, after := (s.core l).offered }] })) ∧
       (v.toNat = 0xFFFFF ∨ (code ≠ 5 ∧ (s.ctx x.slot).counter? v.toNat = none) ∨ ((code = 1 ∨ code = 5) ∧ n = 0) →
         ∃ t, exec c s = .next t ∧ OnlyCore l s t ∧ t.issues l = none ∧
           (t.core l).serving.bind (·.report) = some { status := .engineFault, code := code, detail := v.toNat }))) ∧
  (∀ (k : Fin 16) (vid : Nat) (notices : List (Nat × Nat)) (s : State), ((s.ctx k).counter? vid).isSome = true →
     (s.ctx k).counterValue vid ≤ counterMax →
     (((s.resolveCounters k notices).ctx k).counterValue vid = min counterMax ((s.ctx k).counterValue vid +
       ((notices.filter fun p => p.1 == vid).map (·.2)).sum +
       ((s.dueOps k).map fun o => if o.vid = vid then (match o.kind with | .inc n => n | .take => 1 | _ => 0) else 0).sum)) ∧
     ((∀ o ∈ s.dueOps k, o.kind = .take ∧ o.vid = vid) → notices = [] →
       (s.resolveCounters k notices).results = s.results ++
         (((s.dueOps k).mergeSort fun a b => a.lcid ≤ b.lcid).zipIdx.map fun p =>
           ⟨p.1.lcid, s.time.ac + 4, .value (min counterMax ((s.ctx k).counterValue vid + p.2))⟩)) ∧
     (∀ o, s.dueOps k = [o] → o.kind = .read → o.vid = vid →
       (s.resolveCounters k notices).results = s.results ++
         [⟨o.lcid, s.time.ac + 4, .value (((s.resolveCounters k notices).ctx k).counterValue vid)⟩]))

/-- Puska checks each pair in every ac in which either counter of the pair changes, after every change of that ac to both counters: if P − C exceeds B, the
pair is in overrun, and if C exceeds P, it is in underrun (R172). A pair that enters overrun or underrun sets its flag and first_vid, raises the event, halts the context's cores and is the context's fault, with the
counter-overrun or counter-underrun code; no other context changes (R173). A CNT_WAIT that becomes effective with its counter at or above its target is reached in that ac, and one below it waits; CNT_WAIT_RELEASE returns the
release 4 ac after the ac in which it was reached, and before that, while it is not reached, or on a halted core, changes nothing (R164, R170, R201). A counter is held in two copies: one whose copies
differ when it is read is a fault of its context with the counter-copy code (R162). -/
def Obligations.CounterEffects : Prop :=
  (∀ (old new : Ctx) (f : Bool × Nat × Nat), f ∈ pairFaults old new ↔
     ∃ q ∈ new.counters, q.decl.role = 1 ∧
       (q.value ≠ old.counterValue q.decl.vid ∨ new.counterValue q.decl.partner ≠ old.counterValue q.decl.partner) ∧
       ((new.counterValue q.decl.partner + q.decl.buffers < q.value ∧ f = (true, q.decl.vid, q.value - new.counterValue q.decl.partner)) ∨
         (q.value < new.counterValue q.decl.partner ∧ f = (false, q.decl.vid, new.counterValue q.decl.partner - q.value)))) ∧
  (∀ (k : Fin 16) (isOver : Bool) (vid excess : Nat) (s : State), (s.ctx k).phase ≠ .empty → (s.ctx k).fault = none →
     ∃ t f, t = s.pairFault k (isOver, vid, excess) ∧ (t.ctx k).fault = some f ∧ f.code = (if isOver then 0x0A else 0x0B) ∧ f.detail1 = vid ∧
       f.detail2 = excess ∧ (if isOver then (t.ctx k).stats.overrun = true else (t.ctx k).stats.underrun = true) ∧
       (t.ctx k).stats.firstVid = some ((s.ctx k).stats.firstVid.getD vid) ∧ (t.page (ctxPage k)).raw.getLsbD 4 = true ∧
       (∀ l ∈ s.coresOf k, (t.core (lcidOf l)).halted = true) ∧ (t.ctx k).counters = (s.ctx k).counters ∧ ∀ j, j ≠ k → t.ctx j = s.ctx j) ∧
  ((∀ (k : Fin 16) (l : Fin 64) (vid target : Nat) (o : CntOp) (s : State), s.dueOps k = [o] → o.lcid = l.val → o.vid = vid → o.kind = .wait target →
     (s.ctx k).fault = none → l.val ∈ (s.ctx k).cores →
     (s.ctx k).counters.Pairwise (fun a b => a.decl.vid ≠ b.decl.vid) → (∀ q ∈ (s.ctx k).counters, q.value = q.copy) →
     ((s.resolveCounters k []).core l).cntWait =
       some { vid := vid, target := target, at_ := s.time.ac, reached := if target ≤ (s.ctx k).counterValue vid then some s.time.ac else none }) ∧
   (∀ (l : Fin 64) (w : CntWait) (s : State), (s.core l).cntWait = some w →
     (∀ r, w.reached = some r → r + 4 ≤ s.time.ac → (s.core l).halted = false →
       ∃ t, exec (.cntWaitRelease l) s = .next t ∧ t.core l = { s.core l with cntWait := none } ∧ (∀ j, j ≠ l → t.core j = s.core j) ∧
         t.results = s.results ++ [⟨l.val, r + 4, .released⟩] ∧ t = { s with cores := t.cores, results := t.results }) ∧
     ((∀ r, w.reached = some r → s.time.ac < r + 4) ∨ (s.core l).halted = true → exec (.cntWaitRelease l) s = .next s))) ∧
  (∀ (k : Fin 16) (vid : Nat) (q : Counter) (s : State), (s.ctx k).counter? vid = some q →
     (q.value = q.copy → s.compareCopies k [vid] = s) ∧
     (q.value ≠ q.copy → (s.ctx k).phase ≠ .empty → (s.ctx k).fault = none →
       ∃ t f, t = s.compareCopies k [vid] ∧ (t.ctx k).fault = some f ∧ f.code = 0x09 ∧ f.detail1 = vid ∧ (t.ctx k).counters = (s.ctx k).counters ∧
         (∀ l ∈ s.coresOf k, (t.core (lcidOf l)).halted = true) ∧ ∀ j, j ≠ k → t.ctx j = s.ctx j))

/-! ### Channels (R183–R198) -/

/-- A RING_OPEN, RING_CLOSE, RECV or RELEASE of the receiver's task in service, with no SEND of its core stalled before it, takes effect 1 ac after its acceptance (R190, R191, R197, R198); one that R188
names is not performed, and the task has an engine fault with the command's code and the first ring (that it is the first ring of a RECV's list: log entry 24). A refused SEND is one with units outside 1–8 or an
undeclared ring (R187, R188). A close ends the ring's opening and leaves its epoch, pointers and messages; a stalled SEND on it receives CLOSED (R191). A release advances the release pointer
past the oldest delivered message, and a SEND that waits for room in that ring is tested in the same ac (R193, R198). A RECV in effect on rings that hold no message returns EMPTY where it polls and waits otherwise (R197). No
other ring and no other context changes. -/
def Obligations.ChannelCommands : Prop :=
  (∀ (l : Fin 64) (r : BitVec 10) (rings : List Nat) (p rotation poll : Bool) (s : State) (x : Task), s.issues l = some x →
     (s.core l).laneStalled = false →
     (∀ c ns kind code, (c, ns, kind, code) ∈ [(Instr.ringOpen l r p, [r.toNat], ChanKind.open_ p, 8), (.ringClose l r, [r.toNat], .close, 9),
         (.recv l rings rotation poll, rings, .recv rings rotation poll, 0xB), (.release l r, [r.toNat], .release, 0xC)] →
       (ns ≠ [] ∧ ns.length ≤ 8 ∧ (∀ n ∈ ns, (s.ctx x.slot).owns l.val n = true) ∧
           (code = 0xC → ∃ q m ms, (s.ctx x.slot).ring? r.toNat = some q ∧ q.msgs = m :: ms ∧ m.delivered = true) →
         exec c s = .next { s with chanOps := s.chanOps ++
           [{ lcid := l.val, slot := x.slot, ring := ns.headD 0, kind := kind, due := s.time.ac + 1 }] }) ∧
       (ns = [] ∨ 8 < ns.length ∨ (∃ n ∈ ns, (s.ctx x.slot).owns l.val n = false) ∨
           (code = 0xC ∧ ∀ q, (s.ctx x.slot).ring? r.toNat = some q → ∀ m ms, q.msgs = m :: ms → m.delivered = false) →
         ∃ t, exec c s = .next t ∧ OnlyCore l s t ∧ t.issues l = none ∧
           (t.core l).serving.bind (·.report) = some { status := .engineFault, code := code, detail := ns.headD 0 })) ∧
     (∀ units tag check epoch payload, units = 0 ∨ 8 < units ∨ (s.ctx x.slot).ring? r.toNat = none →
       ∃ t, exec (.send l r units tag check epoch payload) s = .next t ∧ OnlyCore l s t ∧ t.issues l = none ∧
         (t.core l).serving.bind (·.report) = some { status := .engineFault, code := 0xA, detail := r.toNat })) ∧
  (∀ (o : ChanOp) (q : Ring) (s : State), (s.ctx o.slot).ring? o.ring = some q →
     (o.kind = .close → ∃ t, t = s.chanEffect o ∧ (t.ctx o.slot).ring? o.ring = some { q with isOpen := false } ∧
       (∀ l ∈ (s.ctx o.slot).cores, ∀ w e, (s.core (lcidOf l)).sendWait = some w → w.ring = o.ring → (s.core (lcidOf l)).serving = some e →
         e.task.slot = o.slot → (t.core (lcidOf l)).sendWait = none ∧ ⟨l, s.time.ac + 4, .closed⟩ ∈ t.results) ∧
       (∀ n, n ≠ o.ring → (t.ctx o.slot).ring? n = (s.ctx o.slot).ring? n) ∧ (∀ j, j ≠ o.slot → t.ctx j = s.ctx j) ∧
       t = { s with ctxs := t.ctxs, cores := t.cores, results := t.results }) ∧
     (∀ m ms, o.kind = .release → q.msgs = m :: ms → m.delivered = true →
       ∃ t, t = s.chanEffect o ∧
         (t.ctx o.slot).ring? o.ring = some { q with release := (q.release + m.units * 64) % 2 ^ 32, msgs := ms } ∧
         (∀ n, n ≠ o.ring → (t.ctx o.slot).ring? n = (s.ctx o.slot).ring? n) ∧ (∀ j, j ≠ o.slot → t.ctx j = s.ctx j) ∧
         (∀ l ∈ (s.ctx o.slot).cores, ∀ w, (s.core (lcidOf l)).sendWait = some w → w.ring = o.ring → w.test = none →
           (t.core (lcidOf l)).sendWait = some { w with test := some s.time.ac }) ∧
         (∀ l, t.core l = { s.core l with sendWait := (t.core l).sendWait }) ∧ t = { s with ctxs := t.ctxs, cores := t.cores }) ∧
     (∀ rings rotation poll, o.kind = .recv rings rotation poll →
       (∀ n ∈ rings, ∀ r, (s.ctx o.slot).ring? n = some r → ∀ m ∈ r.msgs, m.delivered = true ∨ m.written = false) →
       (poll = true → s.chanEffect o = { s with results := s.results ++ [⟨o.lcid, s.time.ac + 4, .empty⟩] }) ∧
       (poll = false → ∃ t, t = s.chanEffect o ∧ OnlyCore (lcidOf o.lcid) s t ∧
         (t.core (lcidOf o.lcid)).recvWait = some { rings := rings, rotation := rotation, since := s.time.ac })))

/-- RING_OPEN takes effect 1 ac after acceptance. If the ring is open, Puska first closes it (R191: a stalled SEND receives CLOSED, and messages accepted before are
written in full). It then adds one to the epoch, modulo 2^16, sets all four pointers and the sequence to zero, and sets open and persist as the
command gives them; the receiver gets the new epoch. -/
def Obligations.RingOpened : Prop :=
  (∀ (l : Fin 64) (r : BitVec 10) (p : Bool) (s : State) (x : Task), s.issues l = some x → (s.core l).laneStalled = false →
    (s.ctx x.slot).owns l.val r.toNat = true →
    exec (.ringOpen l r p) s = .next { s with chanOps := s.chanOps ++
      [{ lcid := l.val, slot := x.slot, ring := r.toNat, kind := .open_ p, due := s.time.ac + 1 }] }) ∧
  ∀ (o : ChanOp) (p : Bool) (q : Ring) (s : State), o.kind = .open_ p → s.chanOps = [o] → (s.ctx o.slot).ring? o.ring = some q →
    (s.time.ac < o.due → s.chanEffects = s) ∧
    (o.due ≤ s.time.ac → ∃ t, t = s.chanEffects ∧ t.chanOps = [] ∧
      (t.ctx o.slot).ring? o.ring = some { q with
        isOpen := true, persist := p, epoch := (q.epoch + 1) % 2 ^ 16, reserve := 0, write := 0, delivery := 0, release := 0, seq := 0, msgs := [] } ∧
      (∃ before, t.results = s.results ++ before ++ [⟨o.lcid, s.time.ac + 4, .epoch ((q.epoch + 1) % 2 ^ 16)⟩]) ∧
      (∀ l ∈ (s.ctx o.slot).cores, ∀ w e, (s.core (lcidOf l)).sendWait = some w → w.ring = o.ring → (s.core (lcidOf l)).serving = some e →
        e.task.slot = o.slot → (t.core (lcidOf l)).sendWait = none ∧ ⟨l, s.time.ac + 4, .closed⟩ ∈ t.results) ∧
      (∀ n, n ≠ o.ring → (t.ctx o.slot).ring? n = (s.ctx o.slot).ring? n) ∧ (∀ j, j ≠ o.slot → t.ctx j = s.ctx j) ∧
      t = { s with chanOps := t.chanOps, ctxs := t.ctxs, cores := t.cores, results := t.results })

/-- A SEND of the task in service waits with a test due in its own ac, and SEND_ACCEPT gives a stalled one a test in the present ac (R187, R193, R194). While a SEND waits, every further command of its core's lane waits behind it, in order (R194). The test, of a core that is not halted (R201), on an open ring
whose epoch check holds: where the message fits it takes the current sequence and epoch, the reserve pointer gains units × 64 and the sequence one, the sender gets
OK 4 ac after the ac of the test, and with no other message of the receiver's cluster being written its write pointer advance comes units + 1 ac after it; where it does not fit it waits. On a closed ring, or with another epoch, the sender gets CLOSED
(R187, R192–R195). That the tests of one ac are made as the next ac begins, in ascending LCID, is the model's order of the same ac (log entry 22). In each of the `units` ac before its write pointer advance one 64-byte unit of a message goes into the ring's scratchpad area, in order, and in no other ac (R185, R195). MESSAGE_WRITTEN: the write pointer passes the message due in a cluster whole, unless its ring has a new epoch. With
none due, nothing. RECV_RELEASE: a waiting RECV gets the oldest undelivered message of the ring it selects, once that message was written in an earlier ac; the
delivery pointer advances past it (R185, R195–R197). -/
def Obligations.Sends : Prop :=
  (∀ (l : Fin 64) (s : State),
     (∀ (r : BitVec 10) (units : Nat) (tag : BitVec 8) (check : Bool) (epoch : BitVec 16) (payload : Bytes) (x : Task), s.issues l = some x →
       (s.core l).laneStalled = false → ((s.ctx x.slot).ring? r.toNat).isSome = true → 1 ≤ units → units ≤ 8 →
       ∃ t, exec (.send l r units tag check epoch payload) s = .next t ∧ OnlyCore l s t ∧ t.core l = { s.core l with
         sendWait := some { ring := r.toNat, units := units, tag := tag.toNat, check := check, epoch := epoch.toNat, payload := payload
                            at_ := s.time.ac, test := some s.time.ac } }) ∧
     (∀ (r : BitVec 10) (rings : List Nat) (units : Nat) (tag : BitVec 8) (epoch : BitVec 16) (payload : Bytes) (v : BitVec 20) (n dest m : BitVec 32)
        (target : BitVec 48) (a b : Bool) (x : Task) (c : Instr), s.issues l = some x → (s.core l).laneStalled = true →
       c ∈ [Instr.cntInc l v n, .cntTake l v, .cntRead l v, .cntWait l v target, .ripple l dest v n a, .ringOpen l r a, .ringClose l r,
         .recv l rings a b, .release l r, .send l r units tag a epoch payload, .traceMark l m a] →
       ∃ t q, exec c s = .next t ∧ OnlyCore l s t ∧ t.core l = { s.core l with laneQueue := (s.core l).laneQueue ++ [q] }) ∧
     (∀ w, (s.core l).sendWait = some w →
       ((s.core l).halted = false → ∃ t, exec (.sendAccept l) s = .next t ∧ OnlyCore l s t ∧
         t.core l = { s.core l with sendWait := some { w with test := some s.time.ac } }) ∧
       ((s.core l).halted = true → exec (.sendAccept l) s = .next s)) ∧
     ((s.core l).halted = true → s.sendTest l = s) ∧
     ((∀ j, j ≠ l → ∀ w, (s.core j).sendWait = some w → w.test = none) → s.sendTests = s.sendTest l)) ∧
  (∀ (l : Fin 64) (w : SendWait) (ac : Nat) (q : Ring) (s : State) (e : PondEntry) (k : Fin 16), (s.core l).sendWait = some w → w.test = some ac →
     (s.core l).serving = some e → e.task.slot = k → (s.core l).halted = false → (s.ctx k).ring? w.ring = some q →
     (q.isOpen = true → (w.check = true → q.epoch = w.epoch) → w.units * 64 ≤ q.room →
       ∃ t j, t = s.sendTest l ∧ t.results = s.results ++ [⟨l.val, ac + 4, .sent q.epoch q.seq⟩] ∧
         (t.ctx k).ring? w.ring = some { q with
           reserve := (q.reserve + w.units * 64) % 2 ^ 32, seq := (q.seq + 1) % 2 ^ 16
           msgs := q.msgs ++ [{ units := w.units, header := msgHeader l.val w.units q.seq q.epoch w.tag }] } ∧
         j ∈ t.writes ∧ j.slot = k ∧ j.ring = w.ring ∧ j.lcid = l.val ∧ j.units = w.units ∧ j.pointer = q.reserve ∧ j.payload = w.payload ∧
         j.epoch = q.epoch ∧ ((∀ i ∈ s.writes, i.cluster ≠ j.cluster) → j.done = ac + w.units + 1) ∧
         t.core l = { s.core l with sendWait := none } ∧ (∀ i, i ≠ l → t.core i = s.core i) ∧ (∀ i, i ≠ k → t.ctx i = s.ctx i) ∧
         t = { s with ctxs := t.ctxs, cores := t.cores, writes := t.writes, results := t.results }) ∧
     (q.isOpen = true → (w.check = true → q.epoch = w.epoch) → q.room < w.units * 64 →
       ∃ t, t = s.sendTest l ∧ OnlyCore l s t ∧ t.core l = { s.core l with sendWait := some { w with test := none } }) ∧
     (q.isOpen = false ∨ (w.check = true ∧ q.epoch ≠ w.epoch) →
       ∃ t, t = s.sendTest l ∧ t.results = s.results ++ [⟨l.val, ac + 4, .closed⟩] ∧ t.core l = { s.core l with sendWait := none } ∧
         (∀ i, i ≠ l → t.core i = s.core i) ∧ t = { s with cores := t.cores, results := t.results })) ∧
  (∀ (j : WriteJob) (s : State), s.writes = [j] →
     (∀ i, i < j.units → s.time.ac + j.units = j.done + i → s.writesAc = { s with
       spad := s.spad.writeBytes (spadAddr j.receiver (j.base + (j.pointer + i * 64) % max j.size 1))
         (slice (msgBytes j.header j.units j.payload) (i * 64) 64) }) ∧
     (s.time.ac + j.units < j.done ∨ j.done ≤ s.time.ac → s.writesAc = s)) ∧
  (∀ s : State,
     (∀ (k : Fin 8) (j : WriteJob) (q : Ring), s.dueWrite k = some j → (s.ctx j.slot).ring? j.ring = some q →
       ∃ t, exec (.messageWritten k) s = .next t ∧ t.writes = s.writes.erase j ∧
         (q.epoch = j.epoch → (t.ctx j.slot).ring? j.ring = some { q with
           write := (q.write + j.units * 64) % 2 ^ 32, msgs := markWritten j.done q.msgs } ∧ ∀ i, i ≠ j.slot → t.ctx i = s.ctx i) ∧
         (q.epoch ≠ j.epoch → t.ctxs = s.ctxs) ∧ t = { s with writes := t.writes, ctxs := t.ctxs }) ∧
     (∀ k, s.dueWrite k = none → exec (.messageWritten k) s = .next s) ∧
     (∀ (l : Fin 64) (w : RecvWait) (e : PondEntry) (i : Nat) (q : Ring) (m : RingMsg), (s.core l).recvWait = some w → (s.core l).serving = some e →
       (s.core l).halted = false → i < w.rings.length →
       (s.ctx e.task.slot).choose w.rings (if w.rotation then (s.core l).rotNext else 0) = some i →
       (s.ctx e.task.slot).ring? (w.rings.getD i 0) = some q → q.ready = some m → m.writtenAt < s.time.ac →
       ∃ t, exec (.recvRelease l) s = .next t ∧
         t.results = s.results ++ [⟨l.val, s.time.ac + 4, .received (w.rings.getD i 0) (q.decl.base + q.delivery % q.size) m.header⟩] ∧
         (t.ctx e.task.slot).ring? (w.rings.getD i 0) = some { q with
           delivery := (q.delivery + m.units * 64) % 2 ^ 32, msgs := markDelivered q.msgs } ∧
         t.core l = { s.core l with recvWait := none, rotNext := if w.rotation then (i + 1) % w.rings.length else (s.core l).rotNext } ∧
         (∀ j, j ≠ l → t.core j = s.core j) ∧ (∀ j, j ≠ e.task.slot → t.ctx j = s.ctx j) ∧
         t = { s with ctxs := t.ctxs, cores := t.cores, results := t.results }))

/-! ### Confluence (R244–R261) -/

/-- A confluence command of the task in service whose range lies in its cluster's region waits in the unit, in order of effect, effective 8 ac after its
acceptance, or, while its core has pairs not yet accepted, behind them; one out of range is an engine fault (R251, R252, R263). The pairs of a PAIR_RECORD are offered in order; the first invalid one is not added, and the
task has an engine fault (R245); that the pairs after it are not offered is log entry 25's reading. An entry adds its contribution to its element exactly: a poisoned element stays poisoned; where the sum stays in the range of R241 the element holds it; otherwise
the element is poisoned, and the context has the confluence-range fault with the cluster and the element and its cores halt (R241, R248, R250). -/
def Obligations.ConfluenceCommands : Prop :=
  (∀ (l : Fin 64) (first count format dest cluster df : Nat) (addr : BitVec 32) (clear : Bool) (s : State) (x : Task), s.issues l = some x →
     (∀ c op code, (c, op, code) ∈ [(Instr.cflDrain l first count format dest clear, CflOp.drain format dest clear, 6),
         (.cflExport l first count addr cluster df clear, .exportTo addr.toNat cluster df clear, 7), (.cflClear l first count, .clear, 0xD)] →
       (∀ g, (s.ctx x.slot).region? (s.clusterOf l.val) = some g → 1 ≤ count → count ≤ 65536 → first + count ≤ g.elements →
         (code = 6 → format ≤ 2 ∧ dest % 64 = 0 ∧ dest + count * drainBytes format ≤ spadSize ∧
           (s.ctx x.slot).overlapsRegion l.val dest (dest + count * drainBytes format) = false) →
         ∃ t m, exec c s = .next t ∧ OnlyUnit (s.unitOf l.val) s t ∧
           m = { slot := x.slot, lcid := l.val, first := first, count := count, op := op, epoch := x.epoch, effective := s.time.ac + 8
                 after := (s.core l).offered } ∧
           ((s.core l).offers = [] → t.unit (s.unitOf l.val) = { s.unit (s.unitOf l.val) with
             waiting := insertCmd m (s.unit (s.unitOf l.val)).waiting }) ∧
           ((s.core l).offers ≠ [] → t.unit (s.unitOf l.val) = { s.unit (s.unitOf l.val) with
             behind := (s.unit (s.unitOf l.val)).behind ++ [m] })) ∧
       ((∀ g, (s.ctx x.slot).region? (s.clusterOf l.val) = some g → g.elements < first + count) ∨ count = 0 ∨ 65536 < count ∨
           (code = 6 ∧ (2 < format ∨ dest % 64 ≠ 0 ∨ spadSize < dest + count * drainBytes format ∨
             (s.ctx x.slot).overlapsRegion l.val dest (dest + count * drainBytes format) = true)) →
         ∃ t, exec c s = .next t ∧ OnlyCore l s t ∧ t.issues l = none ∧
           (t.core l).serving.bind (·.report) = some { status := .engineFault, code := code, detail := first })) ∧
     (∀ pairs, (∀ p ∈ pairs, s.pairValid x.slot l.val p = true) →
       ∃ t, exec (.pairRecord l pairs) s = .next t ∧ OnlyCore l s t ∧ t.core l = { s.core l with
         offers := (s.core l).offers ++ pairs, offered := (s.core l).offered + pairs.length }) ∧
     (∀ good p rest, (∀ q ∈ good, s.pairValid x.slot l.val q = true) → s.pairValid x.slot l.val p = false →
       ∃ t, exec (.pairRecord l (good ++ p :: rest)) s = .next t ∧ OnlyCore l s t ∧ (t.core l).offers = (s.core l).offers ++ good ∧
         (t.core l).serving.bind (·.report) = some { status := .engineFault, code := 0xFF, detail := pairIndex p })) ∧
  (∀ (k : Fin 16) (u i : Nat) (p : Int) (g : Region) (s : State), (s.ctx k).region? u = some g →
     g.words.Pairwise (fun a b => a.1 < b.1) →
     ((s.ctx k).element u i = poisonWord → s.addInt k u i p = s) ∧
     ((s.ctx k).element u i ≠ poisonWord → -(2 ^ 255 : Int) < ((s.ctx k).element u i).toInt + p → ((s.ctx k).element u i).toInt + p < 2 ^ 255 →
       ∃ t, t = s.addInt k u i p ∧ OnlyCtx k s t ∧ ((t.ctx k).element u i).toInt = ((s.ctx k).element u i).toInt + p ∧
         ∀ v j, (v, j) ≠ (u, i) → (t.ctx k).element v j = (s.ctx k).element v j) ∧
     ((s.ctx k).element u i ≠ poisonWord → ((s.ctx k).element u i).toInt + p ≤ -(2 ^ 255 : Int) ∨ 2 ^ 255 ≤ ((s.ctx k).element u i).toInt + p →
       (s.ctx k).phase ≠ .empty → (s.ctx k).fault = none →
       ∃ t f, t = s.addInt k u i p ∧ (t.ctx k).element u i = poisonWord ∧ (t.ctx k).stats.rangeFault = true ∧ (t.ctx k).fault = some f ∧
         f.code = 0x13 ∧ f.detail1 = u ∧ f.detail2 = i ∧ (∀ l ∈ s.coresOf k, (t.core (lcidOf l)).halted = true) ∧
         ∀ j, j ≠ k → t.ctx j = s.ctx j))

/-- CFL_COMMAND_BEGIN lets the cycles pass until the first waiting command of its unit begins, within the slot or margin in progress; with none waiting nothing happens. CONFLUENCE_SCRUB lets them pass until
the scrub a cancellation asked for begins. A command begins once it is effective, with no local entry accepted before its effect left and nothing running, and runs for ⌈count / 64⌉ ac, 64 elements in each:
a clear sets them to zero; a drain writes the rounded elements densely at its destination and counts the poisoned ones; an export sends each element's word in ascending order with the issuing task's epoch, in fast
mode as pairs of unit weight, four to a unit; a set clear bit zeroes what was read. The last ac gives the result, 4 ac later. Otherwise nothing begins. The scrub zeroes every element of the cancelled
context's region in the cluster, once no local entry accepted before the boundary is left and no command runs (R251, R252, R254–R256, R261, R264). That the two rows bring the cycles before their event, and that
a scrub's zeros stand from its begin, is the model's choice (log entries 18 and 19). -/
def Obligations.ConfluenceRuns : Prop :=
  ∀ (u : Fin 8) (s : State),
    (((s.unit u).waiting = [] → exec (.cflCommandBegin u) s = .next s) ∧ ((s.unit u).scrubFor = none → exec (.confluenceScrub u) s = .next s) ∧
     (∀ n, s.acLeft = some n →
       ((s.unit u).waiting ≠ [] → ∃ t j, exec (.cflCommandBegin u) s = .next t ∧ j ≤ n ∧ t = Nat.repeat (fun q => (State.pass q 1).work) j s ∧
         (j = n ∨ (t.unit u).waiting.length < (s.unit u).waiting.length)) ∧
       ((s.unit u).scrubFor ≠ none → ∃ t j, exec (.confluenceScrub u) s = .next t ∧ j ≤ n ∧ t = Nat.repeat (fun q => (State.pass q 1).work) j s ∧
         (j = n ∨ (t.unit u).scrubFor = none))) ∧
     ((∃ n, s.acLeft = some (n + 1)) → (s.setUnit u {}).quiet = true → (s.unit u).localPart = [] → (s.unit u).remotePart = [] →
       (s.unit u).behind = [] → (s.unit u).current = none →
       ((s.unit u).scrubFor = none → (s.unit u).begins (s.time.ac + 1) = true →
         ∃ t q, exec (.cflCommandBegin u) s = .next t ∧ q = ((s.pass 1).cflStart u).cflRun u ∧ t.time.ac = s.time.ac + 1 ∧ t.ctxs = q.ctxs ∧
           t.spad = q.spad ∧ t.linkOut = q.linkOut ∧ t.results = q.results) ∧
       ((s.unit u).waiting = [] → (s.unit u).scrubBegins (s.time.ac + 1) = true →
         ∃ t, exec (.confluenceScrub u) s = .next t ∧ t.time.ac = s.time.ac + 1 ∧ t.ctxs = ((s.pass 1).scrubStart u).ctxs ∧
           t.spad = s.spad ∧ t.linkOut = s.linkOut ∧ t.results = s.results))) ∧
    (∀ m ms, (s.unit u).waiting = m :: ms → m.effective ≤ s.time.ac → (s.unit u).busy s.time.ac = false → (s.unit u).scrubbing s.time.ac = false →
      (∀ e ∈ (s.unit u).localPart, m.effective ≤ e.accepted) →
      ∃ t, t = s.cflStart u ∧ (∀ v, v ≠ u → t.unit v = s.unit v) ∧ (∀ j, j ≠ m.slot → t.ctx j = s.ctx j) ∧
        t.unit u = { s.unit u with
          waiting := ms, running := some (s.time.ac + ceilDiv m.count 64), current := some m, poisoned := 0 } ∧
        t.ctx m.slot = (if m.op = .clear then s.ctx m.slot else (s.ctx m.slot).fastEvent) ∧ t = { s with units := t.units, ctxs := t.ctxs }) ∧
    ((s.unit u).waiting = [] ∨ (s.unit u).busy s.time.ac = true ∨ (s.unit u).scrubbing s.time.ac = true ∨
        (∃ m ms, (s.unit u).waiting = m :: ms ∧ (s.time.ac < m.effective ∨ ∃ e ∈ (s.unit u).localPart, e.accepted < m.effective)) →
      s.cflStart u = s) ∧
    ((s.unit u).current = none → s.cflRun u = s) ∧
    (∀ m k, (s.unit u).current = some m → k = min 64 m.count →
      (∀ a c df clear, m.op = .exportTo a c df clear →
        a ≠ s.cfg.instanceAddr ∧ s.safety.fenced = false ∧ (s.routeTo (s.ctx m.slot).cmid a).isSome = true) →
      ∃ t n, t = s.cflRun u ∧ (∀ v, v ≠ u → t.unit v = s.unit v) ∧ (∀ j, j ≠ m.slot → t.ctx j = s.ctx j) ∧
        (m.count ≤ 64 → t.unit u = { s.unit u with current := none, poisoned := 0 } ∧
          t.results = s.results ++ [⟨m.lcid, s.time.ac + 4, .done ((s.unit u).poisoned + n)⟩]) ∧
        (64 < m.count → t.unit u = { s.unit u with current := some (m.rest 64), poisoned := (s.unit u).poisoned + n } ∧ t.results = s.results) ∧
        (∀ v i, v ≠ u.val ∨ i < m.first ∨ m.first + k ≤ i → (t.ctx m.slot).element v i = (s.ctx m.slot).element v i) ∧
        (∀ i, m.first ≤ i → i < m.first + k →
          ((m.op = .clear ∨ (∃ f d, m.op = .drain f d true) ∨ ∃ a c f, m.op = .exportTo a c f true) → (t.ctx m.slot).element u.val i = 0) ∧
          (((∃ f d, m.op = .drain f d false) ∨ ∃ a c f, m.op = .exportTo a c f false) →
            (t.ctx m.slot).element u.val i = (s.ctx m.slot).element u.val i)) ∧
        (m.op = .clear → n = 0 ∧ t.spad = s.spad ∧ t.linkOut = s.linkOut) ∧
        (∀ f d clear, m.op = .drain f d clear →
          n = (if (s.ctx m.slot).fast then 0 else (((s.ctx m.slot).range u.val m.first k).filter (· == poisonWord)).length) ∧
          t.linkOut = s.linkOut ∧
          t.spad = s.spad.writeBytes (spadAddr m.lcid d)
            (((s.ctx m.slot).drained u.val m.first k f).flatMap (leBytes (drainBytes f)))) ∧
        (∀ addr c df clear, m.op = .exportTo addr c df clear → n = 0 ∧ t.spad = s.spad ∧
          ∀ port, s.routeTo (s.ctx m.slot).cmid addr = some port →
            ((s.ctx m.slot).fast = false → t.linkOut = s.linkOut ++ (List.range k).map fun j =>
              { dest := addr, port := port, hdr := s.dataHdr m.slot 1 m.epoch
                body := .remote c [(df + j, .wide ((s.ctx m.slot).element u.val (m.first + j)))] }) ∧
            ((s.ctx m.slot).fast = true → t.linkOut = s.linkOut ++
              (fours k ((List.range k).map fun j =>
                (df + j, CflItem.pair (unitPair ((s.ctx m.slot).element u.val (m.first + j)).toNat (df + j))))).map fun es =>
                { dest := addr, port := port, hdr := s.dataHdr m.slot 1 m.epoch, body := .remote c es }))) ∧
    (∀ k g, (s.unit u).scrubFor = some k → (s.unit u).busy s.time.ac = false → (∀ e ∈ (s.unit u).localPart, (s.unit u).scrubMark ≤ e.accepted) →
      (s.ctx k).region? u.val = some g →
      ∃ t, t = s.scrubStart u ∧ (∀ i, i < g.elements → (t.ctx k).element u.val i = 0) ∧
        t.unit u = { s.unit u with scrubFor := none, scrubUntil := some (s.time.ac + ceilDiv g.elements 64) } ∧
        (∀ v, v ≠ u → t.unit v = s.unit v) ∧ (∀ v i, v ≠ u.val → (t.ctx k).element v i = (s.ctx k).element v i) ∧
        (∀ j, j ≠ k → t.ctx j = s.ctx j) ∧ t = { s with units := t.units, ctxs := t.ctxs }) ∧
    ((s.unit u).scrubFor = none ∨ (s.unit u).busy s.time.ac = true ∨ (∃ e ∈ (s.unit u).localPart, e.accepted < (s.unit u).scrubMark) →
      s.scrubStart u = s)

/-! ### The command lane and the movers (R31, R34, R166, R189, R232, R428) -/

/-- A fetch routine's FETCH_HANDOFF of an entry to be requested sends the fetch request to the peer, out of the port its catchment's table names; without a route the
request is stray, for the own instance it is a notice of this die, and where nothing is to be requested nothing is sent; from any other task it is an engine fault, as is an
INVALID_COMMAND (R36, R189, R232, R344). TRACE_MARK is effective 8 ac after its acceptance (R428). MOVER_ENTRY_COMPLETE of a mover task: an argument block with an invalid header or entry ends the task with an
engine fault that names the first bad one, before any increment; an entry that is not the next of its mover changes nothing; the next entry is
noted as done, with its notification's increment effective 8 ac later; an undeclared counter or a failed CRC check is an engine fault with the entry's
index (R30–R32, R34, R166, R512). That the header's name is 0xFFFF is the model's choice (log entry 136). -/
def Obligations.CoreCommands : Prop :=
  ∀ (l : Fin 64) (s : State) (x : Task), s.issues l = some x →
    (∀ y q, x.kind = .fetch → (s.ctx x.slot).fetchEntry ((s.ctx x.slot).node x.template x.node) x.step x.fanout = some (y, q) →
      (s.fetchOp y ≠ 1 → exec (.fetchHandoff l) s = .next s) ∧
      (s.fetchOp y = 1 → ∃ f : FetchReq, f.expertId = y.expertId ∧ f.home = y.location ∧ f.length = y.size * 64 ∧ f.destLcid = y.groupLcid ∧
        f.destWindow = y.windowId ∧ f.step = x.step ∧ f.template = x.template ∧ f.node = x.node ∧
        f.destOffset = s.windowOffset y.groupLcid y.windowId (y.slotOffset q.slot) ∧
        (∀ port, y.peer ≠ s.cfg.instanceAddr → s.safety.fenced = false → s.routeTo (s.ctx x.slot).cmid y.peer = some port →
          exec (.fetchHandoff l) s = .next { s with
            linkOut := s.linkOut ++ [{ dest := y.peer, port := port, hdr := s.hdrOf x.slot 2 x.epoch, body := .fetch f }] }) ∧
        (y.peer ≠ s.cfg.instanceAddr → s.safety.fenced = false → s.routeTo (s.ctx x.slot).cmid y.peer = none →
          exec (.fetchHandoff l) s = .next (s.stray s.cfg.instanceAddr)) ∧
        (y.peer = s.cfg.instanceAddr → exec (.fetchHandoff l) s = .next (s.sendNotice x.slot y.peer 2 x.epoch (.fetch f))))) ∧
    (∀ c code, (c = Instr.fetchHandoff l ∧ x.kind ≠ .fetch ∧ code = 0xE) ∨ (∃ n : BitVec 4, c = .invalidCommand l n ∧ code = n.toNat) →
      ∃ t, exec c s = .next t ∧ OnlyCore l s t ∧ t.issues l = none ∧
        (t.core l).serving.bind (·.report) = some { status := .engineFault, code := code, detail := 0 }) ∧
    (∀ v trigger, (s.core l).laneStalled = false → exec (.traceMark l v trigger) s = .next { s with cntOps := s.cntOps ++
      [{ lcid := l.val, slot := x.slot, vid := 0, kind := .mark v.toNat trigger x.layer x.operatorId, due := some (s.time.ac + 8), epoch := x.epoch }] }) ∧
    (∀ index crc block b e, x.kind = .mover → x.service = .node → b = (s.core l).moverBlock.getD block → e = moveEntryAt b index →
      (moverBlockBad b = none → nextOfMover b (s.core l).moved index = false → exec (.moverEntryComplete l index crc block) s = .next s) ∧
      (moverBlockBad b = none → nextOfMover b (s.core l).moved index = true →
        bit (field e 23 1) 2 = false →
        bit (field e 23 1) 1 = false ∨ (field e 20 3 ≠ 0xFFFFF ∧ ((s.ctx x.slot).counter? (field e 20 3)).isSome = true) →
        ∃ t, exec (.moverEntryComplete l index crc block) s = .next t ∧ t = { s with cores := t.cores, cntOps := t.cntOps } ∧
          (∀ j, j ≠ l → t.core j = s.core j) ∧
          t.core l = { s.core l with moverBlock := some b, moved := (s.core l).moved ++ [index], crc := some crc } ∧
          t.cntOps = s.cntOps ++ (if bit (field e 23 1) 1 = true then
            [{ lcid := l.val, slot := x.slot, vid := field e 20 3, kind := .inc (field e 24 4), due := some (s.time.ac + 8), epoch := x.epoch }]
            else [])) ∧
      (∀ detail, moverBlockBad b = some detail ∨ (moverBlockBad b = none ∧ nextOfMover b (s.core l).moved index = true ∧ detail = index ∧
          ((bit (field e 23 1) 1 = true ∧ (field e 20 3 = 0xFFFFF ∨ (s.ctx x.slot).counter? (field e 20 3) = none)) ∨
            (bit (field e 23 1) 2 = true ∧ ∃ p, s.checkedPage x index (field e 0 8) = some p ∧ p.crcValid = true ∧ p.crc ≠ crc))) →
        ∃ t, exec (.moverEntryComplete l index crc block) s = .next t ∧ OnlyCore l s t ∧ t.issues l = none ∧
          (t.core l).serving.bind (·.report) = some { status := .engineFault, code := 0xFF, detail := detail }))

/-! ### Control threads (R153–R158, R437) -/

/-- Every command of a running thread is kept with its frame, behind those before it, until the next slot boundary (R154). There a wait blocks the thread, a yield
makes it ready, a normal END frees the frame and completes its node with the last instance, BREAK halts its context, and a reserved code, a non-zero END status or a bad operand ends the thread with the thread fault (R154–R158,
R437). That detail2 of the fault is zero but for END is the model's reading (log entry 122). -/
def Obligations.ThreadCommands : Prop :=
  (∀ (c f : Fin 8) (s : State) (node : Nat) (next all : Bool) (flags : BitVec 32) (mask : BitVec 24) (vid : BitVec 20) (target : BitVec 48)
      (status id : BitVec 8) (code : BitVec 4), s.runningFrame c = some f → (s.ctx (s.frame c f).task.slot).runs = true →
    ∀ i m, (i, m) ∈ [(Instr.setFlags c next node flags, ThreadCmd.setFlags next node flags), (.waitFlags c mask all, .waitFlags mask all),
        (.waitCounter c vid target, .waitCounter vid.toNat target.toNat), (.yield c, .yield), (.endThread c status, .endThread status.toNat),
        (.breakThread c id, .break_ id.toNat), (.reservedThreadCommand c code, .reserved code.toNat)] →
      ∃ t, exec i s = .next t ∧ OnlyFrame c f (s.frame c f).task.slot s t ∧
        t.frame c f = { s.frame c f with commands := (s.frame c f).commands ++ [m] }) ∧
  ∀ (c f : Fin 8) (s : State) (k : Fin 16), (s.frame c f).state ≠ .free → k = (s.frame c f).task.slot → (s.ctx k).phase ≠ .empty →
    (∀ mask any, s.threadEffect c f (.waitFlags mask any) = s.setFrame c f { s.frame c f with
      state := .onFlags mask any, since := s.time.slotCount }) ∧
    (∀ vid target, vid ≠ 0xFFFFF → ((s.ctx k).counter? vid).isSome = true →
      s.threadEffect c f (.waitCounter vid target) = s.setFrame c f { s.frame c f with state := .onCounter vid target, since := s.time.slotCount }) ∧
    s.threadEffect c f .yield = s.setFrame c f { s.frame c f with state := .ready } ∧
    (∀ nx node flags, flags.toNat < 2 ^ 24 → node < (s.ctx k).flagNodeCount (s.frame c f).task nx →
      ∃ t, t = s.threadEffect c f (.setFlags nx node flags) ∧ OnlyCtx k s t ∧
        t.ctx k = (s.ctx k).threadFlags (s.frame c f).task nx node flags) ∧
    (∃ t, t = s.threadEffect c f (.endThread 0) ∧ t.frame c f = {} ∧ (∀ d g, (d, g) ≠ (c, f) → t.frame d g = s.frame d g) ∧
      (t.ctx k).fault = (s.ctx k).fault ∧ (∀ j, j ≠ k → t.ctx j = s.ctx j) ∧
      ∀ r i, (s.ctx k).run? (s.frame c f).task.step = some r → r.cancelled = false → (s.frame c f).task.node < r.insts.length →
        i = r.inst (s.frame c f).task.node → i.count ≤ i.ended + 1 → i.count ≤ i.placed → i.returned = [] →
        ∃ r', (t.ctx k).run? (s.frame c f).task.step = some r' ∧ (r'.inst (s.frame c f).task.node).state = .complete) ∧
    (∀ id, (s.ctx k).runs = true → ∃ t, t = s.threadEffect c f (.break_ id) ∧ (t.ctx k).halted = true ∧ (t.ctx k).haltCause = 0 ∧
      (t.ctx k).haltBreakpoint = id ∧ (t.ctx k).haltTick = (s.ctx k).tick ∧ ∀ l ∈ s.coresOf k, (t.core (lcidOf l)).halted = true) ∧
    (∀ m code status, (∃ n, m = .reserved n ∧ code = n ∧ status = 0) ∨ (∃ n, n ≠ 0 ∧ m = .endThread n ∧ code = 5 ∧ status = n) ∨
        (∃ v g, (v = 0xFFFFF ∨ (s.ctx k).counter? v = none) ∧ m = .waitCounter v g ∧ code = 3 ∧ status = 0) ∨
        (∃ nx n g, (2 ^ 24 ≤ g.toNat ∨ (s.ctx k).flagNodeCount (s.frame c f).task nx ≤ n) ∧ m = .setFlags nx n g ∧ code = 1 ∧ status = 0) →
      (s.ctx k).fault = none → ∃ t x, t = s.threadEffect c f m ∧ t.frame c f = {} ∧ (t.ctx k).fault = some x ∧ x.code = 0x05 ∧
        x.detail1 = code ∧ x.detail2 = status ∧ x.core = 0x80 + c.val)

/-! ### The inlet, publication and staging (R202–R216, R292, R293) -/

/-- An inlet record of a task whose VXE no weir stalls: a valid open record opens the core's packet with the task's slot, step and epoch; a choice record of a token in the
packet's block is appended; a close record with the right count ends the packet. Each misuse is a routing-record fault with its row of R210, the core and the record, and
writes nothing into the packet. A packet that a task of a cancelled step opens is dropped from its begin; what follows for a dropped packet is discarded, and its close
record ends it (R209, R238). While a weir stalls the VXE, or earlier records wait, the record waits (R202–R210). -/
def Obligations.InletRecords : Prop :=
  ∀ (l : Fin 64) (r : BitVec 64) (i : Instr) (s : State) (x : Task), i ∈ [Instr.openRecord l r, .choiceRecord l r, .closeRecord l r] →
    s.issues l = some x →
    (s.inletWeirs.inletBlocked x.slot = true ∨ (s.core l).inletWait ≠ [] →
      ∃ t, exec i s = .next t ∧ t.core l = { s.core l with inletWait := (s.core l).inletWait ++ [r] } ∧ t.packets = s.packets ∧ t.ctxs = s.ctxs ∧
        ∀ j, j ≠ l → t.core j = s.core j) ∧
    (s.inletWeirs.inletBlocked x.slot = false → (s.core l).inletWait = [] →
      (openOk r = true → s.openPacket l.val = none →
        ∃ t, exec i s = .next t ∧ t.ctxs = s.ctxs ∧ t.mem = s.mem ∧ t.spad = s.spad ∧ t.packets = s.packets ++
          [{ slot := x.slot, step := x.step, epoch := x.epoch, lcid := l.val, openRec := r
             dropped := (s.ctx x.slot).steps.any fun q => q.cancelled && q.step == x.step }]) ∧
      (∀ p, s.openPacket l.val = some p → p.dropped = true → recType r ≠ 1 →
        ∃ t, exec i s = .next t ∧ t.ctxs = s.ctxs ∧ t.mem = s.mem ∧ t.spad = s.spad ∧
          (recType r ≠ 2 → t.packets = s.packets) ∧ (recType r = 2 → t.openPacket l.val = none)) ∧
      (∀ p, choiceOk r = true → s.openPacket l.val = some p → p.dropped = false → recToken p.openRec ≤ recToken r →
        recToken r < recToken p.openRec + recTokens p.openRec →
        ∃ t, exec i s = .next t ∧ t.ctxs = s.ctxs ∧ t.mem = s.mem ∧ t.spad = s.spad ∧
          t.openPacket l.val = some { p with records := p.records ++ [r] } ∧ t.packets.length = s.packets.length) ∧
      (∀ p, closeOk r = true → s.openPacket l.val = some p → p.dropped = false → recCount r = p.records.length →
        ∃ t, exec i s = .next t ∧ t.ctxs = s.ctxs ∧ t.mem = s.mem ∧ t.spad = s.spad ∧ t.openPacket l.val = none ∧
          { p with closed := true } ∈ t.packets ∧ t.packets.length = s.packets.length) ∧
      (∀ row, (row = 1 ∧ (choiceOk r = true ∨ closeOk r = true) ∧ s.openPacket l.val = none) ∨
          (row = 2 ∧ openOk r = true ∧ s.openPacket l.val ≠ none) ∨
          (∃ p, row = 3 ∧ closeOk r = true ∧ s.openPacket l.val = some p ∧ p.dropped = false ∧ recCount r ≠ p.records.length) ∨
          (row = 5 ∧ openOk r = false ∧ choiceOk r = false ∧ closeOk r = false ∧
            (recType r = 1 ∨ ∀ p, s.openPacket l.val = some p → p.dropped = false)) ∨
          (∃ p, row = 6 ∧ choiceOk r = true ∧ s.openPacket l.val = some p ∧ p.dropped = false ∧
            (recToken r < recToken p.openRec ∨ recToken p.openRec + recTokens p.openRec ≤ recToken r)) →
        (s.ctx x.slot).phase ≠ .empty → (s.ctx x.slot).fault = none →
        ∃ t f, exec i s = .next t ∧ (t.ctx x.slot).fault = some f ∧ f.code = 0x11 ∧ f.detail1 = row ∧ f.detail2 = r.toNat ∧ f.core = l.val ∧
          t.packets = s.packets ∧ ∀ j, j ≠ x.slot → t.ctx j = s.ctx j))

/-- JOB_PUBLISH in the last ac before a job's publication boundary: its lists are in its list area, and nothing else changes but that mark. The boundary publishes it: the residency table holds the slots it claimed, its counts are in the
context's statistics and it is published; no other context and no byte outside its list area changes. STAGING_ISSUE in the last ac before a block's issue boundary: its
staging task is ready. In any other ac neither does anything (R215, R216, R223, R229, R292). That the two act in that ac is the model's choice (log
entry 8). -/
def Obligations.PublishAndStage : Prop :=
  ∀ (k : Fin 16) (s : State),
    (∀ j, s.time.inMargin = false → s.time.offset = 255 → (s.ctx k).runs = true →
      (s.ctx k).jobs.find? (fun j => j.started && !j.published && decide (j.slotsLeft ≤ 1)) = some j →
      ∃ t, exec (.jobPublish k) s = .next t ∧ t.ctx k = (s.ctx k).modJob j.step j.layer (fun j => { j with written := true }) ∧
        t.mem = (s.ctx k).writeLists j s.mem ∧ (∀ i, i ≠ k → t.ctx i = s.ctx i) ∧ t = { s with ctxs := t.ctxs, mem := t.mem }) ∧
    (∀ j, j ∈ (s.ctx k).jobs →
      ∃ t j', t = s.publishJob k j ∧ (t.ctx k).published? j.layer j.step = some j' ∧ j'.packets = [] ∧ j'.tokens = j.tokens ∧
        j'.lists = ((s.ctx k).updateResidency j).2 ∧ (t.ctx k).residency = ((s.ctx k).updateResidency j).1 ∧
        t.mem = (s.ctx k).writeLists j' s.mem ∧ t.jobsPublished = s.jobsPublished + 1 ∧
        (t.ctx k).stats.spills = (s.ctx k).stats.spills + j.spills ∧ (t.ctx k).stats.dropped = (s.ctx k).stats.dropped + j.dropped ∧
        (t.ctx k).stats.unassigned = (s.ctx k).stats.unassigned + j.unassigned ∧ (∀ i, i ≠ k → t.ctx i = s.ctx i) ∧
        t = { s with ctxs := t.ctxs, mem := t.mem, jobsPublished := t.jobsPublished }) ∧
    (∀ g run node, s.time.inMargin = false → s.time.offset = 255 → (s.ctx k).ledger.stages = [g] → g.issued = false → g.issueIn = 1 →
      g.node = node → (s.ctx k).run? g.step = some run →
      Ctx.stageReady { s.ctx k with ledger := { (s.ctx k).ledger with stages := [{ g with issueIn := 0 }] } }
        ((s.regionSize (bits ((s.ctx k).node run.template node).placement.toNat 5 0)
          (NodeP.region ((s.ctx k).node run.template node))).getD 0) { g with issueIn := 0 } = true →
      ∃ t a, exec (.stagingIssue k node) s = .next t ∧ OnlyCtx k s t ∧ (t.ctx k).ledger.stages = [{ g with issueIn := 0, issued := true }] ∧
        (t.ctx k).aux = (s.ctx k).aux ++ [a] ∧ a.ready = true ∧ a.task.service = .staging node g.index ∧ a.task.step = g.step ∧
        a.task.kind = .mover ∧ a.task.slot = k) ∧
    (s.time.inMargin = false → s.time.offset ≠ 255 → exec (.jobPublish k) s = .next s ∧ ∀ node, exec (.stagingIssue k node) s = .next s)

/-! ### The link (R35–R37, R61–R66, R257–R260, R347–R357) -/

/-- A message whose CXID no context of the die holds, or whose CMID is not that of the context, is stray: the count and the event, and nothing of any context
changes; from the lock-step peer the lock-step messages and tick seals alone have another CMID. One for a context that tears down is dropped without a trace (R36). A thaw message to a member that has no slot for the
context is answered with a refused restore (R452, log entry 151). A ripple, a landing inside its window, a fetch request or a control message of a context of the die waits in the horizon queue, behind those before it, with its
header. On time and from a partner it changes no context; a ripple that arrives after its tick in RESULT-EXACT or RELAXED mode counts one late notice. A notice of a
cancelled epoch is discarded and counted, and a landing outside its window is a landing fault (R27, R36, R61, R65). -/
def Obligations.Notices : Prop :=
  (∀ (h : MsgHdr) (v : BitVec 20) (n : BitVec 32) (l : Landing) (f : FetchReq) (cl i : Nat) (w : BitVec 256) (r : BitVec 128) (d : BitVec 64) (b : Bool)
     (s : State) (c : Instr), c ∈ [Instr.rippleReceived h v n, .landingNotice h l, .fetchRequest h f, .wideLanding h cl i w, .forwardedPair h cl r,
       .tickSeal h, .controlSeal h, .blockedReport h b, .thawMessage h, .idleBeat h, .digestMessage h i d] →
     ((s.findCxid h.cxid = none ∧ (c = .thawMessage h → s.noSlotFor h = false)) ∨ (∃ k, s.findCxid h.cxid = some k ∧ (s.ctx k).phase ≠ .tearingDown ∧ (s.ctx k).cmid ≠ h.cmid ∧
         ((s.ctx k).fromPeer h = false ∨ c ∈ [Instr.landingNotice h l, .fetchRequest h f, .wideLanding h cl i w, .forwardedPair h cl r, .controlSeal h,
           .blockedReport h b, .thawMessage h, .idleBeat h])) →
       ∃ t, exec c s = .next t ∧ t.safety.strays = wrap 32 (s.safety.strays + 1) ∧ (t.page 0x34).raw.getLsbD 2 = true ∧
         (t.page 0x34).errCount = (s.page 0x34).errCount + 1 ∧
         ((s.page 0x34).errCount = 0 → (t.page 0x34).errCode = 0x07 ∧ (t.page 0x34).errDetail = h.sender % 2 ^ 32) ∧
         t = { s with safety := t.safety, pages := t.pages, windows := t.windows } ∧
         (c ≠ .landingNotice h l ∨ l.opened = [] → t.windows = s.windows)) ∧
     (s.noSlotFor h = true → exec (.thawMessage h) s = .next (s.sendMsg h.sender
       { h with sender := s.cfg.instanceAddr, tick := h.tick + s.horizonOf h.cmid } (.ctrl (.restoreReport 0 false)))) ∧
     (∀ k, s.findCxid h.cxid = some k → (s.ctx k).phase = .tearingDown →
       ∃ t, exec c s = .next t ∧ t = { s with windows := t.windows } ∧ (c ≠ .landingNotice h l ∨ l.opened = [] → t.windows = s.windows))) ∧
  (∀ (h : MsgHdr) (k : Fin 16) (s : State), s.findCxid h.cxid = some k → (s.ctx k).phase ≠ .tearingDown → (s.ctx k).cmid = h.cmid →
     (∀ (c : Instr) (b : MsgBody) (ctl : Bool),
       (ctl = false ∧ (s.ctx k).epochCancelled h.epoch = false ∧
         ((∃ v n, c = .rippleReceived h v n ∧ b = .ripple v.toNat n.toNat ∧ (v = 0xFFFFF → n ≠ 0)) ∨ (∃ f, c = .fetchRequest h f ∧ b = .fetch f) ∨
           ∃ l, c = .landingNotice h l ∧ b = .landing l ∧ ((s.ctx k).afterSave = true ∨
             ∃ w, State.window? { s with windows := l.opened.foldl openWindow s.windows } l.lcid l.window = some w ∧ w.lo + l.offset + l.length ≤ w.hi))) ∨
       (ctl = true ∧ ∃ x, b = .ctrl x ∧
         ((∃ st tpl ch, c = .stepStart h st tpl ch ∧ x = .stepStart st tpl ch) ∨ (∃ st y m p q, c = .stepReport h st y m p q ∧ x = .stepReport st y m p q) ∨
           (∃ y, c = .blockedReport h y ∧ x = .blockedReport y) ∨ (∃ st, c = .cancelMessage h st ∧ x = .cancel st) ∨
           (∃ n, c = .freezeMessage h n ∧ x = .freeze n) ∨ (c = .thawMessage h ∧ x = .thaw) ∨ (∃ n, c = .resumeMessage h n ∧ x = .resume n) ∨
           (∃ n y, c = .restoreReport h n y ∧ x = .restoreReport n y) ∨ (∃ n m, c = .teardownMessage h n m ∧ x = .teardown n m) ∨
           (c = .idleBeat h ∧ x = .idleBeat) ∨ (∃ n es, c = .lockstepList h n es ∧ x = .lockList n es) ∨ (c = .lockstepHalt h ∧ x = .lockHalt) ∨
           ∃ n m, c = .haltRelay h n m ∧ x = .haltRelay n m)) →
       ∃ t, exec c s = .next t ∧ t.horizon = s.horizon ++
           [{ hdr := h, body := b, slot := k, order := s.arrivals, whileFrozen := !ctl && (s.ctx k).afterSave, late := s.pastDue k h ctl }] ∧
         t.arrivals = s.arrivals + 1 ∧ OthersStand k s t ∧ t.mem = s.mem ∧ t.spad = s.spad ∧ t.cores = s.cores ∧
         (s.pastDue k h ctl = false → ctl = true ∨ (s.ctx k).partners.contains h.sender = true → ∃ n, t.ctx k = (s.ctx k).creditsSince n) ∧
         (s.pastDue k h ctl = true → h.sender ≠ s.cfg.instanceAddr → (s.ctx k).mode ≠ .scheduleExact →
           ∃ n, t.ctx k = (((s.ctx k).count 1).cause 1).creditsSince n)) ∧
     ((s.ctx k).epochCancelled h.epoch = true → ∀ c, (∃ v n, (v = 0xFFFFF → n ≠ 0) ∧ c = Instr.rippleReceived h v n) ∨ (∃ f, c = .fetchRequest h f) ∨
         (∃ l, c = .landingNotice h l) →
       ∃ t, exec c s = .next t ∧ t = { s with ctxs := t.ctxs, windows := t.windows } ∧ (∀ j, j ≠ k → t.ctx j = s.ctx j) ∧
         t.ctx k = (s.ctx k).modStats fun u => { u with noticeDiscards := u.noticeDiscards + 1 }) ∧
     (∀ l, (s.ctx k).epochCancelled h.epoch = false → (s.ctx k).phase = .running → (s.ctx k).fault = none →
       (∀ w, State.window? { s with windows := l.opened.foldl openWindow s.windows } l.lcid l.window = some w →
         w.hi < w.lo + l.offset + l.length) →
       ∃ t f, exec (.landingNotice h l) s = .next t ∧ (t.ctx k).fault = some f ∧ f.code = 0x0F ∧ f.detail1 = l.window ∧ f.detail2 = l.offset ∧
         t.horizon = s.horizon ∧ ∀ j, j ≠ k → t.ctx j = s.ctx j))

/-- A wide word or forwarded pair of a live epoch for an element of the region waits in the remote part of the cluster's intake; one of another epoch is discarded and
counted, and one outside the region is a landing fault (R257, R259, R260). A tick seal and a control seal raise the sender's sealed tick, a digest of the
lock-step peer is kept for its tick; each changes that context alone (R62, R357, R516). A tick seal behind a remote entry of its sender and channel waits in the horizon
queue and has not sealed its tick yet; that a seal waits as a ripple does is the model's reading of R63 with R258 (log entry 118). A launch message of a catchment of the table waits until its GTC of effect, and changes that entry alone; one of no catchment is stray. In effect, a join notes the member
and whether its manifest hash agrees, a refusal its code, a confirm and an abort their flag (R36, R347, R348, R355). -/
def Obligations.ControlMessages : Prop :=
  (∀ (h : MsgHdr) (k : Fin 16) (s : State), s.findCxid h.cxid = some k → (s.ctx k).phase ≠ .tearingDown → (s.ctx k).cmid = h.cmid →
     (∀ c cl i item, ((∃ w, c = Instr.wideLanding h cl i w ∧ item = .wide w ∧ (s.ctx k).fast = false) ∨
         (∃ r, c = .forwardedPair h cl r ∧ i = pairIndex r ∧ item = .pair r)) → cl < 8 →
       ((s.ctx k).epochLive h.epoch = true → (∃ g, (s.ctx k).region? cl = some g ∧ i < g.elements) →
         ∃ t, exec c s = .next t ∧ (∀ v, v ≠ Fin.ofNat 8 cl → t.unit v = s.unit v) ∧
           (t.unit (Fin.ofNat 8 cl)).remotePart = (s.unit (Fin.ofNat 8 cl)).remotePart ++
             [{ slot := k, epoch := h.epoch, index := i, item := item, sender := h.sender, vc := h.vc, order := s.arrivals
                waits := h.sender == s.cfg.instanceAddr && ((s.unit (Fin.ofNat 8 cl)).remoteCredit == 0 ||
                  (s.unit (Fin.ofNat 8 cl)).remotePart.any (·.waits)) }] ∧
           t = { s with units := t.units, arrivals := s.arrivals + 1 }) ∧
       ((s.ctx k).epochLive h.epoch = false → ∃ t, exec c s = .next t ∧ OnlyCtx k s t ∧
         t.ctx k = (s.ctx k).modStats fun u => { u with epochDiscards := u.epochDiscards + 1 }) ∧
       ((s.ctx k).epochLive h.epoch = true → (∀ g, (s.ctx k).region? cl = some g → g.elements ≤ i) → (s.ctx k).fault = none →
         ∃ t f, exec c s = .next t ∧ (t.ctx k).fault = some f ∧ f.code = 0x0F ∧ f.detail1 = 0x100 + cl ∧ f.detail2 = i ∧ t.units = s.units)) ∧
     (s.behindRemote h s.arrivals = false → ∃ t, exec (.tickSeal h) s = .next t ∧ OnlyCtx k s t ∧ (∃ n, (h.sender, h.vc, n) ∈ (t.ctx k).seals ∧ h.tick ≤ n) ∧
       ∀ p ∈ (s.ctx k).seals, (p.1, p.2.1) ≠ (h.sender, h.vc) → p ∈ (t.ctx k).seals) ∧
     (s.behindRemote h s.arrivals = true → ∃ t, exec (.tickSeal h) s = .next t ∧ (∀ j, ∃ n, t.ctx j = (s.ctx j).creditsSince n) ∧ t.mem = s.mem ∧ t.spad = s.spad ∧
       t.arrivals = s.arrivals + 1 ∧ t.horizon = s.horizon ++
         [{ hdr := h, body := .seal, slot := k, order := s.arrivals, whileFrozen := (s.ctx k).afterSave, late := s.pastDue k h false }]) ∧
     exec (.rippleReceived h 0xFFFFF 0) s = exec (.tickSeal h) s ∧
     (∃ t, exec (.controlSeal h) s = .next t ∧ OnlyCtx k s t ∧ (∃ n, (h.sender, n) ∈ (t.ctx k).controlSeals ∧ h.tick ≤ n) ∧
       ∀ p ∈ (s.ctx k).controlSeals, p.1 ≠ h.sender → p ∈ (t.ctx k).controlSeals) ∧
     (∀ tick d, ∃ t, exec (.digestMessage h tick d) s = .next t ∧ OnlyCtx k s t ∧ (tick, d) ∈ (t.ctx k).lock.peerDigests ∧
       (∀ e, (tick, e) ∈ (t.ctx k).lock.peerDigests → e = d) ∧ (t.ctx k).lock.lists = (s.ctx k).lock.lists)) ∧
  (∀ (h : MsgHdr) (index hash reason horizon launch : Nat) (sm : MemberSummary) (batch : List Change) (s : State),
     (∀ c x peer, (c, x, peer) ∈ [(Instr.joinMessage h index hash sm, Ctrl.join index hash sm, false), (.refuse h index reason, .refuse index reason, (s.launchCatch h false).isNone),
         (.confirm { hdr := h, batch := batch }, .confirm batch, false), (.abort h, .abort, false), (.lockstepHello h horizon launch index, .lockHello horizon launch index, true)] →
       (∀ k, s.launchCatch h peer = some k → ∃ t, exec c s = .next t ∧ OnlyCatch k s t ∧
         t.catch_ k = { s.catch_ k with held := (s.catch_ k).held ++ [(h.tick + (s.catch_ k).horizon, h.sender, x)] }) ∧
       (s.launchCatch h peer = none → ∃ t, exec c s = .next t ∧ t.safety.strays = wrap 32 (s.safety.strays + 1) ∧
         t = { s with safety := t.safety, pages := t.pages })) ∧
     ∀ k sender,
       (∃ t, t = s.launchEffect k sender (.join index hash sm) ∧ OnlyCatch k s t ∧ (index, hash == (s.catch_ k).hash64) ∈ (t.catch_ k).hw.joins ∧
         (index, sm) ∈ (t.catch_ k).hw.summaries) ∧
       (∃ t, t = s.launchEffect k sender (.refuse index reason) ∧ OnlyCatch k s t ∧ (index, reason) ∈ (t.catch_ k).hw.refusals) ∧
       s.launchEffect k sender (.confirm batch) = s.setCatch k { s.catch_ k with confirmed := true, batch := batch } ∧
       s.launchEffect k sender .abort = s.setCatch k { s.catch_ k with aborted := true })

/-! ### Submissions (R332, R333, R446–R454) -/

/-- A submission to a running single-member context on its headwater is taken with its tag and its context tick: a cancel takes effect at the next context tick; a join, a
leave and an append wait for the next step start; a step submission waits in order; a set_flag acts in the next tick start; a run record is filed; a freeze fixes the next
context tick as its freeze tick; an import enters a sequence that is importing; a teardown is the context's fault with code 0x01 (R280, R312, R319, R333, R334,
R350–R352, R382, R453). Before READY no submission is taken. A kind that names a CXID no slot holds is refused with reason 3; one that only the headwater takes is refused elsewhere with 8; one the
phase does not allow with 0x0C; an operand out of range with 2; a second freeze with 7, and one while Freezing or Frozen with 6; a load, a thaw or a manifest on a fenced
die with 0x2A. A refusal files its record, due at the next tick start, and changes nothing else but the count of submissions taken (R333, R395, R451–R454, R463, R485). That a row acts
at once with its record due at the next tick start is log entry 58's reading, and which phases a kind is refused in with 0x0C log entry 69's. -/
def Obligations.Submissions : Prop :=
  (∀ (h : SubHdr) (k : Fin 16) (s : State) (w : Sub → Waiting), s.boot.ready = true → s.findCxid h.cxid = some k → (s.ctx k).phase = .running →
     (s.ctx k).headwater = true → (s.ctx k).multiMember = false → (s.ctx k).fault = none →
     (w = fun x => { hdr := h, taken := (s.ctx k).tick, sub := x }) →
     (∀ n, ∃ t, exec (.cancel h n) s = .next t ∧ OnlyCtx k s.countTaken t ∧
       (t.ctx k).outcomes = (s.ctx k).outcomes ++ [{ w (.cancel n) with step := n }] ∧
       (t.ctx k).due = (s.ctx k).due ++ [{ tick := (s.ctx k).tick + 1, sender := s.cfg.instanceAddr, ctrl := .cancel n }] ∧
       (t.ctx k).steps = (s.ctx k).steps) ∧
     (∀ c x, (∃ r, s.joinFields k r = true ∧ c = Instr.join h r ∧ x = Sub.join r) ∨ (∃ r, c = .leave h r ∧ x = .leave r) ∨
         (∃ g n, n ≤ 16384 ∧ c = .appendCount h g n ∧ x = .appendCount g n) →
       ∃ t, exec c s = .next t ∧ OnlyCtx k s.countTaken t ∧ t.ctx k = { s.ctx k with hw := { (s.ctx k).hw with
         changes := (s.ctx k).hw.changes ++ [w x] } }) ∧
     (∀ tpl n, n ≠ 0 → (tpl = 0xFFFF ∨ ∃ x, (s.ctx k).image.templates[tpl]? = some x ∧ x.stepTemplate = true) →
       ∃ t, exec (.step h tpl n) s = .next t ∧ OnlyCtx k s.countTaken t ∧ t.ctx k = { s.ctx k with hw := { (s.ctx k).hw with
         stepSubs := (s.ctx k).hw.stepSubs ++ [{ hdr := h, taken := (s.ctx k).tick, template := tpl, left := n }] } }) ∧
     (∀ st node (flags : BitVec 32), flags.toNat < 2 ^ 24 → ∃ t, exec (.setFlag h st node flags) s = .next t ∧ OnlyCtx k s.countTaken t ∧
       (t.ctx k).setFlagsDue = (s.ctx k).setFlagsDue ++ [w (.setFlag st node flags)] ∧ (t.ctx k).steps = (s.ctx k).steps) ∧
     exec (.runRecord h) s = .next (s.countTaken.pushRec
       { kind := 9, cxid := h.cxid, ctx := some k, slot := h.slot.val, tag := h.tag, taken := (s.ctx k).tick, subKind := 0x0C
         due := s.time.localTick + 1 }) ∧
     (∀ a l rel, (s.ctx k).freezeSub = none → (s.ctx k).freezeStage = .none → s.inPackage a l = true →
       ∃ t, exec (.freeze h a l rel) s = .next t ∧ OnlyCtx k s.countTaken t ∧
         t.ctx k = { s.ctx k with freezeSub := some (w (.freeze a l rel)), freezeStage := .scheduled ((s.ctx k).tick + 1) }) ∧
     (∀ r : ImportReq, (s.ctx k).ledger.global? r.globalId = none → (s.ctx k).ledger.joinRefusal { globalId := r.globalId, maxTokens := r.maxTokens } = none →
       ∃ t q, exec (.importSeq h r) s = .next t ∧ (t.ctx k).ledger.global? r.globalId = some q ∧ q.state = 0 ∧ q.imported = true ∧
         q.maxTokens = r.maxTokens ∧ q.tokens = r.tokens ∧ q.hostAddr = r.hostAddr ∧ ∀ j, j ≠ k → t.ctx j = s.ctx j) ∧
     ∃ t f, exec (.teardown h) s = .next t ∧ (t.ctx k).fault = some f ∧ f.code = 0x01 ∧ f.scope = 0 ∧
       (t.ctx k).teardownSub = some ((s.ctx k).teardownSub.getD (w .teardown)) ∧
       (∀ l ∈ s.coresOf k, (t.core (lcidOf l)).halted = true) ∧ ∀ j, j ≠ k → t.ctx j = s.ctx j) ∧
  (∀ (h : SubHdr) (s : State) (lr : LoadReq) (tr : ThawReq) (jr : JoinReq) (vr : LeaveReq) (ir : ImportReq) (b : Bytes) (a l n g st tpl : Nat) (rel : Bool)
     (flags : BitVec 32),
     (s.boot.ready = false → ∀ c ∈ [Instr.load h lr, .manifest h b, .freeze h a l rel, .thaw h tr, .teardown h, .cancel h st, .join h jr, .leave h vr,
       .importSeq h ir, .appendCount h g n, .setFlag h st a flags, .runRecord h, .fwUpdate h b, .step h tpl n], exec c s = .next s) ∧
     (s.boot.ready = true →
       (s.findCxid h.cxid = none → ∀ c code, (c, code) ∈ [(Instr.freeze h a l rel, 3), (.teardown h, 5), (.cancel h st, 6), (.join h jr, 7), (.leave h vr, 8),
           (.importSeq h ir, 9), (.appendCount h g n, 10), (.setFlag h st a flags, 11), (.runRecord h, 12), (.step h tpl n, 14)] →
         exec c s = .next (s.countTaken.result h code 0 3 none (s.time.localTick + 1))) ∧
       (s.safety.fenced = true → ∀ c code, (c, code) ∈ [(Instr.load h lr, 1), (.manifest h b, 2), (.thaw h tr, 4)] →
         exec c s = .next (s.countTaken.result h code 0 0x2A none (s.time.localTick + 1))) ∧
       ∀ k, s.findCxid h.cxid = some k →
         ((s.ctx k).headwater = false → ∀ c code, (c, code) ∈ [(Instr.cancel h st, 6), (.join h jr, 7), (.leave h vr, 8), (.appendCount h g n, 10), (.step h tpl n, 14)] →
           exec c s = .next (s.countTaken.result h code (s.ctx k).tick 8 (some k) (s.time.localTick + 1))) ∧
         ((s.ctx k).phase = .loading → ∀ c code, (c, code) ∈ [(Instr.importSeq h ir, 9), (.setFlag h st a flags, 11), (.runRecord h, 12)] →
           exec c s = .next (s.countTaken.result h code (s.ctx k).tick 0x0C (some k) (s.time.localTick + 1))) ∧
         ((s.ctx k).phase = .freezing ∨ (s.ctx k).phase = .frozen →
           exec (.freeze h a l rel) s = .next (s.countTaken.result h 3 (s.ctx k).tick 6 (some k) (s.time.localTick + 1))) ∧
         ((s.ctx k).phase = .running → (s.ctx k).freezeSub ≠ none →
           exec (.freeze h a l rel) s = .next (s.countTaken.result h 3 (s.ctx k).tick 7 (some k) (s.time.localTick + 1))) ∧
         ((s.ctx k).phase = .running → (s.ctx k).headwater = true →
           (16384 < n → exec (.appendCount h g n) s = .next (s.countTaken.result h 10 (s.ctx k).tick 2 (some k) (s.time.localTick + 1))) ∧
           (2 ^ 24 ≤ flags.toNat → exec (.setFlag h st a flags) s = .next (s.countTaken.result h 11 (s.ctx k).tick 2 (some k) (s.time.localTick + 1))) ∧
           (s.joinFields k jr = false → exec (.join h jr) s = .next (s.countTaken.result h 7 (s.ctx k).tick 2 (some k) (s.time.localTick + 1))) ∧
           exec (.step h tpl 0) s = .next (s.countTaken.result h 14 (s.ctx k).tick 2 (some k) (s.time.localTick + 1)))))

/-- LOAD on a die that is ready and not fenced takes the lowest Empty slot, binds it to its catchment and makes it Loading. LOAD_COMPLETE with a key that unwraps, an image that
passes its checks and no mode conflict makes it ready to launch, at a single-member context and at a member alike; otherwise the load is refused with the reason of the first check that fails (of the key, of the
image, or 0x0A for a mode conflict) and the slot is Empty again without a key. So too for a thaw of a released freeze. THAW of a Frozen single-member
context makes it Thawing; of a released one it takes an Empty slot, or is refused where its payload holds no whole wrapped key, with reason 2 (the model's reading, log entry 85; R90, R303, R329, R403, R451, R452, R514). -/
def Obligations.Loads : Prop :=
  ∀ (h : SubHdr) (k e : Fin 16) (s : State), s.boot.ready = true → s.safety.fenced = false →
    (∀ r : LoadReq, r.mode ≤ 2 → r.rota ≤ 3 → r.cmid ≤ 4095 → s.findCxid h.cxid = none → s.emptyOne = some k →
      s.loadCatch h.cxid r = some e → s.rotaHeld k e r.rota = false →
      ∃ t, exec (.load h r) s = .next t ∧ (t.ctx k).phase = .loading ∧ (t.ctx k).cxid = h.cxid ∧ Mode.code (t.ctx k).mode = r.mode ∧
        (t.ctx k).rota = r.rota ∧ (t.ctx k).catchment = e ∧ (t.ctx k).lcids = (s.catch_ e).lcids ∧ (t.ctx k).share = (s.catch_ e).share ∧
        (t.ctx k).loadSub = some { hdr := h, taken := 0, sub := .load r } ∧ (t.ctx k).loadDone = false ∧ (t.page 0x01).raw.getLsbD 2 = true ∧
        (t.page (ctxPage k)).raw.getLsbD 0 = true ∧ (∀ j, j ≠ k → t.ctx j = s.ctx j) ∧ t = { s.countTaken with ctxs := t.ctxs, pages := t.pages }) ∧
    (∀ r : LoadReq, r.mode ≤ 2 → r.rota ≤ 3 → r.cmid ≤ 4095 → (∀ j, (s.ctx j).phase ≠ .empty ∧ (s.ctx j).phase ≠ .tearingDown) →
      exec (.load h r) s = .next (s.countTaken.result h 1 0 0x2A none (s.time.localTick + 1))) ∧
    (∀ (w : Waiting) (x : BitVec 64) (b key : Bytes) (g : Option Bytes) (named : Nat) (fast : Bool) (conflict : Image → Bool) (c : Instr),
      c = .loadComplete k x { image := b, peerGraph := g } → (s.ctx k).fault = none → (s.ctx k).loadDone = false →
      ((∃ r, (s.ctx k).phase = .loading ∧ (s.ctx k).loadSub = some w ∧ w.sub = .load r ∧ key = r.wrappedKey ∧ named = r.imageLength ∧
          fast = (r.mode == 2 && (s.ctx k).controls.fastEn) ∧ conflict = modeConflict (s.ctx k) r x g) ∨
        (∃ r, (s.ctx k).phase = .thawing ∧ (s.ctx k).thawReleased = true ∧ (s.ctx k).thawSub = some w ∧ w.sub = .thaw r ∧ key = r.wrappedKey ∧
          named = r.graphLength ∧ fast = false ∧ conflict = fun _ => false)) →
      (∀ y u i, s.unwrap key w.hdr.cxid = .inr y → u = { s with steward := { s.steward with keys := s.steward.keys.set k.val (some y) } } →
        u.checkImage k fast named b y.contextKey y.tenantX y.tenantY = .inr i → conflict i = false →
        ∃ t, exec c s = .next t ∧ (t.ctx k).loadDone = true ∧ (t.ctx k).phase = (s.ctx k).phase ∧ t.steward.keys[k.val] = some y ∧
          (t.ctx k).image = i ∧ (t.ctx k).fast = fast ∧ (∀ j, j ≠ k → t.ctx j = s.ctx j) ∧
          ((s.ctx k).multiMember = true → (s.ctx k).rota = 0 → (s.ctx k).phase = .loading → (t.catch_ (s.ctx k).catchment).joinSent = true) ∧
          ((s.ctx k).multiMember = false ∨ (s.ctx k).rota ≠ 0 → t.catches = s.catches)) ∧
      (∀ code, (s.unwrap key w.hdr.cxid = .inl code ∨
          ∃ y u, s.unwrap key w.hdr.cxid = .inr y ∧ u = { s with steward := { s.steward with keys := s.steward.keys.set k.val (some y) } } ∧
            (u.checkImage k fast named b y.contextKey y.tenantX y.tenantY = .inl code ∨
              ∃ i, u.checkImage k fast named b y.contextKey y.tenantX y.tenantY = .inr i ∧ conflict i = true ∧ code = 0x0A)) →
        ∃ t, exec c s = .next t ∧ (t.ctx k).phase = .empty ∧ t.steward.keys[k.val] = none ∧ (∀ j, j ≠ k → t.ctx j = s.ctx j) ∧
          ∃ q ∈ t.sluice.due, q.kind = 1 ∧ q.reason = code ∧ q.tag = w.hdr.tag ∧ q.subKind = w.sub.kind ∧ q.due = s.time.localTick + 1)) ∧
    (∀ r : ThawReq, s.findCxid h.cxid = some k → (s.ctx k).phase = .frozen → (s.ctx k).thawSub = none → (s.ctx k).multiMember = false →
      ∃ t, exec (.thaw h r) s = .next t ∧ t.ctx k = { s.ctx k with phase := .thawing, thawSub := some { hdr := h, taken := (s.ctx k).tick, sub := .thaw r } } ∧
        (t.page 0x01).raw.getLsbD 2 = true ∧ (∀ j, j ≠ k → t.ctx j = s.ctx j) ∧ t = { s.countTaken with ctxs := t.ctxs, pages := t.pages }) ∧
    (∀ r : ThawReq, s.findCxid h.cxid = none → r.wrappedKey.length < 320 →
      exec (.thaw h r) s = .next (s.countTaken.result h 4 0 2 none (s.time.localTick + 1))) ∧
    (∀ (r : ThawReq) (rota : Nat), s.findCxid h.cxid = none → 320 ≤ r.wrappedKey.length → s.emptyOne = some k → s.thawCatch h.cxid r.imageAddr = some (e, rota) →
      s.rotaHeld k e rota = false →
      ∃ t, exec (.thaw h r) s = .next t ∧ (t.ctx k).phase = .thawing ∧ (t.ctx k).cxid = h.cxid ∧ (t.ctx k).thawReleased = true ∧
        (t.ctx k).catchment = e ∧ (t.ctx k).rota = rota ∧ (t.ctx k).thawSub = some { hdr := h, taken := 0, sub := .thaw r } ∧
        (∀ j, j ≠ k → t.ctx j = s.ctx j) ∧ t = { s.countTaken with ctxs := t.ctxs, pages := t.pages })

/-- MANIFEST: one whose checks pass fills the lowest free entry of the catchment table and raises the event; one that fails changes no entry; each has its result record.
FW_UPDATE: an image whose checks pass is staged, with the event and a log entry; another is refused with its code and a log entry, and what is staged stays (R342, R412,
R502). -/
def Obligations.ManifestsAndFirmware : Prop :=
  ∀ (h : SubHdr) (b : Bytes) (s : State), s.boot.ready = true → s.safety.fenced = false →
    (∀ k c, s.checkManifest b = .inr (k, c) →
      ∃ t, exec (.manifest h b) s = .next t ∧ t.catch_ k = c ∧ (∀ j, j ≠ k → t.catch_ j = s.catch_ j) ∧ (t.page 0x2C).raw.getLsbD 1 = true ∧
        t.sluice = (s.countTaken.result h 2 0 0 none (s.time.localTick + 1)).sluice ∧ (∀ j, ∃ n, t.ctx j = (s.ctx j).creditsSince n) ∧
        t.time = s.time ∧ t.mem = s.mem ∧ t.spad = s.spad ∧ t.cores = s.cores ∧ t.steward = s.steward ∧ t.horizon = s.horizon) ∧
    (∀ code, s.checkManifest b = .inl code →
      ∃ t, exec (.manifest h b) s = .next t ∧ t.sluice = (s.countTaken.result h 2 0 code none (s.time.localTick + 1)).sluice ∧
        t = { s with sluice := t.sluice, linkOut := t.linkOut }) ∧
    (s.firmwareRefusal b = none →
      ∃ t, exec (.fwUpdate h b) s = .next t ∧ t.steward.staged = some (field b 12 4) ∧ t.steward.running = s.steward.running ∧
        (t.page 0x04).raw.getLsbD 1 = true ∧ t.steward.nextSeq = s.steward.nextSeq + 1 ∧
        t.sluice = (s.countTaken.result h 0x0D 0 0 none (s.time.localTick + 1)).sluice ∧ t.ctxs = s.ctxs ∧ t.time = s.time) ∧
    (∀ code, s.firmwareRefusal b = some code →
      ∃ t, exec (.fwUpdate h b) s = .next t ∧ t.steward.staged = s.steward.staged ∧ t.steward.running = s.steward.running ∧
        t.steward.nextSeq = s.steward.nextSeq + 1 ∧ t.sluice = (s.countTaken.result h 0x0D 0 code none (s.time.localTick + 1)).sluice ∧
        t.ctxs = s.ctxs ∧ t.time = s.time)

/-! ### Freeze and thaw (R319–R331) -/

/-- FREEZE_SAVE_BEGIN at a die tick start once every horizon partner has sealed the tick before the freeze and nothing of the context is in flight on the die: with room for the
image the save of 2 + ⌈B / r1⌉ slots begins, and what it saves of the scratchpads is their bytes in the context's live ranges; a submitted freeze without that room is a fault
with the bytes the image needs, and a counter whose two copies differ is one too (R162). Before that the save waits (R201, R321–R324). What the state of the cores and of Puska takes in the parcels is a free value (log entry 12). FREEZE_SAVE_END at the end of the save: the freeze image, header, directory and encrypted parcels, stands at the address the freeze names, the image is kept, the freeze serial counts one and the scrub of 64
slots begins; no other byte of external memory changes. FREEZE_SCRUB_END 64 slots later: every scratchpad of the catchment's cores reads zero, the context is Frozen,
or its slot Empty where the freeze releases, and a submitted freeze has its result record, due at the next tick start (R323, R451). Neither acts before its slot (R302, R304, R323, R325, R326). That what the image
holds is also kept as data beside memory is the model's form of it (log entry 44). -/
def Obligations.Freezes : Prop :=
  (∀ (k : Fin 16) (s : State), (s.ctx k).phase = .freezing → (s.ctx k).freezeStage = .draining →
     (s.drainedIn k = true → s.drainedHere k = true → s.atTickStart = true →
       (s.imageBytes k ≤ (s.ctx k).freezeArgs.2.1 ∨ ((s.ctx k).freezeSub.map (·.auto)).getD false = true) →
       (∀ q ∈ (s.ctx k).counters, q.value = q.copy) →
       ∃ t, exec (.freezeSaveBegin k) s = .next t ∧ OnlyCtx k s t ∧
         t.ctx k = { s.ctx k with
           freezeStage := .saving (s.time.slotCount + s.saveSlots k (s.saveBytes k)), saved := (t.ctx k).saved, savedBytes := s.saveBytes k } ∧
         (Memory.wf s.spad → ∀ a, (t.ctx k).saved.read a =
           if (s.liveRanges k).any (fun r => decide (spadAddr r.1 r.2.1 ≤ a ∧ a < spadAddr r.1 r.2.2)) then s.spad.read a else 0)) ∧
     (∀ q ∈ (s.ctx k).counters, s.drainedIn k = true → s.drainedHere k = true → s.atTickStart = true →
       s.imageBytes k ≤ (s.ctx k).freezeArgs.2.1 → (s.ctx k).counters = [q] → q.value ≠ q.copy → (s.ctx k).fault = none →
       ∃ t f, exec (.freezeSaveBegin k) s = .next t ∧ (t.ctx k).fault = some f ∧ f.code = 0x09 ∧ f.detail1 = q.decl.vid ∧
         (∃ e, (t.ctx k).freezeStage = .saving e) ∧ ∀ j, j ≠ k → t.ctx j = s.ctx j) ∧
     (s.drainedIn k = true → s.drainedHere k = true → s.atTickStart = true → (s.ctx k).freezeArgs.2.1 < s.imageBytes k →
       ((s.ctx k).freezeSub.map (·.auto)).getD false = false → (s.ctx k).fault = none →
       ∃ t f, exec (.freezeSaveBegin k) s = .next t ∧ (t.ctx k).fault = some f ∧ f.code = 0x17 ∧ f.detail2 = s.imageBytes k ∧
         (t.ctx k).freezeStage = .draining ∧ t.mem = s.mem ∧ t.spad = s.spad ∧ ∀ j, j ≠ k → t.ctx j = s.ctx j) ∧
     (s.drainedIn k = false ∨ s.drainedHere k = false ∨ s.atTickStart = false → exec (.freezeSaveBegin k) s = .next s)) ∧
  (∀ (k : Fin 16) (s : State) (e : Nat), (s.ctx k).phase = .freezing →
     ((s.ctx k).freezeStage = .saving e → e ≤ s.time.slotCount →
       ∃ t i, exec (.freezeSaveEnd k) s = .next t ∧ t.mem = s.mem.writeBytes (s.ctx k).freezeArgs.1 (s.freezeBytes k) ∧
         (s.freezeBytes k).take 256 = s.freezeHeader k ∧
         (t.ctx k).freezeStage = .scrubbing (s.time.slotCount + 64) ∧ (t.ctx k).freezeSerial = (s.ctx k).freezeSerial + 1 ∧
         t.images = i :: s.images.filter (fun f => f.address != (s.ctx k).freezeArgs.1) ∧ i.address = (s.ctx k).freezeArgs.1 ∧
         i.cxid = (s.ctx k).cxid ∧ i.cmid = (s.ctx k).cmid ∧ i.instanceAddr = s.cfg.instanceAddr ∧ i.serial = (s.ctx k).freezeSerial ∧
         i.bytes = s.freezeBytes k ∧
         i.ctx.saved = (s.ctx k).saved ∧ i.ctx.counters = (s.ctx k).counters ∧ i.ctx.steps = (s.ctx k).steps ∧ i.ctx.image.seed = [] ∧
         t.spad = s.spad ∧ OthersStand k s t) ∧
     ((s.ctx k).freezeStage = .scrubbing e → e ≤ s.time.slotCount → Memory.wf s.spad →
       (s.ctx k).thawHeld = false → (s.ctx k).enablePending = none →
       ∃ t, exec (.freezeScrubEnd k) s = .next t ∧ (t.ctx k).freezeSub = none ∧ (t.ctx k).freezeStage = .none ∧
         (∀ w, (s.ctx k).freezeSub = some w → w.auto = false → ∃ r ∈ t.sluice.due, r.kind = 1 ∧ r.reason = 0 ∧ r.tag = w.hdr.tag ∧
           r.slot = w.hdr.slot.val ∧ r.subKind = w.sub.kind ∧ r.taken = w.taken ∧ r.due = s.nextTick) ∧
         ((s.ctx k).freezeSub = none → (s.ctx k).freezeArgs.2.2 = false → t.sluice.due = s.sluice.due) ∧ (t.ctx k).phase = (if (s.ctx k).freezeArgs.2.2 then .empty else .frozen) ∧
         (∀ l a, l ∈ s.coresOf k → spadAddr l 0 ≤ a → a < spadAddr (l + 1) 0 → t.spad.read a = 0) ∧
         (∀ a, (∀ l, l ∈ s.coresOf k → a < spadAddr l 0 ∨ spadAddr (l + 1) 0 ≤ a) → t.spad.read a = s.spad.read a) ∧
         ((s.ctx k).freezeArgs.2.2 = false → t.mem = s.mem) ∧ OthersStand k s t) ∧
     (((s.ctx k).freezeStage = .saving e ∧ s.time.slotCount < e) →
       exec (.freezeSaveEnd k) s = .next s) ∧
     (((s.ctx k).freezeStage = .scrubbing e ∧ s.time.slotCount < e) → exec (.freezeScrubEnd k) s = .next s))

/-- RESTORE_END once the 2 + ⌈B / r1⌉ slots of the restore have passed: where the image that stands in external memory at the thaw's address verifies (its header names the context, its instance and, of a
context that kept its slot, its last freeze; every parcel's tag is right), its scratchpad bytes, packets, notices, windows and held commands are put back and every residency slot is empty; a single-member context
resumes at the next tick, a member reports to its headwater. Any other image leaves the context Frozen, or the slot Empty where the thaw is of a released freeze, with the freeze-image reason in the record of a submitted
thaw. Before that it does nothing (R239, R329–R331). What a verified image gives back is the data kept beside memory, or a free value for an image this die has not stored, and what was written in memory since is
the row's operand: the model's form of it (log entry 44). -/
def Obligations.RestoreEnds : Prop :=
  ∀ (k : Fin 16) (s u : State) (i : FreezeImageRef) (began a : Nat), (s.ctx k).phase = .thawing → (s.ctx k).freezeStage = .restoring began →
    a = (s.ctx k).thawAddr → u = { s with mem := s.mem.writeBytes a i.placed } →
    (u.restoreDone k began = false → exec (.restoreEnd k i) s = .next s) ∧
    (u.restoreDone k began = true → u.imageOk k a = true →
      ∀ c, c = (if (s.ctx k).thawReleased then (s.ctx k).adopt (u.imageContext a) else s.ctx k) →
      ∃ t, exec (.restoreEnd k i) s = .next t ∧ (t.ctx k).freezeStage = .restored ∧ (t.ctx k).phase = .thawing ∧ t.mem = u.mem ∧
        t.spad = c.saved.foldl (fun m x => m.write x.1 x.2) s.spad ∧ (t.ctx k).saved = [] ∧
        t.packets = s.packets ++ c.savedPackets.map ({ · with slot := k }) ∧ t.horizon = c.savedNotices.map ({ · with slot := k }) ++ s.horizon ∧
        t.windows = s.windows ++ c.savedWindows ∧ t.cntOps = s.cntOps ++ c.savedOps.map ({ · with slot := k }) ∧
        (∀ r ∈ (t.ctx k).residency, r.state = .empty) ∧ (t.ctx k).counters = c.counters ∧ (t.ctx k).steps = c.steps ∧ OthersStand k s t ∧
        (c.multiMember = false → (t.ctx k).resumeGtc = some s.nextTick) ∧
        (c.multiMember = true → (t.ctx k).resumeGtc = c.resumeGtc ∧
          ∀ port, s.headwaterAddr k ≠ s.cfg.instanceAddr → s.safety.fenced = false → s.routeTo c.cmid (s.headwaterAddr k) = some port →
            ∃ m, t.linkOut = s.linkOut ++ [m] ∧ m.dest = s.headwaterAddr k ∧ m.port = port ∧
              m.body = .ctrl (.restoreReport (field (u.imageHeader a) 20 6) true))) ∧
    (u.restoreDone k began = true → u.imageOk k a = false → (s.ctx k).thawReleased = false →
      ∃ t, exec (.restoreEnd k i) s = .next t ∧ (t.ctx k).phase = .frozen ∧ (t.ctx k).freezeStage = .none ∧ (t.ctx k).thawSub = none ∧
        (t.ctx k).resumeGtc = none ∧ (t.ctx k).counters = (s.ctx k).counters ∧ (t.ctx k).saved = (s.ctx k).saved ∧ t.mem = u.mem ∧ t.spad = s.spad ∧
        t.images = s.images ∧ (∀ j, j ≠ k → t.ctx j = s.ctx j) ∧
        (∀ w, (s.ctx k).thawSub = some w → w.auto = false → ∃ r, t.sluice.due = s.sluice.due ++ [r] ∧ r.kind = 1 ∧ r.reason = 0x0B ∧ r.tag = w.hdr.tag) ∧
        ∀ port, (s.ctx k).multiMember = true → s.headwaterAddr k ≠ s.cfg.instanceAddr → s.safety.fenced = false →
          s.routeTo (s.ctx k).cmid (s.headwaterAddr k) = some port →
          ∃ m, t.linkOut = s.linkOut ++ [m] ∧ m.dest = s.headwaterAddr k ∧ m.port = port ∧
            m.body = .ctrl (.restoreReport (field (u.imageHeader a) 20 6) false)) ∧
    (u.restoreDone k began = true → u.imageOk k a = false → (s.ctx k).thawReleased = true →
      ∃ t, exec (.restoreEnd k i) s = .next t ∧ (t.ctx k).phase = .empty ∧ (t.ctx k).counters = [] ∧ (t.ctx k).steps = [] ∧ t.steward.keys[k.val] = none ∧
        t.spad = s.spad ∧ t.images = s.images ∧ OthersStand k s t ∧ (∀ h ∈ t.horizon, h.slot ≠ k) ∧ (∀ p ∈ t.packets, p.slot ≠ k) ∧
        ∀ w, (s.ctx k).thawSub = some w → w.auto = false → ∃ r ∈ t.sluice.due, r.kind = 1 ∧ r.reason = 0x0B ∧ r.tag = w.hdr.tag)

/-! ### The watchdog and the steward (R181, R393, R407, R408, R411–R413) -/

/-- STILL_WATER at the tick start at which a running context has had still_ticks ticks without progress: the watchdog fires, the steward assembles the wait-for graph of the
waits then in force under the next serial, and the event is set; before that nothing. WAIT_FOR_GRAPH posts the graph and tears the context down with its sequence number
in detail2 (that the graph has its serial from the firing on is the model's reading, log entry 86); WATCHDOG_TEARDOWN_LIMIT does so without a graph once 64 ticks have passed since the firing, and not earlier (R181, R407, R439, R440). -/
def Obligations.Watchdog : Prop :=
  ∀ (k : Fin 16) (s : State),
    (s.atTickStart = true → (s.ctx k).phase = .running → (s.ctx k).launched = true → (s.ctx k).halted = false → (s.ctx k).fault = none →
      (s.ctx k).firedTick = none →
      ((s.ctx k).inForce.stillTicks ≤ (s.ctx k).stillCount →
        ∃ t, exec (.stillWater k) s = .next t ∧ (t.ctx k).firedTick = some s.time.localTick ∧
          (t.ctx k).graph = s.graphPayloads k (s.steward.graphSerial + 1) ∧ t.steward.graphSerial = s.steward.graphSerial + 1 ∧
          (t.page (ctxPage k)).raw.getLsbD 3 = true ∧ (t.ctx k).fault = none ∧ t.mem = s.mem ∧ t.spad = s.spad ∧ t.cores = s.cores ∧
          ∀ j, j ≠ k → t.ctx j = s.ctx j) ∧
      ((s.ctx k).stillCount < (s.ctx k).inForce.stillTicks → exec (.stillWater k) s = .next s)) ∧
    ((s.ctx k).graph ≠ [] → s.steward.state ≠ 0 → (s.ctx k).phase ≠ .empty → (s.ctx k).fault = none →
      ∃ t f, exec (.waitForGraph k) s = .next t ∧ (t.ctx k).graph = [] ∧ (t.ctx k).graphSeq = s.steward.nextSeq % 2 ^ 32 ∧
        t.steward.nextSeq = s.steward.nextSeq + (s.ctx k).graph.length ∧ (t.ctx k).fault = some f ∧ f.code = 0x0E ∧
        f.detail1 = (s.ctx k).inForce.stillTicks ∧ f.detail2 = s.steward.nextSeq % 2 ^ 32 ∧ t.spad = s.spad ∧ ∀ j, j ≠ k → t.ctx j = s.ctx j) ∧
    (∀ fired, (s.ctx k).firedTick = some fired → (s.ctx k).phase ≠ .empty → (s.ctx k).fault = none →
      (fired + 64 ≤ s.time.localTick →
        ∃ t f, exec (.watchdogTeardownLimit k) s = .next t ∧ (t.ctx k).fault = some f ∧ f.code = 0x0E ∧
          f.detail1 = (s.ctx k).inForce.stillTicks ∧ f.detail2 = 0 ∧ t.mem = s.mem ∧ t.spad = s.spad ∧ ∀ j, j ≠ k → t.ctx j = s.ctx j) ∧
      (s.time.localTick < fired + 64 → exec (.watchdogTeardownLimit k) s = .next s))

/-- STEWARD_HEARTBEAT by the steward takes its value and the tick and ends an activation window; from another privilege it is a privilege error. HEARTBEAT_LATE sets its event
once 512 ticks are silent, and STEWARD_WATCHDOG does nothing before 1,024 or in an activation window. FW_ACTIVATE at a tick start that nothing blocks starts the staged
version, logs it and files its record; a context that blocks it keeps it staged. FW_REVERTED after 4,096 ticks of a window without a heartbeat starts the previous
version again with reason 0x64, and not earlier (R408, R412, R413, R477). That a heartbeat ends the window with state 1 is the model's reading
(log entry 75), and so is reason 0x64 in a record of kind 0x0B (log entry 74). -/
def Obligations.StewardLife : Prop :=
  ∀ s : State,
    (∀ p value, (s.page 0x04).served ≠ some s.time.ac →
      ∃ t, exec (.stewardHeartbeat p value) s = .next t ∧ t = { s with steward := t.steward, pages := t.pages } ∧
        (∀ q, q ≠ 0x04 → t.page q = s.page q) ∧
        (p = .steward → t.steward.heartbeat = value.toNat % 2 ^ 32 ∧ t.steward.lastHeartbeat = s.time.localTick ∧ t.steward.lateRaised = false ∧
          t.steward.state = (if s.steward.state = 2 then 1 else s.steward.state) ∧ (t.page 0x04).errCount = (s.page 0x04).errCount) ∧
        (p ≠ .steward → t.steward = s.steward ∧ (t.page 0x04).errCount = (s.page 0x04).errCount + 1 ∧
          ((s.page 0x04).errCount = 0 → (t.page 0x04).errCode = 0x02))) ∧
    (s.time.tickRunning = true → s.steward.state ≠ 0 → s.steward.lateRaised = false →
      (s.steward.lastHeartbeat + 512 ≤ s.time.localTick →
        ∃ t, exec .heartbeatLate s = .next t ∧ t.steward = { s.steward with lateRaised := true } ∧ (t.page 0x04).raw.getLsbD 0 = true ∧
          t = { s with steward := t.steward, pages := t.pages }) ∧
      (s.time.localTick < s.steward.lastHeartbeat + 512 → exec .heartbeatLate s = .next s)) ∧
    (s.time.localTick < s.steward.lastHeartbeat + 1024 ∨ s.steward.state = 2 → exec .stewardWatchdog s = .next s) ∧
    (∀ v, s.steward.staged = some v → s.time.tickRunning = true → s.time.inMargin = false → s.time.slot = 0 → s.time.offset = 0 →
      ((∀ r ∈ s.sluice.due, r.kind = 9 → s.time.localTick < r.due) → (∀ k, (s.ctx k).blocksFirmware = false) →
        ∃ t r, exec .fwActivate s = .next t ∧ t.steward.running = v ∧ t.steward.previous = s.steward.running ∧ t.steward.staged = none ∧
          t.steward.state = 2 ∧ t.steward.activatedTick = s.time.localTick ∧ t.steward.nextSeq = s.steward.nextSeq + 1 ∧
          t.sluice.due = s.sluice.due ++ [r] ∧ r.kind = 0x0B ∧ r.reason = 0 ∧ r.detail = .firmware 1 s.steward.running v ∧
          (t.page 0x04).raw.getLsbD 2 = true ∧ t.ctxs = s.ctxs ∧ t.cores = s.cores ∧ t.time = s.time) ∧
      (∀ k, (s.ctx k).blocksFirmware = true → exec .fwActivate s = .next s)) ∧
    (s.steward.state = 2 →
      (s.steward.activatedTick + 4096 ≤ s.time.localTick →
        ∃ t r, exec .fwReverted s = .next t ∧ t.steward.running = s.steward.previous ∧ t.steward.state = 3 ∧
          t.steward.lastHeartbeat = s.time.localTick ∧ t.steward.nextSeq = s.steward.nextSeq + 1 ∧ t.sluice.due = s.sluice.due ++ [r] ∧
          r.kind = 0x0B ∧ r.reason = 0x64 ∧ (t.page 0x04).raw.getLsbD 3 = true ∧ t.safety.fenced = s.safety.fenced ∧ t.ctxs = s.ctxs) ∧
      (s.time.localTick < s.steward.activatedTick + 4096 → exec .fwReverted s = .next s))

/-- SRAM_ERROR: a corrected error adds one to its SRAM's count and sets the event, and no context changes; an uncorrectable error of an entry a context owns is a fault of that
context, with the code and details of its SRAM, and one of a free entry is only counted. An upset of one copy of a counter changes that copy alone; the next read finds the difference (R162, R207, R243, R388, R393, R505). That the code goes by the SRAM of the entry, and that a copy's upset is a form of the row, is the
model's reading (log entry 76). -/
def Obligations.SramErrors : Prop :=
  ∀ (e : SramError) (s : State),
    (e.logic = none → e.correctable = true → e.sram.val ≠ 0 →
      ∃ t, exec (.sramError e) s = .next t ∧
        t.safety = { s.safety with corrected := s.safety.corrected.set e.sram.val (wrap 32 (s.safety.corrected.getD e.sram.val 0 + 1)) } ∧
        (t.page 0x34).raw.getLsbD 1 = true ∧ (e.sram.val = 7 → (t.page 0x20).raw.getLsbD 0 = true) ∧
        t.inletCorrected = (if e.sram.val = 7 then wrap 32 (s.inletCorrected + 1) else s.inletCorrected) ∧
        t = { s with safety := t.safety, pages := t.pages, inletCorrected := t.inletCorrected }) ∧
    (∀ k, e.logic = none → e.correctable = false → sramShared e.sram.val = false → e.free = false → e.owner = some k → (s.ctx k).phase ≠ .empty →
      (s.ctx k).fault = none →
      ∃ t f, exec (.sramError e) s = .next t ∧ (t.ctx k).fault = some f ∧ f.code = (SramError.fault e).code ∧
        f.detail1 = (SramError.fault e).detail1 ∧ f.detail2 = (SramError.fault e).detail2 ∧
        t.safety.uncorrected = (if e.sram.val = 0 then s.safety.uncorrected
          else s.safety.uncorrected.set e.sram.val (sat 16 (s.safety.uncorrected.getD e.sram.val 0 + 1))) ∧
        t.safety.fenced = s.safety.fenced ∧ t.mem = s.mem ∧ t.spad = s.spad ∧ ∀ j, j ≠ k → t.ctx j = s.ctx j) ∧
    (e.logic = none → e.correctable = false → sramShared e.sram.val = false → e.free = true → e.sram.val ≠ 0 →
      exec (.sramError e) s = .next { s with safety := { s.safety with
        uncorrected := s.safety.uncorrected.set e.sram.val (sat 16 (s.safety.uncorrected.getD e.sram.val 0 + 1)) } }) ∧
    (∀ k v x, e.logic = some (.counterCopy k v x) →
      ∃ t, exec (.sramError e) s = .next t ∧ OnlyCtx k s t ∧ (∀ w, w ≠ v → (t.ctx k).counter? w = (s.ctx k).counter? w) ∧
        (t.ctx k).counter? v = ((s.ctx k).counter? v).map ({ · with copy := wrap 48 x }))

/-! ### Trace (R418–R431) -/

/-- CMD_BEGIN while the command window is open: the engine accepts the task's next command; with command tracing on, its record is offered to the trace. CMD_END ends the
engine's oldest command. (Where the two copies of a counter that the record samples differ, there is a fault beside it: CounterEffects.) PC_SAMPLE of a context that samples at this count offers one record for each of its cores (R425, R426). CHUNK_DRAIN with at least 65,472 bytes in the ring and no chunk in progress forms a chunk of the longest run of whole records that fits, under the next serial, to end two slots later;
with less, or of a context that does not run, it does nothing. CHUNK_WRITTEN at that slot writes the chunk at its place in the drain area and frees its ring bytes, and a final chunk of the capture in force stops
it and sets the event; before that slot it does nothing (R420–R422, R431). -/
def Obligations.TraceUnit : Prop :=
  (∀ s : State,
     (∀ (l : Fin 64) (e : Engine) (op : BitVec 32) (latched : List Nat) (p : PondEntry), (s.core l).serving = some p → p.windowClosed = false →
       (∀ q ∈ (s.ctx p.task.slot).counters, q.value = q.copy) →
       ∃ t, exec (.cmdBegin l e op latched) s = .next t ∧
         t.core l = { s.core l with commands := (s.core l).commands + 1, engines := (s.core l).engines ++ [(e, (s.core l).commands)] } ∧
         (∀ j, j ≠ l → t.core j = s.core j) ∧ (∀ j, j ≠ p.task.slot → t.ctx j = s.ctx j) ∧
         t.ctx p.task.slot = (if (s.ctx p.task.slot).trace.effective.getLsbD 1 then
           (s.ctx p.task.slot).capture s.stamp (2 * l.val + 1) false
             (commandBytes s.stamp 0x01 (s.core l).commands op.toNat l e p.task (s.soundings p.task.slot l p latched)) else s.ctx p.task.slot) ∧
         t = { s with cores := t.cores, ctxs := t.ctxs }) ∧
     (∀ (l : Fin 64) (e : Engine) (op : BitVec 32) (latched : List Nat) (p : PondEntry) (n : Nat), (s.core l).serving = some p →
       (s.core l).engines.find? (fun x => x.1 == e) = some (e, n) → (∀ q ∈ (s.ctx p.task.slot).counters, q.value = q.copy) →
       ∃ t, exec (.cmdEnd l e op latched) s = .next t ∧ t.core l = { s.core l with engines := (s.core l).engines.erase (e, n) } ∧
         (∀ j, j ≠ l → t.core j = s.core j) ∧ (∀ j, j ≠ p.task.slot → t.ctx j = s.ctx j) ∧
         t.ctx p.task.slot = (if (s.ctx p.task.slot).trace.effective.getLsbD 1 then
           (s.ctx p.task.slot).capture s.stamp (2 * l.val + 1) false
             (commandBytes s.stamp 0x05 n op.toNat l e p.task (s.soundings p.task.slot l p latched)) else s.ctx p.task.slot) ∧
         t = { s with cores := t.cores, ctxs := t.ctxs }) ∧
     (∀ (k : Fin 16) (x : CoreSample), (s.ctx k).runs = true → (s.ctx k).trace.effective.getLsbD 0 = true →
       (s.ctx k).trace.samples % 2 ^ bits (s.ctx k).trace.effective.toNat 6 2 = 0 → (s.ctx k).hasCore x = true →
       ∃ t, exec (.pcSample k [x]) s = .next t ∧ OnlyCtx k s t ∧
         t.ctx k = (s.ctx k).capture s.stamp (CoreSample.order x) false (sampleBytes s.stamp x (s.sampledTask x)))) ∧
  (∀ (k : Fin 16) (s : State),
     (65472 ≤ ((s.ctx k).trace.ring.map fun r => r.2.length).sum → (s.ctx k).phase = .running → (s.ctx k).trace.chunk = none → (s.ctx k).drainChunks ≠ 0 →
       ∃ t q, exec (.chunkDrain k) s = .next t ∧ OnlyCtx k s t ∧ (t.ctx k).trace.chunk = some q ∧ q.serial = (s.ctx k).trace.nextSerial ∧
         q.ends = s.time.slotCount + 2 ∧ q.padded = false ∧ q.used = q.bytes.length ∧ q.bytes.length ≤ 65472 ∧
         (t.ctx k).trace.nextSerial = (s.ctx k).trace.nextSerial + 1 ∧
         ∃ mine, (s.ctx k).trace.ring = mine ++ (t.ctx k).trace.ring ∧ q.bytes = (mine.map (·.2)).flatten ∧
           ∀ r, (t.ctx k).trace.ring.head? = some r → 65472 < q.bytes.length + r.2.length) ∧
     (((s.ctx k).trace.ring.map fun r => r.2.length).sum < 65472 ∨ (s.ctx k).phase ≠ .running → exec (.chunkDrain k) s = .next s) ∧
     (∀ q area, (s.ctx k).trace.chunk = some q → (s.ctx k).symbol? 0xFFFF 0xFFD1 = some area →
       (q.ends ≤ s.time.slotCount →
         ∃ t, exec (.chunkWritten k) s = .next t ∧
           t.mem = s.mem.writeBytes (area.address + q.serial % max (s.ctx k).drainChunks 1 * 65536) (s.chunkBytes k q) ∧
           (t.ctx k).trace.chunk = none ∧ (∀ j, j ≠ k → t.ctx j = s.ctx j) ∧ t.spad = s.spad ∧
           (q.final = true → (s.ctx k).trace.startSerial ≤ q.serial → (t.ctx k).trace.capture = .stopped ∧
             ((s.ctx k).trace.capturing = true → (t.page (ctxPage k)).raw.getLsbD 6 = true)) ∧
           (q.final = false ∨ q.serial < (s.ctx k).trace.startSerial → t = { s with mem := t.mem, ctxs := t.ctxs } ∧
             t.ctx k = { s.ctx k with trace := { (s.ctx k).trace with chunk := none } })) ∧
       (s.time.slotCount < q.ends → exec (.chunkWritten k) s = .next s)))

/-- Writes of a context page that ask for something at the next tick start, by any privilege, to a page not yet served in this ac. TRACE_ARM and TRACE_FLUSH with a control value in range
keep the value and note the arm or the flush; DUMP_SUBMIT on a slot with a context and room in its queue of 16 queues the tensor dump of the argument registers, and with a full queue
files its record with reason 0x73; DEBUG_RESUME on the headwater's page of a halted context notes the resume, and elsewhere it is an error of state (R423, R431, R434, R438,
R492, R495). -/
def Obligations.ContextPageRequests : Prop :=
  ∀ (p : Priv) (k : Fin 16) (v : Word) (s : State), (s.page (ctxPage k)).served ≠ some s.time.ac →
    (6 ≤ bits v.toNat 6 2 → bits v.toNat 6 2 ≤ 16 → bits v.toNat 8 7 ≠ 3 → bits v.toNat 12 9 ≠ 0 →
      (bit v.toNat 0 || bit v.toNat 1) = false ∨ (s.ctx k).mayTrace = true →
      (∃ t, exec (.traceArm p k v) s = .next t ∧ t = { s with ctxs := t.ctxs, pages := t.pages } ∧ (∀ j, j ≠ k → t.ctx j = s.ctx j) ∧
        t.ctx k = { s.ctx k with trace := { (s.ctx k).trace with
          ctrl := BitVec.ofNat 64 (v.toNat % 2 ^ 20), armPending := true
          flushPending := (s.ctx k).trace.flushPending || bit v.toNat 21 } }) ∧
      (∃ t, exec (.traceFlush p k v) s = .next t ∧ t = { s with ctxs := t.ctxs, pages := t.pages } ∧ (∀ j, j ≠ k → t.ctx j = s.ctx j) ∧
        t.ctx k = { s.ctx k with trace := { (s.ctx k).trace with
          ctrl := BitVec.ofNat 64 (v.toNat % 2 ^ 20), armPending := (s.ctx k).trace.armPending || bit v.toNat 20
          flushPending := true } })) ∧
    ((s.ctx k).phase ≠ .empty → (s.ctx k).phase ≠ .tearingDown →
      ((s.ctx k).dumps.length < 16 →
        ∃ t d, exec (.dumpSubmit p k v) s = .next t ∧ t = { s with ctxs := t.ctxs, pages := t.pages } ∧ (∀ j, j ≠ k → t.ctx j = s.ctx j) ∧
          (t.ctx k).dumps = (s.ctx k).dumps ++ [d] ∧ d.nameId = bits (s.ctx k).controls.dumpArg.toNat 31 0 ∧
          d.step = bits (s.ctx k).controls.dumpArg.toNat 63 32 + bits v.toNat 15 8 * 2 ^ 32 ∧
          d.dest = bits (s.ctx k).controls.dumpDest.toNat 41 0 * 64 ∧ d.length = bits (s.ctx k).controls.dumpDest.toNat 63 42 * 4096) ∧
      (16 ≤ (s.ctx k).dumps.length →
        ∃ t r, exec (.dumpSubmit p k v) s = .next t ∧ t.sluice.due = s.sluice.due ++ [r] ∧ r.kind = 7 ∧ r.ctx = some k ∧
          (∃ n x d, r.detail = .dumped 0x73 n x d) ∧
          (t.ctx k).dumps = (s.ctx k).dumps)) ∧
    ((s.ctx k).phase = .empty ∨ (s.ctx k).phase = .tearingDown →
      ∃ t, exec (.dumpSubmit p k v) s = .next t ∧ t = { s with pages := t.pages } ∧
        (t.page (ctxPage k)).errCount = (s.page (ctxPage k)).errCount + 1 ∧
        ((s.page (ctxPage k)).errCount = 0 → (t.page (ctxPage k)).errCode = 0x05)) ∧
    ((s.ctx k).phase = .running → (s.ctx k).halted = true → (s.ctx k).lock.diverged = none → (s.ctx k).headwater = true →
      ∃ t, exec (.debugResume p k v) s = .next t ∧ t = { s with ctxs := t.ctxs, pages := t.pages } ∧ (∀ j, j ≠ k → t.ctx j = s.ctx j) ∧
        t.ctx k = { s.ctx k with resumeTaken := true }) ∧
    ((s.ctx k).phase ≠ .running ∨ (s.ctx k).halted = false ∨ (s.ctx k).lock.diverged.isSome = true ∨ (s.ctx k).headwater = false →
      ∃ t, exec (.debugResume p k v) s = .next t ∧ t = { s with pages := t.pages } ∧
        (t.page (ctxPage k)).errCount = (s.page (ctxPage k)).errCount + 1 ∧
        ((s.page (ctxPage k)).errCount = 0 → (t.page (ctxPage k)).errCode = 0x05))

/-! ### Pages and registers (R13–R17, R465–R476, R499–R501) -/

/-- PAGE_ENABLE and PAGE_DISABLE by the steward or the operator on the two switchable pages. Enabling a page that is OFF or DRAINING leaves the enable pending for the slot boundary; a disable is taken at the next
tick start, where the drain of a page that is ON begins, of 64 ac for page 0x30 and until the end of an XTRIG_OUT pulse for page 0x38; PAGE_DRAIN_END ends a drain then and not before. On every other page
that is not reserved an enable or disable changes nothing but that the page has been served, and from the tenant it is a privilege error (R14, R466, R472, R473). EVT_FORCE sets the event bits it names, of the events the page defines, and takes none of their actions: nothing but the page's header changes (R475). -/
def Obligations.PageSwitch : Prop :=
  (∀ s : State,
     (∀ p : Priv, p ≠ .tenant →
       ((s.page 0x30).served ≠ some s.time.ac →
         exec (.pageEnable p 0x30) s = .next { s.accessed 0x30 with
           obsEnable := true, obsEnablePending := s.obsEnablePending || (s.obs.run != .on && s.obs.run != .starting) } ∧
         exec (.pageDisable p 0x30) s = .next { s.accessed 0x30 with obsEnable := false, obsEnablePending := false }) ∧
       ((s.page 0x38).served ≠ some s.time.ac →
         exec (.pageEnable p 0x38) s = .next { s.accessed 0x38 with
           extEnable := true, extEnablePending := s.extEnablePending || (s.config.isSome && (s.extRun != .on && s.extRun != .starting)) } ∧
         exec (.pageDisable p 0x38) s = .next { s.accessed 0x38 with extEnable := false, extEnablePending := false }) ∧
       (∀ q, pageReserved q.val = false → q ≠ 0x30 → q ≠ 0x38 → (s.page q).served ≠ some s.time.ac →
         exec (.pageEnable p q) s = .next (s.accessed q) ∧ exec (.pageDisable p q) s = .next (s.accessed q))) ∧
     (∃ t, t = s.pageDisables ∧ t = { s with obs := { s.obs with run := t.obs.run }, extRun := t.extRun } ∧
       (s.obsEnable = false → s.obs.run = .on → t.obs.run = .draining (s.time.ac + 64)) ∧
       (s.obsEnable = true ∨ s.obs.run ≠ .on → t.obs.run = s.obs.run) ∧
       (s.extEnable = false → s.extRun = .on → t.extRun = .draining (s.ext.outUntil.getD s.time.ac)) ∧
       (s.extEnable = true ∨ s.extRun ≠ .on → t.extRun = s.extRun)) ∧
     (∀ e, s.obs.run = .draining e →
       (e ≤ s.time.ac → exec (.pageDrainEnd 0x30) s = .next { s with obs := { s.obs with run := .off } }) ∧
       (s.time.ac < e → exec (.pageDrainEnd 0x30) s = .next s)) ∧
     (∀ e, s.extRun = .draining e →
       (max e (s.ext.outUntil.getD 0) ≤ s.time.ac →
         exec (.pageDrainEnd 0x38) s = .next { s with extRun := .off, ext := { s.ext with outUntil := none } }) ∧
       (s.time.ac < max e (s.ext.outUntil.getD 0) → exec (.pageDrainEnd 0x38) s = .next s)) ∧
     (∀ q i, i ∈ [Instr.pageEnable .tenant q, .pageDisable .tenant q] → pageReserved q.val = false → (s.page q).served ≠ some s.time.ac →
       ∃ t, exec i s = .next t ∧ t = { s with pages := t.pages } ∧ OnlyError q s t ∧
         ((s.page q).errCount = 0 → (t.page q).errCode = 0x02))) ∧
  (∀ (p : Priv) (q : Fin 64) (v : Word) (s : State), p ≠ .tenant → pageReserved q.val = false → (s.page q).served ≠ some s.time.ac →
     ∃ t, exec (.evtForce p q v) s = .next t ∧ t = { s with pages := t.pages } ∧ (∀ r, r ≠ q → t.page r = s.page r) ∧
       (t.page q).raw = (s.page q).raw ||| (v.setWidth 32 &&& eventMask q.val) ∧ (t.page q).mask = (s.page q).mask ∧
       (t.page q).errCount = (s.page q).errCount)

/-- A write of ones to EVT_RAW clears those bits; if the hardware sets a bit in the same cycle, before the write or after it, the bit remains set. EVT_RAW is the only W1C field the machine
has. -/
def Obligations.EventSetWins : Prop :=
  ∀ (p : Priv) (q : Fin 64) (v : Word) (s : State), p ≠ .tenant → pageReserved q.val = false → (s.page q).served ≠ some s.time.ac →
    (∃ t, exec (.evtRawClear p q v) s = .next t ∧ t = { s with pages := t.pages } ∧ (∀ r, r ≠ q → t.page r = s.page r) ∧
      ∀ b, b < 32 → (t.page q).raw.getLsbD b =
        ((s.page q).raw.getLsbD b && (!v.getLsbD b || ((s.page q).rawAc == s.time.ac && (s.page q).fresh.getLsbD b)))) ∧
    ∀ b, b < 32 → (eventMask q.val).getLsbD b = true →
      (∃ t, exec (.evtRawClear p q v) (s.raise q b) = .next t ∧ (t.page q).raw.getLsbD b = true) ∧
      (∃ t, exec (.evtRawClear p q v) s = .next t ∧ t.time.ac = s.time.ac ∧ ((t.raise q b).page q).raw.getLsbD b = true)

/-- The two registers that a read clears. PAGE_ERR_READ reads the first error and the count of the errors since the last read; OBS_PEAK_READ reads the peaks. If the hardware updates the field
in the cycle in which it is read, the read returns the value before the update, and the field keeps the update after it clears; for PAGE_ERR the read returns the old count and the
field holds the increment. -/
def Obligations.ReadClears : Prop :=
  ∀ (p : Priv) (s : State),
    (∀ q : Fin 64, p ≠ .tenant ∨ (slotOfPage q.val).isSome = true → (s.page q).served ≠ some s.time.ac → (s.page q).errAc ≠ s.time.ac →
      (∃ t, exec (.pageErrRead p q) s = .next t ∧ t.readData.toNat = (if (s.page q).errCount = 0 then 0 else
            (s.page q).errCode % 2 ^ 8 + min (s.page q).errCount 0xFFFF * 2 ^ 16 + (s.page q).errDetail % 2 ^ 32 * 2 ^ 32) ∧
        (t.page q).errCount = 0 ∧ (t.page q).errCode = 0 ∧ (t.page q).errDetail = 0 ∧ t = { s with pages := t.pages, readData := t.readData }) ∧
      ∀ code detail, ∀ later : List (Nat × Nat),
        ∃ t, exec (.pageErrRead p q) (later.foldl (fun u e => u.pageError q e.1 e.2) (s.pageError q code detail)) = .next t ∧
          t.readData.toNat = (if (s.page q).errCount = 0 then 0 else
            (s.page q).errCode % 2 ^ 8 + min (s.page q).errCount 0xFFFF * 2 ^ 16 + (s.page q).errDetail % 2 ^ 32 * 2 ^ 32) ∧
          (t.page q).errCount = later.length + 1 ∧ (t.page q).errCode = code ∧ (t.page q).errDetail = detail % 2 ^ 32) ∧
    (p ≠ .tenant → (s.page 0x32).served ≠ some s.time.ac → s.obs.peakAc ≠ s.time.ac →
      (∃ t, exec (.obsPeakRead p) s = .next t ∧ t.readData.toNat = (s.obs.peakRead s.time.ac).word ∧ t.obs.peaks = {} ∧ t.obs.newPeaks = {} ∧
        t = { s with pages := t.pages, readData := t.readData, obs := t.obs }) ∧
      ∀ (first : Peaks) (later : List Peaks), s.obs.run = .on →
        ∃ t, exec (.obsPeakRead p) (later.foldl State.peak (s.peak first)) = .next t ∧ t.readData.toNat = (s.obs.peakRead s.time.ac).word ∧
          (t.obs.peakRead (s.time.ac + 1)).horizon = (later.map (·.horizon)).foldl max first.horizon ∧
          (t.obs.peakRead (s.time.ac + 1)).inlet = (later.map (·.inlet)).foldl max first.inlet ∧
          (t.obs.peakRead (s.time.ac + 1)).pool = (later.map (·.pool)).foldl max first.pool)

/-- A narrow or misaligned access is discarded if it is a write and reads zero if it is a read, and the addressed page's PAGE_ERR counts an access error: code 0x01, but for an access beyond its
aperture, which is refused as one without privilege. -/
def Obligations.NarrowAccess : Prop :=
  ∀ (a : RegAccess) (v : Word) (s : State), a.bytes ≠ 8 ∨ a.offset % 8 ≠ 0 → (s.page a.reach.2).served ≠ some s.time.ac →
    (∃ t, exec (.registerWrite a v) s = .next t ∧ t = { s with pages := t.pages } ∧ (∀ q, q ≠ a.reach.2 → t.page q = s.page q) ∧
      (t.page a.reach.2).errCount = (s.page a.reach.2).errCount + 1 ∧ (t.page a.reach.2).raw = (s.page a.reach.2).raw ∧
      (t.page a.reach.2).mask = (s.page a.reach.2).mask ∧
      ((s.page a.reach.2).errCount = 0 → (t.page a.reach.2).errCode = if a.aperture.isSome ∧ 0x1000 ≤ a.offset then 0x02 else 0x01)) ∧
    (∃ t, exec (.registerRead a) s = .next t ∧ t.readData = 0 ∧ t = { s with pages := t.pages, readData := 0 } ∧
      (∀ q, q ≠ a.reach.2 → t.page q = s.page q) ∧ (t.page a.reach.2).errCount = (s.page a.reach.2).errCount + 1 ∧
      ((s.page a.reach.2).errCount = 0 → (t.page a.reach.2).errCode = if a.aperture.isSome ∧ 0x1000 ≤ a.offset then 0x02 else 0x01))

/-- Whole-word accesses. A write of EVT_MASK by the steward or the operator keeps the bits of the events the page defines. A tenant's write outside its context page's own registers, and its read
outside the context pages, is a privilege error and does nothing else. A read of a defined register other than PAGE_ERR and OBS_PEAK returns its value and changes nothing else; a read where no register
is gives zero (R14, R468, R470, R474). That such a read records no error is the model's reading (log entry 40). -/
def Obligations.RegisterAccess : Prop :=
  ∀ (a : RegAccess) (v : Word) (s : State), a.refusal = none → (s.page a.reach.2).served ≠ some s.time.ac →
    (a.reach.1 ≠ .tenant → pageReserved a.reach.2.val = false → a.offset = 0x028 →
      ∃ t, exec (.registerWrite a v) s = .next t ∧ t = { s with pages := t.pages } ∧ (∀ q, q ≠ a.reach.2 → t.page q = s.page q) ∧
        (t.page a.reach.2).mask = v.setWidth 32 &&& eventMask a.reach.2.val ∧ (t.page a.reach.2).raw = (s.page a.reach.2).raw ∧
        (t.page a.reach.2).errCount = (s.page a.reach.2).errCount) ∧
    (a.reach.1 = .tenant → a.offset < 0x040 →
      ∃ t, exec (.registerWrite a v) s = .next t ∧ t = { s with pages := t.pages } ∧ OnlyError a.reach.2 s t ∧
        ((s.page a.reach.2).errCount = 0 → (t.page a.reach.2).errCode = 0x02)) ∧
    (a.offset ≠ 0x038 → (a.reach.2 ≠ 0x32 ∨ a.offset ≠ 0x058) →
      ∃ t, exec (.registerRead a) s = .next t ∧ t = { s.accessed a.reach.2 with readData := t.readData } ∧
        (a.offset < 0x040 → t.readData = BitVec.ofNat 64 (s.readHeader a.reach.2 a.offset)) ∧
        (0x040 ≤ a.offset → regDefined a.reach.2.val a.offset = true → t.readData = BitVec.ofNat 64 (s.readSpecific a.reach.2.val a.offset)) ∧
        (0x040 ≤ a.offset → regDefined a.reach.2.val a.offset = false → t.readData = 0)) ∧
    (∀ b : RegAccess, b.aperture = none → b.priv = .tenant → b.bytes = 8 → b.offset % 8 = 0 → slotOfPage b.page.val = none →
      (s.page b.page).served ≠ some s.time.ac →
      (∃ t, exec (.registerWrite b v) s = .next t ∧ t = { s with pages := t.pages } ∧ OnlyError b.page s t ∧
        ((s.page b.page).errCount = 0 → (t.page b.page).errCode = 0x02)) ∧
      ∃ t, exec (.registerRead b) s = .next t ∧ t = { s with pages := t.pages, readData := 0 } ∧ OnlyError b.page s t ∧
        ((s.page b.page).errCount = 0 → (t.page b.page).errCode = 0x02))

/-- Whole-word writes of registers of one page, by a privilege that may make them; each changes what it names and nothing else, and a write with a value out of range is discarded whole, with code 0x04
(R466, R467). Context page: CTX_DISPATCH, CTX_WATCHDOG, CTX_DUMP_ARG and CTX_DUMP_DEST keep the value, at any phase; CTX_CFL_CTRL, CTX_LEDGER_CTRL and CTX_ADMIT do while the slot is Empty, and otherwise are an error
of state (0x05); a tenant's write of CTX_WATCHDOG or CTX_ADMIT is a privilege error (R480, R487, R489, R490, R494); a selector of CTX_SOUND_SEL_j with a bad source has its code
(R493). Catchment table: the fields of an entry that is not valid are staged, those of a valid one are an error of state, and ROTA_CFG_k keeps its value in either case but for a
rotation time of 0 (R499, R501). Page 0x38: EXT_IN_CFG and XTRIG_OUT_CFG keep the value, that in force stands until a slot boundary, and a read gives what is kept (R466, R507). -/
def Obligations.RegisterWrites : Prop :=
  ∀ (a : RegAccess) (v : Word) (s : State), a.refusal = none → (s.page a.reach.2).served ≠ some s.time.ac →
    (∀ k, a.reach.2 = ctxPage k →
      (∀ ok g, (a.offset, ok, g) ∈
          [(0x098, bits v.toNat 15 8 != 0, fun q : Controls => { q with balEn := bit v.toNat 0, balThreshold := bits v.toNat 15 8 }),
           (0x0A8, decide (16 ≤ bits v.toNat 19 0), fun q => { q with stillTicks := bits v.toNat 19 0 }),
           (0x190, true, fun q => { q with dumpArg := v }), (0x198, true, fun q => { q with dumpDest := v })] →
        (a.reach.1 = .tenant → a.offset ≠ 0x0A8) →
        (ok = true → ∃ t, exec (.registerWrite a v) s = .next t ∧ t = { s.accessed (ctxPage k) with ctxs := t.ctxs } ∧
          (∀ j, j ≠ k → t.ctx j = s.ctx j) ∧ t.ctx k = { s.ctx k with controls := g (s.ctx k).controls }) ∧
        (ok = false → WriteRefused a v 0x04 s)) ∧
      (∀ ok g, (a.offset, ok, g) ∈
          [(0x0C8, true, fun q : Controls => { q with fastEn := bit v.toNat 0 }),
           (0x0E0, decide (1 ≤ bits v.toNat 10 0 ∧ bits v.toNat 10 0 ≤ 1024), fun q => { q with movesPerStep := bits v.toNat 10 0 }),
           (0x0F8, true, fun q => { q with marginPct := bits v.toNat 7 0 })] →
        (a.reach.1 = .tenant → a.offset ≠ 0x0F8) →
        (ok = true → (s.ctx k).phase = .empty → ∃ t, exec (.registerWrite a v) s = .next t ∧ t = { s.accessed (ctxPage k) with ctxs := t.ctxs } ∧
          (∀ j, j ≠ k → t.ctx j = s.ctx j) ∧ t.ctx k = { s.ctx k with controls := g (s.ctx k).controls }) ∧
        (ok = true → (s.ctx k).phase ≠ .empty → WriteRefused a v 0x05 s) ∧
        (ok = false → WriteRefused a v 0x04 s)) ∧
      (a.reach.1 = .tenant → a.offset = 0x0A8 ∨ a.offset = 0x0F8 → WriteRefused a v 0x02 s) ∧
      (∀ j x y, j < 4 → a.offset = 0x168 + 8 * j → x = v.toNat % 2 ^ 24 → y = v.toNat / 2 ^ 32 % 2 ^ 24 →
        ((s.ctx k).selectorError x = none → (s.ctx k).selectorError y = none → ∃ t, exec (.registerWrite a v) s = .next t ∧
          t = { s.accessed (ctxPage k) with ctxs := t.ctxs } ∧ (∀ i, i ≠ k → t.ctx i = s.ctx i) ∧
          t.ctx k = { s.ctx k with trace := { (s.ctx k).trace with sel := ((s.ctx k).trace.sel.set (2 * j) x).set (2 * j + 1) y } }) ∧
        (∀ code, (s.ctx k).selectorError x = some code ∨ ((s.ctx k).selectorError x = none ∧ (s.ctx k).selectorError y = some code) →
          WriteRefused a v code s))) ∧
    (∀ (k : Fin 16) (r : Nat), a.reach.2 = 0x2C → a.offset = 0x100 + 0x40 * k.val + 8 * r →
      (1 ≤ r → r ≤ 5 →
        ((s.catch_ k).valid = true → WriteRefused a v 0x05 s) ∧
        ((s.catch_ k).valid = false → ∃ t, exec (.registerWrite a v) s = .next t ∧ t = { s.accessed 0x2C with catches := t.catches } ∧
          (∀ j, j ≠ k → t.catch_ j = s.catch_ j) ∧ t.catch_ k = { s.catch_ k with
            staged := true, lcids := if r = 1 then v else (s.catch_ k).lcids, outSlots := if r = 2 then v else (s.catch_ k).outSlots
            inSlots := if r = 3 then v else (s.catch_ k).inSlots, memSlots := if r = 4 then v else (s.catch_ k).memSlots
            inletQuota := if r = 5 then bits v.toNat 12 0 else (s.catch_ k).inletQuota
            horizonQuota := if r = 5 then bits v.toNat 27 16 else (s.catch_ k).horizonQuota })) ∧
      (r = 6 →
        (bits v.toNat 31 16 = 0 → WriteRefused a v 0x04 s) ∧
        (bits v.toNat 31 16 ≠ 0 → ∃ t, exec (.registerWrite a v) s = .next t ∧ t = { s.accessed 0x2C with catches := t.catches } ∧
          (∀ j, j ≠ k → t.catch_ j = s.catch_ j) ∧ t.catch_ k = { s.catch_ k with
            autoEn := v.getLsbD 0, rotateTicks := bits v.toNat 31 16, staged := (s.catch_ k).staged || !(s.catch_ k).valid }))) ∧
    (a.reach.2 = 0x38 →
      (a.offset = 0x040 →
        (bits v.toNat 15 0 = 0 ∨ bits v.toNat 31 16 = 0 ∨ bits v.toNat 33 32 = 3 → WriteRefused a v 0x04 s) ∧
        (bits v.toNat 15 0 ≠ 0 → bits v.toNat 31 16 ≠ 0 → bits v.toNat 33 32 ≠ 3 → ∃ t, exec (.registerWrite a v) s = .next t ∧
          t = { s.accessed 0x38 with ext := { s.ext with cfg := t.ext.cfg } } ∧
          t.ext.cfg.toNat = v.toNat % 2 ^ 34 + bits v.toNat 47 36 * 2 ^ 36 ∧ (t.readSpecific 0x38 0x040) = t.ext.cfg.toNat)) ∧
      (a.offset = 0x048 → ∃ t, exec (.registerWrite a v) s = .next t ∧ t = { s.accessed 0x38 with ext := { s.ext with outCfg := t.ext.outCfg } } ∧
        t.ext.outCfg.toNat = v.toNat % 64 ∧ t.readSpecific 0x38 0x048 = v.toNat % 64))

/-- The writes of CATCH_CFG_k and TIME_CTRL that are rows of their own. CATCH_COMMIT of an entry that is not valid stages its fields and notes the commit for the next tick start; CATCH_RELEASE notes the
release, or is an error of state while a slot holds a context of a valid entry, which no write changes; both leave every other entry alone. A commit of an entry that is valid changes nothing. SYNC_ARM before the GTC runs arms the start
input, and afterwards does nothing (R52, R484, R499–R501). -/
def Obligations.CommitReleaseArm : Prop :=
  ∀ (p : Priv) (s : State), p ≠ .tenant →
    ((s.page 0x2C).served ≠ some s.time.ac → ∀ (k : Fin 16) (v : Word),
      ((s.catch_ k).valid = false → bit v.toNat 54 = false →
        ∃ t, exec (.catchCommit p k v) s = .next t ∧ t = { s with pages := t.pages, catches := t.catches } ∧ (∀ j, j ≠ k → t.catch_ j = s.catch_ j) ∧
          t.catch_ k = { s.catch_ k with
            cmid := bits v.toNat 11 0, be := bit v.toNat 12, horizon := bits v.toNat 21 16, ctids := BitVec.ofNat 8 (bits v.toNat 31 24)
            clusters := BitVec.ofNat 8 (bits v.toNat 39 32), share := bits v.toNat 49 40, staged := true, commitDue := true }) ∧
      (((s.catch_ k).valid = false ∨ s.catchHeld k = false) →
        ∃ t, exec (.catchRelease p k v) s = .next t ∧ t = { s with pages := t.pages, catches := t.catches } ∧ (∀ j, j ≠ k → t.catch_ j = s.catch_ j) ∧
          t.catch_ k = { s.catch_ k with releaseDue := true, releaseBy := Priv.detail p }) ∧
      ((s.catch_ k).valid = true → bit v.toNat 54 = false →
        ∃ t, exec (.catchCommit p k v) s = .next t ∧ t = { s with pages := t.pages } ∧ (t.page 0x2C).errCount = (s.page 0x2C).errCount) ∧
      ((s.catch_ k).valid = true → s.catchHeld k = true →
        ∃ t, exec (.catchRelease p k v) s = .next t ∧ t = { s with pages := t.pages } ∧ (t.page 0x2C).errCount = (s.page 0x2C).errCount + 1 ∧
          ((s.page 0x2C).errCount = 0 → (t.page 0x2C).errCode = 0x05))) ∧
    ((s.page 0x02).served ≠ some s.time.ac →
      ∃ t, exec (.syncArm p) s = .next t ∧ t = { s with pages := t.pages, time := t.time } ∧
        t.time = if s.time.running then s.time else { s.time with syncArm := true, armedAc := s.time.ac })

/-- The accesses of the rows of one register that the page refuses, each with its code in PAGE_ERR and no other effect: from the tenant a write of any
page's header, of TIME_CTRL and of the catchment table, and a read outside the context pages, are privilege errors; any write to a reserved page
has code 0x03; a write of CTX_TRACE_CTRL with a value out of range has code 0x04, and one that turns program sampling or command tracing on
for a context without trace spans and memory slots has code 0x08 (R14, R416, R417, R470, R474, R476, R492). -/
def Obligations.RefusedAccesses : Prop :=
  ∀ (q : Fin 64) (v : Word) (s : State) (i : Instr) (code : Nat), (s.page q).served ≠ some s.time.ac →
    (i ∈ [Instr.evtRawClear .tenant q v, .evtForce .tenant q v, .pageEnable .tenant q, .pageDisable .tenant q] ∧ code = 0x02) ∨
      (q = 0x02 ∧ i = .syncArm .tenant ∧ code = 0x02) ∨
      (∃ k, q = 0x2C ∧ i ∈ [Instr.catchCommit .tenant k v, .catchRelease .tenant k v] ∧ code = 0x02) ∨
      (slotOfPage q.val = none ∧ i = .pageErrRead .tenant q ∧ code = 0x02) ∨
      (q = 0x32 ∧ i = .obsPeakRead .tenant ∧ code = 0x02) ∨
      (∃ p, p ≠ .tenant ∧ pageReserved q.val = true ∧
        i ∈ [Instr.evtRawClear p q v, .evtForce p q v, .pageEnable p q, .pageDisable p q] ∧ code = 0x03) ∨
      (∃ p k, q = ctxPage k ∧ i ∈ [Instr.traceArm p k v, .traceFlush p k v] ∧
        (if bits v.toNat 6 2 < 6 ∨ 16 < bits v.toNat 6 2 ∨ bits v.toNat 8 7 = 3 ∨ bits v.toNat 12 9 = 0 then code = 0x04
         else (bit v.toNat 0 || bit v.toNat 1) = true ∧ (s.ctx k).mayTrace = false ∧ code = 0x08)) →
    ∃ t, exec i s = .next t ∧ t = { s with pages := t.pages, readData := t.readData } ∧ (t.readData = s.readData ∨ t.readData = 0) ∧
      (t.page q).errCount = (s.page q).errCount + 1 ∧ ((s.page q).errCount = 0 → (t.page q).errCode = code) ∧
      (t.page q).mask = (s.page q).mask ∧ (t.page q).raw = (s.page q).raw ∧ ∀ r, r ≠ q → t.page r = s.page r
end

