-- ==== Sys2Proof/Laws/Memory.lean ====
section
/-! SUPPORT. The memory operations: what a read after a write gives, and that every operation keeps the canonical form. -/

namespace Sys2Proof.Machine

/-- Every cell of a written memory is the written one or was there. -/
theorem Memory.mem_write {m : Memory} {a : Nat} {v : Byte} {c : Host.Cell} (h : c ∈ m.write a v) : c = (a, v) ∧ v ≠ 0#8 ∨ c ∈ m := by
  induction m with
  | nil =>
    simp only [Memory.write] at h
    split at h
    · cases h
    · exact .inl ⟨List.mem_singleton.mp h, ‹_›⟩
  | cons x m ih =>
    obtain ⟨k, w⟩ := x
    simp only [Memory.write] at h
    split at h
    · split at h
      · exact .inr h
      · rcases List.mem_cons.mp h with h | h
        · exact .inl ⟨h, ‹_›⟩
        · exact .inr h
    · split at h
      · split at h
        · exact .inr (List.mem_cons_of_mem _ h)
        · rcases List.mem_cons.mp h with h | h
          · exact .inl ⟨h, ‹_›⟩
          · exact .inr (List.mem_cons_of_mem _ h)
      · rcases List.mem_cons.mp h with h | h
        · exact .inr (h ▸ List.mem_cons_self)
        · rcases ih h with h | h
          · exact .inl h
          · exact .inr (List.mem_cons_of_mem _ h)

theorem Memory.wf_write {m : Memory} (h : m.wf) (a : Nat) (v : Byte) : (m.write a v).wf := by
  refine ⟨?_, fun c hc => ?_⟩
  · induction m with
    | nil => simp only [Memory.write]; split <;> simp
    | cons x m ih =>
      obtain ⟨k, w⟩ := x
      have hp := List.pairwise_cons.mp h.1
      have hm : Memory.wf m := ⟨hp.2, fun c hc => h.2 c (List.mem_cons_of_mem _ hc)⟩
      simp only [Memory.write]
      split
      · split
        · exact h.1
        · refine List.pairwise_cons.mpr ⟨fun c hc => ?_, h.1⟩
          rcases List.mem_cons.mp hc with hc | hc
          · rw [hc]; assumption
          · exact Nat.lt_trans (by assumption) (hp.1 c hc)
      · split
        · split
          · exact hp.2
          · subst_vars
            exact List.pairwise_cons.mpr ⟨hp.1, hp.2⟩
        · refine List.pairwise_cons.mpr ⟨fun c hc => ?_, ih hm⟩
          rcases Memory.mem_write hc with ⟨hc, _⟩ | hc
          · rw [hc]; dsimp only; omega
          · exact hp.1 c hc
  · rcases Memory.mem_write hc with ⟨hc, hv⟩ | hc
    · rw [hc]; exact hv
    · exact h.2 c hc

theorem Memory.wf_writeBytes {m : Memory} (h : m.wf) (a : Nat) (b : Bytes) : (m.writeBytes a b).wf := by
  induction b generalizing m a with
  | nil => exact h
  | cons x b ih => exact ih (Memory.wf_write h a x) (a + 1)

theorem Memory.wf_filter {m : Memory} (h : m.wf) (p : Host.Cell → Bool) : Memory.wf (m.filter p) :=
  ⟨h.1.filter p, fun c hc => h.2 c (List.mem_filter.mp hc).1⟩

theorem Memory.wf_scrub {m : Memory} (h : m.wf) (lo hi : Nat) : (m.scrub lo hi).wf := Memory.wf_filter h _

/-- A fold of operations that keep the canonical form keeps it. -/
theorem Memory.wf_foldl {α : Type} {f : Memory → α → Memory} (hf : ∀ m x, Memory.wf m → Memory.wf (f m x)) (l : List α) {m : Memory}
    (h : m.wf) : Memory.wf (l.foldl f m) := by
  induction l generalizing m with
  | nil => exact h
  | cons x l ih => exact ih (hf m x h)

theorem Memory.wf_writeRing {m : Memory} (h : m.wf) (base size count : Nat) (b : Bytes) : (writeRing m base size count b).wf := by
  induction b generalizing m count with
  | nil => exact h
  | cons x b ih => exact ih (Memory.wf_write h _ x) (count + 1)

theorem Memory.wf_nil : Memory.wf [] := ⟨.nil, fun _ h => by cases h⟩

/-! ### Reads -/

/-- An address below every listed one reads as zero. -/
theorem Memory.read_below {m : Memory} {a : Nat} (h : ∀ c ∈ m, a < c.1) : m.read a = 0 := by
  cases m with
  | nil => rfl
  | cons x m =>
    have hx := h x List.mem_cons_self
    obtain ⟨k, w⟩ := x
    simp only [Memory.read]
    rw [if_neg (Nat.ne_of_lt hx), if_pos hx]

theorem Memory.read_write_same (m : Memory) (h : m.wf) (a : Nat) (v : Byte) : (m.write a v).read a = v := by
  induction m with
  | nil => simp only [Memory.write]; split <;> simp_all [Memory.read]
  | cons x m ih =>
    obtain ⟨k, w⟩ := x
    have hp := List.pairwise_cons.mp h.1
    have hm : Memory.wf m := ⟨hp.2, fun c hc => h.2 c (List.mem_cons_of_mem _ hc)⟩
    simp only [Memory.write]
    split
    · split
      · rename_i hk hv
        simp only [Memory.read]
        rw [if_neg (by omega), if_pos hk, hv]
      · simp [Memory.read]
    · split
      · split
        · rename_i hk hv
          subst hk
          rw [Memory.read_below hp.1, hv]
        · simp [Memory.read]
      · simp only [Memory.read]
        rw [if_neg (by omega), if_neg (by omega)]
        exact ih hm

theorem Memory.read_write_other (m : Memory) (h : m.wf) (a b : Nat) (v : Byte) (hab : b ≠ a) : (m.write a v).read b = m.read b := by
  induction m with
  | nil =>
    simp only [Memory.write]
    split
    · rfl
    · simp only [Memory.read]; split <;> simp_all
  | cons x m ih =>
    obtain ⟨k, w⟩ := x
    have hp := List.pairwise_cons.mp h.1
    have hm : Memory.wf m := ⟨hp.2, fun c hc => h.2 c (List.mem_cons_of_mem _ hc)⟩
    simp only [Memory.write]
    split
    · split
      · rfl
      · simp only [Memory.read]
        rw [if_neg hab]
        split
        · rw [if_neg (by omega), if_pos (by omega)]
        · rfl
    · split
      · rename_i hk
        subst hk
        have hr : (if b = a then w else if b < a then 0 else Memory.read m b) = Memory.read m b := by
          rw [if_neg hab]
          split
          · rw [Memory.read_below fun c hc => Nat.lt_trans (by assumption) (hp.1 c hc)]
          · rfl
        split
        · simp only [Memory.read]; exact hr.symm
        · simp only [Memory.read]
          rw [hr, if_neg hab]
          split
          · rw [Memory.read_below fun c hc => Nat.lt_trans (by assumption) (hp.1 c hc)]
          · rfl
      · simp only [Memory.read]
        split
        · rfl
        · split
          · rfl
          · exact ih hm

theorem Memory.read_writeBytes_below (m : Memory) (h : m.wf) (a b : Nat) (x : Bytes) (hb : b < a) : (m.writeBytes a x).read b = m.read b := by
  induction x generalizing m a with
  | nil => rfl
  | cons v x ih =>
    rw [Memory.writeBytes, ih _ (Memory.wf_write h a v) (a + 1) (by omega), Memory.read_write_other m h a b v (by omega)]

/-- Outside the bytes written, a read gives what it gave. -/
theorem Memory.read_writeBytes_other (m : Memory) (h : m.wf) (a b : Nat) (x : Bytes) (hb : b < a ∨ a + x.length ≤ b) :
    (m.writeBytes a x).read b = m.read b := by
  induction x generalizing m a with
  | nil => rfl
  | cons v x ih =>
    simp only [List.length_cons] at hb
    rw [Memory.writeBytes, ih _ (Memory.wf_write h a v) (a + 1) (by omega), Memory.read_write_other m h a b v (by omega)]

/-- Inside them, it gives the byte written. -/
theorem Memory.read_writeBytes_same (m : Memory) (h : m.wf) (a i : Nat) (x : Bytes) (hi : i < x.length) :
    (m.writeBytes a x).read (a + i) = x[i] := by
  induction x generalizing m a i with
  | nil => simp at hi
  | cons v x ih =>
    rw [Memory.writeBytes]
    cases i with
    | zero =>
      rw [Memory.read_writeBytes_below _ (Memory.wf_write h a v) (a + 1) (a + 0) x (by omega)]
      exact Memory.read_write_same m h a v
    | succ j =>
      have := ih _ (Memory.wf_write h a v) (a + 1) j (by simpa using hi)
      rw [show a + 1 + j = a + (j + 1) by omega] at this
      simpa using this

/-- A scrubbed address reads as zero. -/
theorem Memory.read_scrub_inside (m : Memory) (lo hi a : Nat) (h1 : lo ≤ a) (h2 : a < hi) : (m.scrub lo hi).read a = 0 := by
  induction m with
  | nil => rfl
  | cons x m ih =>
    obtain ⟨k, w⟩ := x
    simp only [Memory.scrub, List.filter_cons] at *
    split
    · rename_i hk
      simp only [Bool.or_eq_true, decide_eq_true_eq] at hk
      simp only [Memory.read]
      rw [if_neg (by omega)]
      split
      · rfl
      · exact ih
    · exact ih

end Sys2Proof.Machine
end

