-- ==== Sys2Proof/Laws/Keeps.lean ====
section
/-! SUPPORT. How `Keeps` composes: reflexive, transitive, over a record update that leaves what it names alone, over a fold. -/

namespace Sys2Proof.Machine

theorem Keeps.refl (s : State) : Keeps s s := ⟨⟨rfl, fun _ => rfl, id, id, id, Nat.le_refl _, fun _ => ⟨rfl, rfl⟩⟩, id⟩

theorem Keeps.trans {s t u : State} (h : Keeps s t) (g : Keeps t u) : Keeps s u := by
  refine ⟨⟨g.pending.trans h.pending, fun c => ?_, fun w => g.mem (h.mem w), fun w => g.spad (h.spad w), fun r => g.ready (h.ready r),
    Nat.le_trans h.ac g.ac, fun c => ?_⟩, fun f => g.fenced (h.fenced f)⟩
  · have := h.config c
    rw [g.config (by rw [this]; exact c), this]
  · have k := h.key c
    have l := g.key (by rw [k.1]; exact c)
    exact ⟨l.1.trans k.1, l.2.trans k.2⟩

theorem Carries.trans {s t u : State} (h : Carries s t) (g : Carries t u) : Carries s u := by
  refine ⟨g.pending.trans h.pending, fun c => ?_, fun w => g.mem (h.mem w), fun w => g.spad (h.spad w), fun r => g.ready (h.ready r),
    Nat.le_trans h.ac g.ac, fun c => ?_⟩
  · have := h.config c
    rw [g.config (by rw [this]; exact c), this]
  · have k := h.key c
    have l := g.key (by rw [k.1]; exact c)
    exact ⟨l.1.trans k.1, l.2.trans k.2⟩

/-- A state that differs from a kept one only in other fields. -/
theorem Keeps.of {s0 s t : State} (h : Keeps s0 s) (h1 : t.pending = s.pending) (h2 : t.config = s.config) (h3 : t.mem = s.mem)
    (h4 : t.spad = s.spad) (h5 : t.boot.ready = s.boot.ready) (h6 : t.time.ac = s.time.ac) (h7 : t.safety.fenced = s.safety.fenced)
    (h8 : t.boot.key = s.boot.key ∧ (t.steward.privateKey, t.steward.publicX, t.steward.publicY) =
      (s.steward.privateKey, s.steward.publicX, s.steward.publicY)) :
    Keeps s0 t := by
  refine h.trans ⟨⟨h1, fun _ => h2, ?_, ?_, ?_, ?_, fun _ => h8⟩, ?_⟩
  · rw [h3]; exact id
  · rw [h4]; exact id
  · rw [h5]; exact id
  · exact Nat.le_of_eq h6.symm
  · rw [h7]; exact id

/-- A state whose memories differ too, both still in their canonical form. -/
theorem Keeps.ofMem {s0 s t : State} (h : Keeps s0 s) (h1 : t.pending = s.pending) (h2 : t.config = s.config)
    (h3 : Memory.wf s.mem → Memory.wf t.mem) (h4 : Memory.wf s.spad → Memory.wf t.spad) (h5 : t.boot.ready = s.boot.ready)
    (h6 : t.time.ac = s.time.ac) (h7 : t.safety.fenced = s.safety.fenced)
    (h8 : t.boot.key = s.boot.key ∧ (t.steward.privateKey, t.steward.publicX, t.steward.publicY) =
      (s.steward.privateKey, s.steward.publicX, s.steward.publicY)) : Keeps s0 t := by
  refine h.trans ⟨⟨h1, fun _ => h2, h3, h4, ?_, ?_, fun _ => h8⟩, ?_⟩
  · rw [h5]; exact id
  · exact Nat.le_of_eq h6.symm
  · rw [h7]; exact id

/-- A record update that writes other fields, or other parts of `boot`, `time` and `safety`. -/
theorem Keeps.upd {s0 s : State} {boot : Boot} {time : TimeUnit} {pages : Vector PageHdr 64} {ext : ExtUnit} {extRun : PageRun} {extEnablePending : Bool} {obsEnablePending :
    Bool} {extEnable : Bool} {obsEnable : Bool} {gov : Governor} {steward : Steward} {sluice : Sluice} {safety : Safety} {ctxs : Vector Ctx 16}
    {catches : Vector Catch 16} {cores : Vector Core 64} {ctrl : Vector (Vector Frame 8) 8} {units : Vector CflUnit 8} {placeOrder : Nat}
    {cntOps : List CntOp} {chanOps : List ChanOp} {writes : List WriteJob} {horizon : List Held} {arrivals : Nat} {horizonStalled : Bool}
    {quotaStalled : BitVec 16} {beHorizonStalled : Bool} {horizonCredit : Nat} {quotaCredit : List Nat} {beCredit : Nat} {beInletDelay : BitVec
    16} {beHorizonDelay : BitVec 16} {packets : List Packet} {inletStalled : Bool} {inletQuotaStalled : BitVec 16} {beInletStalled : Bool}
    {inletCorrected : Nat} {windows : List Window} {stagingRegions : List RegionIn} {counterLow : Nat} {ringLow : Nat} {jobsPublished : Nat}
    {served : Nat} {movesCreated : Nat} {obs : ObsUnit} {images : List FreezeImage} {linkOut : List Msg} {results : List CoreResult} {readData :
    Word}
    (h : Keeps s0 s) (h1 : boot.ready = s.boot.ready) (h2 : time.ac = s.time.ac) (h3 : safety.fenced = s.safety.fenced)
    (h8 : boot.key = s.boot.key ∧ (steward.privateKey, steward.publicX, steward.publicY) =
      (s.steward.privateKey, s.steward.publicX, s.steward.publicY)) :
    Keeps s0 (State.mk s.pending s.config boot time pages ext extRun extEnablePending obsEnablePending extEnable obsEnable gov steward sluice safety ctxs
    catches cores ctrl units placeOrder cntOps chanOps writes horizon arrivals horizonStalled quotaStalled beHorizonStalled horizonCredit
    quotaCredit beCredit beInletDelay beHorizonDelay packets inletStalled inletQuotaStalled beInletStalled inletCorrected windows stagingRegions
    counterLow ringLow jobsPublished served movesCreated obs s.mem s.spad images linkOut results readData) :=
  Keeps.of h rfl rfl rfl rfl h1 h2 h3 h8

/-- The same where a memory is written too. -/
theorem Keeps.updMem {s0 s : State} {mem spad : Memory} {boot : Boot} {time : TimeUnit} {pages : Vector PageHdr 64} {ext : ExtUnit} {extRun : PageRun} {extEnablePending : Bool} {obsEnablePending :
    Bool} {extEnable : Bool} {obsEnable : Bool} {gov : Governor} {steward : Steward} {sluice : Sluice} {safety : Safety} {ctxs : Vector Ctx 16}
    {catches : Vector Catch 16} {cores : Vector Core 64} {ctrl : Vector (Vector Frame 8) 8} {units : Vector CflUnit 8} {placeOrder : Nat}
    {cntOps : List CntOp} {chanOps : List ChanOp} {writes : List WriteJob} {horizon : List Held} {arrivals : Nat} {horizonStalled : Bool}
    {quotaStalled : BitVec 16} {beHorizonStalled : Bool} {horizonCredit : Nat} {quotaCredit : List Nat} {beCredit : Nat} {beInletDelay : BitVec
    16} {beHorizonDelay : BitVec 16} {packets : List Packet} {inletStalled : Bool} {inletQuotaStalled : BitVec 16} {beInletStalled : Bool}
    {inletCorrected : Nat} {windows : List Window} {stagingRegions : List RegionIn} {counterLow : Nat} {ringLow : Nat} {jobsPublished : Nat}
    {served : Nat} {movesCreated : Nat} {obs : ObsUnit} {images : List FreezeImage} {linkOut : List Msg} {results : List CoreResult} {readData :
    Word}
    (h : Keeps s0 s) (h1 : boot.ready = s.boot.ready) (h2 : time.ac = s.time.ac) (h3 : safety.fenced = s.safety.fenced)
    (h8 : boot.key = s.boot.key ∧ (steward.privateKey, steward.publicX, steward.publicY) =
      (s.steward.privateKey, s.steward.publicX, s.steward.publicY))
    (h4 : Memory.wf s.mem → Memory.wf mem) (h5 : Memory.wf s.spad → Memory.wf spad) :
    Keeps s0 (State.mk s.pending s.config boot time pages ext extRun extEnablePending obsEnablePending extEnable obsEnable gov steward sluice safety ctxs
    catches cores ctrl units placeOrder cntOps chanOps writes horizon arrivals horizonStalled quotaStalled beHorizonStalled horizonCredit
    quotaCredit beCredit beInletDelay beHorizonDelay packets inletStalled inletQuotaStalled beInletStalled inletCorrected windows stagingRegions
    counterLow ringLow jobsPublished served movesCreated obs mem spad images linkOut results readData) :=
  Keeps.ofMem h rfl rfl h4 h5 h1 h2 h3 h8

/-- The same where READY, the clock or the fence may move forward. -/
theorem Keeps.updTo {s0 s : State} {boot : Boot} {time : TimeUnit} {pages : Vector PageHdr 64} {ext : ExtUnit} {extRun : PageRun} {extEnablePending : Bool} {obsEnablePending :
    Bool} {extEnable : Bool} {obsEnable : Bool} {gov : Governor} {steward : Steward} {sluice : Sluice} {safety : Safety} {ctxs : Vector Ctx 16}
    {catches : Vector Catch 16} {cores : Vector Core 64} {ctrl : Vector (Vector Frame 8) 8} {units : Vector CflUnit 8} {placeOrder : Nat}
    {cntOps : List CntOp} {chanOps : List ChanOp} {writes : List WriteJob} {horizon : List Held} {arrivals : Nat} {horizonStalled : Bool}
    {quotaStalled : BitVec 16} {beHorizonStalled : Bool} {horizonCredit : Nat} {quotaCredit : List Nat} {beCredit : Nat} {beInletDelay : BitVec
    16} {beHorizonDelay : BitVec 16} {packets : List Packet} {inletStalled : Bool} {inletQuotaStalled : BitVec 16} {beInletStalled : Bool}
    {inletCorrected : Nat} {windows : List Window} {stagingRegions : List RegionIn} {counterLow : Nat} {ringLow : Nat} {jobsPublished : Nat}
    {served : Nat} {movesCreated : Nat} {obs : ObsUnit} {images : List FreezeImage} {linkOut : List Msg} {results : List CoreResult} {readData :
    Word}
    (h : Keeps s0 s) (h1 : s.boot.ready = true → boot.ready = true) (h2 : s.time.ac ≤ time.ac)
    (h3 : s.safety.fenced = true → safety.fenced = true)
    (h8 : s.boot.key.isSome = true → boot.key = s.boot.key ∧ (steward.privateKey, steward.publicX, steward.publicY) =
      (s.steward.privateKey, s.steward.publicX, s.steward.publicY)) :
    Keeps s0 (State.mk s.pending s.config boot time pages ext extRun extEnablePending obsEnablePending extEnable obsEnable gov steward sluice safety ctxs
    catches cores ctrl units placeOrder cntOps chanOps writes horizon arrivals horizonStalled quotaStalled beHorizonStalled horizonCredit
    quotaCredit beCredit beInletDelay beHorizonDelay packets inletStalled inletQuotaStalled beInletStalled inletCorrected windows stagingRegions
    counterLow ringLow jobsPublished served movesCreated obs s.mem s.spad images linkOut results readData) :=
  h.trans ⟨⟨rfl, fun _ => rfl, id, id, h1, h2, h8⟩, h3⟩

theorem Keeps.foldl {s0 : State} {α : Type} {f : State → α → State} {l : List α} {s : State}
    (hf : ∀ s x, Keeps s0 s → Keeps s0 (f s x)) (h : Keeps s0 s) : Keeps s0 (l.foldl f s) := by
  induction l generalizing s with
  | nil => exact h
  | cons x l ih => exact ih (hf s x h)

theorem Keeps.foldl_fst {s0 : State} {α β : Type} {f : State × β → α → State × β} {l : List α} {a : State × β}
    (hf : ∀ a x, Keeps s0 a.1 → Keeps s0 (f a x).1) (h : Keeps s0 a.1) : Keeps s0 (l.foldl f a).1 := by
  induction l generalizing a with
  | nil => exact h
  | cons x l ih => exact ih (hf a x h)

/-- The state of an accumulator, kept by every turn of a fold. -/
theorem Keeps.foldl_of {s0 : State} {α β : Type} (p : β → State) {f : β → α → β} {l : List α} {a : β}
    (hf : ∀ a x, Keeps s0 (p a) → Keeps s0 (p (f a x))) (h : Keeps s0 (p a)) : Keeps s0 (p (l.foldl f a)) := by
  induction l generalizing a with
  | nil => exact h
  | cons x l ih => exact ih (hf a x h)

end Sys2Proof.Machine
end

