-- ==== Sys2Proof/Laws/KeepsOps.lean ====
section
/-! SUPPORT. What every operation and meaning of Machine/Ops.lean keeps (`Keeps`). -/

namespace Sys2Proof.Machine

theorem State.setCtx_keeps {s0 s : State} (k : Fin 16) (c : Ctx) (h : Keeps s0 s) : Keeps s0 (State.setCtx s k c) := by
  unfold State.setCtx
  refine Keeps.upd ?_ rfl rfl rfl ⟨rfl, rfl⟩
  assumption

theorem State.modCtx_keeps {s0 s : State} (k : Fin 16) (f : Ctx → Ctx) (h : Keeps s0 s) : Keeps s0 (State.modCtx s k f) := by
  unfold State.modCtx
  apply State.setCtx_keeps
  assumption

theorem State.setCore_keeps {s0 s : State} (l : Fin 64) (c : Core) (h : Keeps s0 s) : Keeps s0 (State.setCore s l c) := by
  unfold State.setCore
  refine Keeps.upd ?_ rfl rfl rfl ⟨rfl, rfl⟩
  assumption

theorem State.modCore_keeps {s0 s : State} (l : Fin 64) (f : Core → Core) (h : Keeps s0 s) : Keeps s0 (State.modCore s l f) := by
  unfold State.modCore
  apply State.setCore_keeps
  assumption

theorem State.setUnit_keeps {s0 s : State} (k : Fin 8) (u : CflUnit) (h : Keeps s0 s) : Keeps s0 (State.setUnit s k u) := by
  unfold State.setUnit
  refine Keeps.upd ?_ rfl rfl rfl ⟨rfl, rfl⟩
  assumption

theorem State.setCatch_keeps {s0 s : State} (k : Fin 16) (c : Catch) (h : Keeps s0 s) : Keeps s0 (State.setCatch s k c) := by
  unfold State.setCatch
  refine Keeps.upd ?_ rfl rfl rfl ⟨rfl, rfl⟩
  assumption

theorem State.setFrame_keeps {s0 s : State} (c : Fin 8) (f : Fin 8) (v : Frame) (h : Keeps s0 s) : Keeps s0 (State.setFrame s c f v) := by
  unfold State.setFrame
  refine Keeps.upd ?_ rfl rfl rfl ⟨rfl, rfl⟩
  assumption

theorem State.setPage_keeps {s0 s : State} (p : Fin 64) (h1 : PageHdr) (h : Keeps s0 s) : Keeps s0 (State.setPage s p h1) := by
  unfold State.setPage
  refine Keeps.upd ?_ rfl rfl rfl ⟨rfl, rfl⟩
  assumption

theorem State.raise_keeps {s0 s : State} (p : Fin 64) (bitNo : Nat) (h : Keeps s0 s) : Keeps s0 (State.raise s p bitNo) := by
  unfold State.raise
  apply State.setPage_keeps
  assumption

theorem State.pageError_keeps {s0 s : State} (p : Fin 64) (code : Nat) (detail : Nat) (h : Keeps s0 s) : Keeps s0 (State.pageError s p code detail) := by
  unfold State.pageError
  apply State.setPage_keeps
  assumption

theorem State.peak_keeps {s0 s : State} (p : Peaks) (h : Keeps s0 s) : Keeps s0 (State.peak s p) := by
  unfold State.peak
  split
  · dsimp only
    refine Keeps.upd ?_ rfl rfl rfl ⟨rfl, rfl⟩
    assumption
  · assumption

theorem State.signalOut_keeps {s0 s : State} (cfgBit : Nat) (h : Keeps s0 s) : Keeps s0 (State.signalOut s cfgBit) := by
  unfold State.signalOut
  split
  · refine Keeps.upd ?_ rfl rfl rfl ⟨rfl, rfl⟩
    assumption
  · assumption

theorem State.countLive_keeps {s0 s : State} (kind : Nat) (h : Keeps s0 s) : Keeps s0 (State.countLive s kind) := by
  unfold State.countLive
  refine Keeps.foldl ?_ ?_
  · intro s1 x1 h1
    apply State.modCtx_keeps
    assumption
  · assumption

theorem State.causeLive_keeps {s0 s : State} (bitNo : Nat) (h : Keeps s0 s) : Keeps s0 (State.causeLive s bitNo) := by
  unfold State.causeLive
  refine Keeps.foldl ?_ ?_
  · intro s1 x1 h1
    apply State.modCtx_keeps
    assumption
  · assumption

theorem State.mirror_keeps {s0 s : State} (e : LogEntry) (h : Keeps s0 s) : Keeps s0 (State.mirror s e).1 := by
  unfold State.mirror
  dsimp only
  split
  · split
    · split
      · dsimp only
        refine Keeps.updMem ?_ rfl rfl rfl ⟨rfl, rfl⟩ ?_ ?_
        · assumption
        · intro hw
          apply Memory.wf_writeRing
          assumption
        · exact id
      · dsimp only
        refine Keeps.updMem ?_ rfl rfl rfl ⟨rfl, rfl⟩ ?_ ?_
        · assumption
        · intro hw
          apply Memory.wf_writeRing
          assumption
        · exact id
    · assumption
  · split
    · split
      · dsimp only
        refine Keeps.updMem ?_ rfl rfl rfl ⟨rfl, rfl⟩ ?_ ?_
        · assumption
        · intro hw
          apply Memory.wf_writeRing
          assumption
        · exact id
      · dsimp only
        refine Keeps.updMem ?_ rfl rfl rfl ⟨rfl, rfl⟩ ?_ ?_
        · assumption
        · intro hw
          apply Memory.wf_writeRing
          assumption
        · exact id
    · assumption

theorem State.mirror_keeps' {s0 s s9 : State} {e : LogEntry} {r9 : _} (eq : State.mirror s e = (s9, r9)) (h : Keeps s0 s) : Keeps s0 s9 := by
  have := State.mirror_keeps e h
  rwa [eq] at this

theorem State.log_keeps {s0 s : State} (kind : Nat) (severity : Nat) (payload : Bytes) (h : Keeps s0 s) : Keeps s0 (State.log s kind severity payload) := by
  unfold State.log
  dsimp only
  split
  · split
    · split
      · apply State.mirror_keeps
        refine Keeps.updMem ?_ rfl rfl rfl ⟨rfl, rfl⟩ ?_ ?_
        · assumption
        · intro hw
          apply Memory.wf_writeRing
          assumption
        · exact id
      · refine Keeps.upd ?_ rfl rfl rfl ⟨rfl, rfl⟩
        refine Keeps.updMem ?_ rfl rfl rfl ⟨rfl, rfl⟩ ?_ ?_
        · assumption
        · intro hw
          apply Memory.wf_writeRing
          assumption
        · exact id
    · split
      · apply State.mirror_keeps
        apply State.raise_keeps
        refine Keeps.updMem ?_ rfl rfl rfl ⟨rfl, rfl⟩ ?_ ?_
        · assumption
        · intro hw
          apply Memory.wf_writeRing
          assumption
        · exact id
      · refine Keeps.upd ?_ rfl rfl rfl ⟨rfl, rfl⟩
        apply State.raise_keeps
        refine Keeps.updMem ?_ rfl rfl rfl ⟨rfl, rfl⟩ ?_ ?_
        · assumption
        · intro hw
          apply Memory.wf_writeRing
          assumption
        · exact id
  · split
    · split
      · split
        · apply State.mirror_keeps
          refine Keeps.upd ?_ rfl rfl rfl ⟨rfl, rfl⟩
          apply State.mirror_keeps
          refine Keeps.updMem ?_ rfl rfl rfl ⟨rfl, rfl⟩ ?_ ?_
          · assumption
          · intro hw
            apply Memory.wf_writeRing
            assumption
          · exact id
        · refine Keeps.upd ?_ rfl rfl rfl ⟨rfl, rfl⟩
          apply State.mirror_keeps
          refine Keeps.updMem ?_ rfl rfl rfl ⟨rfl, rfl⟩ ?_ ?_
          · assumption
          · intro hw
            apply Memory.wf_writeRing
            assumption
          · exact id
      · refine Keeps.upd ?_ rfl rfl rfl ⟨rfl, rfl⟩
        refine Keeps.updMem ?_ rfl rfl rfl ⟨rfl, rfl⟩ ?_ ?_
        · assumption
        · intro hw
          apply Memory.wf_writeRing
          assumption
        · exact id
    · split
      · split
        · apply State.mirror_keeps
          refine Keeps.upd ?_ rfl rfl rfl ⟨rfl, rfl⟩
          apply State.mirror_keeps
          apply State.raise_keeps
          refine Keeps.updMem ?_ rfl rfl rfl ⟨rfl, rfl⟩ ?_ ?_
          · assumption
          · intro hw
            apply Memory.wf_writeRing
            assumption
          · exact id
        · refine Keeps.upd ?_ rfl rfl rfl ⟨rfl, rfl⟩
          apply State.mirror_keeps
          apply State.raise_keeps
          refine Keeps.updMem ?_ rfl rfl rfl ⟨rfl, rfl⟩ ?_ ?_
          · assumption
          · intro hw
            apply Memory.wf_writeRing
            assumption
          · exact id
      · refine Keeps.upd ?_ rfl rfl rfl ⟨rfl, rfl⟩
        apply State.raise_keeps
        refine Keeps.updMem ?_ rfl rfl rfl ⟨rfl, rfl⟩ ?_ ?_
        · assumption
        · intro hw
          apply Memory.wf_writeRing
          assumption
        · exact id

theorem State.countTaken_keeps {s0 s : State} (h : Keeps s0 s) : Keeps s0 (State.countTaken s) := by
  unfold State.countTaken
  with_reducible refine Keeps.updMem ?_ rfl rfl rfl ⟨rfl, rfl⟩ ?_ ?_
  · assumption
  · exact id
  · exact id

theorem State.pushRec_keeps {s0 s : State} (r : Rec) (h : Keeps s0 s) : Keeps s0 (State.pushRec s r) := by
  unfold State.pushRec
  refine Keeps.upd ?_ rfl rfl rfl ⟨rfl, rfl⟩
  assumption

theorem State.result_keeps {s0 s : State} (h1 : SubHdr) (kind : Nat) (taken : Nat) (reason : Nat) (k : Option (Fin 16)) (due : Nat) (h : Keeps s0 s) : Keeps s0 (State.result s h1 kind taken reason k due) := by
  unfold State.result
  apply State.pushRec_keeps
  assumption

theorem State.outcome_keeps {s0 s : State} (w : Waiting) (reason : Nat) (k : Fin 16) (due : Nat) (h : Keeps s0 s) : Keeps s0 (State.outcome s w reason k due) := by
  unfold State.outcome
  split
  · assumption
  · apply State.result_keeps
    assumption

theorem State.setPhase_keeps {s0 s : State} (k : Fin 16) (p : Phase) (h : Keeps s0 s) : Keeps s0 (State.setPhase s k p) := by
  unfold State.setPhase
  apply State.raise_keeps
  apply State.raise_keeps
  apply State.modCtx_keeps
  assumption

theorem State.engineFault_keeps {s0 s : State} (l : Fin 64) (code : Nat) (detail : Nat) (h : Keeps s0 s) : Keeps s0 (State.engineFault s l code detail) := by
  unfold State.engineFault
  apply State.modCore_keeps
  assumption

theorem State.haltCores_keeps {s0 s : State} (k : Fin 16) (h : Keeps s0 s) : Keeps s0 (State.haltCores s k) := by
  unfold State.haltCores
  refine Keeps.foldl ?_ ?_
  · intro s1 x1 h1
    apply State.modCore_keeps
    assumption
  · assumption

theorem State.runCores_keeps {s0 s : State} (k : Fin 16) (h : Keeps s0 s) : Keeps s0 (State.runCores s k) := by
  unfold State.runCores
  refine Keeps.foldl ?_ ?_
  · intro s1 x1 h1
    apply State.modCore_keeps
    assumption
  · assumption

theorem State.trigger_keeps {s0 s : State} (k : Fin 16) (source : Nat) (detail : Nat) (layer : Nat) (op : Nat) (h : Keeps s0 s) : Keeps s0 (State.trigger s k source detail layer op) := by
  unfold State.trigger
  dsimp only
  split
  · split
    · apply State.signalOut_keeps
      apply State.raise_keeps
      apply State.setCtx_keeps
      assumption
    · apply State.raise_keeps
      apply State.setCtx_keeps
      assumption
  · assumption

theorem State.fault_keeps {s0 s : State} (k : Fin 16) (f : FaultInfo) (h : Keeps s0 s) : Keeps s0 (State.fault s k f) := by
  unfold State.fault
  dsimp only
  split
  · assumption
  · split
    · split
      · apply State.trigger_keeps
        apply State.raise_keeps
        apply State.pushRec_keeps
        apply State.modCtx_keeps
        assumption
      · split
        · apply State.trigger_keeps
          apply State.raise_keeps
          apply State.haltCores_keeps
          apply State.modCtx_keeps
          assumption
        · apply State.trigger_keeps
          apply State.raise_keeps
          apply State.modCtx_keeps
          assumption
    · split
      · apply State.trigger_keeps
        apply State.raise_keeps
        apply State.pushRec_keeps
        apply State.modCtx_keeps
        assumption
      · split
        · apply State.trigger_keeps
          apply State.raise_keeps
          apply State.haltCores_keeps
          apply State.modCtx_keeps
          assumption
        · apply State.trigger_keeps
          apply State.raise_keeps
          apply State.modCtx_keeps
          assumption

theorem State.faultCode_keeps {s0 s : State} (k : Fin 16) (code : Nat) (d1 : Nat) (d2 : Nat) (h : Keeps s0 s) : Keeps s0 (State.faultCode s k code d1 d2) := by
  unfold State.faultCode
  apply State.fault_keeps
  assumption

theorem State.stray_keeps {s0 s : State} (sender : Nat) (h : Keeps s0 s) : Keeps s0 (State.stray s sender) := by
  unfold State.stray
  apply State.raise_keeps
  apply State.pageError_keeps
  refine Keeps.upd ?_ rfl rfl rfl ⟨rfl, rfl⟩
  assumption

theorem State.linkSend_keeps {s0 s : State} (port : Nat) (dest : Nat) (hdr : MsgHdr) (body : MsgBody) (h : Keeps s0 s) : Keeps s0 (State.linkSend s port dest hdr body) := by
  unfold State.linkSend
  with_reducible refine Keeps.updMem ?_ rfl rfl rfl ⟨rfl, rfl⟩ ?_ ?_
  · assumption
  · exact id
  · exact id

theorem State.sendMsg_keeps {s0 s : State} (dest : Nat) (hdr : MsgHdr) (body : MsgBody) (h : Keeps s0 s) : Keeps s0 (State.sendMsg s dest hdr body) := by
  unfold State.sendMsg
  split
  · assumption
  · split
    · apply State.linkSend_keeps
      assumption
    · apply State.stray_keeps
      assumption

theorem State.sendCtrl_keeps {s0 s : State} (k : Fin 16) (dest : Nat) (body : Ctrl) (h : Keeps s0 s) : Keeps s0 (State.sendCtrl s k dest body) := by
  unfold State.sendCtrl
  split
  · apply State.modCtx_keeps
    assumption
  · apply State.sendMsg_keeps
    assumption

theorem State.sendOthers_keeps {s0 s : State} (k : Fin 16) (body : Ctrl) (h : Keeps s0 s) : Keeps s0 (State.sendOthers s k body) := by
  unfold State.sendOthers
  refine Keeps.foldl ?_ ?_
  · intro s1 x1 h1
    apply State.sendCtrl_keeps
    assumption
  · assumption

theorem State.sendAll_keeps {s0 s : State} (k : Fin 16) (body : Ctrl) (h : Keeps s0 s) : Keeps s0 (State.sendAll s k body) := by
  unfold State.sendAll
  refine Keeps.foldl ?_ ?_
  · intro s1 x1 h1
    apply State.modCtx_keeps
    apply State.sendCtrl_keeps
    assumption
  · assumption

theorem State.fenceNotice_keeps {s0 s : State} (code : Nat) (k : Fin 16) (h : Keeps s0 s) : Keeps s0 (State.fenceNotice s code k) := by
  unfold State.fenceNotice
  dsimp only
  split
  · apply State.modCtx_keeps
    split
    · apply State.sendAll_keeps
      assumption
    · apply State.sendCtrl_keeps
      assumption
  · assumption

theorem State.fenceCtx_keeps {s0 s : State} (code : Nat) (d1 : Nat) (d2 : Nat) (k : Fin 16) (h : Keeps s0 s) : Keeps s0 (State.fenceCtx s code d1 d2 k) := by
  unfold State.fenceCtx
  dsimp only
  split
  · assumption
  · apply State.modCtx_keeps
    apply State.fault_keeps
    assumption

theorem State.fence_keeps {s0 s : State} (code : Nat) (d1 : Nat) (d2 : Nat) (h : Keeps s0 s) : Keeps s0 (State.fence s code d1 d2) := by
  unfold State.fence
  split
  · assumption
  · dsimp only
    apply State.pushRec_keeps
    apply State.signalOut_keeps
    apply State.raise_keeps
    apply State.raise_keeps
    refine Keeps.foldl ?_ ?_
    · intro s1 x1 h1
      apply State.fenceCtx_keeps
      assumption
    · with_reducible refine Keeps.updTo (Keeps.foldl ?_ ?_) ?_ ?_ ?_ ?_
      · intro s1 x1 h1
        apply State.fenceNotice_keeps
        assumption
      · exact Keeps.upd h rfl rfl rfl ⟨rfl, rfl⟩
      · exact id
      · exact Nat.le_refl _
      · exact fun _ => rfl
      · exact fun _ => ⟨rfl, rfl⟩

end Sys2Proof.Machine
end

