-- ==== Sys2Proof/Laws/KeepsCounters.lean ====
section
/-! SUPPORT. What every operation and meaning of Machine/Counters.lean keeps (`Keeps`). -/

namespace Sys2Proof.Machine

theorem State.compareCopies_keeps {s0 s : State} (k : Fin 16) (vids : List Nat) (h : Keeps s0 s) : Keeps s0 (State.compareCopies s k vids) := by
  unfold State.compareCopies
  split
  · apply State.faultCode_keeps
    assumption
  · assumption

theorem State.pairFault_keeps {s0 s : State} (k : Fin 16) (f : Bool × Nat × Nat) (h : Keeps s0 s) : Keeps s0 (State.pairFault s k f) := by
  unfold State.pairFault
  apply State.faultCode_keeps
  apply State.raise_keeps
  apply State.modCtx_keeps
  assumption

theorem State.saturation_keeps {s0 s : State} (k : Fin 16) (vid : Nat) (h : Keeps s0 s) : Keeps s0 (State.saturation s k vid) := by
  unfold State.saturation
  apply State.faultCode_keeps
  apply State.raise_keeps
  apply State.modCtx_keeps
  assumption

theorem State.reachWaits_keeps {s0 s : State} (k : Fin 16) (h : Keeps s0 s) : Keeps s0 (State.reachWaits s k) := by
  unfold State.reachWaits
  dsimp only
  refine Keeps.foldl ?_ ?_
  · intro s1 x1 h1
    apply State.modCore_keeps
    assumption
  · assumption

theorem State.giveResult_keeps {s0 s : State} (lcid : Nat) (late : Nat) (r : ResultBody) (h : Keeps s0 s) : Keeps s0 (State.giveResult s lcid late r) := by
  unfold State.giveResult
  refine Keeps.upd ?_ rfl rfl rfl ⟨rfl, rfl⟩
  assumption

theorem State.beginWait_keeps {s0 s : State} (o : CntOp) (h : Keeps s0 s) : Keeps s0 (State.beginWait s o) := by
  unfold State.beginWait
  split
  · apply State.modCore_keeps
    assumption
  · assumption

theorem State.serveRead_keeps {s0 s : State} (k : Fin 16) (o : CntOp) (h : Keeps s0 s) : Keeps s0 (State.serveRead s k o) := by
  unfold State.serveRead
  split
  · apply State.giveResult_keeps
    assumption
  · assumption

theorem State.resolveCounters_keeps {s0 s : State} (k : Fin 16) (notices : List (Nat × Nat)) (h : Keeps s0 s) : Keeps s0 (State.resolveCounters s k notices) := by
  unfold State.resolveCounters
  dsimp only
  split
  · apply State.compareCopies_keeps
    assumption
  · split
    · split
      · apply State.reachWaits_keeps
        refine Keeps.foldl ?_ ?_
        · intro s1 x1 h1
          apply State.serveRead_keeps
          assumption
        · refine Keeps.foldl ?_ ?_
          · intro s1 x1 h1
            apply State.saturation_keeps
            assumption
          · refine Keeps.foldl ?_ ?_
            · intro s1 x1 h1
              apply State.pairFault_keeps
              assumption
            · refine Keeps.foldl ?_ ?_
              · intro s1 x1 h1
                apply State.beginWait_keeps
                assumption
              · refine Keeps.foldl ?_ ?_
                · intro s1 x1 h1
                  apply State.giveResult_keeps
                  assumption
                · with_reducible refine Keeps.updMem ?_ rfl rfl rfl ⟨rfl, rfl⟩ ?_ ?_
                  · apply State.setCtx_keeps
                    apply State.compareCopies_keeps
                    assumption
                  · exact id
                  · exact id
      · refine Keeps.foldl ?_ ?_
        · intro s1 x1 h1
          apply State.serveRead_keeps
          assumption
        · refine Keeps.foldl ?_ ?_
          · intro s1 x1 h1
            apply State.saturation_keeps
            assumption
          · refine Keeps.foldl ?_ ?_
            · intro s1 x1 h1
              apply State.pairFault_keeps
              assumption
            · refine Keeps.foldl ?_ ?_
              · intro s1 x1 h1
                apply State.beginWait_keeps
                assumption
              · refine Keeps.foldl ?_ ?_
                · intro s1 x1 h1
                  apply State.giveResult_keeps
                  assumption
                · with_reducible refine Keeps.updMem ?_ rfl rfl rfl ⟨rfl, rfl⟩ ?_ ?_
                  · apply State.setCtx_keeps
                    apply State.compareCopies_keeps
                    assumption
                  · exact id
                  · exact id
    · split
      · apply State.reachWaits_keeps
        refine Keeps.foldl ?_ ?_
        · intro s1 x1 h1
          apply State.serveRead_keeps
          assumption
        · refine Keeps.foldl ?_ ?_
          · intro s1 x1 h1
            apply State.saturation_keeps
            assumption
          · refine Keeps.foldl ?_ ?_
            · intro s1 x1 h1
              apply State.pairFault_keeps
              assumption
            · refine Keeps.foldl ?_ ?_
              · intro s1 x1 h1
                apply State.beginWait_keeps
                assumption
              · refine Keeps.foldl ?_ ?_
                · intro s1 x1 h1
                  apply State.giveResult_keeps
                  assumption
                · with_reducible refine Keeps.updMem ?_ rfl rfl rfl ⟨rfl, rfl⟩ ?_ ?_
                  · apply State.setCtx_keeps
                    apply State.compareCopies_keeps
                    assumption
                  · exact id
                  · exact id
      · refine Keeps.foldl ?_ ?_
        · intro s1 x1 h1
          apply State.serveRead_keeps
          assumption
        · refine Keeps.foldl ?_ ?_
          · intro s1 x1 h1
            apply State.saturation_keeps
            assumption
          · refine Keeps.foldl ?_ ?_
            · intro s1 x1 h1
              apply State.pairFault_keeps
              assumption
            · refine Keeps.foldl ?_ ?_
              · intro s1 x1 h1
                apply State.beginWait_keeps
                assumption
              · refine Keeps.foldl ?_ ?_
                · intro s1 x1 h1
                  apply State.giveResult_keeps
                  assumption
                · with_reducible refine Keeps.updMem ?_ rfl rfl rfl ⟨rfl, rfl⟩ ?_ ?_
                  · apply State.setCtx_keeps
                    apply State.compareCopies_keeps
                    assumption
                  · exact id
                  · exact id

theorem State.useCredit_keeps {s0 s : State} (k : Fin 16) (h : Keeps s0 s) : Keeps s0 (State.useCredit s k) := by
  unfold State.useCredit
  with_reducible refine Keeps.updMem ?_ rfl rfl rfl ⟨rfl, rfl⟩ ?_ ?_
  · assumption
  · exact id
  · exact id

theorem State.markCredits_keeps {s0 s : State} (old : State) (h : Keeps s0 s) : Keeps s0 (State.markCredits s old) := by
  unfold State.markCredits
  dsimp only
  refine Keeps.foldl ?_ ?_
  · intro s1 x1 h1
    apply State.modCtx_keeps
    assumption
  · assumption

theorem State.horizonWeirs_keeps {s0 s : State} (h : Keeps s0 s) : Keeps s0 (State.horizonWeirs s) := by
  unfold State.horizonWeirs
  dsimp only
  apply State.peak_keeps
  apply State.markCredits_keeps
  with_reducible refine Keeps.updMem ?_ rfl rfl rfl ⟨rfl, rfl⟩ ?_ ?_
  · assumption
  · exact id
  · exact id

theorem State.seedDelays_keeps {s0 s : State} (h : Keeps s0 s) : Keeps s0 (State.seedDelays s) := by
  unfold State.seedDelays
  with_reducible refine Keeps.upd ?_ rfl rfl rfl ⟨rfl, rfl⟩
  assumption

theorem State.sendNotice_keeps {s0 s : State} (k : Fin 16) (dest : Nat) (vc : Nat) (epoch : Nat) (body : MsgBody) (h : Keeps s0 s) : Keeps s0 (State.sendNotice s k dest vc epoch body) := by
  unfold State.sendNotice
  dsimp only
  split
  · split
    · apply State.horizonWeirs_keeps
      with_reducible refine Keeps.updMem ?_ rfl rfl rfl ⟨rfl, rfl⟩ ?_ ?_
      · apply State.useCredit_keeps
        assumption
      · exact id
      · exact id
    · apply State.modCtx_keeps
      assumption
  · apply State.sendMsg_keeps
    assumption

theorem State.sendWaiting_keeps {s0 s : State} (k : Fin 16) (h : Keeps s0 s) : Keeps s0 (State.sendWaiting s k) := by
  unfold State.sendWaiting
  dsimp only
  split
  · assumption
  · refine Keeps.foldl ?_ ?_
    · intro s1 x1 h1
      apply State.sendNotice_keeps
      assumption
    · apply State.setCtx_keeps
      assumption

theorem State.sendRipple_keeps {s0 s : State} (o : CntOp) (h : Keeps s0 s) : Keeps s0 (State.sendRipple s o) := by
  unfold State.sendRipple
  split
  · apply State.sendNotice_keeps
    assumption
  · assumption

theorem State.sendRipples_keeps {s0 s : State} (h : Keeps s0 s) : Keeps s0 (State.sendRipples s) := by
  unfold State.sendRipples
  dsimp only
  refine Keeps.upd ?_ rfl rfl rfl ⟨rfl, rfl⟩
  refine Keeps.foldl ?_ ?_
  · intro s1 x1 h1
    apply State.sendRipple_keeps
    assumption
  · assumption

theorem State.acceptHeld_keeps {s0 s : State} (h : Keeps s0 s) : Keeps s0 (State.acceptHeld s) := by
  unfold State.acceptHeld
  refine Keeps.upd ?_ rfl rfl rfl ⟨rfl, rfl⟩
  assumption

theorem State.performCounter_keeps {s0 s : State} (l : Fin 64) (t : Task) (code : Nat) (vid : Nat) (translate : Bool) (zero : Bool) (kind : CntKind) (after : Nat) (movers : List Nat) (h : Keeps s0 s) : Keeps s0 (State.performCounter s l t code vid translate zero kind after movers) := by
  unfold State.performCounter
  split
  · apply State.engineFault_keeps
    assumption
  · dsimp only
    with_reducible refine Keeps.updMem ?_ rfl rfl rfl ⟨rfl, rfl⟩ ?_ ?_
    · assumption
    · exact id
    · exact id

theorem State.laneWaits_keeps {s0 s : State} (l : Fin 64) (c : LaneCmd) (h : Keeps s0 s) : Keeps s0 (State.laneWaits s l c) := by
  unfold State.laneWaits
  apply State.modCore_keeps
  assumption

theorem State.counterCommand_keeps {s0 s : State} (l : Fin 64) (code : Nat) (vid : Nat) (translate : Bool) (zero : Bool) (kind : CntKind) (h : Keeps s0 s) : Keeps s0 (State.counterCommand s l code vid translate zero kind) := by
  unfold State.counterCommand
  split
  · assumption
  · dsimp only
    split
    · apply State.laneWaits_keeps
      assumption
    · apply State.performCounter_keeps
      assumption

theorem execCntInc_keeps {s s9 : State} {lcid : Fin 64} {vid : BitVec 20} {increment : BitVec 32} (eq : execCntInc lcid vid increment s = .next s9) : Keeps s s9 := by
  cases eq
  have h := Keeps.refl s
  apply State.counterCommand_keeps
  assumption

theorem execCntTake_keeps {s s9 : State} {lcid : Fin 64} {vid : BitVec 20} (eq : execCntTake lcid vid s = .next s9) : Keeps s s9 := by
  cases eq
  have h := Keeps.refl s
  apply State.counterCommand_keeps
  assumption

theorem execCntRead_keeps {s s9 : State} {lcid : Fin 64} {vid : BitVec 20} (eq : execCntRead lcid vid s = .next s9) : Keeps s s9 := by
  cases eq
  have h := Keeps.refl s
  apply State.counterCommand_keeps
  assumption

theorem execCntWait_keeps {s s9 : State} {lcid : Fin 64} {vid : BitVec 20} {target : BitVec 48} (eq : execCntWait lcid vid target s = .next s9) : Keeps s s9 := by
  cases eq
  have h := Keeps.refl s
  apply State.counterCommand_keeps
  assumption

theorem execRipple_keeps {s s9 : State} {lcid : Fin 64} {dest : BitVec 32} {vid : BitVec 20} {increment : BitVec 32} {dmv1 : Bool} (eq : execRipple lcid dest vid increment dmv1 s = .next s9) : Keeps s s9 := by
  cases eq
  have h := Keeps.refl s
  apply State.counterCommand_keeps
  assumption

theorem State.cntWaitRelease_keeps {s0 s : State} (l : Fin 64) (h : Keeps s0 s) : Keeps s0 (State.cntWaitRelease s l) := by
  unfold State.cntWaitRelease
  split
  · split
    · dsimp only
      refine Keeps.upd ?_ rfl rfl rfl ⟨rfl, rfl⟩
      apply State.modCore_keeps
      assumption
    · assumption
  · assumption

theorem execCntWaitRelease_keeps {s s9 : State} {lcid : Fin 64} (eq : execCntWaitRelease lcid s = .next s9) : Keeps s s9 := by
  cases eq
  have h := Keeps.refl s
  apply State.cntWaitRelease_keeps
  assumption

end Sys2Proof.Machine
end

