-- ==== Sys2Proof/Laws/KeepsRouting.lean ====
section
/-! SUPPORT. What every operation and meaning of Machine/Routing.lean keeps (`Keeps`). -/

namespace Sys2Proof.Machine

theorem State.inletWeirs_keeps {s0 s : State} (h : Keeps s0 s) : Keeps s0 (State.inletWeirs s) := by
  unfold State.inletWeirs
  dsimp only
  apply State.peak_keeps
  refine Keeps.upd ?_ rfl rfl rfl ⟨rfl, rfl⟩
  split
  · apply State.raise_keeps
    assumption
  · assumption

theorem State.recordFault_keeps {s0 s : State} (t : Task) (lcid : Nat) (row : Nat) (r : BitVec 64) (h : Keeps s0 s) : Keeps s0 (State.recordFault s t lcid row r) := by
  unfold State.recordFault
  apply State.fault_keeps
  assumption

theorem State.setOpen_keeps {s0 s : State} (lcid : Nat) (f : Packet → Option Packet) (h : Keeps s0 s) : Keeps s0 (State.setOpen s lcid f) := by
  unfold State.setOpen
  refine Keeps.upd ?_ rfl rfl rfl ⟨rfl, rfl⟩
  assumption

theorem State.writeOpen_keeps {s0 s : State} (lcid : Nat) (t : Task) (r : BitVec 64) (h : Keeps s0 s) : Keeps s0 (State.writeOpen s lcid t r) := by
  unfold State.writeOpen
  split
  · apply State.recordFault_keeps
    assumption
  · split
    · apply State.recordFault_keeps
      assumption
    · refine Keeps.upd ?_ rfl rfl rfl ⟨rfl, rfl⟩
      assumption

theorem State.writeChoice_keeps {s0 s : State} (lcid : Nat) (t : Task) (r : BitVec 64) (h : Keeps s0 s) : Keeps s0 (State.writeChoice s lcid t r) := by
  unfold State.writeChoice
  split
  · apply State.recordFault_keeps
    assumption
  · split
    · apply State.recordFault_keeps
      assumption
    · split
      · apply State.recordFault_keeps
        assumption
      · apply State.setOpen_keeps
        assumption

theorem State.writeClose_keeps {s0 s : State} (lcid : Nat) (t : Task) (r : BitVec 64) (h : Keeps s0 s) : Keeps s0 (State.writeClose s lcid t r) := by
  unfold State.writeClose
  split
  · apply State.recordFault_keeps
    assumption
  · split
    · apply State.recordFault_keeps
      assumption
    · split
      · apply State.recordFault_keeps
        assumption
      · apply State.setOpen_keeps
        assumption

theorem State.writeRecord_keeps {s0 s : State} (lcid : Nat) (t : Task) (r : BitVec 64) (h : Keeps s0 s) : Keeps s0 (State.writeRecord s lcid t r) := by
  unfold State.writeRecord
  dsimp only
  apply State.inletWeirs_keeps
  split
  · split
    · apply State.setOpen_keeps
      apply State.modCore_keeps
      assumption
    · apply State.modCore_keeps
      assumption
  · split
    · apply State.writeChoice_keeps
      apply State.modCore_keeps
      assumption
    · apply State.writeOpen_keeps
      apply State.modCore_keeps
      assumption
    · apply State.writeClose_keeps
      apply State.modCore_keeps
      assumption
    · apply State.recordFault_keeps
      apply State.modCore_keeps
      assumption

theorem State.offerRecord_keeps {s0 s : State} (l : Fin 64) (r : BitVec 64) (h : Keeps s0 s) : Keeps s0 (State.offerRecord s l r) := by
  unfold State.offerRecord
  split
  · assumption
  · dsimp only
    split
    · apply State.modCore_keeps
      apply State.inletWeirs_keeps
      assumption
    · apply State.writeRecord_keeps
      apply State.inletWeirs_keeps
      assumption

theorem State.inletAc_keeps {s0 s : State} (h : Keeps s0 s) : Keeps s0 (State.inletAc s) := by
  unfold State.inletAc
  split
  · assumption
  · refine Keeps.foldl ?_ ?_
    · intro s1 x1 h1
      split
      · split
        · assumption
        · apply State.writeRecord_keeps
          apply State.modCore_keeps
          assumption
      · assumption
    · apply State.inletWeirs_keeps
      assumption

theorem execOpenRecord_keeps {s s9 : State} {lcid : Fin 64} {record : BitVec 64} (eq : execOpenRecord lcid record s = .next s9) : Keeps s s9 := by
  cases eq
  have h := Keeps.refl s
  apply State.offerRecord_keeps
  assumption

theorem execChoiceRecord_keeps {s s9 : State} {lcid : Fin 64} {record : BitVec 64} (eq : execChoiceRecord lcid record s = .next s9) : Keeps s s9 := by
  cases eq
  have h := Keeps.refl s
  apply State.offerRecord_keeps
  assumption

theorem execCloseRecord_keeps {s s9 : State} {lcid : Fin 64} {record : BitVec 64} (eq : execCloseRecord lcid record s = .next s9) : Keeps s s9 := by
  cases eq
  have h := Keeps.refl s
  apply State.offerRecord_keeps
  assumption

theorem State.packetFault_keeps {s0 s : State} (p : Packet) (h : Keeps s0 s) : Keeps s0 (State.packetFault s p) := by
  unfold State.packetFault
  apply State.fault_keeps
  assumption

theorem State.collectJob_keeps {s0 s : State} (k : Fin 16) (step : Nat) (layer : Nat) (h : Keeps s0 s) : Keeps s0 (State.collectJob s k step layer) := by
  unfold State.collectJob
  dsimp only
  split
  · assumption
  · split
    · apply State.packetFault_keeps
      assumption
    · assumption
  · split
    · assumption
    · split
      · assumption
      · split
        · apply State.packetFault_keeps
          assumption
        · split
          · apply State.packetFault_keeps
            assumption
          · apply State.modCtx_keeps
            with_reducible refine Keeps.updMem ?_ rfl rfl rfl ⟨rfl, rfl⟩ ?_ ?_
            · assumption
            · exact id
            · exact id

theorem State.startNextJob_keeps {s0 s : State} (k : Fin 16) (h : Keeps s0 s) : Keeps s0 (State.startNextJob s k) := by
  unfold State.startNextJob
  dsimp only
  split
  · assumption
  · split
    · assumption
    · split
      · apply State.fault_keeps
        apply State.modCtx_keeps
        assumption
      · apply State.setCtx_keeps
        assumption

theorem Memory.wf_writeLists {c : Ctx} {j : Job} {m : Memory} (h : m.wf) : (c.writeLists j m).wf := by
  refine Memory.wf_foldl ?_ _ h
  intro m1 x1 hm
  exact Memory.wf_writeBytes hm _ _

theorem State.publishJob_keeps {s0 s : State} (k : Fin 16) (j : Job) (h : Keeps s0 s) : Keeps s0 (State.publishJob s k j) := by
  unfold State.publishJob
  dsimp only
  refine Keeps.updMem ?_ rfl rfl rfl ⟨rfl, rfl⟩ ?_ ?_
  · apply State.setCtx_keeps
    assumption
  · intro hw
    apply Memory.wf_writeLists
    assumption
  · exact id

theorem State.publishDue_keeps {s0 s : State} (k : Fin 16) (h : Keeps s0 s) : Keeps s0 (State.publishDue s k) := by
  unfold State.publishDue
  split
  · apply State.publishJob_keeps
    assumption
  · assumption

theorem State.routingBoundary_keeps {s0 s : State} (k : Fin 16) (h : Keeps s0 s) : Keeps s0 (State.routingBoundary s k) := by
  unfold State.routingBoundary
  dsimp only
  apply State.modCtx_keeps
  apply State.startNextJob_keeps
  refine Keeps.foldl ?_ ?_
  · intro s1 x1 h1
    apply State.collectJob_keeps
    assumption
  · apply State.publishDue_keeps
    assumption

theorem State.jobPublish_keeps {s0 s : State} (k : Fin 16) (h : Keeps s0 s) : Keeps s0 (State.jobPublish s k) := by
  unfold State.jobPublish
  dsimp only
  split
  · split
    · with_reducible refine Keeps.updMem ?_ rfl rfl rfl ⟨rfl, rfl⟩ ?_ ?_
      · apply State.setCtx_keeps
        assumption
      · intro hw
        apply Memory.wf_writeLists
        assumption
      · exact id
    · assumption
  · assumption

theorem execJobPublish_keeps {s s9 : State} {slot : Fin 16} (eq : execJobPublish slot s = .next s9) : Keeps s s9 := by
  cases eq
  have h := Keeps.refl s
  apply State.jobPublish_keeps
  assumption

theorem State.fetchHandoff_keeps {s0 s : State} (l : Fin 64) (h : Keeps s0 s) : Keeps s0 (State.fetchHandoff s l) := by
  unfold State.fetchHandoff
  split
  · assumption
  · dsimp only
    split
    · apply State.engineFault_keeps
      assumption
    · split
      · assumption
      · split
        · assumption
        · split
          · apply State.sendNotice_keeps
            assumption
          · apply State.sendMsg_keeps
            assumption

theorem execFetchHandoff_keeps {s s9 : State} {lcid : Fin 64} (eq : execFetchHandoff lcid s = .next s9) : Keeps s s9 := by
  cases eq
  have h := Keeps.refl s
  apply State.fetchHandoff_keeps
  assumption

theorem State.fetchEnd_keeps {s0 s : State} (t : Task) (h : Keeps s0 s) : Keeps s0 (State.fetchEnd s t) := by
  unfold State.fetchEnd
  dsimp only
  split
  · assumption
  · split
    · apply State.modCtx_keeps
      assumption
    · assumption
    · apply State.sendNotice_keeps
      assumption

theorem State.landingArrives_keeps {s0 s : State} (k : Fin 16) (l : Landing) (h : Keeps s0 s) : Keeps s0 (State.landingArrives s k l) := by
  unfold State.landingArrives
  dsimp only
  apply State.modCtx_keeps
  assumption

theorem State.serveTask_keeps {s0 s : State} (k : Fin 16) (reqs : List (Nat × Nat × FetchReq)) (h : Keeps s0 s) : Keeps s0 (State.serveTask s k reqs) := by
  unfold State.serveTask
  split
  · assumption
  · dsimp only
    refine Keeps.upd ?_ rfl rfl rfl ⟨rfl, rfl⟩
    apply State.setCtx_keeps
    assumption

theorem State.serveRequests_keeps {s0 s : State} (k : Fin 16) (reqs : List (Nat × Nat × FetchReq)) (h : Keeps s0 s) : Keeps s0 (State.serveRequests s k reqs) := by
  unfold State.serveRequests
  dsimp only
  refine Keeps.foldl ?_ ?_
  · intro s1 x1 h1
    refine Keeps.foldl ?_ ?_
    · intro s1 x1 h1
      apply State.serveTask_keeps
      assumption
    · assumption
  · assumption

theorem State.serveEnd_keeps {s0 s : State} (t : Task) (length : Nat) (members : List (Nat × Nat × Nat × Nat)) (h : Keeps s0 s) : Keeps s0 (State.serveEnd s t length members) := by
  unfold State.serveEnd
  refine Keeps.foldl ?_ ?_
  · intro s1 x1 h1
    apply State.sendNotice_keeps
    assumption
  · assumption

theorem State.cancelRouting_keeps {s0 s : State} (k : Fin 16) (steps : List Nat) (h : Keeps s0 s) : Keeps s0 (State.cancelRouting s k steps) := by
  unfold State.cancelRouting
  dsimp only
  apply State.inletWeirs_keeps
  apply State.modCtx_keeps
  refine Keeps.upd ?_ rfl rfl rfl ⟨rfl, rfl⟩
  assumption

end Sys2Proof.Machine
end

