-- ==== Sys2Proof/Laws/KeepsLedger.lean ====
section
/-! SUPPORT. What every operation and meaning of Machine/Ledger.lean keeps (`Keeps`). -/

namespace Sys2Proof.Machine

theorem Memory.wf_blockWrite {l : Ledger} {q : Seq} {m : Memory} {b : Block} (h : m.wf) : (l.blockWrite q m b).wf := by
  unfold Ledger.blockWrite
  dsimp only
  split <;> (refine Memory.wf_foldl ?_ _ h; intro m1 x1 hm; exact Memory.wf_writeBytes hm _ _)

theorem Memory.wf_writeSeq {l : Ledger} {old : Option Seq} {m : Memory} {q : Seq} (h : m.wf) : (l.writeSeq old m q).wf := by
  refine Memory.wf_foldl (fun _ _ g => Memory.wf_blockWrite g) _ ?_
  refine Memory.wf_foldl (fun _ _ g => Memory.wf_scrub g _ _) _ ?_
  exact Memory.wf_writeBytes h _ _

theorem State.setLedger_keeps {s0 s : State} (k : Fin 16) (l : Ledger) (h : Keeps s0 s) : Keeps s0 (State.setLedger s k l) := by
  unfold State.setLedger
  dsimp only
  refine Keeps.updMem ?_ rfl rfl rfl ⟨rfl, rfl⟩ ?_ ?_
  · apply State.modCtx_keeps
    assumption
  · intro hw
    refine Memory.wf_foldl ?_ _ ?_
    · intro m1 x1 hm
      apply Memory.wf_write
      assumption
    · refine Memory.wf_foldl ?_ _ ?_
      · intro m1 x1 hm
        apply Memory.wf_writeSeq
        assumption
      · assumption
  · exact id

theorem State.planNode_keeps {s0 s : State} (k : Fin 16) (step : Nat) (n : Nat) (h : Keeps s0 s) : Keeps s0 (State.planNode s k step n) := by
  unfold State.planNode
  dsimp only
  split
  · assumption
  · split
    · apply State.setCtx_keeps
      assumption
    · split
      · apply State.faultCode_keeps
        assumption
      · apply State.setCtx_keeps
        assumption

theorem State.issueNode_keeps {s0 s : State} (k : Fin 16) (step n fuel : Nat) (h : Keeps s0 s) : Keeps s0 (State.issueNode s k step n fuel) := by
  induction fuel generalizing s with
  | zero => exact h
  | succ m ih =>
    unfold State.issueNode
    dsimp only
    split
    · assumption
    · split
      · refine ih ?_
        apply State.setCtx_keeps
        assumption
      · assumption

theorem State.stagingBoundary_keeps {s0 s : State} (k : Fin 16) (h : Keeps s0 s) : Keeps s0 (State.stagingBoundary s k) := by
  unfold State.stagingBoundary
  refine Keeps.foldl ?_ ?_
  · intro s1 x1 h1
    apply State.issueNode_keeps
    assumption
  · assumption

theorem State.stagingIssue_keeps {s0 s : State} (k : Fin 16) (n : Nat) (h : Keeps s0 s) : Keeps s0 (State.stagingIssue s k n) := by
  unfold State.stagingIssue
  split
  · assumption
  · refine Keeps.foldl ?_ ?_
    · intro s1 x1 h1
      split
      · apply State.issueNode_keeps
        apply State.modCtx_keeps
        assumption
      · assumption
    · assumption

theorem execStagingIssue_keeps {s s9 : State} {slot : Fin 16} {node : Nat} (eq : execStagingIssue slot node s = .next s9) : Keeps s s9 := by
  cases eq
  have h := Keeps.refl s
  apply State.stagingIssue_keeps
  assumption

theorem State.applyChange_keeps {s0 s : State} (k : Fin 16) (step : Nat) (x : Change) (h : Keeps s0 s) : Keeps s0 (State.applyChange s k step x) := by
  unfold State.applyChange
  split
  · split
    · assumption
    · split
      · apply State.setLedger_keeps
        assumption
      · apply State.faultCode_keeps
        assumption
  · apply State.setLedger_keeps
    assumption
  · assumption

theorem State.lengthLimit_keeps {s0 s : State} (k : Fin 16) (step : Nat) (g : Nat) (h : Keeps s0 s) : Keeps s0 (State.lengthLimit s k step g) := by
  unfold State.lengthLimit
  apply State.pushRec_keeps
  assumption

theorem State.ledgerJoins_keeps {s0 s : State} (k : Fin 16) (step : Nat) (changes : List Change) (h : Keeps s0 s) : Keeps s0 (State.ledgerJoins s k step changes).1 := by
  unfold State.ledgerJoins
  dsimp only
  refine Keeps.foldl ?_ ?_
  · intro s1 x1 h1
    apply State.lengthLimit_keeps
    assumption
  · refine Keeps.foldl ?_ ?_
    · intro s1 x1 h1
      apply State.applyChange_keeps
      assumption
    · assumption

theorem State.ledgerJoins_keeps' {s0 s s9 : State} {k : Fin 16} {step : Nat} {changes : List Change} {r9 : _} (eq : State.ledgerJoins s k step changes = (s9, r9)) (h : Keeps s0 s) : Keeps s0 s9 := by
  have := State.ledgerJoins_keeps k step changes h
  rwa [eq] at this

theorem State.ledgerPlan_keeps {s0 s : State} (k : Fin 16) (step : Nat) (template : Nat) (batch : List BatchSeq) (h : Keeps s0 s) : Keeps s0 (State.ledgerPlan s k step template batch) := by
  unfold State.ledgerPlan
  dsimp only
  split
  · assumption
  · refine Keeps.foldl ?_ ?_
    · intro s1 x1 h1
      apply State.planNode_keeps
      assumption
    · apply State.setLedger_keeps
      apply State.modCtx_keeps
      refine Keeps.upd ?_ rfl rfl rfl ⟨rfl, rfl⟩
      assumption

theorem State.moveEnd_keeps {s0 s : State} (k : Fin 16) (q : Nat) (gen : Nat) (g : Nat) (y : Nat) (p : Nat) (tier : Nat) (frame : Nat) (h : Keeps s0 s) : Keeps s0 (State.moveEnd s k q gen g y p tier frame) := by
  unfold State.moveEnd
  dsimp only
  split
  · assumption
  · apply State.modCtx_keeps
    apply State.setLedger_keeps
    assumption

theorem State.pageCrc_keeps {s0 s : State} (k : Fin 16) (q : Nat) (g : Nat) (y : Nat) (p : Nat) (crc : BitVec 16) (h : Keeps s0 s) : Keeps s0 (State.pageCrc s k q g y p crc) := by
  unfold State.pageCrc
  apply State.setLedger_keeps
  assumption

theorem State.reportedCrc_keeps {s0 s : State} (t : Task) (live : Bool) (crc : BitVec 16) (h : Keeps s0 s) : Keeps s0 (State.reportedCrc s t live crc) := by
  unfold State.reportedCrc
  split
  · split
    · apply State.pageCrc_keeps
      assumption
    · assumption
  · apply State.pageCrc_keeps
    assumption
  · split
    · apply State.pageCrc_keeps
      assumption
    · assumption
  · assumption

theorem State.freeSeq_keeps {s0 s : State} (k : Fin 16) (q : Nat) (h : Keeps s0 s) : Keeps s0 (State.freeSeq s k q) := by
  unfold State.freeSeq
  dsimp only
  apply State.setLedger_keeps
  assumption

theorem State.beginExport_keeps {s0 s : State} (k : Fin 16) (q : Seq) (h : Keeps s0 s) : Keeps s0 (State.beginExport s k q) := by
  unfold State.beginExport
  dsimp only
  apply State.setLedger_keeps
  apply State.setCtx_keeps
  assumption

theorem State.exportDone_keeps {s0 s : State} (k : Fin 16) (q : Seq) (h : Keeps s0 s) : Keeps s0 (State.exportDone s k q) := by
  unfold State.exportDone
  dsimp only
  apply State.freeSeq_keeps
  apply State.pushRec_keeps
  apply State.setLedger_keeps
  assumption

theorem State.finishLeaves_keeps {s0 s : State} (k : Fin 16) (h : Keeps s0 s) : Keeps s0 (State.finishLeaves s k) := by
  unfold State.finishLeaves
  dsimp only
  refine Keeps.foldl ?_ ?_
  · intro s1 x1 h1
    split
    · apply State.freeSeq_keeps
      assumption
    · split
      · apply State.exportDone_keeps
        assumption
      · apply State.beginExport_keeps
        assumption
  · assumption

theorem State.exportEnd_keeps {s0 s : State} (k : Fin 16) (q : Nat) (h : Keeps s0 s) : Keeps s0 (State.exportEnd s k q) := by
  unfold State.exportEnd
  dsimp only
  split
  · split
    · apply State.exportDone_keeps
      apply State.setLedger_keeps
      assumption
    · apply State.setLedger_keeps
      assumption
  · apply State.setLedger_keeps
    assumption

theorem State.importDone_keeps {s0 s : State} (k : Fin 16) (q : Seq) (h : Keeps s0 s) : Keeps s0 (State.importDone s k q) := by
  unfold State.importDone
  split
  · assumption
  · apply State.setLedger_keeps
    apply State.result_keeps
    assumption

theorem State.importEnd_keeps {s0 s : State} (k : Fin 16) (q : Nat) (h : Keeps s0 s) : Keeps s0 (State.importEnd s k q) := by
  unfold State.importEnd
  dsimp only
  split
  · split
    · apply State.importDone_keeps
      apply State.setLedger_keeps
      assumption
    · apply State.setLedger_keeps
      assumption
  · apply State.setLedger_keeps
    assumption

theorem State.beginImport_keeps {s0 s : State} (k : Fin 16) (h1 : SubHdr) (taken : Nat) (r : ImportReq) (h : Keeps s0 s) : Keeps s0 (State.beginImport s k h1 taken r).1 := by
  unfold State.beginImport
  dsimp only
  split
  · assumption
  · split
    · assumption
    · split
      · split
        · dsimp only
          apply State.importDone_keeps
          apply State.setCtx_keeps
          apply State.setLedger_keeps
          assumption
        · dsimp only
          apply State.setCtx_keeps
          apply State.setLedger_keeps
          assumption
      · dsimp only
        apply State.setCtx_keeps
        apply State.setLedger_keeps
        assumption

theorem State.beginImport_keeps' {s0 s s9 : State} {k : Fin 16} {h1 : SubHdr} {taken : Nat} {r : ImportReq} {r9 : _} (eq : State.beginImport s k h1 taken r = (s9, r9)) (h : Keeps s0 s) : Keeps s0 s9 := by
  have := State.beginImport_keeps k h1 taken r h
  rwa [eq] at this

end Sys2Proof.Machine
end

