-- ==== Sys2Proof/Laws/KeepsChannels.lean ====
section
/-! SUPPORT. What every operation and meaning of Machine/Channels.lean keeps (`Keeps`). -/

namespace Sys2Proof.Machine

theorem State.performReceiver_keeps {s0 s : State} (l : Fin 64) (t : Task) (code : Nat) (rings : List Nat) (kind : ChanKind) (h : Keeps s0 s) : Keeps s0 (State.performReceiver s l t code rings kind) := by
  unfold State.performReceiver
  dsimp only
  split
  · apply State.engineFault_keeps
    assumption
  · with_reducible refine Keeps.updMem ?_ rfl rfl rfl ⟨rfl, rfl⟩ ?_ ?_
    · assumption
    · exact id
    · exact id

theorem State.receiverCommand_keeps {s0 s : State} (l : Fin 64) (code : Nat) (rings : List Nat) (kind : ChanKind) (h : Keeps s0 s) : Keeps s0 (State.receiverCommand s l code rings kind) := by
  unfold State.receiverCommand
  split
  · assumption
  · split
    · apply State.laneWaits_keeps
      assumption
    · apply State.performReceiver_keeps
      assumption

theorem execRingOpen_keeps {s s9 : State} {lcid : Fin 64} {ring : BitVec 10} {persist : Bool} (eq : execRingOpen lcid ring persist s = .next s9) : Keeps s s9 := by
  cases eq
  have h := Keeps.refl s
  apply State.receiverCommand_keeps
  assumption

theorem execRingClose_keeps {s s9 : State} {lcid : Fin 64} {ring : BitVec 10} (eq : execRingClose lcid ring s = .next s9) : Keeps s s9 := by
  cases eq
  have h := Keeps.refl s
  apply State.receiverCommand_keeps
  assumption

theorem execRecv_keeps {s s9 : State} {lcid : Fin 64} {rings : List Nat} {rotation : Bool} {poll : Bool} (eq : execRecv lcid rings rotation poll s = .next s9) : Keeps s s9 := by
  cases eq
  have h := Keeps.refl s
  apply State.receiverCommand_keeps
  assumption

theorem execRelease_keeps {s s9 : State} {lcid : Fin 64} {ring : BitVec 10} (eq : execRelease lcid ring s = .next s9) : Keeps s s9 := by
  cases eq
  have h := Keeps.refl s
  apply State.receiverCommand_keeps
  assumption

theorem State.tryRecv_keeps {s0 s t : State} {lcid : Nat} {k : Fin 16} {rings : List Nat} {rotation : Bool}
    (eq : s.tryRecv lcid k rings rotation = some t) (h : Keeps s0 s) : Keeps s0 t := by
  unfold State.tryRecv at eq
  dsimp only at eq
  split at eq
  · cases eq
  · split at eq
    · cases eq
    · split at eq
      · cases eq
      · cases eq
        apply State.giveResult_keeps
        apply State.modCore_keeps
        apply State.setCtx_keeps
        assumption

theorem State.tryRecv_getD_keeps {s0 s : State} {lcid : Nat} {k : Fin 16} {rings : List Nat} {rotation : Bool} (h : Keeps s0 s) :
    Keeps s0 ((s.tryRecv lcid k rings rotation).getD s) := by
  cases e : s.tryRecv lcid k rings rotation with
  | none => exact h
  | some t => exact State.tryRecv_keeps e h

theorem State.discardStalled_keeps {s0 s : State} (k : Fin 16) (closing : Nat → Bool) (h : Keeps s0 s) : Keeps s0 (State.discardStalled s k closing) := by
  unfold State.discardStalled
  refine Keeps.foldl ?_ ?_
  · intro s1 x1 h1
    split
    · split
      · apply State.giveResult_keeps
        apply State.modCore_keeps
        assumption
      · assumption
    · assumption
  · assumption

theorem State.retest_keeps {s0 s : State} (k : Fin 16) (ring : Nat) (h : Keeps s0 s) : Keeps s0 (State.retest s k ring) := by
  unfold State.retest
  refine Keeps.foldl ?_ ?_
  · intro s1 x1 h1
    apply State.modCore_keeps
    assumption
  · assumption

theorem State.chanEffect_keeps {s0 s : State} (o : ChanOp) (h : Keeps s0 s) : Keeps s0 (State.chanEffect s o) := by
  unfold State.chanEffect
  split
  · dsimp only
    apply State.giveResult_keeps
    apply State.modCtx_keeps
    apply State.discardStalled_keeps
    assumption
  · apply State.modCtx_keeps
    apply State.discardStalled_keeps
    assumption
  · apply State.retest_keeps
    apply State.modCtx_keeps
    assumption
  · split
    · refine State.tryRecv_keeps (by assumption) ?_
      assumption
    · split
      · apply State.giveResult_keeps
        assumption
      · apply State.modCore_keeps
        assumption

theorem State.chanEffects_keeps {s0 s : State} (h : Keeps s0 s) : Keeps s0 (State.chanEffects s) := by
  unfold State.chanEffects
  dsimp only
  refine Keeps.foldl ?_ ?_
  · intro s1 x1 h1
    apply State.chanEffect_keeps
    assumption
  · refine Keeps.upd ?_ rfl rfl rfl ⟨rfl, rfl⟩
    assumption

theorem State.recvRelease_keeps {s0 s : State} (l : Fin 64) (h : Keeps s0 s) : Keeps s0 (State.recvRelease s l) := by
  unfold State.recvRelease
  split
  · dsimp only
    split
    · refine State.tryRecv_getD_keeps ?_
      assumption
    · assumption
  · assumption

theorem execRecvRelease_keeps {s s9 : State} {lcid : Fin 64} (eq : execRecvRelease lcid s = .next s9) : Keeps s s9 := by
  cases eq
  have h := Keeps.refl s
  apply State.recvRelease_keeps
  assumption

theorem State.sendResult_keeps {s0 s : State} (l : Fin 64) (ac : Nat) (r : ResultBody) (h : Keeps s0 s) : Keeps s0 (State.sendResult s l ac r) := by
  unfold State.sendResult
  dsimp only
  with_reducible refine Keeps.updMem ?_ rfl rfl rfl ⟨rfl, rfl⟩ ?_ ?_
  · apply State.modCore_keeps
    assumption
  · exact id
  · exact id

theorem State.trySend_keeps {s0 s : State} (l : Fin 64) (k : Fin 16) (ac : Nat) (w : SendWait) (h : Keeps s0 s) : Keeps s0 (State.trySend s l k ac w) := by
  unfold State.trySend
  split
  · assumption
  · split
    · apply State.sendResult_keeps
      assumption
    · split
      · dsimp only
        apply State.sendResult_keeps
        with_reducible refine Keeps.updMem ?_ rfl rfl rfl ⟨rfl, rfl⟩ ?_ ?_
        · apply State.modCtx_keeps
          assumption
        · exact id
        · exact id
      · apply State.modCore_keeps
        assumption

theorem State.sendTest_keeps {s0 s : State} (l : Fin 64) (h : Keeps s0 s) : Keeps s0 (State.sendTest s l) := by
  unfold State.sendTest
  split
  · split
    · split
      · assumption
      · apply State.trySend_keeps
        assumption
    · assumption
  · assumption

theorem State.sendTests_keeps {s0 s : State} (h : Keeps s0 s) : Keeps s0 (State.sendTests s) := by
  unfold State.sendTests
  refine Keeps.foldl ?_ ?_
  · intro s1 x1 h1
    apply State.sendTest_keeps
    assumption
  · assumption

theorem State.performSend_keeps {s0 s : State} (l : Fin 64) (t : Task) (w : SendWait) (h : Keeps s0 s) : Keeps s0 (State.performSend s l t w) := by
  unfold State.performSend
  split
  · apply State.engineFault_keeps
    assumption
  · apply State.modCore_keeps
    assumption

theorem State.send_keeps {s0 s : State} (l : Fin 64) (w : SendWait) (h : Keeps s0 s) : Keeps s0 (State.send s l w) := by
  unfold State.send
  split
  · assumption
  · split
    · apply State.laneWaits_keeps
      assumption
    · apply State.performSend_keeps
      assumption

theorem State.performMark_keeps {s0 s : State} (l : Fin 64) (t : Task) (value : Nat) (trigger : Bool) (h : Keeps s0 s) : Keeps s0 (State.performMark s l t value trigger) := by
  unfold State.performMark
  with_reducible refine Keeps.updMem ?_ rfl rfl rfl ⟨rfl, rfl⟩ ?_ ?_
  · assumption
  · exact id
  · exact id

theorem State.lanePerform_keeps {s0 s : State} (l : Fin 64) (c : LaneCmd) (h : Keeps s0 s) : Keeps s0 (State.lanePerform s l c) := by
  unfold State.lanePerform
  split
  · assumption
  · split
    · apply State.laneWaits_keeps
      assumption
    · split
      · apply State.performCounter_keeps
        assumption
      · apply State.performReceiver_keeps
        assumption
      · apply State.performSend_keeps
        assumption
      · apply State.performMark_keeps
        assumption

theorem State.laneAc_keeps {s0 s : State} (l : Fin 64) (h : Keeps s0 s) : Keeps s0 (State.laneAc s l) := by
  unfold State.laneAc
  dsimp only
  split
  · assumption
  · refine Keeps.foldl ?_ ?_
    · intro s1 x1 h1
      apply State.lanePerform_keeps
      assumption
    · apply State.setCore_keeps
      assumption

theorem execSend_keeps {s s9 : State} {lcid : Fin 64} {ring : BitVec 10} {units : Nat} {tag : BitVec 8} {check : Bool} {epoch : BitVec 16} {payload : Bytes} (eq : execSend lcid ring units tag check epoch payload s = .next s9) : Keeps s s9 := by
  cases eq
  have h := Keeps.refl s
  apply State.send_keeps
  assumption

theorem State.sendAccept_keeps {s0 s : State} (l : Fin 64) (h : Keeps s0 s) : Keeps s0 (State.sendAccept s l) := by
  unfold State.sendAccept
  split
  · split
    · assumption
    · apply State.modCore_keeps
      assumption
  · assumption

theorem execSendAccept_keeps {s s9 : State} {lcid : Fin 64} (eq : execSendAccept lcid s = .next s9) : Keeps s s9 := by
  cases eq
  have h := Keeps.refl s
  apply State.sendAccept_keeps
  assumption

theorem Memory.wf_writeAc {j : WriteJob} {ac : Nat} {m : Memory} (h : m.wf) : (j.writeAc ac m).wf := by
  unfold WriteJob.writeAc
  split
  · exact Memory.wf_writeBytes h _ _
  · exact h

theorem State.writesAc_keeps {s0 s : State} (h : Keeps s0 s) : Keeps s0 (State.writesAc s) := by
  unfold State.writesAc
  split
  · exact h
  · exact Keeps.updMem h rfl rfl rfl ⟨rfl, rfl⟩ id fun w => Memory.wf_foldl (fun _ _ g => Memory.wf_writeAc g) _ w

theorem State.messageWritten_keeps {s0 s : State} (k : Fin 8) (h : Keeps s0 s) : Keeps s0 (State.messageWritten s k) := by
  unfold State.messageWritten
  split
  · assumption
  · dsimp only
    split
    · with_reducible refine Keeps.updMem ?_ rfl rfl rfl ⟨rfl, rfl⟩ ?_ ?_
      · assumption
      · exact id
      · exact id
    · split
      · apply State.modCtx_keeps
        with_reducible refine Keeps.updMem ?_ rfl rfl rfl ⟨rfl, rfl⟩ ?_ ?_
        · assumption
        · exact id
        · exact id
      · with_reducible refine Keeps.updMem ?_ rfl rfl rfl ⟨rfl, rfl⟩ ?_ ?_
        · assumption
        · exact id
        · exact id

theorem execMessageWritten_keeps {s s9 : State} {cluster : Fin 8} (eq : execMessageWritten cluster s = .next s9) : Keeps s s9 := by
  cases eq
  have h := Keeps.refl s
  apply State.messageWritten_keeps
  assumption

end Sys2Proof.Machine
end

