-- ==== Sys2Proof/Laws/KeepsConfluence.lean ====
section
/-! SUPPORT. What every operation and meaning of Machine/Confluence.lean keeps (`Keeps`). -/

namespace Sys2Proof.Machine

theorem State.rangeFault_keeps {s0 s : State} (k : Fin 16) (cluster : Nat) (i : Nat) (h : Keeps s0 s) : Keeps s0 (State.rangeFault s k cluster i) := by
  unfold State.rangeFault
  dsimp only
  apply State.faultCode_keeps
  apply State.modCtx_keeps
  assumption

theorem State.addInt_keeps {s0 s : State} (k : Fin 16) (cluster : Nat) (i : Nat) (p : Int) (h : Keeps s0 s) : Keeps s0 (State.addInt s k cluster i p) := by
  unfold State.addInt
  dsimp only
  split
  · assumption
  · split
    · apply State.modCtx_keeps
      assumption
    · apply State.rangeFault_keeps
      assumption

theorem State.writeBack_keeps {s0 s : State} (cluster : Nat) (x : AcSum) (h : Keeps s0 s) : Keeps s0 (State.writeBack s cluster x) := by
  unfold State.writeBack
  split
  · apply State.rangeFault_keeps
    assumption
  · split
    · apply State.modCtx_keeps
      assumption
    · apply State.addInt_keeps
      assumption

theorem State.addEntries_keeps {s0 s : State} (cluster : Nat) (es : List IntakeEntry) (h : Keeps s0 s) : Keeps s0 (State.addEntries s cluster es) := by
  unfold State.addEntries
  dsimp only
  refine Keeps.foldl ?_ ?_
  · intro s1 x1 h1
    apply State.writeBack_keeps
    assumption
  · refine Keeps.foldl ?_ ?_
    · intro s1 x1 h1
      apply State.modCtx_keeps
      assumption
    · refine Keeps.foldl ?_ ?_
      · intro s1 x1 h1
        split
        · apply State.modCtx_keeps
          assumption
        · assumption
      · assumption

theorem State.remoteEntry_keeps {s0 s : State} (k : Fin 16) (h1 : MsgHdr) (cluster : Nat) (index : Nat) (item : CflItem) (lcid : optParam Nat 0) (seq : optParam (Option Nat) Option.none) (h : Keeps s0 s) : Keeps s0 (State.remoteEntry s k h1 cluster index item lcid seq) := by
  unfold State.remoteEntry
  dsimp only
  split
  · apply State.modCtx_keeps
    assumption
  · split
    · split
      · split
        · apply State.faultCode_keeps
          assumption
        · refine Keeps.upd ?_ rfl rfl rfl ⟨rfl, rfl⟩
          apply State.setUnit_keeps
          assumption
      · split
        · apply State.faultCode_keeps
          assumption
        · refine Keeps.upd ?_ rfl rfl rfl ⟨rfl, rfl⟩
          apply State.setUnit_keeps
          assumption
    · split
      · split
        · apply State.faultCode_keeps
          assumption
        · refine Keeps.upd ?_ rfl rfl rfl ⟨rfl, rfl⟩
          apply State.setUnit_keeps
          assumption
      · split
        · apply State.faultCode_keeps
          assumption
        · refine Keeps.upd ?_ rfl rfl rfl ⟨rfl, rfl⟩
          apply State.setUnit_keeps
          assumption

theorem State.sendRemote_keeps {s0 s : State} (k : Fin 16) (dest : Nat) (epoch : Nat) (cluster : Nat) (es : List (Nat × CflItem)) (h : Keeps s0 s) : Keeps s0 (State.sendRemote s k dest epoch cluster es) := by
  unfold State.sendRemote
  dsimp only
  split
  · refine Keeps.foldl ?_ ?_
    · intro s1 x1 h1
      apply State.remoteEntry_keeps
      assumption
    · assumption
  · apply State.sendMsg_keeps
    assumption

theorem State.forward_keeps {s0 s : State} (g : List IntakeEntry) (h : Keeps s0 s) : Keeps s0 (State.forward s g) := by
  unfold State.forward
  split
  · assumption
  · split
    · refine Keeps.foldl ?_ ?_
      · intro s1 x1 h1
        apply State.remoteEntry_keeps
        assumption
      · assumption
    · apply State.sendRemote_keeps
      assumption

theorem State.takeEntries_keeps {s0 s : State} (cluster : Nat) (fromLocal : List IntakeEntry) (fromRemote : List IntakeEntry) (h : Keeps s0 s) : Keeps s0 (State.takeEntries s cluster fromLocal fromRemote) := by
  unfold State.takeEntries
  dsimp only
  apply State.addEntries_keeps
  refine Keeps.foldl ?_ ?_
  · intro s1 x1 h1
    apply State.forward_keeps
    assumption
  · assumption

theorem State.acceptCore_keeps {s0 s : State} (k : Fin 8) (l : Fin 64) (h : Keeps s0 s) : Keeps s0 (State.acceptCore s k l) := by
  unfold State.acceptCore
  dsimp only
  split
  · split
    · assumption
    · apply State.setCore_keeps
      apply State.setUnit_keeps
      assumption
  · assumption

theorem State.discardOffers_keeps {s0 s : State} (l : Fin 64) (h : Keeps s0 s) : Keeps s0 (State.discardOffers s l) := by
  unfold State.discardOffers
  dsimp only
  split
  · split
    · assumption
    · apply State.modCtx_keeps
      apply State.setCore_keeps
      assumption
  · assumption

theorem State.offerPairs_keeps {s0 s : State} (l : Fin 64) (pairs : List (BitVec 128)) (h : Keeps s0 s) : Keeps s0 (State.offerPairs s l pairs) := by
  unfold State.offerPairs
  split
  · assumption
  · dsimp only
    split
    · apply State.modCore_keeps
      assumption
    · apply State.engineFault_keeps
      apply State.modCore_keeps
      assumption

theorem execPairRecord_keeps {s s9 : State} {lcid : Fin 64} {pairs : List (BitVec 128)} (eq : execPairRecord lcid pairs s = .next s9) : Keeps s s9 := by
  cases eq
  have h := Keeps.refl s
  apply State.offerPairs_keeps
  assumption

theorem State.cflCommand_keeps {s0 s : State} (l : Fin 64) (code : Nat) (first : Nat) (count : Nat) (op : CflOp) (h : Keeps s0 s) : Keeps s0 (State.cflCommand s l code first count op) := by
  unfold State.cflCommand
  split
  · assumption
  · split
    · apply State.engineFault_keeps
      assumption
    · dsimp only
      apply State.setUnit_keeps
      assumption

theorem execCflDrain_keeps {s s9 : State} {lcid : Fin 64} {first : Nat} {count : Nat} {format : Nat} {dest : Nat} {clear : Bool} (eq : execCflDrain lcid first count format dest clear s = .next s9) : Keeps s s9 := by
  cases eq
  have h := Keeps.refl s
  apply State.cflCommand_keeps
  assumption

theorem execCflExport_keeps {s s9 : State} {lcid : Fin 64} {first : Nat} {count : Nat} {dest : BitVec 32} {cluster : Nat} {destFirst : Nat} {clear : Bool} (eq : execCflExport lcid first count dest cluster destFirst clear s = .next s9) : Keeps s s9 := by
  cases eq
  have h := Keeps.refl s
  apply State.cflCommand_keeps
  assumption

theorem execCflClear_keeps {s s9 : State} {lcid : Fin 64} {first : Nat} {count : Nat} (eq : execCflClear lcid first count s = .next s9) : Keeps s s9 := by
  cases eq
  have h := Keeps.refl s
  apply State.cflCommand_keeps
  assumption

theorem State.exportElements_keeps {s0 s : State} (k : Fin 16) (dest : Nat) (epoch : Nat) (cluster : Nat) (fast : Bool) (first : Nat) (words : List (BitVec 256)) (h : Keeps s0 s) : Keeps s0 (State.exportElements s k dest epoch cluster fast first words) := by
  unfold State.exportElements
  dsimp only
  refine Keeps.foldl ?_ ?_
  · intro s1 x1 h1
    apply State.sendRemote_keeps
    assumption
  · assumption

theorem State.cflPart_keeps {s0 s : State} (cluster : Nat) (m : CflCmd) (h : Keeps s0 s) : Keeps s0 (State.cflPart s cluster m) := by
  unfold State.cflPart
  dsimp only
  split
  · apply State.modCtx_keeps
    assumption
  · with_reducible refine Keeps.updMem ?_ rfl rfl rfl ⟨rfl, rfl⟩ ?_ ?_
    · split
      · apply State.modCtx_keeps
        apply State.modCtx_keeps
        assumption
      · apply State.modCtx_keeps
        assumption
    · exact id
    · intro hw
      apply Memory.wf_writeBytes
      assumption
  · apply State.exportElements_keeps
    split
    · apply State.modCtx_keeps
      assumption
    · assumption

theorem State.cflRun_keeps {s0 s : State} (k : Fin 8) (h : Keeps s0 s) : Keeps s0 (State.cflRun s k) := by
  unfold State.cflRun
  dsimp only
  split
  · assumption
  · split
    · apply State.giveResult_keeps
      apply State.setUnit_keeps
      apply State.cflPart_keeps
      assumption
    · apply State.setUnit_keeps
      apply State.cflPart_keeps
      assumption

theorem State.cflStart_keeps {s0 s : State} (k : Fin 8) (h : Keeps s0 s) : Keeps s0 (State.cflStart s k) := by
  unfold State.cflStart
  dsimp only
  split
  · assumption
  · split
    · apply State.modCtx_keeps
      apply State.setUnit_keeps
      assumption
    · assumption

theorem State.scrubStart_keeps {s0 s : State} (k : Fin 8) (h : Keeps s0 s) : Keeps s0 (State.scrubStart s k) := by
  unfold State.scrubStart
  dsimp only
  split
  · assumption
  · split
    · apply State.modCtx_keeps
      apply State.setUnit_keeps
      assumption
    · assumption

theorem State.cflIssue_keeps {s0 s : State} (k : Fin 8) (h : Keeps s0 s) : Keeps s0 (State.cflIssue s k) := by
  unfold State.cflIssue
  dsimp only
  split
  · assumption
  · apply State.setUnit_keeps
    assumption

theorem State.cflWork_keeps {s0 s : State} (k : Fin 8) (h : Keeps s0 s) : Keeps s0 (State.cflWork s k) := by
  unfold State.cflWork
  dsimp only
  split
  · assumption
  · apply State.setUnit_keeps
    split
    · apply State.takeEntries_keeps
      apply State.setUnit_keeps
      assumption
    · refine Keeps.foldl ?_ ?_
      · intro s1 x1 h1
        apply State.acceptCore_keeps
        assumption
      · apply State.takeEntries_keeps
        apply State.setUnit_keeps
        assumption

theorem State.cflAc_keeps {s0 s : State} (k : Fin 8) (h : Keeps s0 s) : Keeps s0 (State.cflAc s k) := by
  unfold State.cflAc
  split
  · assumption
  · dsimp only
    apply State.cflIssue_keeps
    apply State.cflWork_keeps
    apply State.cflRun_keeps
    apply State.cflStart_keeps
    apply State.scrubStart_keeps
    refine Keeps.foldl ?_ ?_
    · intro s1 x1 h1
      apply State.discardOffers_keeps
      assumption
    · assumption

end Sys2Proof.Machine
end

