-- ==== Sys2Proof/Laws/KeepsClock.lean ====
section
/-! SUPPORT. What every operation and meaning of Machine/Clock.lean keeps (`Keeps`). -/

namespace Sys2Proof.Machine

theorem State.countWeirs_keeps {s0 s : State} (n : Nat) (h : Keeps s0 s) : Keeps s0 (State.countWeirs s n) := by
  unfold State.countWeirs
  split
  · refine Keeps.upd ?_ rfl rfl rfl ⟨rfl, rfl⟩
    assumption
  · assumption

theorem State.pass_keeps {s0 s : State} (n : Nat) (h : Keeps s0 s) : Keeps s0 (State.pass s n) := by
  unfold State.pass
  dsimp only
  with_reducible refine Keeps.updTo ?_ ?_ ?_ ?_ ?_
  · apply State.countWeirs_keeps
    assumption
  · exact id
  · exact Nat.le_add_right _ _
  · exact id
  · exact fun _ => ⟨rfl, rfl⟩

theorem State.countCfl_keeps {s0 s : State} (k : Fin 8) (n : Nat) (h : Keeps s0 s) : Keeps s0 (State.countCfl s k n) := by
  unfold State.countCfl
  split
  · refine Keeps.upd ?_ rfl rfl rfl ⟨rfl, rfl⟩
    assumption
  · assumption

theorem State.cflAcCounted_keeps {s0 s : State} (k : Fin 8) (h : Keeps s0 s) : Keeps s0 (State.cflAcCounted s k) := by
  unfold State.cflAcCounted
  dsimp only
  apply State.countCfl_keeps
  apply State.cflAc_keeps
  assumption

theorem State.traceAc_keeps {s0 s : State} (k : Fin 16) (h : Keeps s0 s) : Keeps s0 (State.traceAc s k) := by
  unfold State.traceAc
  dsimp only
  split
  · assumption
  · apply State.setCtx_keeps
    with_reducible refine Keeps.updMem ?_ rfl rfl rfl ⟨rfl, rfl⟩ ?_ ?_
    · assumption
    · exact id
    · intro hw
      refine Memory.wf_foldl ?_ _ ?_
      · intro m1 x1 hm
        apply Memory.wf_write
        assumption
      · assumption

theorem State.markEffect_keeps {s0 s : State} (o : CntOp) (h : Keeps s0 s) : Keeps s0 (State.markEffect s o) := by
  unfold State.markEffect
  split
  · dsimp only
    split
    · split
      · apply State.trigger_keeps
        apply State.setCtx_keeps
        assumption
      · apply State.setCtx_keeps
        assumption
    · assumption
  · assumption

theorem State.markEffects_keeps {s0 s : State} (h : Keeps s0 s) : Keeps s0 (State.markEffects s) := by
  unfold State.markEffects
  dsimp only
  split
  · assumption
  · refine Keeps.foldl ?_ ?_
    · intro s1 x1 h1
      apply State.markEffect_keeps
      assumption
    · refine Keeps.upd ?_ rfl rfl rfl ⟨rfl, rfl⟩
      assumption

theorem State.work_keeps {s0 s : State} (h : Keeps s0 s) : Keeps s0 (State.work s) := by
  unfold State.work
  dsimp only
  refine Keeps.foldl ?_ ?_
  · intro s1 x1 h1
    apply State.cflAcCounted_keeps
    assumption
  · refine Keeps.foldl ?_ ?_
    · intro s1 x1 h1
      apply State.traceAc_keeps
      assumption
    · refine Keeps.foldl ?_ ?_
      · intro s1 x1 h1
        apply State.resolveCounters_keeps
        assumption
      · apply State.inletAc_keeps
        apply State.markEffects_keeps
        apply State.sendRipples_keeps
        apply State.writesAc_keeps
        apply State.chanEffects_keeps
        refine Keeps.foldl ?_ ?_
        · intro s1 x1 h1
          apply State.sendWaiting_keeps
          assumption
        · apply State.acceptHeld_keeps
          refine Keeps.foldl ?_ ?_
          · intro s1 x1 h1
            apply State.laneAc_keeps
            assumption
          · apply State.sendTests_keeps
            assumption

theorem State.advance_keeps {s0 s : State} (n : Nat) (h : Keeps s0 s) : Keeps s0 (State.advance s n) := by
  induction n generalizing s with
  | zero => exact h
  | succ n ih =>
    unfold State.advance
    split
    · apply State.pass_keeps
      assumption
    · refine ih ?_
      apply State.work_keeps
      apply State.pass_keeps
      assumption

theorem State.tick1_keeps {s0 s : State} (h : Keeps s0 s) : Keeps s0 (State.tick1 s) := by
  unfold State.tick1
  split
  · assumption
  · apply State.work_keeps
    apply State.pass_keeps
    assumption

theorem State.waitFor_keeps {s0 s : State} (p : State → Bool) (n : Nat) (h : Keeps s0 s) : Keeps s0 (State.waitFor p n s) := by
  induction n generalizing s with
  | zero => exact h
  | succ n ih =>
    unfold State.waitFor
    split
    · exact h
    · exact ih (State.work_keeps (State.pass_keeps _ h))

theorem State.waitHere_keeps {s0 s : State} (p : State → Bool) (h : Keeps s0 s) : Keeps s0 (State.waitHere s p) := by
  unfold State.waitHere
  split
  · exact State.waitFor_keeps p _ h
  · exact h

theorem State.cflBegin_keeps {s0 s : State} (k : Fin 8) (h : Keeps s0 s) : Keeps s0 (State.cflBegin s k) := by
  unfold State.cflBegin
  dsimp only
  split
  · assumption
  · apply State.waitHere_keeps
    assumption

theorem execCflCommandBegin_keeps {s s9 : State} {cluster : Fin 8} (eq : execCflCommandBegin cluster s = .next s9) : Keeps s s9 := by
  cases eq
  have h := Keeps.refl s
  apply State.cflBegin_keeps
  assumption

theorem State.cflScrub_keeps {s0 s : State} (k : Fin 8) (h : Keeps s0 s) : Keeps s0 (State.cflScrub s k) := by
  unfold State.cflScrub
  split
  · assumption
  · apply State.waitHere_keeps
    assumption

theorem execConfluenceScrub_keeps {s s9 : State} {cluster : Fin 8} (eq : execConfluenceScrub cluster s = .next s9) : Keeps s s9 := by
  cases eq
  have h := Keeps.refl s
  apply State.cflScrub_keeps
  assumption

theorem State.serve_keeps {s0 s : State} (p : Fin 64) (h : Keeps s0 s) : Keeps s0 (State.serve s p) := by
  unfold State.serve
  dsimp only
  apply State.setPage_keeps
  split
  · apply State.tick1_keeps
    assumption
  · assumption

theorem State.runOut_keeps {s0 s : State} (h : Keeps s0 s) : Keeps s0 (State.runOut s) := by
  unfold State.runOut
  split
  · apply State.advance_keeps
    assumption
  · assumption

theorem State.newSlot_keeps {s0 s : State} (slot : Nat) (margin : Bool) (stretch : List Nat) (h : Keeps s0 s) : Keeps s0 (State.newSlot s slot margin stretch) := by
  unfold State.newSlot
  dsimp only
  with_reducible refine Keeps.updTo ?_ ?_ ?_ ?_ ?_
  · apply State.countWeirs_keeps
    assumption
  · exact id
  · exact Nat.le_add_right _ _
  · exact id
  · exact fun _ => ⟨rfl, rfl⟩

theorem State.gap_keeps {s0 s : State} (first : Nat) (last : Nat) (elapsed : Nat) (h : Keeps s0 s) : Keeps s0 (State.gap s first last elapsed) := by
  unfold State.gap
  dsimp only
  split
  · apply State.log_keeps
    refine Keeps.foldl ?_ ?_
    · intro s1 x1 h1
      apply State.modCtx_keeps
      assumption
    · assumption
  · refine Keeps.foldl ?_ ?_
    · intro s1 x1 h1
      apply State.modCtx_keeps
      assumption
    · assumption

theorem State.gapDue_keeps {s0 s : State} (h : Keeps s0 s) : Keeps s0 (State.gapDue s) := by
  unfold State.gapDue
  split
  · assumption
  · apply State.gap_keeps
    with_reducible refine Keeps.updMem ?_ rfl rfl rfl ⟨rfl, rfl⟩ ?_ ?_
    · assumption
    · exact id
    · exact id

end Sys2Proof.Machine
end

