-- ==== Sys2Proof/Laws/KeepsSequencer.lean ====
section
/-! SUPPORT. What every operation and meaning of Machine/Sequencer.lean keeps (`Keeps`). -/

namespace Sys2Proof.Machine

theorem State.taskFault_keeps {s0 s : State} (t : Task) (core : Nat) (code : Nat) (d1 : Nat) (d2 : Nat) (status : EndStatus) (h : Keeps s0 s) : Keeps s0 (State.taskFault s t core code d1 d2 status) := by
  unfold State.taskFault
  apply State.fault_keeps
  assumption

theorem State.descriptorFault_keeps {s0 s : State} (t : Task) (h : Keeps s0 s) : Keeps s0 (State.descriptorFault s t) := by
  unfold State.descriptorFault
  apply State.taskFault_keeps
  assumption

theorem State.completeNode_keeps {s0 s : State} (k : Fin 16) (step : Nat) (n : Nat) (h : Keeps s0 s) : Keeps s0 (State.completeNode s k step n) := by
  unfold State.completeNode
  apply State.modCtx_keeps
  assumption

theorem State.resolveNode.finish_keeps {s0 s : State} (k : Fin 16) (step : Nat) (n : Nat) (r : StepRun) (count : Nat) (h : Keeps s0 s) : Keeps s0 (State.resolveNode.finish k step n s r count) := by
  unfold State.resolveNode.finish
  dsimp only
  split
  · apply State.completeNode_keeps
    apply State.modCtx_keeps
    assumption
  · apply State.modCtx_keeps
    assumption

theorem State.resolveNode_keeps {s0 s : State} (k : Fin 16) (step : Nat) (n : Nat) (h : Keeps s0 s) : Keeps s0 (State.resolveNode s k step n) := by
  unfold State.resolveNode
  dsimp only
  split
  · assumption
  · split
    · apply State.taskFault_keeps
      assumption
    · split
      · split
        · apply State.taskFault_keeps
          assumption
        · apply State.resolveNode.finish_keeps
          assumption
      · apply State.resolveNode.finish_keeps
        assumption

theorem State.admitClaim_keeps {s0 s : State} (k : Fin 16) (x : Claim) (h : Keeps s0 s) : Keeps s0 (State.admitClaim s k x) := by
  cases x with
  | node step n => exact State.resolveNode_keeps k step n h
  | aux i =>
    unfold State.admitClaim
    exact State.modCtx_keeps _ _ h

theorem State.resolve_keeps {s0 s : State} (k : Fin 16) (h : Keeps s0 s) : Keeps s0 (State.resolve s k) := by
  unfold State.resolve
  split
  · assumption
  · dsimp only
    apply State.peak_keeps
    apply State.modCtx_keeps
    split
    · assumption
    · refine Keeps.foldl ?_ ?_
      · intro s1 x1 h1
        split
        · apply State.admitClaim_keeps
          assumption
        · assumption
      · assumption

theorem State.place_keeps {s0 s : State} (t : Task) (n : Nat) (h : Keeps s0 s) : Keeps s0 (State.place s t n) := by
  unfold State.place
  dsimp only
  refine Keeps.upd ?_ rfl rfl rfl ⟨rfl, rfl⟩
  apply State.modCtx_keeps
  split
  · split
    · apply State.setFrame_keeps
      assumption
    · assumption
  · apply State.modCore_keeps
    assumption

theorem Sweep.placed_keeps {s0 : State} {acc : Sweep} (t : Task) (n : Nat) (h : Keeps s0 acc.s) : Keeps s0 (Sweep.placed acc t n).s := by
  unfold Sweep.placed
  split
  · dsimp only
    apply State.place_keeps
    assumption
  · dsimp only
    apply State.place_keeps
    assumption

theorem Sweep.indices_keeps {s0 : State} {w : Sweep} (k : Fin 16) (step n : Nat) (l : List Nat) (h : Keeps s0 w.s) :
    Keeps s0 (Sweep.indices k step n w l).s := by
  induction l generalizing w with
  | nil => exact h
  | cons i is ih =>
    unfold Sweep.indices
    dsimp only
    split
    · assumption
    · split
      · dsimp only
        apply State.descriptorFault_keeps
        assumption
      · split
        · assumption
        · split
          · refine ih ?_
            assumption
          · split
            · assumption
            · refine ih ?_
              dsimp only
              apply State.modCtx_keeps
              apply Sweep.placed_keeps
              assumption

theorem Sweep.entry_keeps {s0 : State} {acc : Sweep} (k : Fin 16) (x : Claim) (h : Keeps s0 acc.s) : Keeps s0 (Sweep.entry k acc x).s := by
  unfold Sweep.entry
  split
  · dsimp only
    split
    · assumption
    · split
      · assumption
      · apply Sweep.indices_keeps
        split
        · dsimp only
          apply State.modCtx_keeps
          assumption
        · assumption
  · dsimp only
    split
    · assumption
    · split
      · assumption
      · dsimp only
        apply State.modCtx_keeps
        apply Sweep.placed_keeps
        assumption

theorem State.moveEntry_keeps {s0 s : State} (k : Fin 16) (idle : Nat) (l : Nat) (e : PondEntry) (h : Keeps s0 s) : Keeps s0 (State.moveEntry s k idle l e) := by
  unfold State.moveEntry
  dsimp only
  refine Keeps.upd ?_ rfl rfl rfl ⟨rfl, rfl⟩
  apply State.modCtx_keeps
  apply State.modCore_keeps
  apply State.modCore_keeps
  assumption

theorem State.balance_keeps {s0 s : State} (k : Fin 16) (taken : List Nat) (h : Keeps s0 s) : Keeps s0 (State.balance s k taken) := by
  unfold State.balance
  dsimp only
  split
  · assumption
  · refine Keeps.foldl_fst ?_ ?_
    · intro a1 x1 h1
      split
      · dsimp only
        apply State.moveEntry_keeps
        assumption
      · assumption
    · assumption

theorem Sweep.fold_keeps {s0 : State} (k : Fin 16) (xs : List (Nat × Claim)) {w : Sweep} (h : Keeps s0 w.s) :
    Keeps s0 (xs.foldl (fun w x => if w.s.works k then Sweep.entry k w x.2 else w) w).s := by
  refine Keeps.foldl_of Sweep.s ?_ h
  intro a x g
  split
  · exact Sweep.entry_keeps k x.2 g
  · exact g

theorem State.sweep_keeps {s0 s : State} (k : Fin 16) (h : Keeps s0 s) : Keeps s0 (State.sweep s k) := by
  unfold State.sweep
  split
  · exact h
  · dsimp only
    split
    · exact State.balance_keeps _ _ (State.modCtx_keeps _ _ (Sweep.fold_keeps k _ h))
    · exact State.modCtx_keeps _ _ (Sweep.fold_keeps k _ h)

theorem State.crcResult_keeps {s0 s : State} (l : Fin 64) (second : Bool) (ok : Bool) (crc : BitVec 32) (h : Keeps s0 s) : Keeps s0 (State.crcResult s l second ok crc) := by
  unfold State.crcResult
  dsimp only
  split
  · split
    · assumption
    · split
      · apply State.setCore_keeps
        assumption
      · apply State.taskFault_keeps
        apply State.setCore_keeps
        assumption
  · split
    · assumption
    · split
      · apply State.setCore_keeps
        assumption
      · apply State.taskFault_keeps
        apply State.setCore_keeps
        assumption

theorem execPondCrcResult_keeps {s s9 : State} {lcid : Fin 64} {entry : Bool} {ok : Bool} {crc : BitVec 32} (eq : execPondCrcResult lcid entry ok crc s = .next s9) : Keeps s s9 := by
  cases eq
  have h := Keeps.refl s
  apply State.crcResult_keeps
  assumption

theorem State.taskReport_keeps {s0 s : State} (l : Fin 64) (r : EndReport) (h : Keeps s0 s) : Keeps s0 (State.taskReport s l r) := by
  unfold State.taskReport
  dsimp only
  apply State.modCore_keeps
  assumption

theorem execTaskEnd_keeps {s s9 : State} {lcid : Fin 64} {r : EndReport} (eq : execTaskEnd lcid r s = .next s9) : Keeps s s9 := by
  cases eq
  have h := Keeps.refl s
  apply State.taskReport_keeps
  assumption

theorem State.windowClose_keeps {s0 s : State} (l : Fin 64) (h : Keeps s0 s) : Keeps s0 (State.windowClose s l) := by
  unfold State.windowClose
  split
  · assumption
  · split
    · assumption
    · dsimp only
      apply State.modCore_keeps
      with_reducible refine Keeps.updMem ?_ rfl rfl rfl ⟨rfl, rfl⟩ ?_ ?_
      · apply State.sendTests_keeps
        assumption
      · exact id
      · exact id

theorem execWindowClose_keeps {s s9 : State} {lcid : Fin 64} (eq : execWindowClose lcid s = .next s9) : Keeps s s9 := by
  cases eq
  have h := Keeps.refl s
  apply State.windowClose_keeps
  assumption

theorem State.flushCore_keeps {s0 s : State} (l : Fin 64) (p : Task → Bool) (back : Bool) (h : Keeps s0 s) : Keeps s0 (State.flushCore s l p back) := by
  unfold State.flushCore
  dsimp only
  apply State.modCore_keeps
  split
  · split
    · apply State.modCtx_keeps
      split
      · apply State.modCtx_keeps
        assumption
      · assumption
    · apply State.modCtx_keeps
      split
      · apply State.modCtx_keeps
        assumption
      · assumption
  · split
    · split
      · apply State.modCtx_keeps
        assumption
      · apply State.modCtx_keeps
        assumption
    · assumption

theorem State.park_keeps {s0 s : State} (k : Fin 16) (h : Keeps s0 s) : Keeps s0 (State.park s k) := by
  unfold State.park
  dsimp only
  apply State.modCtx_keeps
  with_reducible refine Keeps.updMem ?_ rfl rfl rfl ⟨rfl, rfl⟩ ?_ ?_
  · assumption
  · exact id
  · exact id

theorem State.reload_keeps {s0 s : State} (k : Fin 16) (h : Keeps s0 s) : Keeps s0 (State.reload s k) := by
  unfold State.reload
  dsimp only
  apply State.modCtx_keeps
  refine Keeps.foldl ?_ ?_
  · intro s1 x1 h1
    apply State.modCore_keeps
    assumption
  · assumption

theorem State.flush_keeps {s0 s : State} (k : Fin 16) (p : Task → Bool) (back : Bool) (h : Keeps s0 s) : Keeps s0 (State.flush s k p back) := by
  unfold State.flush
  refine Keeps.foldl ?_ ?_
  · intro s1 x1 h1
    apply State.flushCore_keeps
    assumption
  · apply State.reload_keeps
    assumption

theorem State.assertStart_keeps {s0 s : State} (l : Fin 64) (order : Nat) (h : Keeps s0 s) : Keeps s0 (State.assertStart s l order) := by
  unfold State.assertStart
  apply State.modCore_keeps
  assumption

theorem State.decideStarts_keeps {s0 s : State} (ilimit : Bool) (k : Fin 16) (h : Keeps s0 s) : Keeps s0 (State.decideStarts s ilimit k) := by
  unfold State.decideStarts
  split
  · assumption
  · dsimp only
    split
    · split
      · split
        · refine Keeps.upd ?_ rfl rfl rfl ⟨rfl, rfl⟩
          apply State.modCtx_keeps
          refine Keeps.foldl ?_ ?_
          · intro s1 x1 h1
            apply State.assertStart_keeps
            assumption
          · assumption
        · apply State.modCtx_keeps
          refine Keeps.foldl ?_ ?_
          · intro s1 x1 h1
            apply State.assertStart_keeps
            assumption
          · assumption
      · split
        · refine Keeps.upd ?_ rfl rfl rfl ⟨rfl, rfl⟩
          apply State.modCtx_keeps
          refine Keeps.foldl ?_ ?_
          · intro s1 x1 h1
            apply State.assertStart_keeps
            assumption
          · assumption
        · apply State.modCtx_keeps
          refine Keeps.foldl ?_ ?_
          · intro s1 x1 h1
            apply State.assertStart_keeps
            assumption
          · assumption
    · split
      · split
        · refine Keeps.upd ?_ rfl rfl rfl ⟨rfl, rfl⟩
          apply State.modCtx_keeps
          refine Keeps.foldl ?_ ?_
          · intro s1 x1 h1
            apply State.assertStart_keeps
            assumption
          · assumption
        · apply State.modCtx_keeps
          refine Keeps.foldl ?_ ?_
          · intro s1 x1 h1
            apply State.assertStart_keeps
            assumption
          · assumption
      · split
        · refine Keeps.upd ?_ rfl rfl rfl ⟨rfl, rfl⟩
          apply State.modCtx_keeps
          refine Keeps.foldl ?_ ?_
          · intro s1 x1 h1
            apply State.assertStart_keeps
            assumption
          · assumption
        · apply State.modCtx_keeps
          refine Keeps.foldl ?_ ?_
          · intro s1 x1 h1
            apply State.assertStart_keeps
            assumption
          · assumption

theorem State.startDecision_keeps {s0 s : State} (ilimit : Bool) (rails : Bool) (h : Keeps s0 s) : Keeps s0 (State.startDecision s ilimit rails) := by
  unfold State.startDecision
  split
  · assumption
  · dsimp only
    split
    · apply State.fence_keeps
      apply State.advance_keeps
      apply State.advance_keeps
      assumption
    · refine Keeps.foldl ?_ ?_
      · intro s1 x1 h1
        apply State.decideStarts_keeps
        assumption
      · with_reducible refine Keeps.updMem ?_ rfl rfl rfl ⟨rfl, rfl⟩ ?_ ?_
        · split
          · apply State.raise_keeps
            with_reducible refine Keeps.updMem ?_ rfl rfl rfl ⟨rfl, rfl⟩ ?_ ?_
            · apply State.advance_keeps
              assumption
            · exact id
            · exact id
          · apply State.advance_keeps
            assumption
        · exact id
        · exact id

theorem execStartDecision_keeps {s s9 : State} {ilimit : Bool} {railsAgree : Bool} (eq : execStartDecision ilimit railsAgree s = .next s9) : Keeps s s9 := by
  cases eq
  have h := Keeps.refl s
  apply State.startDecision_keeps
  assumption

theorem State.startEntry_keeps {s0 s : State} (l : Fin 64) (h : Keeps s0 s) : Keeps s0 (State.startEntry s l) := by
  unfold State.startEntry
  dsimp only
  split
  · assumption
  · apply State.modCtx_keeps
    apply State.setCore_keeps
    assumption

theorem State.startAll_keeps {s0 s : State} (h : Keeps s0 s) : Keeps s0 (State.startAll s) := by
  unfold State.startAll
  refine Keeps.foldl ?_ ?_
  · intro s1 x1 h1
    dsimp only
    split
    · assumption
    · apply State.startEntry_keeps
      assumption
  · assumption

end Sys2Proof.Machine
end

