-- ==== Sys2Proof/Laws/KeepsThreads.lean ====
section
/-! SUPPORT. What every operation and meaning of Machine/Threads.lean keeps (`Keeps`). -/

namespace Sys2Proof.Machine

theorem State.haltContext_keeps {s0 s : State} (k : Fin 16) (cause : Nat) (bp : Nat) (ctid : Nat) (ids : optParam (Nat × Nat) (65535, 65535)) (h : Keeps s0 s) : Keeps s0 (State.haltContext s k cause bp ctid ids) := by
  unfold State.haltContext
  split
  · assumption
  · dsimp only
    split
    · split
      · split
        · apply State.sendCtrl_keeps
          apply State.trigger_keeps
          apply State.park_keeps
          apply State.haltCores_keeps
          apply State.modCtx_keeps
          assumption
        · apply State.trigger_keeps
          apply State.park_keeps
          apply State.haltCores_keeps
          apply State.modCtx_keeps
          assumption
      · split
        · apply State.sendCtrl_keeps
          apply State.trigger_keeps
          apply State.raise_keeps
          apply State.park_keeps
          apply State.haltCores_keeps
          apply State.modCtx_keeps
          assumption
        · apply State.trigger_keeps
          apply State.raise_keeps
          apply State.park_keeps
          apply State.haltCores_keeps
          apply State.modCtx_keeps
          assumption
    · split
      · split
        · apply State.sendCtrl_keeps
          apply State.park_keeps
          apply State.haltCores_keeps
          apply State.modCtx_keeps
          assumption
        · apply State.park_keeps
          apply State.haltCores_keeps
          apply State.modCtx_keeps
          assumption
      · split
        · apply State.sendCtrl_keeps
          apply State.raise_keeps
          apply State.park_keeps
          apply State.haltCores_keeps
          apply State.modCtx_keeps
          assumption
        · apply State.raise_keeps
          apply State.park_keeps
          apply State.haltCores_keeps
          apply State.modCtx_keeps
          assumption

theorem State.threadCommand_keeps {s0 s : State} (c : Fin 8) (m : ThreadCmd) (h : Keeps s0 s) : Keeps s0 (State.threadCommand s c m) := by
  unfold State.threadCommand
  split
  · assumption
  · dsimp only
    split
    · apply State.modCtx_keeps
      apply State.setFrame_keeps
      assumption
    · assumption

theorem execSetFlags_keeps {s s9 : State} {ctid : Fin 8} {nextStep : Bool} {node : Nat} {flags : BitVec 32} (eq : execSetFlags ctid nextStep node flags s = .next s9) : Keeps s s9 := by
  cases eq
  have h := Keeps.refl s
  apply State.threadCommand_keeps
  assumption

theorem execWaitFlags_keeps {s s9 : State} {ctid : Fin 8} {mask : BitVec 24} {any : Bool} (eq : execWaitFlags ctid mask any s = .next s9) : Keeps s s9 := by
  cases eq
  have h := Keeps.refl s
  apply State.threadCommand_keeps
  assumption

theorem execWaitCounter_keeps {s s9 : State} {ctid : Fin 8} {vid : BitVec 20} {target : BitVec 48} (eq : execWaitCounter ctid vid target s = .next s9) : Keeps s s9 := by
  cases eq
  have h := Keeps.refl s
  apply State.threadCommand_keeps
  assumption

theorem execYield_keeps {s s9 : State} {ctid : Fin 8} (eq : execYield ctid s = .next s9) : Keeps s s9 := by
  cases eq
  have h := Keeps.refl s
  apply State.threadCommand_keeps
  assumption

theorem execEndThread_keeps {s s9 : State} {ctid : Fin 8} {status : BitVec 8} (eq : execEndThread ctid status s = .next s9) : Keeps s s9 := by
  cases eq
  have h := Keeps.refl s
  apply State.threadCommand_keeps
  assumption

theorem execBreakThread_keeps {s s9 : State} {ctid : Fin 8} {id : BitVec 8} (eq : execBreakThread ctid id s = .next s9) : Keeps s s9 := by
  cases eq
  have h := Keeps.refl s
  apply State.threadCommand_keeps
  assumption

theorem execReservedThreadCommand_keeps {s s9 : State} {ctid : Fin 8} {code : BitVec 4} (eq : execReservedThreadCommand ctid code s = .next s9) : Keeps s s9 := by
  cases eq
  have h := Keeps.refl s
  apply State.threadCommand_keeps
  assumption

theorem State.instanceEnded_keeps {s0 s : State} (k : Fin 16) (t : Task) (h : Keeps s0 s) : Keeps s0 (State.instanceEnded s k t) := by
  unfold State.instanceEnded
  dsimp only
  split
  · assumption
  · split
    · assumption
    · split
      · apply State.completeNode_keeps
        apply State.modCtx_keeps
        assumption
      · apply State.modCtx_keeps
        assumption

theorem State.freeThread_keeps {s0 s : State} (c : Fin 8) (f : Fin 8) (t : Task) (h : Keeps s0 s) : Keeps s0 (State.freeThread s c f t) := by
  unfold State.freeThread
  apply State.modCtx_keeps
  apply State.setFrame_keeps
  assumption

theorem State.threadFault_keeps {s0 s : State} (c : Fin 8) (f : Fin 8) (code : Nat) (status : Nat) (h : Keeps s0 s) : Keeps s0 (State.threadFault s c f code status) := by
  unfold State.threadFault
  dsimp only
  apply State.taskFault_keeps
  apply State.modCtx_keeps
  apply State.freeThread_keeps
  assumption

theorem State.threadEffect_keeps {s0 s : State} (c : Fin 8) (f : Fin 8) (m : ThreadCmd) (h : Keeps s0 s) : Keeps s0 (State.threadEffect s c f m) := by
  unfold State.threadEffect
  dsimp only
  split
  · assumption
  · split
    · split
      · apply State.threadFault_keeps
        assumption
      · apply State.modCtx_keeps
        assumption
    · apply State.setFrame_keeps
      assumption
    · split
      · apply State.threadFault_keeps
        assumption
      · apply State.setFrame_keeps
        assumption
    · apply State.setFrame_keeps
      assumption
    · split
      · apply State.instanceEnded_keeps
        apply State.modCtx_keeps
        apply State.freeThread_keeps
        assumption
      · apply State.threadFault_keeps
        assumption
    · apply State.haltContext_keeps
      assumption
    · apply State.threadFault_keeps
      assumption

theorem State.frameEffects_keeps {s0 s : State} (c : Fin 8) (f : Fin 8) (h : Keeps s0 s) : Keeps s0 (State.frameEffects s c f) := by
  unfold State.frameEffects
  dsimp only
  split
  · assumption
  · apply State.setFrame_keeps
    refine Keeps.foldl ?_ ?_
    · intro s1 x1 h1
      apply State.threadEffect_keeps
      assumption
    · assumption

theorem State.threadCommands_keeps {s0 s : State} (h : Keeps s0 s) : Keeps s0 (State.threadCommands s) := by
  unfold State.threadCommands
  refine Keeps.foldl ?_ ?_
  · intro s1 x1 h1
    apply State.frameEffects_keeps
    assumption
  · assumption

theorem State.framesLoaded_keeps {s0 s : State} (h : Keeps s0 s) : Keeps s0 (State.framesLoaded s) := by
  unfold State.framesLoaded
  refine Keeps.foldl ?_ ?_
  · intro s1 x1 h1
    dsimp only
    split
    · apply State.setFrame_keeps
      assumption
    · assumption
  · assumption

theorem State.releaseThreads_keeps {s0 s : State} (k : Fin 16) (h : Keeps s0 s) : Keeps s0 (State.releaseThreads s k) := by
  unfold State.releaseThreads
  refine Keeps.foldl ?_ ?_
  · intro s1 x1 h1
    dsimp only
    split
    · apply State.setFrame_keeps
      assumption
    · assumption
  · assumption

theorem State.switchIn_keeps {s0 s : State} (c : Fin 8) (f : Fin 8) (h : Keeps s0 s) : Keeps s0 (State.switchIn s c f) := by
  unfold State.switchIn
  dsimp only
  split
  · apply State.setFrame_keeps
    assumption
  · apply State.modCtx_keeps
    apply State.setFrame_keeps
    assumption

theorem State.threadSwitch_keeps {s0 s : State} (c : Fin 8) (h : Keeps s0 s) : Keeps s0 (State.threadSwitch s c) := by
  unfold State.threadSwitch
  dsimp only
  split
  · apply State.switchIn_keeps
    split
    · split
      · apply State.setFrame_keeps
        assumption
      · assumption
    · assumption
  · split
    · split
      · apply State.setFrame_keeps
        assumption
      · assumption
    · assumption

theorem State.threadSlot_keeps {s0 s : State} (h : Keeps s0 s) : Keeps s0 (State.threadSlot s) := by
  unfold State.threadSlot
  refine Keeps.foldl ?_ ?_
  · intro s1 x1 h1
    dsimp only
    split
    · apply State.setFrame_keeps
      assumption
    · assumption
  · assumption

end Sys2Proof.Machine
end

