-- ==== Sys2Proof/Laws/KeepsDrain.lean ====
section
/-! SUPPORT. What every operation and meaning of Machine/Drain.lean keeps (`Keeps`). -/

namespace Sys2Proof.Machine

theorem State.endChunk_keeps {s0 s : State} (k : Fin 16) (h : Keeps s0 s) : Keeps s0 (State.endChunk s k) := by
  unfold State.endChunk
  dsimp only
  split
  · split
    · split
      · apply State.raise_keeps
        apply State.modCtx_keeps
        apply State.modCtx_keeps
        with_reducible refine Keeps.updMem ?_ rfl rfl rfl ⟨rfl, rfl⟩ ?_ ?_
        · assumption
        · intro hw
          apply Memory.wf_writeBytes
          assumption
        · exact id
      · apply State.modCtx_keeps
        apply State.modCtx_keeps
        with_reducible refine Keeps.updMem ?_ rfl rfl rfl ⟨rfl, rfl⟩ ?_ ?_
        · assumption
        · intro hw
          apply Memory.wf_writeBytes
          assumption
        · exact id
    · apply State.modCtx_keeps
      with_reducible refine Keeps.updMem ?_ rfl rfl rfl ⟨rfl, rfl⟩ ?_ ?_
      · assumption
      · intro hw
        apply Memory.wf_writeBytes
        assumption
      · exact id
  · assumption

theorem State.chunkDrain_keeps {s0 s : State} (k : Fin 16) (h : Keeps s0 s) : Keeps s0 (State.chunkDrain s k) := by
  unfold State.chunkDrain
  dsimp only
  split
  · apply State.setCtx_keeps
    assumption
  · assumption

theorem execChunkDrain_keeps {s s9 : State} {slot : Fin 16} (eq : execChunkDrain slot s = .next s9) : Keeps s s9 := by
  cases eq
  have h := Keeps.refl s
  apply State.chunkDrain_keeps
  assumption

theorem State.chunkWritten_keeps {s0 s : State} (k : Fin 16) (h : Keeps s0 s) : Keeps s0 (State.chunkWritten s k) := by
  unfold State.chunkWritten
  split
  · split
    · apply State.endChunk_keeps
      assumption
    · assumption
  · assumption

theorem execChunkWritten_keeps {s s9 : State} {slot : Fin 16} (eq : execChunkWritten slot s = .next s9) : Keeps s s9 := by
  cases eq
  have h := Keeps.refl s
  apply State.chunkWritten_keeps
  assumption

theorem State.drainAll_keeps {s0 s : State} (k : Fin 16) (fuel : Nat) (h : Keeps s0 s) : Keeps s0 (State.drainAll s k fuel).1 := by
  induction fuel generalizing s with
  | zero => exact h
  | succ n ih =>
    unfold State.drainAll
    dsimp only
    split
    · exact ih (State.endChunk_keeps k h)
    · split
      · exact h
      · exact ih (State.setCtx_keeps k _ h)

theorem State.drainAll_keeps' {s0 s t : State} {k : Fin 16} {fuel n : Nat} (eq : State.drainAll s k fuel = (t, n)) (h : Keeps s0 s) :
    Keeps s0 t := by
  have := State.drainAll_keeps k fuel h
  rwa [eq] at this

theorem State.teardownFlush_keeps {s0 s : State} (k : Fin 16) (h : Keeps s0 s) : Keeps s0 (State.teardownFlush s k).1 := by
  unfold State.teardownFlush
  dsimp only
  apply State.drainAll_keeps
  apply State.modCtx_keeps
  assumption

theorem State.teardownFlush_keeps' {s0 s s9 : State} {k : Fin 16} {r9 : _} (eq : State.teardownFlush s k = (s9, r9)) (h : Keeps s0 s) : Keeps s0 s9 := by
  have := State.teardownFlush_keeps k h
  rwa [eq] at this

end Sys2Proof.Machine
end

