-- ==== Sys2Proof/Laws/KeepsEnds.lean ====
section
/-! SUPPORT. What every operation and meaning of Machine/Ends.lean keeps (`Keeps`). -/

namespace Sys2Proof.Machine

theorem State.dumpRecord_keeps {s0 s : State} (k : Fin 16) (reason : Nat) (nameId : Nat) (step : Nat) (dest : Nat) (h : Keeps s0 s) : Keeps s0 (State.dumpRecord s k reason nameId step dest) := by
  unfold State.dumpRecord
  apply State.pushRec_keeps
  assumption

theorem State.dumpEnd_keeps {s0 s : State} (t : Task) (nameId : Nat) (dest : Nat) (h : Keeps s0 s) : Keeps s0 (State.dumpEnd s t nameId dest) := by
  unfold State.dumpEnd
  dsimp only
  split
  · assumption
  · split
    · assumption
    · apply State.dumpRecord_keeps
      apply State.modCtx_keeps
      with_reducible refine Keeps.updMem ?_ rfl rfl rfl ⟨rfl, rfl⟩ ?_ ?_
      · assumption
      · intro hw
        apply Memory.wf_writeBytes
        assumption
      · exact id

theorem State.normalEnd_keeps {s0 s : State} (t : Task) (h : Keeps s0 s) : Keeps s0 (State.normalEnd s t) := by
  unfold State.normalEnd
  dsimp only
  split
  · apply State.instanceEnded_keeps
    split
    · apply State.fetchEnd_keeps
      assumption
    · assumption
  · apply State.serveEnd_keeps
    assumption
  · split
    · apply State.modCtx_keeps
      assumption
    · assumption
  · apply State.moveEnd_keeps
    assumption
  · split
    · apply State.importEnd_keeps
      assumption
    · assumption
  · apply State.exportEnd_keeps
    assumption
  · apply State.dumpEnd_keeps
    assumption

theorem State.statusEnd_keeps {s0 s : State} (l : Fin 64) (t : Task) (r : EndReport) (h : Keeps s0 s) : Keeps s0 (State.statusEnd s l t r) := by
  unfold State.statusEnd
  split
  · apply State.normalEnd_keeps
    apply State.modCtx_keeps
    assumption
  · apply State.taskFault_keeps
    assumption
  · split
    · apply State.taskFault_keeps
      assumption
    · apply State.taskFault_keeps
      assumption
  · assumption

theorem State.packetEnd_keeps {s0 s : State} (l : Fin 64) (t : Task) (h : Keeps s0 s) : Keeps s0 (State.packetEnd s l t) := by
  unfold State.packetEnd
  split
  · assumption
  · dsimp only
    split
    · apply State.setOpen_keeps
      assumption
    · apply State.recordFault_keeps
      apply State.setOpen_keeps
      assumption

theorem State.endTask_keeps {s0 s : State} (l : Fin 64) (e : PondEntry) (h : Keeps s0 s) : Keeps s0 (State.endTask s l e) := by
  unfold State.endTask
  dsimp only
  apply State.statusEnd_keeps
  split
  · split
    · apply State.reportedCrc_keeps
      apply State.packetEnd_keeps
      apply State.modCtx_keeps
      apply State.discardStalled_keeps
      apply State.modCore_keeps
      assumption
    · apply State.packetEnd_keeps
      apply State.modCtx_keeps
      apply State.discardStalled_keeps
      apply State.modCore_keeps
      assumption
  · apply State.packetEnd_keeps
    apply State.modCtx_keeps
    apply State.discardStalled_keeps
    apply State.modCore_keeps
    assumption

theorem State.ends_keeps {s0 s : State} (h : Keeps s0 s) : Keeps s0 (State.ends s) := by
  unfold State.ends
  refine Keeps.foldl ?_ ?_
  · intro s1 x1 h1
    apply State.endTask_keeps
    assumption
  · assumption

theorem State.stepRecord_keeps {s0 s : State} (k : Fin 16) (r : Rec) (h : Keeps s0 s) : Keeps s0 (State.stepRecord s k r) := by
  unfold State.stepRecord
  dsimp only
  split
  · assumption
  · split
    · apply State.modCtx_keeps
      assumption
    · apply State.pushRec_keeps
      assumption

theorem State.deadlines_keeps {s0 s : State} (k : Fin 16) (r : StepRun) (h : Keeps s0 s) : Keeps s0 (State.deadlines s k r) := by
  unfold State.deadlines
  dsimp only
  refine Keeps.foldl ?_ ?_
  · intro s1 x1 h1
    split
    · apply State.faultCode_keeps
      apply State.modCtx_keeps
      apply State.trigger_keeps
      apply State.stepRecord_keeps
      assumption
    · apply State.trigger_keeps
      apply State.stepRecord_keeps
      assumption
  · assumption

theorem State.sendStepReport_keeps {s0 s : State} (k : Fin 16) (step : Nat) (cancelled : Bool) (h : Keeps s0 s) : Keeps s0 (State.sendStepReport s k step cancelled) := by
  unfold State.sendStepReport
  split
  · dsimp only
    apply State.sendCtrl_keeps
    assumption
  · assumption

theorem State.completeStep_keeps {s0 s : State} (k : Fin 16) (r : StepRun) (h : Keeps s0 s) : Keeps s0 (State.completeStep s k r) := by
  unfold State.completeStep
  dsimp only
  apply State.sendStepReport_keeps
  split
  · apply State.modCtx_keeps
    apply State.modCtx_keeps
    apply State.deadlines_keeps
    apply State.stepRecord_keeps
    assumption
  · apply State.finishLeaves_keeps
    apply State.modCtx_keeps
    apply State.modCtx_keeps
    apply State.setLedger_keeps
    apply State.deadlines_keeps
    apply State.stepRecord_keeps
    assumption

theorem State.completeSteps_keeps {s0 s : State} (k : Fin 16) (h : Keeps s0 s) : Keeps s0 (State.completeSteps s k) := by
  unfold State.completeSteps
  split
  · assumption
  · refine Keeps.foldl ?_ ?_
    · intro s1 x1 h1
      apply State.completeStep_keeps
      assumption
    · assumption

theorem State.dropThreads_keeps {s0 s : State} (k : Fin 16) (p : Task → Bool) (h : Keeps s0 s) : Keeps s0 (State.dropThreads s k p) := by
  unfold State.dropThreads
  refine Keeps.foldl ?_ ?_
  · intro s1 x1 h1
    dsimp only
    split
    · apply State.freeThread_keeps
      assumption
    · assumption
  · assumption

theorem State.dumpsCancelled_keeps {s0 s : State} (k : Fin 16) (steps : List Nat) (h : Keeps s0 s) : Keeps s0 (State.dumpsCancelled s k steps) := by
  unfold State.dumpsCancelled
  refine Keeps.foldl ?_ ?_
  · intro s1 x1 h1
    refine Keeps.foldl ?_ ?_
    · intro s1 x1 h1
      split
      · apply State.dumpRecord_keeps
        assumption
      · assumption
    · assumption
  · assumption

theorem State.requestsCancelled_keeps {s0 s : State} (k : Fin 16) (h : Keeps s0 s) : Keeps s0 (State.requestsCancelled s k) := by
  unfold State.requestsCancelled
  refine Keeps.foldl ?_ ?_
  · intro s1 x1 h1
    apply State.dumpRecord_keeps
    assumption
  · apply State.modCtx_keeps
    assumption

theorem State.cancelStep_keeps {s0 s : State} (k : Fin 16) (step : Nat) (h : Keeps s0 s) : Keeps s0 (State.cancelStep s k step).1 := by
  unfold State.cancelStep
  dsimp only
  split
  · assumption
  · split
    · split
      · dsimp only
        apply State.modCtx_keeps
        apply State.cancelRouting_keeps
        apply State.modCtx_keeps
        apply State.dropThreads_keeps
        apply State.park_keeps
        apply State.flush_keeps
        apply State.dumpsCancelled_keeps
        assumption
      · dsimp only
        apply State.finishLeaves_keeps
        apply State.modCtx_keeps
        apply State.cancelRouting_keeps
        apply State.modCtx_keeps
        apply State.dropThreads_keeps
        apply State.park_keeps
        apply State.flush_keeps
        apply State.dumpsCancelled_keeps
        assumption
    · split
      · dsimp only
        apply State.modCtx_keeps
        apply State.cancelRouting_keeps
        apply State.modCtx_keeps
        apply State.dropThreads_keeps
        apply State.flush_keeps
        apply State.dumpsCancelled_keeps
        assumption
      · dsimp only
        apply State.finishLeaves_keeps
        apply State.modCtx_keeps
        apply State.cancelRouting_keeps
        apply State.modCtx_keeps
        apply State.dropThreads_keeps
        apply State.flush_keeps
        apply State.dumpsCancelled_keeps
        assumption

theorem State.cancelStep_keeps' {s0 s s9 : State} {k : Fin 16} {step : Nat} {r9 : _} (eq : State.cancelStep s k step = (s9, r9)) (h : Keeps s0 s) : Keeps s0 s9 := by
  have := State.cancelStep_keeps k step h
  rwa [eq] at this

theorem State.freeCancelled_keeps {s0 s : State} (k : Fin 16) (h : Keeps s0 s) : Keeps s0 (State.freeCancelled s k) := by
  unfold State.freeCancelled
  dsimp only
  split
  · assumption
  · apply State.modCtx_keeps
    refine Keeps.foldl ?_ ?_
    · intro s1 x1 h1
      apply State.modCtx_keeps
      apply State.stepRecord_keeps
      assumption
    · assumption

theorem State.scrubDue_keeps {s0 s : State} (k : Fin 16) (h : Keeps s0 s) : Keeps s0 (State.scrubDue s k) := by
  unfold State.scrubDue
  dsimp only
  split
  · apply State.modCtx_keeps
    refine Keeps.foldl ?_ ?_
    · intro s1 x1 h1
      apply State.setUnit_keeps
      assumption
    · assumption
  · assumption

theorem State.rebaseDue_keeps {s0 s : State} (k : Fin 16) (h : Keeps s0 s) : Keeps s0 (State.rebaseDue s k) := by
  unfold State.rebaseDue
  dsimp only
  split
  · assumption
  · refine Keeps.foldl ?_ ?_
    · intro s1 x1 h1
      apply State.sendStepReport_keeps
      assumption
    · apply State.compareCopies_keeps
      apply State.setCtx_keeps
      assumption

theorem State.cancelBoundary_keeps {s0 s : State} (k : Fin 16) (h : Keeps s0 s) : Keeps s0 (State.cancelBoundary s k) := by
  unfold State.cancelBoundary
  apply State.rebaseDue_keeps
  apply State.scrubDue_keeps
  apply State.freeCancelled_keeps
  assumption

theorem State.dropWork_keeps {s0 s : State} (k : Fin 16) (h : Keeps s0 s) : Keeps s0 (State.dropWork s k) := by
  unfold State.dropWork
  refine Keeps.upd ?_ rfl rfl rfl ⟨rfl, rfl⟩
  assumption

theorem State.resetCores_keeps {s0 s : State} (k : Fin 16) (h : Keeps s0 s) : Keeps s0 (State.resetCores s k) := by
  unfold State.resetCores
  dsimp only
  refine Keeps.foldl ?_ ?_
  · intro s1 x1 h1
    split
    · apply State.setFrame_keeps
      assumption
    · assumption
  · refine Keeps.foldl ?_ ?_
    · intro s1 x1 h1
      apply State.setCore_keeps
      assumption
    · assumption

theorem State.teardownNotice_keeps {s0 s : State} (k : Fin 16) (code : Nat) (h : Keeps s0 s) : Keeps s0 (State.teardownNotice s k code) := by
  unfold State.teardownNotice
  dsimp only
  split
  · assumption
  · apply State.modCtx_keeps
    split
    · apply State.sendAll_keeps
      assumption
    · apply State.sendCtrl_keeps
      assumption

theorem State.beginTeardown_keeps {s0 s : State} (k : Fin 16) (h : Keeps s0 s) : Keeps s0 (State.beginTeardown s k) := by
  unfold State.beginTeardown
  dsimp only
  split
  · assumption
  · split
    · apply State.pushRec_keeps
      apply State.modCtx_keeps
      apply State.raise_keeps
      apply State.setPhase_keeps
      apply State.modCtx_keeps
      apply State.teardownFlush_keeps
      apply State.dropWork_keeps
      apply State.resetCores_keeps
      apply State.flush_keeps
      apply State.teardownNotice_keeps
      apply State.requestsCancelled_keeps
      apply State.dumpsCancelled_keeps
      assumption
    · apply State.raise_keeps
      apply State.setPhase_keeps
      apply State.modCtx_keeps
      apply State.teardownFlush_keeps
      apply State.dropWork_keeps
      apply State.resetCores_keeps
      apply State.flush_keeps
      apply State.teardownNotice_keeps
      apply State.requestsCancelled_keeps
      apply State.dumpsCancelled_keeps
      assumption

theorem State.teardowns_keeps {s0 s : State} (h : Keeps s0 s) : Keeps s0 (State.teardowns s) := by
  unfold State.teardowns
  refine Keeps.foldl ?_ ?_
  · intro s1 x1 h1
    split
    · apply State.beginTeardown_keeps
      assumption
    · assumption
  · assumption

theorem State.scrubSpads_keeps {s0 s : State} (k : Fin 16) (h : Keeps s0 s) : Keeps s0 (State.scrubSpads s k) := by
  unfold State.scrubSpads
  refine Keeps.updMem ?_ rfl rfl rfl ⟨rfl, rfl⟩ ?_ ?_
  · assumption
  · exact id
  · intro hw
    refine Memory.wf_foldl ?_ _ ?_
    · intro m1 x1 hm
      apply Memory.wf_scrub
      assumption
    · assumption

theorem State.scrubLedger_keeps {s0 s : State} (k : Fin 16) (h : Keeps s0 s) : Keeps s0 (State.scrubLedger s k) := by
  unfold State.scrubLedger
  dsimp only
  with_reducible refine Keeps.updMem ?_ rfl rfl rfl ⟨rfl, rfl⟩ ?_ ?_
  · assumption
  · intro hw
    refine Memory.wf_foldl ?_ _ ?_
    · intro m1 x1 hm
      apply Memory.wf_scrub
      assumption
    · refine Memory.wf_foldl ?_ _ ?_
      · intro m1 x1 hm
        apply Memory.wf_scrub
        assumption
      · apply Memory.wf_scrub
        assumption
  · exact id

theorem State.clearKey_keeps {s0 s : State} (k : Fin 16) (h : Keeps s0 s) : Keeps s0 (State.clearKey s k) := by
  unfold State.clearKey
  split
  · assumption
  · apply State.log_keeps
    refine Keeps.upd ?_ rfl rfl rfl ⟨rfl, rfl⟩
    assumption

theorem State.dropNotices_keeps {s0 s : State} (k : Fin 16) (h : Keeps s0 s) : Keeps s0 (State.dropNotices s k) := by
  unfold State.dropNotices
  dsimp only
  apply State.horizonWeirs_keeps
  apply State.inletWeirs_keeps
  refine Keeps.foldl ?_ ?_
  · intro s1 x1 h1
    apply State.stray_keeps
    assumption
  · with_reducible refine Keeps.upd ?_ rfl rfl rfl ⟨rfl, rfl⟩
    assumption

theorem State.release_keeps {s0 s : State} (k : Fin 16) (h : Keeps s0 s) : Keeps s0 (State.release s k) := by
  unfold State.release
  dsimp only
  apply State.modCtx_keeps
  with_reducible refine Keeps.updMem ?_ rfl rfl rfl ⟨rfl, rfl⟩ ?_ ?_
  · apply State.clearKey_keeps
    refine Keeps.foldl ?_ ?_
    · intro s1 x1 h1
      apply State.setCore_keeps
      assumption
    · apply State.dropNotices_keeps
      apply State.scrubLedger_keeps
      apply State.scrubSpads_keeps
      assumption
  · exact id
  · exact id

theorem State.teardownScrubEnd_keeps {s0 s : State} (k : Fin 16) (h : Keeps s0 s) : Keeps s0 (State.teardownScrubEnd s k) := by
  unfold State.teardownScrubEnd
  dsimp only
  split
  · split
    · apply State.release_keeps
      assumption
    · assumption
  · assumption

theorem execTeardownScrubEnd_keeps {s s9 : State} {slot : Fin 16} (eq : execTeardownScrubEnd slot s = .next s9) : Keeps s s9 := by
  cases eq
  have h := Keeps.refl s
  apply State.teardownScrubEnd_keeps
  assumption

end Sys2Proof.Machine
end

