-- ==== Sys2Proof/Laws/KeepsNotices.lean ====
section
/-! SUPPORT. What every operation and meaning of Machine/Notices.lean keeps (`Keeps`). -/

namespace Sys2Proof.Machine

theorem State.discardNotice_keeps {s0 s : State} (k : Fin 16) (h : Keeps s0 s) : Keeps s0 (State.discardNotice s k) := by
  unfold State.discardNotice
  apply State.modCtx_keeps
  assumption

theorem State.countLate_keeps {s0 s : State} (k : Fin 16) (h1 : MsgHdr) (control : Bool) (h : Keeps s0 s) : Keeps s0 (State.countLate s k h1 control) := by
  unfold State.countLate
  dsimp only
  split
  · split
    · apply State.modCtx_keeps
      assumption
    · assumption
  · split
    · apply State.modCtx_keeps
      assumption
    · assumption

theorem State.enqueue_keeps {s0 s : State} (k : Fin 16) (h1 : MsgHdr) (b : MsgBody) (h : Keeps s0 s) : Keeps s0 (State.enqueue s k h1 b) := by
  unfold State.enqueue
  dsimp only
  apply State.horizonWeirs_keeps
  with_reducible refine Keeps.updMem ?_ rfl rfl rfl ⟨rfl, rfl⟩ ?_ ?_
  · split
    · split
      · assumption
      · apply State.useCredit_keeps
        assumption
    · split
      · assumption
      · apply State.useCredit_keeps
        assumption
  · exact id
  · exact id

theorem State.addressee_keeps {s0 s : State} (h1 : MsgHdr) (peer : Bool) (h : Keeps s0 s) : Keeps s0 (State.addressee s h1 peer).1 := by
  unfold State.addressee
  split
  · dsimp only
    apply State.stray_keeps
    assumption
  · dsimp only
    split
    · assumption
    · split
      · dsimp only
        apply State.stray_keeps
        assumption
      · assumption

theorem State.addressee_keeps' {s0 s s9 : State} {h1 : MsgHdr} {peer : Bool} {r9 : _} (eq : State.addressee s h1 peer = (s9, r9)) (h : Keeps s0 s) : Keeps s0 s9 := by
  have := State.addressee_keeps h1 peer h
  rwa [eq] at this

theorem State.notice_keeps {s0 s : State} (h1 : MsgHdr) (b : MsgBody) (h : Keeps s0 s) : Keeps s0 (State.notice s h1 b) := by
  unfold State.notice
  split
  · refine State.addressee_keeps' (by assumption) ?_
    assumption
  · split
    · apply State.discardNotice_keeps
      refine State.addressee_keeps' (by assumption) ?_
      assumption
    · apply State.enqueue_keeps
      apply State.countLate_keeps
      refine State.addressee_keeps' (by assumption) ?_
      assumption

theorem State.landing_keeps {s0 s : State} (h1 : MsgHdr) (l : Landing) (h : Keeps s0 s) : Keeps s0 (State.landing s h1 l) := by
  unfold State.landing
  split
  · refine State.addressee_keeps' (by assumption) ?_
    with_reducible refine Keeps.updMem ?_ rfl rfl rfl ⟨rfl, rfl⟩ ?_ ?_
    · assumption
    · exact id
    · exact id
  · dsimp only
    split
    · apply State.discardNotice_keeps
      refine State.addressee_keeps' (by assumption) ?_
      with_reducible refine Keeps.updMem ?_ rfl rfl rfl ⟨rfl, rfl⟩ ?_ ?_
      · assumption
      · exact id
      · exact id
    · split
      · split
        · apply State.enqueue_keeps
          apply State.countLate_keeps
          refine State.addressee_keeps' (by assumption) ?_
          with_reducible refine Keeps.updMem ?_ rfl rfl rfl ⟨rfl, rfl⟩ ?_ ?_
          · assumption
          · exact id
          · exact id
        · apply State.faultCode_keeps
          refine State.addressee_keeps' (by assumption) ?_
          with_reducible refine Keeps.updMem ?_ rfl rfl rfl ⟨rfl, rfl⟩ ?_ ?_
          · assumption
          · exact id
          · exact id
      · split
        · apply State.enqueue_keeps
          apply State.countLate_keeps
          refine State.addressee_keeps' (by assumption) ?_
          with_reducible refine Keeps.updMem ?_ rfl rfl rfl ⟨rfl, rfl⟩ ?_ ?_
          · assumption
          · exact id
          · exact id
        · apply State.faultCode_keeps
          refine State.addressee_keeps' (by assumption) ?_
          with_reducible refine Keeps.updMem ?_ rfl rfl rfl ⟨rfl, rfl⟩ ?_ ?_
          · assumption
          · exact id
          · exact id

theorem execLandingNotice_keeps {s s9 : State} {h1 : MsgHdr} {l : Landing} (eq : execLandingNotice h1 l s = .next s9) : Keeps s s9 := by
  cases eq
  have h := Keeps.refl s
  apply State.landing_keeps
  assumption

theorem execFetchRequest_keeps {s s9 : State} {h1 : MsgHdr} {f : FetchReq} (eq : execFetchRequest h1 f s = .next s9) : Keeps s s9 := by
  cases eq
  have h := Keeps.refl s
  apply State.notice_keeps
  assumption

theorem State.remoteArrives_keeps {s0 s : State} (h1 : MsgHdr) (cluster : Nat) (index : Nat) (item : CflItem) (h : Keeps s0 s) : Keeps s0 (State.remoteArrives s h1 cluster index item) := by
  unfold State.remoteArrives
  split
  · refine State.addressee_keeps' (by assumption) ?_
    assumption
  · apply State.remoteEntry_keeps
    refine State.addressee_keeps' (by assumption) ?_
    assumption

theorem execWideLanding_keeps {s s9 : State} {h1 : MsgHdr} {cluster : Nat} {index : Nat} {word : BitVec 256} (eq : execWideLanding h1 cluster index word s = .next s9) : Keeps s s9 := by
  cases eq
  have h := Keeps.refl s
  apply State.remoteArrives_keeps
  assumption

theorem execForwardedPair_keeps {s s9 : State} {h1 : MsgHdr} {cluster : Nat} {record : BitVec 128} (eq : execForwardedPair h1 cluster record s = .next s9) : Keeps s s9 := by
  cases eq
  have h := Keeps.refl s
  apply State.remoteArrives_keeps
  assumption

theorem State.tickSeal_keeps {s0 s : State} (h1 : MsgHdr) (h : Keeps s0 s) : Keeps s0 (State.tickSeal s h1) := by
  unfold State.tickSeal
  split
  · refine State.addressee_keeps' (by assumption) ?_
    assumption
  · split
    · apply State.enqueue_keeps
      refine State.addressee_keeps' (by assumption) ?_
      assumption
    · apply State.modCtx_keeps
      refine State.addressee_keeps' (by assumption) ?_
      assumption

theorem State.takeSeals_keeps {s0 s : State} (k : Fin 16) (h : Keeps s0 s) : Keeps s0 (State.takeSeals s k) := by
  unfold State.takeSeals
  dsimp only
  split
  · assumption
  · apply State.horizonWeirs_keeps
    apply State.modCtx_keeps
    with_reducible refine Keeps.upd ?_ rfl rfl rfl ⟨rfl, rfl⟩
    assumption

theorem State.rippleReceived_keeps {s0 s : State} (h1 : MsgHdr) (vid : Nat) (n : Nat) (h : Keeps s0 s) : Keeps s0 (State.rippleReceived s h1 vid n) := by
  unfold State.rippleReceived
  split
  · apply State.tickSeal_keeps
    assumption
  · apply State.notice_keeps
    assumption

theorem execRippleReceived_keeps {s s9 : State} {h1 : MsgHdr} {vid : BitVec 20} {increment : BitVec 32} (eq : execRippleReceived h1 vid increment s = .next s9) : Keeps s s9 := by
  cases eq
  have h := Keeps.refl s
  apply State.rippleReceived_keeps
  assumption

theorem execTickSeal_keeps {s s9 : State} {h1 : MsgHdr} (eq : execTickSeal h1 s = .next s9) : Keeps s s9 := by
  cases eq
  have h := Keeps.refl s
  apply State.tickSeal_keeps
  assumption

theorem State.ctrlSeal_keeps {s0 s : State} (h1 : MsgHdr) (h : Keeps s0 s) : Keeps s0 (State.ctrlSeal s h1) := by
  unfold State.ctrlSeal
  split
  · refine State.addressee_keeps' (by assumption) ?_
    assumption
  · apply State.modCtx_keeps
    refine State.addressee_keeps' (by assumption) ?_
    assumption

theorem execControlSeal_keeps {s s9 : State} {h1 : MsgHdr} (eq : execControlSeal h1 s = .next s9) : Keeps s s9 := by
  cases eq
  have h := Keeps.refl s
  apply State.ctrlSeal_keeps
  assumption

theorem State.sendTickSeals_keeps {s0 s : State} (k : Fin 16) (tick : Nat) (h : Keeps s0 s) : Keeps s0 (State.sendTickSeals s k tick) := by
  unfold State.sendTickSeals
  refine Keeps.foldl ?_ ?_
  · intro s1 x1 h1
    refine Keeps.foldl ?_ ?_
    · intro s1 x1 h1
      apply State.sendMsg_keeps
      assumption
    · assumption
  · assumption

theorem State.sendControlSeals_keeps {s0 s : State} (k : Fin 16) (tick : Nat) (h : Keeps s0 s) : Keeps s0 (State.sendControlSeals s k tick) := by
  unfold State.sendControlSeals
  refine Keeps.foldl ?_ ?_
  · intro s1 x1 h1
    apply State.sendMsg_keeps
    assumption
  · assumption

theorem State.commit_keeps {s0 s : State} (l : Landing) (h : Keeps s0 s) : Keeps s0 (State.commit s l) := by
  unfold State.commit
  with_reducible refine Keeps.upd ?_ rfl rfl rfl ⟨rfl, rfl⟩
  assumption

theorem State.increment_keeps {s0 s : State} (k : Fin 16) (sender : Nat) (vid : Nat) (n : Nat) (h : Keeps s0 s) : Keeps s0 (State.increment s k sender vid n).1 := by
  unfold State.increment
  split
  · split
    · assumption
    · dsimp only
      apply State.faultCode_keeps
      assumption
  · dsimp only
    apply State.faultCode_keeps
    assumption

theorem State.increment_keeps' {s0 s s9 : State} {k : Fin 16} {sender : Nat} {vid : Nat} {n : Nat} {r9 : _} (eq : State.increment s k sender vid n = (s9, r9)) (h : Keeps s0 s) : Keeps s0 s9 := by
  have := State.increment_keeps k sender vid n h
  rwa [eq] at this

theorem NoticeAcc.apply_keeps {s0 : State} {acc : NoticeAcc} (k : Fin 16) (e : Held) (h : Keeps s0 acc.s) : Keeps s0 (NoticeAcc.apply k acc e).s := by
  unfold NoticeAcc.apply
  split
  · dsimp only
    apply State.discardNotice_keeps
    assumption
  · split
    · dsimp only
      apply State.increment_keeps
      assumption
    · split
      · dsimp only
        apply State.faultCode_keeps
        assumption
      · split
        · dsimp only
          apply State.landingArrives_keeps
          apply State.commit_keeps
          assumption
        · dsimp only
          apply State.increment_keeps
          apply State.landingArrives_keeps
          apply State.commit_keeps
          assumption
    · assumption
    · assumption

theorem State.lateBehind_keeps {s0 s : State} (k : Fin 16) (tick : Nat) (h : Keeps s0 s) : Keeps s0 (State.lateBehind s k tick) := by
  unfold State.lateBehind
  dsimp only
  split
  · assumption
  · refine Keeps.foldl ?_ ?_
    · intro s1 x1 h1
      apply State.modCtx_keeps
      assumption
    · with_reducible refine Keeps.upd ?_ rfl rfl rfl ⟨rfl, rfl⟩
      assumption

theorem State.applyNotices_keeps {s0 s : State} (k : Fin 16) (tick : Nat) (h : Keeps s0 s) : Keeps s0 (State.applyNotices s k tick) := by
  unfold State.applyNotices
  dsimp only
  split
  · apply State.lateBehind_keeps
    assumption
  · apply State.horizonWeirs_keeps
    apply State.serveRequests_keeps
    apply State.resolveCounters_keeps
    refine Keeps.foldl_of NoticeAcc.s ?_ ?_
    · intro a1 x1 h1
      apply NoticeAcc.apply_keeps
      assumption
    · dsimp only
      with_reducible refine Keeps.upd ?_ rfl rfl rfl ⟨rfl, rfl⟩
      apply State.lateBehind_keeps
      assumption

theorem State.control_keeps {s0 s : State} (h1 : MsgHdr) (c : Ctrl) (h : Keeps s0 s) : Keeps s0 (State.control s h1 c) := by
  unfold State.control
  split
  · apply State.sendMsg_keeps
    assumption
  · split
    · refine State.addressee_keeps' (by assumption) ?_
      assumption
    · apply State.enqueue_keeps
      apply State.countLate_keeps
      refine State.addressee_keeps' (by assumption) ?_
      assumption

theorem State.dropCtrlDue_keeps {s0 s : State} (k : Fin 16) (h : Keeps s0 s) : Keeps s0 (State.dropCtrlDue s k) := by
  unfold State.dropCtrlDue
  dsimp only
  apply State.horizonWeirs_keeps
  apply State.modCtx_keeps
  with_reducible refine Keeps.upd ?_ rfl rfl rfl ⟨rfl, rfl⟩
  assumption

theorem execStepStart_keeps {s s9 : State} {h1 : MsgHdr} {step : Nat} {template : Option Nat} {changes : List Change} (eq : execStepStart h1 step template changes s = .next s9) : Keeps s s9 := by
  cases eq
  have h := Keeps.refl s
  apply State.control_keeps
  assumption

theorem execStepReport_keeps {s s9 : State} {h1 : MsgHdr} {step : Nat} {cancelled : Bool} {b : Nat} {r1 : Nat} {r2 : Nat} (eq : execStepReport h1 step cancelled b r1 r2 s = .next s9) : Keeps s s9 := by
  cases eq
  have h := Keeps.refl s
  apply State.control_keeps
  assumption

theorem execBlockedReport_keeps {s s9 : State} {h1 : MsgHdr} {blocked : Bool} (eq : execBlockedReport h1 blocked s = .next s9) : Keeps s s9 := by
  cases eq
  have h := Keeps.refl s
  apply State.control_keeps
  assumption

theorem execCancelMessage_keeps {s s9 : State} {h1 : MsgHdr} {step : Nat} (eq : execCancelMessage h1 step s = .next s9) : Keeps s s9 := by
  cases eq
  have h := Keeps.refl s
  apply State.control_keeps
  assumption

theorem execFreezeMessage_keeps {s s9 : State} {h1 : MsgHdr} {tick : Nat} (eq : execFreezeMessage h1 tick s = .next s9) : Keeps s s9 := by
  cases eq
  have h := Keeps.refl s
  apply State.control_keeps
  assumption

theorem execThawMessage_keeps {s s9 : State} {h1 : MsgHdr} (eq : execThawMessage h1 s = .next s9) : Keeps s s9 := by
  cases eq
  have h := Keeps.refl s
  apply State.control_keeps
  assumption

theorem execResumeMessage_keeps {s s9 : State} {h1 : MsgHdr} {gtc : Nat} (eq : execResumeMessage h1 gtc s = .next s9) : Keeps s s9 := by
  cases eq
  have h := Keeps.refl s
  apply State.control_keeps
  assumption

theorem execRestoreReport_keeps {s s9 : State} {h1 : MsgHdr} {serial : Nat} {ok : Bool} (eq : execRestoreReport h1 serial ok s = .next s9) : Keeps s s9 := by
  cases eq
  have h := Keeps.refl s
  apply State.control_keeps
  assumption

theorem execTeardownMessage_keeps {s s9 : State} {h1 : MsgHdr} {code : Nat} {member : Nat} (eq : execTeardownMessage h1 code member s = .next s9) : Keeps s s9 := by
  cases eq
  have h := Keeps.refl s
  apply State.control_keeps
  assumption

theorem execIdleBeat_keeps {s s9 : State} {h1 : MsgHdr} (eq : execIdleBeat h1 s = .next s9) : Keeps s s9 := by
  cases eq
  have h := Keeps.refl s
  apply State.control_keeps
  assumption

theorem execLockstepList_keeps {s s9 : State} {h1 : MsgHdr} {tick : Nat} {entries : List DigestEntry} (eq : execLockstepList h1 tick entries s = .next s9) : Keeps s s9 := by
  cases eq
  have h := Keeps.refl s
  apply State.control_keeps
  assumption

theorem execLockstepHalt_keeps {s s9 : State} {h1 : MsgHdr} (eq : execLockstepHalt h1 s = .next s9) : Keeps s s9 := by
  cases eq
  have h := Keeps.refl s
  apply State.control_keeps
  assumption

theorem execHaltRelay_keeps {s s9 : State} {h1 : MsgHdr} {cause : Nat} {bp : Nat} (eq : execHaltRelay h1 cause bp s = .next s9) : Keeps s s9 := by
  cases eq
  have h := Keeps.refl s
  apply State.control_keeps
  assumption

theorem State.peerDigest_keeps {s0 s : State} (h1 : MsgHdr) (tick : Nat) (d : BitVec 64) (h : Keeps s0 s) : Keeps s0 (State.peerDigest s h1 tick d) := by
  unfold State.peerDigest
  split
  · refine State.addressee_keeps' (by assumption) ?_
    assumption
  · apply State.modCtx_keeps
    refine State.addressee_keeps' (by assumption) ?_
    assumption

theorem execDigestMessage_keeps {s s9 : State} {h1 : MsgHdr} {tick : Nat} {d : BitVec 64} (eq : execDigestMessage h1 tick d s = .next s9) : Keeps s s9 := by
  cases eq
  have h := Keeps.refl s
  apply State.peerDigest_keeps
  assumption

end Sys2Proof.Machine
end

