-- ==== Sys2Proof/Laws/KeepsSteps.lean ====
section
/-! SUPPORT. What every operation and meaning of Machine/Steps.lean keeps (`Keeps`). -/

namespace Sys2Proof.Machine

theorem State.takeDumps_keeps {s0 s : State} (k : Fin 16) (h : Keeps s0 s) : Keeps s0 (State.takeDumps s k) := by
  unfold State.takeDumps
  dsimp only
  refine Keeps.foldl ?_ ?_
  · intro s1 x1 h1
    split
    · apply State.dumpRecord_keeps
      assumption
    · assumption
  · apply State.modCtx_keeps
    assumption

theorem State.createDumps_keeps {s0 s : State} (k : Fin 16) (step : Nat) (t : Nat) (h : Keeps s0 s) : Keeps s0 (State.createDumps s k step t) := by
  unfold State.createDumps
  dsimp only
  refine Keeps.foldl ?_ ?_
  · intro s1 x1 h1
    split
    · apply State.dumpRecord_keeps
      assumption
    · split
      · apply State.dumpRecord_keeps
        assumption
      · apply State.modCtx_keeps
        assumption
  · apply State.modCtx_keeps
    assumption

theorem State.namedOutcomes_keeps {s0 s : State} (k : Fin 16) (step : Nat) (h : Keeps s0 s) : Keeps s0 (State.namedOutcomes s k step) := by
  unfold State.namedOutcomes
  dsimp only
  refine Keeps.foldl ?_ ?_
  · intro s1 x1 h1
    apply State.result_keeps
    assumption
  · apply State.modCtx_keeps
    assumption

theorem State.stepBoundary_keeps {s0 s : State} (k : Fin 16) (step : Nat) (template : Option Nat) (changes : List Change) (h : Keeps s0 s) : Keeps s0 (State.stepBoundary s k step template changes) := by
  unfold State.stepBoundary
  dsimp only
  split
  · assumption
  · split
    · apply State.faultCode_keeps
      assumption
    · split
      · apply State.faultCode_keeps
        assumption
      · split
        · apply State.descriptorFault_keeps
          assumption
        · apply State.namedOutcomes_keeps
          apply State.createDumps_keeps
          apply State.ledgerPlan_keeps
          apply State.modCtx_keeps
          apply State.ledgerJoins_keeps
          apply State.modCtx_keeps
          assumption

theorem ChangeAcc.refuse_keeps {s0 : State} {acc : ChangeAcc} (k : Fin 16) (w : Waiting) (reason : Nat) (h : Keeps s0 acc.s) : Keeps s0 (ChangeAcc.refuse k acc w reason).s := by
  unfold ChangeAcc.refuse
  dsimp only
  apply State.result_keeps
  assumption

theorem ChangeAcc.accept_keeps {s0 : State} {acc : ChangeAcc} (k : Fin 16) (step : Nat) (w : Waiting) (x : Change) (f : List Admitted → List Admitted) (h : Keeps s0 acc.s) : Keeps s0 (ChangeAcc.accept k step acc w x f).s := by
  unfold ChangeAcc.accept
  dsimp only
  apply State.modCtx_keeps
  assumption

theorem ChangeAcc.take_keeps {s0 : State} {acc : ChangeAcc} (k : Fin 16) (step : Nat) (w : Waiting) (h : Keeps s0 acc.s) : Keeps s0 (ChangeAcc.take k step acc w).s := by
  unfold ChangeAcc.take
  split
  · assumption
  · split
    · dsimp only
      split
      · apply ChangeAcc.accept_keeps
        assumption
      · apply ChangeAcc.refuse_keeps
        assumption
    · split
      · dsimp only
        apply ChangeAcc.refuse_keeps
        assumption
      · dsimp only
        apply ChangeAcc.accept_keeps
        assumption
    · dsimp only
      split
      · apply ChangeAcc.accept_keeps
        assumption
      · apply ChangeAcc.refuse_keeps
        assumption
    · assumption

theorem State.buildChanges_keeps {s0 s : State} (k : Fin 16) (step : Nat) (h : Keeps s0 s) : Keeps s0 (State.buildChanges s k step).1 := by
  unfold State.buildChanges
  dsimp only
  apply State.modCtx_keeps
  refine Keeps.foldl_of ChangeAcc.s ?_ ?_
  · intro a1 x1 h1
    apply ChangeAcc.take_keeps
    assumption
  · assumption

theorem State.buildChanges_keeps' {s0 s s9 : State} {k : Fin 16} {step : Nat} {r9 : _} (eq : State.buildChanges s k step = (s9, r9)) (h : Keeps s0 s) : Keeps s0 s9 := by
  have := State.buildChanges_keeps k step h
  rwa [eq] at this

theorem State.exhaust_keeps {s0 s : State} (k : Fin 16) (h : Keeps s0 s) : Keeps s0 (State.exhaust s k) := by
  unfold State.exhaust
  dsimp only
  split
  · assumption
  · apply State.modCtx_keeps
    apply State.pushRec_keeps
    apply State.pushRec_keeps
    assumption

theorem State.pace_keeps {s0 s : State} (k : Fin 16) (h : Keeps s0 s) : Keeps s0 (State.pace s k) := by
  unfold State.pace
  dsimp only
  split
  · split
    · assumption
    · split
      · apply State.buildChanges_keeps
        assumption
      · split
        · apply State.sendAll_keeps
          apply State.modCtx_keeps
          apply State.buildChanges_keeps
          assumption
        · apply State.stepBoundary_keeps
          apply State.modCtx_keeps
          apply State.buildChanges_keeps
          assumption
  · split
    · assumption
    · split
      · apply State.buildChanges_keeps
        assumption
      · split
        · apply State.sendAll_keeps
          apply State.modCtx_keeps
          apply State.buildChanges_keeps
          assumption
        · apply State.stepBoundary_keeps
          apply State.modCtx_keeps
          apply State.buildChanges_keeps
          assumption

theorem State.leaveOutcomes_keeps {s0 s : State} (k : Fin 16) (h : Keeps s0 s) : Keeps s0 (State.leaveOutcomes s k) := by
  unfold State.leaveOutcomes
  dsimp only
  split
  · assumption
  · refine Keeps.foldl ?_ ?_
    · intro s1 x1 h1
      apply State.result_keeps
      assumption
    · apply State.setCtx_keeps
      assumption

end Sys2Proof.Machine
end

