-- ==== Sys2Proof/Laws/KeepsRecords.lean ====
section
/-! SUPPORT. What every operation and meaning of Machine/Records.lean keeps (`Keeps`). -/

namespace Sys2Proof.Machine

theorem State.writeWindow_keeps {s0 s : State} (h : Keeps s0 s) : Keeps s0 (State.writeWindow s) := by
  unfold State.writeWindow
  dsimp only
  with_reducible refine Keeps.updMem ?_ rfl rfl rfl ⟨rfl, rfl⟩ ?_ ?_
  · assumption
  · intro hw
    apply Memory.wf_writeBytes
    apply Memory.wf_writeBytes
    apply Memory.wf_writeBytes
    apply Memory.wf_writeBytes
    assumption
  · exact id

theorem State.formRec_keeps {s0 s : State} (r : Rec) (h : Keeps s0 s) : Keeps s0 (State.formRec s r).1 := by
  unfold State.formRec
  split
  · split
    · dsimp only
      apply State.log_keeps
      apply State.signalOut_keeps
      assumption
    · split
      · dsimp only
        apply State.log_keeps
        apply State.signalOut_keeps
        assumption
      · dsimp only
        apply State.log_keeps
        apply State.signalOut_keeps
        assumption
  · split
    · split
      · assumption
      · assumption
    · assumption

theorem State.formRec_keeps' {s0 s s9 : State} {r : Rec} {r9 : _} (eq : State.formRec s r = (s9, r9)) (h : Keeps s0 s) : Keeps s0 s9 := by
  have := State.formRec_keeps r h
  rwa [eq] at this

theorem State.writeRec_keeps {s0 s : State} (r : Rec) (h : Keeps s0 s) : Keeps s0 (State.writeRec s r).1 := by
  unfold State.writeRec
  extract_lets size q len pos gap used b s1 s2
  split
  · have h1 : Keeps s0 s1 := Keeps.ofMem h rfl rfl (fun hw => Memory.wf_writeRing hw _ _ _ _) id rfl rfl rfl ⟨rfl, rfl⟩
    clear_value s1
    change Keeps s0 s2
    unfold s2
    split
    · exact State.raise_keeps _ _ h1
    · exact State.raise_keeps _ _ h1
    · exact h1
  · exact h

theorem State.writeRec_keeps' {s0 s t : State} {r : Rec} {ok : Bool} (eq : State.writeRec s r = (t, ok)) (h : Keeps s0 s) : Keeps s0 t := by
  have := State.writeRec_keeps r h
  rwa [eq] at this

theorem State.writeDie_keeps {s0 s : State} (r : Rec) (old : Bool) (h : Keeps s0 s) : Keeps s0 (State.writeDie s r old) := by
  unfold State.writeDie
  dsimp only
  split
  · split
    · assumption
    · split
      · split
        · with_reducible refine Keeps.updMem ?_ rfl rfl rfl ⟨rfl, rfl⟩ ?_ ?_
          · assumption
          · exact id
          · exact id
        · apply State.raise_keeps
          with_reducible refine Keeps.updMem ?_ rfl rfl rfl ⟨rfl, rfl⟩ ?_ ?_
          · assumption
          · exact id
          · exact id
      · apply State.raise_keeps
        with_reducible refine Keeps.updMem ?_ rfl rfl rfl ⟨rfl, rfl⟩ ?_ ?_
        · assumption
        · exact id
        · exact id
  · split
    · apply State.writeRec_keeps
      assumption
    · split
      · split
        · with_reducible refine Keeps.updMem ?_ rfl rfl rfl ⟨rfl, rfl⟩ ?_ ?_
          · assumption
          · exact id
          · exact id
        · apply State.raise_keeps
          with_reducible refine Keeps.updMem ?_ rfl rfl rfl ⟨rfl, rfl⟩ ?_ ?_
          · assumption
          · exact id
          · exact id
      · apply State.raise_keeps
        with_reducible refine Keeps.updMem ?_ rfl rfl rfl ⟨rfl, rfl⟩ ?_ ?_
        · assumption
        · exact id
        · exact id

theorem State.writeCtx_keeps {s0 s : State} (k : Fin 16) (old : Nat) (l : List Rec) (h : Keeps s0 s) : Keeps s0 (State.writeCtx s k old l) := by
  induction l generalizing s old with
  | nil => exact h
  | cons r rs ih =>
    have h2 := State.writeRec_keeps r h
    rw [State.writeCtx]
    generalize s.writeRec r = w at *
    dsimp only
    split
    · exact ih _ h2
    · split
      · exact State.modCtx_keeps k _ h
      · exact State.raise_keeps _ _ (State.modCtx_keeps k _ h)

theorem State.formDue_keeps {s0 s : State} (h : Keeps s0 s) : Keeps s0 (State.formDue s).1 := by
  unfold State.formDue
  dsimp only
  refine Keeps.foldl_fst ?_ ?_
  · intro a1 x1 h1
    split
    · dsimp only
      apply State.formRec_keeps
      assumption
    · assumption
  · dsimp only
    with_reducible refine Keeps.upd ?_ rfl rfl rfl ⟨rfl, rfl⟩
    assumption

theorem State.formDue_keeps' {s0 s s9 : State} {r9 : _} (eq : State.formDue s = (s9, r9)) (h : Keeps s0 s) : Keeps s0 s9 := by
  have := State.formDue_keeps h
  rwa [eq] at this

theorem State.writeSlot_keeps {s0 s : State} (recs : List Rec) (k : Fin 16) (h : Keeps s0 s) : Keeps s0 (State.writeSlot s recs k) := by
  unfold State.writeSlot
  dsimp only
  apply State.writeCtx_keeps
  apply State.modCtx_keeps
  assumption

theorem State.writeRecords_keeps {s0 s : State} (tail : Nat) (h : Keeps s0 s) : Keeps s0 (State.writeRecords s tail) := by
  unfold State.writeRecords
  dsimp only
  apply State.writeWindow_keeps
  refine Keeps.foldl ?_ ?_
  · intro s1 x1 h1
    apply State.writeSlot_keeps
    assumption
  · refine Keeps.foldl ?_ ?_
    · intro s1 x1 h1
      apply State.writeDie_keeps
      assumption
    · refine Keeps.foldl ?_ ?_
      · intro s1 x1 h1
        apply State.writeDie_keeps
        assumption
      · with_reducible refine Keeps.updMem ?_ rfl rfl rfl ⟨rfl, rfl⟩ ?_ ?_
        · apply State.formDue_keeps
          with_reducible refine Keeps.updMem ?_ rfl rfl rfl ⟨rfl, rfl⟩ ?_ ?_
          · assumption
          · exact id
          · exact id
        · exact id
        · exact id

theorem State.deferSteps_keeps {s0 s : State} (k : Fin 16) (h : Keeps s0 s) : Keeps s0 (State.deferSteps s k) := by
  unfold State.deferSteps
  apply State.modCtx_keeps
  assumption

end Sys2Proof.Machine
end

