-- ==== Sys2Proof/Laws/KeepsLife.lean ====
section
/-! SUPPORT. What every operation and meaning of Machine/Life.lean keeps (`Keeps`). -/

namespace Sys2Proof.Machine

theorem State.observeTick_keeps {s0 s : State} (k : Fin 16) (launch : Bool) (h : Keeps s0 s) : Keeps s0 (State.observeTick s k launch) := by
  unfold State.observeTick
  dsimp only
  split
  · split
    · split
      · apply State.raise_keeps
        apply State.modCtx_keeps
        apply State.modCtx_keeps
        apply State.setCtx_keeps
        assumption
      · apply State.modCtx_keeps
        apply State.modCtx_keeps
        apply State.setCtx_keeps
        assumption
    · split
      · apply State.raise_keeps
        apply State.modCtx_keeps
        apply State.setCtx_keeps
        assumption
      · apply State.modCtx_keeps
        apply State.setCtx_keeps
        assumption
  · apply State.takeDumps_keeps
    split
    · split
      · apply State.raise_keeps
        apply State.modCtx_keeps
        apply State.modCtx_keeps
        apply State.setCtx_keeps
        assumption
      · apply State.modCtx_keeps
        apply State.modCtx_keeps
        apply State.setCtx_keeps
        assumption
    · split
      · apply State.raise_keeps
        apply State.modCtx_keeps
        apply State.setCtx_keeps
        assumption
      · apply State.modCtx_keeps
        apply State.setCtx_keeps
        assumption

theorem State.loadKeys_keeps {s0 s : State} (k : Fin 16) (h : Keeps s0 s) : Keeps s0 (State.loadKeys s k) := by
  unfold State.loadKeys
  dsimp only
  refine Keeps.foldl ?_ ?_
  · intro s1 x1 h1
    apply State.modCore_keeps
    assumption
  · assumption

theorem State.launch_keeps {s0 s : State} (k : Fin 16) (h : Keeps s0 s) : Keeps s0 (State.launch s k) := by
  unfold State.launch
  dsimp only
  apply State.observeTick_keeps
  split
  · apply State.modCtx_keeps
    apply State.pushRec_keeps
    split
    · apply State.modCtx_keeps
      apply State.result_keeps
      apply State.loadKeys_keeps
      apply State.setPhase_keeps
      apply State.modCtx_keeps
      assumption
    · apply State.loadKeys_keeps
      apply State.setPhase_keeps
      apply State.modCtx_keeps
      assumption
  · apply State.pushRec_keeps
    split
    · apply State.modCtx_keeps
      apply State.result_keeps
      apply State.loadKeys_keeps
      apply State.setPhase_keeps
      apply State.modCtx_keeps
      assumption
    · apply State.loadKeys_keeps
      apply State.setPhase_keeps
      apply State.modCtx_keeps
      assumption

theorem State.rotaLaunch_keeps {s0 s : State} (k : Fin 16) (h : Keeps s0 s) : Keeps s0 (State.rotaLaunch s k) := by
  unfold State.rotaLaunch
  dsimp only
  split
  · apply State.modCtx_keeps
    apply State.sendAll_keeps
    assumption
  · assumption

theorem State.lockEnd_keeps {s0 s : State} (k : Fin 16) (h : Keeps s0 s) : Keeps s0 (State.lockEnd s k) := by
  unfold State.lockEnd
  dsimp only
  split
  · assumption
  · apply State.sendMsg_keeps
    apply State.modCtx_keeps
    assumption

theorem State.diverge_keeps {s0 s : State} (k : Fin 16) (tick : Nat) (h : Keeps s0 s) : Keeps s0 (State.diverge s k tick) := by
  unfold State.diverge
  dsimp only
  split
  · apply State.sendCtrl_keeps
    apply State.sendMsg_keeps
    apply State.signalOut_keeps
    apply State.modCtx_keeps
    apply State.haltContext_keeps
    assumption
  · apply State.sendMsg_keeps
    apply State.signalOut_keeps
    apply State.modCtx_keeps
    apply State.haltContext_keeps
    assumption

theorem State.lockCompare_keeps {s0 s : State} (k : Fin 16) (h : Keeps s0 s) : Keeps s0 (State.lockCompare s k) := by
  unfold State.lockCompare
  dsimp only
  split
  · assumption
  · split
    · assumption
    · split
      · refine Keeps.foldl ?_ ?_
        · intro s1 x1 h1
          apply State.pushRec_keeps
          assumption
        · apply State.setCtx_keeps
          assumption
      · apply State.diverge_keeps
        assumption

theorem State.divergence_keeps {s0 s : State} (k : Fin 16) (tick : Nat) (theirs : List DigestEntry) (h : Keeps s0 s) : Keeps s0 (State.divergence s k tick theirs) := by
  unfold State.divergence
  dsimp only
  split
  · assumption
  · split
    · assumption
    · apply State.faultCode_keeps
      apply State.raise_keeps
      apply State.log_keeps
      assumption

theorem State.endTick_keeps {s0 s : State} (k : Fin 16) (h : Keeps s0 s) : Keeps s0 (State.endTick s k) := by
  unfold State.endTick
  dsimp only
  split
  · assumption
  · split
    · apply State.sendControlSeals_keeps
      split
      · split
        · apply State.sendCtrl_keeps
          apply State.lockEnd_keeps
          assumption
        · apply State.lockEnd_keeps
          assumption
      · apply State.sendTickSeals_keeps
        split
        · apply State.sendCtrl_keeps
          apply State.lockEnd_keeps
          assumption
        · apply State.lockEnd_keeps
          assumption
    · split
      · apply State.sendCtrl_keeps
        apply State.lockEnd_keeps
        assumption
      · apply State.lockEnd_keeps
        assumption

theorem State.freezeAt_keeps {s0 s : State} (k : Fin 16) (f : Nat) (h : Keeps s0 s) : Keeps s0 (State.freezeAt s k f) := by
  unfold State.freezeAt
  dsimp only
  apply State.setPhase_keeps
  apply State.modCtx_keeps
  apply State.flush_keeps
  apply State.haltCores_keeps
  assumption

theorem State.sealCheck_keeps {s0 s : State} (k : Fin 16) (h : Keeps s0 s) : Keeps s0 (State.sealCheck s k) := by
  unfold State.sealCheck
  dsimp only
  split
  · apply State.modCtx_keeps
    apply State.sendTickSeals_keeps
    assumption
  · assumption

theorem State.coreAck_keeps {s0 s : State} (l : Fin 64) (drained : Bool) (h : Keeps s0 s) : Keeps s0 (State.coreAck s l drained) := by
  unfold State.coreAck
  split
  · dsimp only
    refine Keeps.foldl ?_ ?_
    · intro s1 x1 h1
      apply State.sealCheck_keeps
      assumption
    · apply State.modCore_keeps
      assumption
  · assumption

theorem execCoreHalted_keeps {s s9 : State} {lcid : Fin 64} {drained : Bool} (eq : execCoreHalted lcid drained s = .next s9) : Keeps s s9 := by
  cases eq
  have h := Keeps.refl s
  apply State.coreAck_keeps
  assumption

theorem State.resumeHalt_keeps {s0 s : State} (k : Fin 16) (h : Keeps s0 s) : Keeps s0 (State.resumeHalt s k) := by
  unfold State.resumeHalt
  dsimp only
  apply State.setCtx_keeps
  split
  · assumption
  · apply State.reload_keeps
    apply State.runCores_keeps
    assumption

theorem State.advanceCtx.go_keeps {s0 s : State} (k : Fin 16) (c : Ctx) (t : Nat) (h : Keeps s0 s) : Keeps s0 (State.advanceCtx.go k s c t).1 := by
  unfold State.advanceCtx.go
  split
  · split
    · dsimp only
      apply State.observeTick_keeps
      apply State.modCtx_keeps
      apply State.reload_keeps
      apply State.runCores_keeps
      assumption
    · dsimp only
      apply State.observeTick_keeps
      apply State.modCtx_keeps
      assumption
  · split
    · dsimp only
      apply State.modCtx_keeps
      assumption
    · dsimp only
      apply State.modCtx_keeps
      apply State.park_keeps
      apply State.haltCores_keeps
      assumption

theorem State.advanceCtx.go_keeps' {s0 s s9 : State} {k : Fin 16} {c : Ctx} {t : Nat} {r9 : _} (eq : State.advanceCtx.go k s c t = (s9, r9)) (h : Keeps s0 s) : Keeps s0 s9 := by
  have := State.advanceCtx.go_keeps k c t h
  rwa [eq] at this

theorem State.advanceCtx_keeps {s0 s : State} (k : Fin 16) (h : Keeps s0 s) : Keeps s0 (State.advanceCtx s k).1 := by
  unfold State.advanceCtx
  dsimp only
  split
  · assumption
  · split
    · split
      · dsimp only
        apply State.resumeHalt_keeps
        assumption
      · split
        · dsimp only
          apply State.resumeHalt_keeps
          assumption
        · split
          · split
            · dsimp only
              apply State.freezeAt_keeps
              apply State.resumeHalt_keeps
              assumption
            · apply State.advanceCtx.go_keeps
              apply State.resumeHalt_keeps
              assumption
          · apply State.advanceCtx.go_keeps
            apply State.resumeHalt_keeps
            assumption
    · split
      · assumption
      · split
        · assumption
        · split
          · split
            · dsimp only
              apply State.freezeAt_keeps
              assumption
            · apply State.advanceCtx.go_keeps
              assumption
          · apply State.advanceCtx.go_keeps
            assumption

theorem State.advanceCtx_keeps' {s0 s s9 : State} {k : Fin 16} {r9 : _} (eq : State.advanceCtx s k = (s9, r9)) (h : Keeps s0 s) : Keeps s0 s9 := by
  have := State.advanceCtx_keeps k h
  rwa [eq] at this

theorem State.freezeSaveBegin_keeps {s0 s : State} (k : Fin 16) (h : Keeps s0 s) : Keeps s0 (State.freezeSaveBegin s k) := by
  unfold State.freezeSaveBegin
  dsimp only
  split
  · assumption
  · split
    · apply State.faultCode_keeps
      assumption
    · apply State.modCtx_keeps
      apply State.compareCopies_keeps
      assumption

theorem execFreezeSaveBegin_keeps {s s9 : State} {slot : Fin 16} (eq : execFreezeSaveBegin slot s = .next s9) : Keeps s s9 := by
  cases eq
  have h := Keeps.refl s
  apply State.freezeSaveBegin_keeps
  assumption

theorem State.packContext_keeps {s0 s : State} (k : Fin 16) (h : Keeps s0 s) : Keeps s0 (State.packContext s k) := by
  unfold State.packContext
  dsimp only
  apply State.resetCores_keeps
  apply State.horizonWeirs_keeps
  with_reducible refine Keeps.upd ?_ rfl rfl rfl ⟨rfl, rfl⟩
  apply State.setCtx_keeps
  assumption

theorem State.freezeSaveEnd_keeps {s0 s : State} (k : Fin 16) (h : Keeps s0 s) : Keeps s0 (State.freezeSaveEnd s k) := by
  unfold State.freezeSaveEnd
  extract_lets c bytes s1 s2 old image
  split
  · split
    · exact h
    · have hm : Memory.wf s.mem → Memory.wf (s.mem.writeBytes c.freezeArgs.1 (s.freezeBytes k)) := fun hw => Memory.wf_writeBytes hw _ _
      have h1 : Keeps s0 s1 := by
        unfold s1
        with_reducible exact Keeps.updMem h rfl rfl rfl ⟨rfl, rfl⟩ hm id
      have h2 : Keeps s0 s2 := State.packContext_keeps k h1
      clear_value image old s2 s1 bytes
      apply State.modCtx_keeps
      with_reducible exact Keeps.upd h2 rfl rfl rfl ⟨rfl, rfl⟩
  · exact h

theorem execFreezeSaveEnd_keeps {s s9 : State} {slot : Fin 16} (eq : execFreezeSaveEnd slot s = .next s9) : Keeps s s9 := by
  cases eq
  have h := Keeps.refl s
  apply State.freezeSaveEnd_keeps
  assumption

theorem State.emptySlot_keeps {s0 s : State} (k : Fin 16) (h : Keeps s0 s) : Keeps s0 (State.emptySlot s k) := by
  unfold State.emptySlot
  dsimp only
  apply State.setPhase_keeps
  apply State.setCtx_keeps
  with_reducible refine Keeps.upd ?_ rfl rfl rfl ⟨rfl, rfl⟩
  assumption

theorem State.freezeEnd_keeps {s0 s : State} (k : Fin 16) (h : Keeps s0 s) : Keeps s0 (State.freezeEnd s k) := by
  unfold State.freezeEnd
  dsimp only
  split
  · split
    · assumption
    · split
      · apply State.emptySlot_keeps
        apply State.dropNotices_keeps
        apply State.clearKey_keeps
        apply State.pushRec_keeps
        apply State.modCtx_keeps
        split
        · apply State.outcome_keeps
          refine Keeps.foldl ?_ ?_
          · intro s1 x1 h1
            apply State.modCore_keeps
            assumption
          · apply State.scrubSpads_keeps
            assumption
        · refine Keeps.foldl ?_ ?_
          · intro s1 x1 h1
            apply State.modCore_keeps
            assumption
          · apply State.scrubSpads_keeps
            assumption
      · apply State.setPhase_keeps
        apply State.modCtx_keeps
        split
        · apply State.outcome_keeps
          refine Keeps.foldl ?_ ?_
          · intro s1 x1 h1
            apply State.modCore_keeps
            assumption
          · apply State.scrubSpads_keeps
            assumption
        · refine Keeps.foldl ?_ ?_
          · intro s1 x1 h1
            apply State.modCore_keeps
            assumption
          · apply State.scrubSpads_keeps
            assumption
  · assumption

theorem State.unpackContext_keeps {s0 s : State} (k : Fin 16) (h : Keeps s0 s) : Keeps s0 (State.unpackContext s k) := by
  unfold State.unpackContext
  dsimp only
  apply State.setCtx_keeps
  apply State.horizonWeirs_keeps
  with_reducible refine Keeps.updMem ?_ rfl rfl rfl ⟨rfl, rfl⟩ ?_ ?_
  · refine Keeps.foldl ?_ ?_
    · intro s1 x1 h1
      apply State.setFrame_keeps
      assumption
    · refine Keeps.foldl ?_ ?_
      · intro s1 x1 h1
        apply State.setCore_keeps
        assumption
      · assumption
  · exact id
  · intro hw
    refine Memory.wf_foldl ?_ _ ?_
    · intro m1 x1 hm
      apply Memory.wf_write
      assumption
    · assumption

theorem State.restoreBegin_keeps {s0 s : State} (k : Fin 16) (h : Keeps s0 s) : Keeps s0 (State.restoreBegin s k) := by
  unfold State.restoreBegin
  dsimp only
  split
  · apply State.setCtx_keeps
    assumption
  · assumption

theorem State.thawEnds_keeps {s0 s : State} (k : Fin 16) (h : Keeps s0 s) : Keeps s0 (State.thawEnds s k) := by
  unfold State.thawEnds
  dsimp only
  split
  · apply State.emptySlot_keeps
    apply State.dropNotices_keeps
    apply State.clearKey_keeps
    apply State.requestsCancelled_keeps
    split
    · apply State.outcome_keeps
      assumption
    · assumption
  · apply State.setPhase_keeps
    apply State.modCtx_keeps
    split
    · apply State.outcome_keeps
      assumption
    · assumption

theorem State.thawRefused_keeps {s0 s : State} (k : Fin 16) (h : Keeps s0 s) : Keeps s0 (State.thawRefused s k) := by
  unfold State.thawRefused
  dsimp only
  apply State.thawEnds_keeps
  split
  · apply State.sendOthers_keeps
    assumption
  · assumption

theorem State.restoreEnd_keeps {s0 s : State} (k : Fin 16) (i : FreezeImageRef) (h : Keeps s0 s) : Keeps s0 (State.restoreEnd s k i) := by
  unfold State.restoreEnd
  dsimp only
  split
  · split
    · assumption
    · split
      · split
        · apply State.sendCtrl_keeps
          apply State.modCtx_keeps
          apply State.unpackContext_keeps
          split
          · apply State.setCtx_keeps
            with_reducible refine Keeps.updMem ?_ rfl rfl rfl ⟨rfl, rfl⟩ ?_ ?_
            · assumption
            · intro hw
              apply Memory.wf_writeBytes
              assumption
            · exact id
          · with_reducible refine Keeps.updMem ?_ rfl rfl rfl ⟨rfl, rfl⟩ ?_ ?_
            · assumption
            · intro hw
              apply Memory.wf_writeBytes
              assumption
            · exact id
        · apply State.modCtx_keeps
          apply State.modCtx_keeps
          apply State.unpackContext_keeps
          split
          · apply State.setCtx_keeps
            with_reducible refine Keeps.updMem ?_ rfl rfl rfl ⟨rfl, rfl⟩ ?_ ?_
            · assumption
            · intro hw
              apply Memory.wf_writeBytes
              assumption
            · exact id
          · with_reducible refine Keeps.updMem ?_ rfl rfl rfl ⟨rfl, rfl⟩ ?_ ?_
            · assumption
            · intro hw
              apply Memory.wf_writeBytes
              assumption
            · exact id
      · split
        · apply State.thawRefused_keeps
          apply State.sendCtrl_keeps
          with_reducible refine Keeps.updMem ?_ rfl rfl rfl ⟨rfl, rfl⟩ ?_ ?_
          · assumption
          · intro hw
            apply Memory.wf_writeBytes
            assumption
          · exact id
        · apply State.thawRefused_keeps
          with_reducible refine Keeps.updMem ?_ rfl rfl rfl ⟨rfl, rfl⟩ ?_ ?_
          · assumption
          · intro hw
            apply Memory.wf_writeBytes
            assumption
          · exact id
  · assumption

theorem State.releaseCancels_keeps {s0 s : State} (k : Fin 16) (f : Nat) (h : Keeps s0 s) : Keeps s0 (State.releaseCancels s k f) := by
  unfold State.releaseCancels
  dsimp only
  refine Keeps.foldl ?_ ?_
  · intro s1 x1 h1
    refine Keeps.foldl ?_ ?_
    · intro s1 x1 h1
      apply State.sendMsg_keeps
      assumption
    · assumption
  · apply State.modCtx_keeps
    assumption

theorem State.resumeThaw_keeps {s0 s : State} (k : Fin 16) (h : Keeps s0 s) : Keeps s0 (State.resumeThaw s k) := by
  unfold State.resumeThaw
  dsimp only
  split
  · split
    · apply State.releaseCancels_keeps
      split
      · apply State.outcome_keeps
        apply State.loadKeys_keeps
        apply State.runCores_keeps
        apply State.setPhase_keeps
        with_reducible refine Keeps.updMem ?_ rfl rfl rfl ⟨rfl, rfl⟩ ?_ ?_
        · apply State.setCtx_keeps
          assumption
        · exact id
        · exact id
      · apply State.loadKeys_keeps
        apply State.runCores_keeps
        apply State.setPhase_keeps
        with_reducible refine Keeps.updMem ?_ rfl rfl rfl ⟨rfl, rfl⟩ ?_ ?_
        · apply State.setCtx_keeps
          assumption
        · exact id
        · exact id
    · assumption
  · assumption

theorem State.freezePending_keeps {s0 s : State} (k : Fin 16) (h : Keeps s0 s) : Keeps s0 (State.freezePending s k) := by
  unfold State.freezePending
  dsimp only
  split
  · split
    · split
      · apply State.sendAll_keeps
        apply State.setCtx_keeps
        assumption
      · apply State.setCtx_keeps
        assumption
    · apply State.modCtx_keeps
      apply State.setCtx_keeps
      assumption
  · assumption

end Sys2Proof.Machine
end

