-- ==== Sys2Proof/Laws/KeepsControl.lean ====
section
/-! SUPPORT. What every operation and meaning of Machine/Control.lean keeps (`Keeps`). -/

namespace Sys2Proof.Machine

theorem State.reportEffect_keeps {s0 s : State} (k : Fin 16) (sender : Nat) (step : Nat) (b : Nat) (r1 : Nat) (r2 : Nat) (h : Keeps s0 s) : Keeps s0 (State.reportEffect s k sender step b r1 r2) := by
  unfold State.reportEffect
  dsimp only
  apply State.modCtx_keeps
  assumption

theorem State.blockedEffect_keeps {s0 s : State} (k : Fin 16) (sender : Nat) (blocked : Bool) (h : Keeps s0 s) : Keeps s0 (State.blockedEffect s k sender blocked) := by
  unfold State.blockedEffect
  dsimp only
  apply State.modCtx_keeps
  assumption

theorem State.cancelOutcomes_keeps {s0 s : State} (k : Fin 16) (step : Nat) (reason : Nat) (h : Keeps s0 s) : Keeps s0 (State.cancelOutcomes s k step reason) := by
  unfold State.cancelOutcomes
  dsimp only
  refine Keeps.foldl ?_ ?_
  · intro s1 x1 h1
    apply State.result_keeps
    assumption
  · apply State.setCtx_keeps
    assumption

theorem State.cancelEffect_keeps {s0 s : State} (k : Fin 16) (step : Nat) (h : Keeps s0 s) : Keeps s0 (State.cancelEffect s k step) := by
  unfold State.cancelEffect
  dsimp only
  apply State.cancelOutcomes_keeps
  split
  · split
    · apply State.modCtx_keeps
      apply State.cancelStep_keeps
      apply State.modCtx_keeps
      assumption
    · apply State.cancelStep_keeps
      apply State.modCtx_keeps
      assumption
  · split
    · apply State.modCtx_keeps
      apply State.cancelStep_keeps
      assumption
    · apply State.cancelStep_keeps
      assumption

theorem State.freezeEffect_keeps {s0 s : State} (k : Fin 16) (f : Nat) (h : Keeps s0 s) : Keeps s0 (State.freezeEffect s k f) := by
  unfold State.freezeEffect
  dsimp only
  split
  · split
    · apply State.setCtx_keeps
      assumption
    · apply State.setCtx_keeps
      assumption
  · assumption

theorem State.thawEffect_keeps {s0 s : State} (k : Fin 16) (h : Keeps s0 s) : Keeps s0 (State.thawEffect s k) := by
  unfold State.thawEffect
  dsimp only
  split
  · split
    · apply State.restoreBegin_keeps
      apply State.setPhase_keeps
      apply State.modCtx_keeps
      assumption
    · split
      · apply State.restoreBegin_keeps
        apply State.setPhase_keeps
        apply State.modCtx_keeps
        apply State.modCtx_keeps
        assumption
      · apply State.sendCtrl_keeps
        apply State.modCtx_keeps
        assumption
  · split
    · split
      · apply State.modCtx_keeps
        apply State.modCtx_keeps
        assumption
      · apply State.restoreBegin_keeps
        apply State.modCtx_keeps
        assumption
    · split
      · apply State.raise_keeps
        apply State.modCtx_keeps
        apply State.modCtx_keeps
        assumption
      · apply State.modCtx_keeps
        assumption

theorem State.restoredEffect_keeps {s0 s : State} (k : Fin 16) (sender : Nat) (ok : Bool) (h : Keeps s0 s) : Keeps s0 (State.restoredEffect s k sender ok) := by
  unfold State.restoredEffect
  dsimp only
  split
  · split
    · apply State.releaseCancels_keeps
      apply State.sendAll_keeps
      apply State.modCtx_keeps
      assumption
    · apply State.sendAll_keeps
      apply State.modCtx_keeps
      assumption
  · apply State.modCtx_keeps
    assumption

theorem State.resumeEffect_keeps {s0 s : State} (k : Fin 16) (z : Nat) (h : Keeps s0 s) : Keeps s0 (State.resumeEffect s k z) := by
  unfold State.resumeEffect
  dsimp only
  split
  · split
    · apply State.thawRefused_keeps
      assumption
    · apply State.setCtx_keeps
      assumption
  · apply State.setCtx_keeps
    assumption
  · split
    · apply State.setCtx_keeps
      assumption
    · assumption
  · apply State.setCtx_keeps
    assumption
  · assumption

theorem State.teardownEffect_keeps {s0 s : State} (k : Fin 16) (sender : Nat) (code : Nat) (member : Nat) (h : Keeps s0 s) : Keeps s0 (State.teardownEffect s k sender code member) := by
  unfold State.teardownEffect
  dsimp only
  split
  · apply State.sendAll_keeps
    assumption
  · apply State.beginTeardown_keeps
    apply State.fault_keeps
    assumption

theorem State.haltEffect_keeps {s0 s : State} (k : Fin 16) (cause : Nat) (bp : Nat) (h : Keeps s0 s) : Keeps s0 (State.haltEffect s k cause bp) := by
  unfold State.haltEffect
  split
  · apply State.haltContext_keeps
    assumption
  · apply State.sendAll_keeps
    assumption

theorem State.applyCtrl_keeps {s0 s : State} (k : Fin 16) (sender : Nat) (x : Ctrl) (h : Keeps s0 s) : Keeps s0 (State.applyCtrl s k sender x) := by
  unfold State.applyCtrl
  dsimp only
  split
  · exact h
  have noted : Keeps s0 (if sender = s.headwaterAddr k then s.modCtx k fun c => { c with lastControl := c.tick } else s) := by
    split
    · exact State.modCtx_keeps _ _ h
    · exact h
  generalize (if sender = s.headwaterAddr k then s.modCtx k fun c => { c with lastControl := c.tick } else s) = u at noted ⊢
  cases x with
  | stepStart step t ch =>
    dsimp only
    split
    · exact State.modCtx_keeps _ _ noted
    · exact State.stepBoundary_keeps _ _ _ _ noted
  | stepReport => exact State.reportEffect_keeps _ _ _ _ _ _ noted
  | blockedReport => exact State.blockedEffect_keeps _ _ _ noted
  | cancel => exact State.cancelEffect_keeps _ _ noted
  | freeze => exact State.freezeEffect_keeps _ _ noted
  | thaw => exact State.thawEffect_keeps _ noted
  | resume => exact State.resumeEffect_keeps _ _ noted
  | restoreReport => exact State.restoredEffect_keeps _ _ _ noted
  | teardown => exact State.teardownEffect_keeps _ _ _ _ noted
  | lockList => exact State.divergence_keeps _ _ _ noted
  | lockHalt => exact State.haltEffect_keeps _ _ _ noted
  | haltRelay => exact State.haltEffect_keeps _ _ _ noted
  | _ => exact noted

theorem State.controlDue_keeps {s0 s : State} (k : Fin 16) (h : Keeps s0 s) : Keeps s0 (State.controlDue s k) := by
  unfold State.controlDue
  dsimp only
  split
  · assumption
  · split
    · assumption
    · refine Keeps.foldl ?_ ?_
      · intro s1 x1 h1
        apply State.applyCtrl_keeps
        assumption
      · apply State.dropCtrlDue_keeps
        assumption

theorem State.applySetFlag_keeps {s0 s : State} (k : Fin 16) (w : Waiting) (step : Nat) (node : Nat) (flags : BitVec 32) (h : Keeps s0 s) : Keeps s0 (State.applySetFlag s k w step node flags) := by
  unfold State.applySetFlag
  dsimp only
  split
  · split
    · apply State.result_keeps
      assumption
    · split
      · apply State.result_keeps
        assumption
      · apply State.result_keeps
        apply State.modCtx_keeps
        assumption
  · split
    · split
      · split
        · apply State.result_keeps
          assumption
        · apply State.result_keeps
          apply State.modCtx_keeps
          assumption
      · split
        · apply State.result_keeps
          assumption
        · apply State.result_keeps
          apply State.modCtx_keeps
          assumption
    · apply State.result_keeps
      assumption

theorem State.takeImport_keeps {s0 s : State} (k : Fin 16) (w : Waiting) (due : Nat) (r : ImportReq) (h : Keeps s0 s) : Keeps s0 (State.takeImport s k w due r) := by
  unfold State.takeImport
  dsimp only
  split
  · apply State.result_keeps
    refine State.beginImport_keeps' (by assumption) ?_
    apply State.modCtx_keeps
    assumption
  · refine State.beginImport_keeps' (by assumption) ?_
    apply State.modCtx_keeps
    assumption

theorem State.submissionsDue_keeps {s0 s : State} (k : Fin 16) (h : Keeps s0 s) : Keeps s0 (State.submissionsDue s k) := by
  unfold State.submissionsDue
  dsimp only
  split
  · assumption
  · refine Keeps.foldl ?_ ?_
    · intro s1 x1 h1
      split
      · apply State.applySetFlag_keeps
        assumption
      · assumption
    · apply State.setCtx_keeps
      assumption

theorem State.importsDue_keeps {s0 s : State} (k : Fin 16) (h : Keeps s0 s) : Keeps s0 (State.importsDue s k) := by
  unfold State.importsDue
  dsimp only
  split
  · assumption
  · refine Keeps.foldl ?_ ?_
    · intro s1 x1 h1
      split
      · apply State.takeImport_keeps
        assumption
      · assumption
    · apply State.setCtx_keeps
      assumption

theorem State.refuse_keeps {s0 s : State} (h1 : SubHdr) (sub : Sub) (k : Fin 16) (taken : Nat) (reason : Nat) (due : Nat) (h : Keeps s0 s) : Keeps s0 (State.refuse s h1 sub k taken reason due) := by
  unfold State.refuse
  apply State.result_keeps
  assumption

theorem State.holdEnable_keeps {s0 s : State} (k : Fin 16) (w : Waiting) (due : Nat) (h : Keeps s0 s) : Keeps s0 (State.holdEnable s k w due) := by
  unfold State.holdEnable
  dsimp only
  split
  · apply State.refuse_keeps
    assumption
  · apply State.raise_keeps
    apply State.setCtx_keeps
    assumption

theorem State.takeFreeze_keeps {s0 s : State} (k : Fin 16) (w : Waiting) (addr : Nat) (length : Nat) (due : Nat) (h : Keeps s0 s) : Keeps s0 (State.takeFreeze s k w addr length due) := by
  unfold State.takeFreeze
  dsimp only
  split
  · apply State.refuse_keeps
    assumption
  · split
    · apply State.refuse_keeps
      assumption
    · split
      · apply State.refuse_keeps
        assumption
      · split
        · apply State.modCtx_keeps
          apply State.setCtx_keeps
          assumption
        · split
          · apply State.freezeEffect_keeps
            apply State.setCtx_keeps
            assumption
          · split
            · apply State.sendAll_keeps
              apply State.setCtx_keeps
              assumption
            · apply State.setCtx_keeps
              assumption

theorem State.takeThaw_keeps {s0 s : State} (k : Fin 16) (w : Waiting) (due : Nat) (h : Keeps s0 s) : Keeps s0 (State.takeThaw s k w due) := by
  unfold State.takeThaw
  dsimp only
  split
  · apply State.holdEnable_keeps
    assumption
  · split
    · apply State.refuse_keeps
      assumption
    · split
      · apply State.refuse_keeps
        assumption
      · split
        · apply State.setPhase_keeps
          apply State.setCtx_keeps
          assumption
        · split
          · apply State.sendAll_keeps
            apply State.setCtx_keeps
            assumption
          · apply State.setCtx_keeps
            assumption

theorem State.takeCancel_keeps {s0 s : State} (k : Fin 16) (w : Waiting) (step : Nat) (h : Keeps s0 s) : Keeps s0 (State.takeCancel s k w step) := by
  unfold State.takeCancel
  dsimp only
  split
  · apply State.modCtx_keeps
    apply State.modCtx_keeps
    assumption
  · split
    · apply State.sendAll_keeps
      apply State.modCtx_keeps
      apply State.modCtx_keeps
      assumption
    · apply State.modCtx_keeps
      apply State.modCtx_keeps
      apply State.modCtx_keeps
      assumption

theorem State.takeStep_keeps {s0 s : State} (k : Fin 16) (w : Waiting) (template : Nat) (count : Nat) (due : Nat) (h : Keeps s0 s) : Keeps s0 (State.takeStep s k w template count due) := by
  unfold State.takeStep
  dsimp only
  split
  · apply State.refuse_keeps
    assumption
  · apply State.modCtx_keeps
    assumption

theorem State.takeChange_keeps {s0 s : State} (k : Fin 16) (w : Waiting) (h : Keeps s0 s) : Keeps s0 (State.takeChange s k w) := by
  unfold State.takeChange
  apply State.modCtx_keeps
  assumption

theorem State.takeTeardown_keeps {s0 s : State} (k : Fin 16) (w : Waiting) (h : Keeps s0 s) : Keeps s0 (State.takeTeardown s k w) := by
  unfold State.takeTeardown
  dsimp only
  split
  · split
    · apply State.faultCode_keeps
      apply State.modCtx_keeps
      assumption
    · apply State.modCtx_keeps
      assumption
  · apply State.faultCode_keeps
    apply State.modCtx_keeps
    assumption

theorem State.accept_keeps {s0 s : State} (h1 : SubHdr) (sub : Sub) (payload : Bytes) (taken : Nat) (due : Nat) (h : Keeps s0 s) : Keeps s0 (State.accept s h1 sub payload taken due) := by
  unfold State.accept
  split
  · apply State.result_keeps
    assumption
  · dsimp only
    split
    · apply State.refuse_keeps
      assumption
    · split
      · apply State.refuse_keeps
        assumption
      · split
        · apply State.takeFreeze_keeps
          assumption
        · apply State.takeThaw_keeps
          assumption
        · apply State.takeTeardown_keeps
          assumption
        · apply State.takeCancel_keeps
          assumption
        · split
          · apply State.takeChange_keeps
            assumption
          · apply State.refuse_keeps
            assumption
        · apply State.takeChange_keeps
          assumption
        · split
          · apply State.refuse_keeps
            assumption
          · apply State.takeChange_keeps
            assumption
        · split
          · apply State.takeImport_keeps
            assumption
          · apply State.modCtx_keeps
            assumption
        · split
          · apply State.refuse_keeps
            assumption
          · apply State.modCtx_keeps
            assumption
        · apply State.pushRec_keeps
          assumption
        · apply State.takeStep_keeps
          assumption
        · apply State.refuse_keeps
          assumption

theorem State.submit_keeps {s0 s : State} (h1 : SubHdr) (sub : Sub) (h : Keeps s0 s) : Keeps s0 (State.submit s h1 sub) := by
  unfold State.submit
  split
  · apply State.accept_keeps
    apply State.countTaken_keeps
    assumption
  · assumption

theorem State.fencedRefusal_keeps {s0 s : State} (h1 : SubHdr) (sub : Sub) (due : Nat) (h : Keeps s0 s) : Keeps s0 (State.fencedRefusal s h1 sub due) := by
  unfold State.fencedRefusal
  apply State.result_keeps
  assumption

theorem execFreeze_keeps {s s9 : State} {h1 : SubHdr} {addr : Nat} {length : Nat} {release : Bool} (eq : execFreeze h1 addr length release s = .next s9) : Keeps s s9 := by
  cases eq
  have h := Keeps.refl s
  apply State.submit_keeps
  assumption

theorem execTeardown_keeps {s s9 : State} {h1 : SubHdr} (eq : execTeardown h1 s = .next s9) : Keeps s s9 := by
  cases eq
  have h := Keeps.refl s
  apply State.submit_keeps
  assumption

theorem execCancel_keeps {s s9 : State} {h1 : SubHdr} {step : Nat} (eq : execCancel h1 step s = .next s9) : Keeps s s9 := by
  cases eq
  have h := Keeps.refl s
  apply State.submit_keeps
  assumption

theorem execJoin_keeps {s s9 : State} {h1 : SubHdr} {r : JoinReq} (eq : execJoin h1 r s = .next s9) : Keeps s s9 := by
  cases eq
  have h := Keeps.refl s
  apply State.submit_keeps
  assumption

theorem execLeave_keeps {s s9 : State} {h1 : SubHdr} {r : LeaveReq} (eq : execLeave h1 r s = .next s9) : Keeps s s9 := by
  cases eq
  have h := Keeps.refl s
  apply State.submit_keeps
  assumption

theorem execImportSeq_keeps {s s9 : State} {h1 : SubHdr} {r : ImportReq} (eq : execImportSeq h1 r s = .next s9) : Keeps s s9 := by
  cases eq
  have h := Keeps.refl s
  apply State.submit_keeps
  assumption

theorem execAppendCount_keeps {s s9 : State} {h1 : SubHdr} {globalId : Nat} {tokens : Nat} (eq : execAppendCount h1 globalId tokens s = .next s9) : Keeps s s9 := by
  cases eq
  have h := Keeps.refl s
  apply State.submit_keeps
  assumption

theorem execSetFlag_keeps {s s9 : State} {h1 : SubHdr} {step : Nat} {node : Nat} {flags : BitVec 32} (eq : execSetFlag h1 step node flags s = .next s9) : Keeps s s9 := by
  cases eq
  have h := Keeps.refl s
  apply State.submit_keeps
  assumption

theorem execRunRecord_keeps {s s9 : State} {h1 : SubHdr} (eq : execRunRecord h1 s = .next s9) : Keeps s s9 := by
  cases eq
  have h := Keeps.refl s
  apply State.submit_keeps
  assumption

theorem execStep_keeps {s s9 : State} {h1 : SubHdr} {template : Nat} {count : Nat} (eq : execStep h1 template count s = .next s9) : Keeps s s9 := by
  cases eq
  have h := Keeps.refl s
  apply State.submit_keeps
  assumption

end Sys2Proof.Machine
end

