-- ==== Sys2Proof/Laws/KeepsImage.lean ====
section
/-! SUPPORT. What every operation and meaning of Machine/Image.lean keeps (`Keeps`). -/

namespace Sys2Proof.Machine

theorem State.takeImage_keeps {s0 s : State} (k : Fin 16) (fast : Bool) (i : Image) (h : Keeps s0 s) : Keeps s0 (State.takeImage s k fast i) := by
  unfold State.takeImage
  dsimp only
  with_reducible refine Keeps.updMem ?_ rfl rfl rfl ⟨rfl, rfl⟩ ?_ ?_
  · apply State.setCtx_keeps
    assumption
  · intro hw
    split
    · assumption
    · apply Memory.wf_scrub
      assumption
  · exact id

end Sys2Proof.Machine
end

