-- ==== Sys2Proof/Laws/KeepsManifest.lean ====
section
/-! SUPPORT. What every operation and meaning of Machine/Manifest.lean keeps (`Keeps`). -/

namespace Sys2Proof.Machine

theorem State.sendLaunch_keeps {s0 s : State} (k : Fin 16) (dest : Nat) (x : Ctrl) (h : Keeps s0 s) : Keeps s0 (State.sendLaunch s k dest x) := by
  unfold State.sendLaunch
  dsimp only
  split
  · apply State.setCatch_keeps
    assumption
  · apply State.sendMsg_keeps
    assumption

theorem State.refuseMsg_keeps {s0 s : State} (m : Manifest) (code : Nat) (h : Keeps s0 s) : Keeps s0 (State.refuseMsg s m code) := by
  unfold State.refuseMsg
  split
  · split
    · assumption
    · apply State.linkSend_keeps
      assumption
  · assumption

theorem State.takeManifest_keeps {s0 s : State} (h1 : SubHdr) (b : Bytes) (due : Nat) (h : Keeps s0 s) : Keeps s0 (State.takeManifest s h1 b due) := by
  unfold State.takeManifest
  split
  · apply State.refuseMsg_keeps
    apply State.result_keeps
    assumption
  · dsimp only
    split
    · split
      · apply State.sendMsg_keeps
        apply State.result_keeps
        apply State.raise_keeps
        apply State.horizonWeirs_keeps
        apply State.setCatch_keeps
        assumption
      · apply State.result_keeps
        apply State.raise_keeps
        apply State.horizonWeirs_keeps
        apply State.setCatch_keeps
        assumption
    · apply State.result_keeps
      apply State.raise_keeps
      apply State.horizonWeirs_keeps
      apply State.setCatch_keeps
      assumption

theorem execManifest_keeps {s s9 : State} {h1 : SubHdr} {bytes : Bytes} (eq : execManifest h1 bytes s = .next s9) : Keeps s s9 := by
  cases eq
  have h := Keeps.refl s
  split
  · assumption
  · split
    · apply State.fencedRefusal_keeps
      apply State.countTaken_keeps
      assumption
    · apply State.takeManifest_keeps
      apply State.countTaken_keeps
      assumption

theorem State.launchMsg_keeps {s0 s : State} (h1 : MsgHdr) (peer : Bool) (x : Ctrl) (h : Keeps s0 s) : Keeps s0 (State.launchMsg s h1 peer x) := by
  unfold State.launchMsg
  split
  · apply State.stray_keeps
    assumption
  · dsimp only
    apply State.setCatch_keeps
    assumption

theorem execJoinMessage_keeps {s s9 : State} {h1 : MsgHdr} {index : Nat} {hash : Nat} {summary : MemberSummary} (eq : execJoinMessage h1 index hash summary s = .next s9) : Keeps s s9 := by
  cases eq
  have h := Keeps.refl s
  apply State.launchMsg_keeps
  assumption

theorem execRefuse_keeps {s s9 : State} {h1 : MsgHdr} {index : Nat} {reason : Nat} (eq : execRefuse h1 index reason s = .next s9) : Keeps s s9 := by
  cases eq
  have h := Keeps.refl s
  apply State.launchMsg_keeps
  assumption

theorem execConfirm_keeps {s s9 : State} {m : ConfirmMsg} (eq : execConfirm m s = .next s9) : Keeps s s9 := by
  cases eq
  have h := Keeps.refl s
  apply State.launchMsg_keeps
  assumption

theorem execAbort_keeps {s s9 : State} {h1 : MsgHdr} (eq : execAbort h1 s = .next s9) : Keeps s s9 := by
  cases eq
  have h := Keeps.refl s
  apply State.launchMsg_keeps
  assumption

theorem execLockstepHello_keeps {s s9 : State} {h1 : MsgHdr} {horizon : Nat} {launch : Nat} {index : Nat} (eq : execLockstepHello h1 horizon launch index s = .next s9) : Keeps s s9 := by
  cases eq
  have h := Keeps.refl s
  apply State.launchMsg_keeps
  assumption

theorem State.launchEffect_keeps {s0 s : State} (k : Fin 16) (sender : Nat) (x : Ctrl) (h : Keeps s0 s) : Keeps s0 (State.launchEffect s k sender x) := by
  unfold State.launchEffect
  dsimp only
  split
  · apply State.setCatch_keeps
    assumption
  · apply State.setCatch_keeps
    assumption
  · apply State.setCatch_keeps
    assumption
  · apply State.setCatch_keeps
    assumption
  · split
    · split
      · assumption
      · apply State.sendLaunch_keeps
        assumption
    · assumption
  · assumption

theorem State.launchEffects_keeps {s0 s : State} (k : Fin 16) (h : Keeps s0 s) : Keeps s0 (State.launchEffects s k) := by
  unfold State.launchEffects
  dsimp only
  split
  · assumption
  · refine Keeps.foldl ?_ ?_
    · intro s1 x1 h1
      apply State.launchEffect_keeps
      assumption
    · apply State.setCatch_keeps
      assumption

theorem State.firstBatch_keeps {s0 s : State} (k : Fin 16) (h : Keeps s0 s) : Keeps s0 (State.firstBatch s k).1 := by
  unfold State.firstBatch
  split
  · assumption
  · apply State.buildChanges_keeps
    apply State.modCtx_keeps
    assumption

theorem State.firstBatch_keeps' {s0 s s9 : State} {k : Fin 16} {r9 : _} (eq : State.firstBatch s k = (s9, r9)) (h : Keeps s0 s) : Keeps s0 s9 := by
  have := State.firstBatch_keeps k h
  rwa [eq] at this

theorem State.launchDecision_keeps {s0 s : State} (k : Fin 16) (h : Keeps s0 s) : Keeps s0 (State.launchDecision s k) := by
  unfold State.launchDecision
  dsimp only
  split
  · assumption
  · split
    · assumption
    · refine Keeps.foldl ?_ ?_
      · intro s1 x1 h1
        apply State.sendLaunch_keeps
        assumption
      · split
        · apply State.firstBatch_keeps
          apply State.setCatch_keeps
          assumption
        · dsimp only
          apply State.setCatch_keeps
          assumption

theorem State.dropLoading_keeps {s0 s : State} (k : Fin 16) (j : Fin 16) (h : Keeps s0 s) : Keeps s0 (State.dropLoading s k j) := by
  unfold State.dropLoading
  dsimp only
  split
  · apply State.emptySlot_keeps
    apply State.clearKey_keeps
    apply State.requestsCancelled_keeps
    split
    · apply State.result_keeps
      assumption
    · assumption
  · assumption

theorem State.launchAbort_keeps {s0 s : State} (k : Fin 16) (h : Keeps s0 s) : Keeps s0 (State.launchAbort s k) := by
  unfold State.launchAbort
  dsimp only
  split
  · split
    · assumption
    · apply State.raise_keeps
      apply State.setCatch_keeps
      refine Keeps.foldl ?_ ?_
      · intro s1 x1 h1
        apply State.dropLoading_keeps
        assumption
      · split
        · apply State.fault_keeps
          assumption
        · apply State.pushRec_keeps
          assumption
  · assumption

theorem State.commitCheck_keeps {s0 s : State} (k : Fin 16) (h : Keeps s0 s) : Keeps s0 (State.commitCheck s k) := by
  unfold State.commitCheck
  dsimp only
  split
  · assumption
  · split
    · apply State.setCatch_keeps
      assumption
    · split
      · apply State.raise_keeps
        apply State.pageError_keeps
        apply State.setCatch_keeps
        assumption
      · split
        · apply State.raise_keeps
          apply State.pageError_keeps
          apply State.setCatch_keeps
          assumption
        · apply State.raise_keeps
          apply State.setCatch_keeps
          assumption

theorem State.releaseCheck_keeps {s0 s : State} (k : Fin 16) (h : Keeps s0 s) : Keeps s0 (State.releaseCheck s k) := by
  unfold State.releaseCheck
  dsimp only
  split
  · assumption
  · split
    · apply State.pageError_keeps
      apply State.setCatch_keeps
      assumption
    · split
      · apply State.raise_keeps
        apply State.setCatch_keeps
        assumption
      · apply State.setCatch_keeps
        assumption

theorem State.writeCommit_keeps {s0 s : State} (k : Fin 16) (commit : Bool) (release : Bool) (priv : Nat) (h : Keeps s0 s) : Keeps s0 (State.writeCommit s k commit release priv) := by
  unfold State.writeCommit
  dsimp only
  apply State.setCatch_keeps
  assumption

end Sys2Proof.Machine
end

