-- ==== Sys2Proof/Laws/KeepsLoad.lean ====
section
/-! SUPPORT. What every operation and meaning of Machine/Load.lean keeps (`Keeps`). -/

namespace Sys2Proof.Machine

theorem State.bindCatch_keeps {s0 s : State} (k : Fin 16) (e : Fin 16) (rota : Nat) (h : Keeps s0 s) : Keeps s0 (State.bindCatch s k e rota) := by
  unfold State.bindCatch
  dsimp only
  apply State.modCtx_keeps
  assumption

theorem State.loadRefused_keeps {s0 s : State} (k : Fin 16) (w : Waiting) (reason : Nat) (due : Nat) (h : Keeps s0 s) : Keeps s0 (State.loadRefused s k w reason due) := by
  unfold State.loadRefused
  dsimp only
  apply State.emptySlot_keeps
  apply State.clearKey_keeps
  apply State.requestsCancelled_keeps
  split
  · split
    · apply State.sendOthers_keeps
      apply State.log_keeps
      apply State.result_keeps
      assumption
    · apply State.log_keeps
      apply State.result_keeps
      assumption
  · split
    · apply State.sendOthers_keeps
      apply State.result_keeps
      assumption
    · apply State.result_keeps
      assumption

theorem State.takeLoad_keeps {s0 s : State} (h1 : SubHdr) (r : LoadReq) (due : Nat) (h : Keeps s0 s) : Keeps s0 (State.takeLoad s h1 r due) := by
  unfold State.takeLoad
  dsimp only
  split
  · apply State.result_keeps
    assumption
  · split
    · apply State.holdEnable_keeps
      assumption
    · apply State.result_keeps
      assumption
    · split
      · apply State.loadRefused_keeps
        apply State.setPhase_keeps
        apply State.modCtx_keeps
        assumption
      · split
        · split
          · apply State.loadRefused_keeps
            apply State.setPhase_keeps
            apply State.modCtx_keeps
            assumption
          · apply State.bindCatch_keeps
            apply State.setPhase_keeps
            apply State.modCtx_keeps
            assumption
        · split
          · apply State.loadRefused_keeps
            apply State.setPhase_keeps
            apply State.modCtx_keeps
            assumption
          · apply State.bindCatch_keeps
            apply State.setPhase_keeps
            apply State.modCtx_keeps
            assumption
        · split
          · apply State.loadRefused_keeps
            apply State.setPhase_keeps
            apply State.modCtx_keeps
            assumption
          · apply State.bindCatch_keeps
            apply State.setPhase_keeps
            apply State.modCtx_keeps
            assumption

theorem execLoad_keeps {s s9 : State} {h1 : SubHdr} {r : LoadReq} (eq : execLoad h1 r s = .next s9) : Keeps s s9 := by
  cases eq
  have h := Keeps.refl s
  split
  · assumption
  · split
    · apply State.fencedRefusal_keeps
      apply State.countTaken_keeps
      assumption
    · apply State.takeLoad_keeps
      apply State.countTaken_keeps
      assumption

theorem State.takeReleasedThaw_keeps {s0 s : State} (h1 : SubHdr) (r : ThawReq) (due : Nat) (h : Keeps s0 s) : Keeps s0 (State.takeReleasedThaw s h1 r due) := by
  unfold State.takeReleasedThaw
  dsimp only
  split
  · apply State.holdEnable_keeps
    assumption
  · apply State.result_keeps
    assumption
  · split
    · apply State.loadRefused_keeps
      apply State.setPhase_keeps
      apply State.modCtx_keeps
      assumption
    · split
      · apply State.loadRefused_keeps
        apply State.setPhase_keeps
        apply State.modCtx_keeps
        assumption
      · apply State.bindCatch_keeps
        apply State.setPhase_keeps
        apply State.modCtx_keeps
        assumption

theorem State.takeAnyThaw_keeps {s0 s : State} (h1 : SubHdr) (r : ThawReq) (taken : Nat) (due : Nat) (h : Keeps s0 s) : Keeps s0 (State.takeAnyThaw s h1 r taken due) := by
  unfold State.takeAnyThaw
  split
  · apply State.accept_keeps
    assumption
  · split
    · apply State.result_keeps
      assumption
    · apply State.takeReleasedThaw_keeps
      assumption

theorem execThaw_keeps {s s9 : State} {h1 : SubHdr} {r : ThawReq} (eq : execThaw h1 r s = .next s9) : Keeps s s9 := by
  cases eq
  have h := Keeps.refl s
  split
  · assumption
  · split
    · apply State.fencedRefusal_keeps
      apply State.countTaken_keeps
      assumption
    · apply State.takeAnyThaw_keeps
      apply State.countTaken_keeps
      assumption

theorem State.loadChecks_keeps {s0 s : State} (k : Fin 16) (w : Waiting) (blob image : Bytes) (named : Nat) (fast : Bool)
    (conflict : Image → Bool) (go : State → State) (hgo : ∀ s, Keeps s0 s → Keeps s0 (go s)) (h : Keeps s0 s) :
    Keeps s0 (State.loadChecks s k w blob image named fast conflict go) := by
  unfold State.loadChecks
  split
  · apply State.loadRefused_keeps
    assumption
  · dsimp only
    split
    · apply State.loadRefused_keeps
      with_reducible refine Keeps.updMem ?_ rfl rfl rfl ⟨rfl, rfl⟩ ?_ ?_
      · assumption
      · exact id
      · exact id
    · split
      · apply State.loadRefused_keeps
        with_reducible refine Keeps.updMem ?_ rfl rfl rfl ⟨rfl, rfl⟩ ?_ ?_
        · assumption
        · exact id
        · exact id
      · refine hgo _ ?_
        apply State.takeImage_keeps
        with_reducible refine Keeps.updMem ?_ rfl rfl rfl ⟨rfl, rfl⟩ ?_ ?_
        · assumption
        · exact id
        · exact id

theorem State.loadReady_keeps {s0 s : State} (k : Fin 16) (h : Keeps s0 s) : Keeps s0 (State.loadReady s k) := by
  unfold State.loadReady
  dsimp only
  split
  · apply State.setCatch_keeps
    apply State.sendLaunch_keeps
    apply State.modCtx_keeps
    assumption
  · apply State.modCtx_keeps
    assumption

theorem State.loadComplete_keeps {s0 s : State} (k : Fin 16) (cache : BitVec 64) (image : Bytes) (peerGraph : Option Bytes) (h : Keeps s0 s) : Keeps s0 (State.loadComplete s k cache image peerGraph) := by
  unfold State.loadComplete
  dsimp only
  split
  · assumption
  · split
    · split
      · split
        · assumption
        · refine State.loadChecks_keeps _ _ _ _ _ _ _ _ ?_ ?_
          · intro s1 h1
            apply State.loadReady_keeps
            assumption
          · assumption
      · assumption
    · split
      · split
        · assumption
        · refine State.loadChecks_keeps _ _ _ _ _ _ _ _ ?_ ?_
          · intro s1 h1
            split
            · apply State.sendAll_keeps
              apply State.modCtx_keeps
              assumption
            · apply State.modCtx_keeps
              assumption
          · assumption
      · assumption
    · assumption

theorem execLoadComplete_keeps {s s9 : State} {slot : Fin 16} {cache : BitVec 64} {input : LoadInput} (eq : execLoadComplete slot cache input s = .next s9) : Keeps s s9 := by
  cases eq
  have h := Keeps.refl s
  apply State.loadComplete_keeps
  assumption

theorem State.takePending_keeps {s0 s : State} (k : Fin 16) (h : Keeps s0 s) : Keeps s0 (State.takePending s k) := by
  unfold State.takePending
  dsimp only
  split
  · assumption
  · split
    · assumption
    · split
      · apply State.takeLoad_keeps
        apply State.setCtx_keeps
        assumption
      · apply State.takeAnyThaw_keeps
        apply State.setCtx_keeps
        assumption
      · apply State.setCtx_keeps
        assumption

theorem State.thawMessage_keeps {s0 s : State} (k : Fin 16) (h : Keeps s0 s) : Keeps s0 (State.thawMessage s k) := by
  unfold State.thawMessage
  dsimp only
  split
  · apply State.thawEffect_keeps
    apply State.setCtx_keeps
    assumption
  · assumption

theorem State.freezeScrubEnd_keeps {s0 s : State} (k : Fin 16) (h : Keeps s0 s) : Keeps s0 (State.freezeScrubEnd s k) := by
  unfold State.freezeScrubEnd
  dsimp only
  split
  · apply State.thawMessage_keeps
    apply State.takePending_keeps
    apply State.freezeEnd_keeps
    assumption
  · apply State.freezeEnd_keeps
    assumption

end Sys2Proof.Machine
end

