-- ==== Sys2Proof/Laws/KeepsSteward.lean ====
section
/-! SUPPORT. What every operation and meaning of Machine/Steward.lean keeps (`Keeps`). -/

namespace Sys2Proof.Machine

theorem State.accessError_keeps {s0 s : State} (page : Fin 64) (code : Nat) (p : Priv) (offset : Nat) (h : Keeps s0 s) : Keeps s0 (State.accessError s page code p offset) := by
  unfold State.accessError
  apply State.pageError_keeps
  assumption

theorem State.heartbeat_keeps {s0 s : State} (p : Priv) (value : Word) (h : Keeps s0 s) : Keeps s0 (State.heartbeat s p value) := by
  unfold State.heartbeat
  split
  · apply State.accessError_keeps
    assumption
  · dsimp only
    with_reducible refine Keeps.upd ?_ rfl rfl rfl ⟨rfl, rfl⟩
    assumption

theorem State.stewardHeartbeat_keeps {s0 s : State} (p : Priv) (value : Word) (h : Keeps s0 s) : Keeps s0 (State.stewardHeartbeat s p value) := by
  unfold State.stewardHeartbeat
  apply State.heartbeat_keeps
  apply State.serve_keeps
  assumption

theorem execStewardHeartbeat_keeps {s s9 : State} {p : Priv} {value : Word} (eq : execStewardHeartbeat p value s = .next s9) : Keeps s s9 := by
  cases eq
  have h := Keeps.refl s
  apply State.stewardHeartbeat_keeps
  assumption

theorem State.heartbeatLate_keeps {s0 s : State} (h : Keeps s0 s) : Keeps s0 (State.heartbeatLate s) := by
  unfold State.heartbeatLate
  split
  · apply State.raise_keeps
    with_reducible refine Keeps.upd ?_ rfl rfl rfl ⟨rfl, rfl⟩
    assumption
  · assumption

theorem execHeartbeatLate_keeps {s s9 : State} (eq : execHeartbeatLate s = .next s9) : Keeps s s9 := by
  cases eq
  have h := Keeps.refl s
  apply State.heartbeatLate_keeps
  assumption

theorem State.stewardWatchdog_keeps {s0 s : State} (h : Keeps s0 s) : Keeps s0 (State.stewardWatchdog s) := by
  unfold State.stewardWatchdog
  split
  · apply State.fence_keeps
    assumption
  · assumption

theorem execStewardWatchdog_keeps {s s9 : State} (eq : execStewardWatchdog s = .next s9) : Keeps s s9 := by
  cases eq
  have h := Keeps.refl s
  apply State.stewardWatchdog_keeps
  assumption

theorem State.takeFirmware_keeps {s0 s : State} (h1 : SubHdr) (b : Bytes) (due : Nat) (h : Keeps s0 s) : Keeps s0 (State.takeFirmware s h1 b due) := by
  unfold State.takeFirmware
  dsimp only
  split
  · apply State.result_keeps
    apply State.log_keeps
    assumption
  · apply State.result_keeps
    apply State.log_keeps
    apply State.raise_keeps
    with_reducible refine Keeps.upd ?_ rfl rfl rfl ⟨rfl, rfl⟩
    assumption

theorem execFwUpdate_keeps {s s9 : State} {h1 : SubHdr} {image : Bytes} (eq : execFwUpdate h1 image s = .next s9) : Keeps s s9 := by
  cases eq
  have h := Keeps.refl s
  split
  · apply State.takeFirmware_keeps
    apply State.countTaken_keeps
    assumption
  · assumption

theorem State.fwActivate_keeps {s0 s : State} (h : Keeps s0 s) : Keeps s0 (State.fwActivate s) := by
  unfold State.fwActivate
  split
  · assumption
  · dsimp only
    split
    · assumption
    · apply State.pushRec_keeps
      with_reducible refine Keeps.upd ?_ rfl rfl rfl ⟨rfl, rfl⟩
      apply State.raise_keeps
      apply State.log_keeps
      assumption

theorem execFwActivate_keeps {s s9 : State} (eq : execFwActivate s = .next s9) : Keeps s s9 := by
  cases eq
  have h := Keeps.refl s
  apply State.fwActivate_keeps
  assumption

theorem State.fwReverted_keeps {s0 s : State} (h : Keeps s0 s) : Keeps s0 (State.fwReverted s) := by
  unfold State.fwReverted
  split
  · dsimp only
    apply State.pushRec_keeps
    with_reducible refine Keeps.upd ?_ rfl rfl rfl ⟨rfl, rfl⟩
    apply State.raise_keeps
    apply State.log_keeps
    assumption
  · assumption

theorem execFwReverted_keeps {s s9 : State} (eq : execFwReverted s = .next s9) : Keeps s s9 := by
  cases eq
  have h := Keeps.refl s
  apply State.fwReverted_keeps
  assumption

theorem State.logicFault_keeps {s0 s : State} (a__internal_hyg0 : LogicFault) (h : Keeps s0 s) : Keeps s0 (State.logicFault s a__internal_hyg0) := by
  unfold State.logicFault
  split
  · apply State.fence_keeps
    assumption
  · apply State.fence_keeps
    with_reducible refine Keeps.updMem ?_ rfl rfl rfl ⟨rfl, rfl⟩ ?_ ?_
    · assumption
    · exact id
    · exact id
  · apply State.modCtx_keeps
    assumption

theorem State.memoryError_keeps {s0 s : State} (e : SramError) (h : Keeps s0 s) : Keeps s0 (State.memoryError s e) := by
  unfold State.memoryError
  dsimp only
  split
  · split
    · assumption
    · split
      · apply State.raise_keeps
        with_reducible refine Keeps.updMem ?_ rfl rfl rfl ⟨rfl, rfl⟩ ?_ ?_
        · apply State.raise_keeps
          with_reducible refine Keeps.updMem ?_ rfl rfl rfl ⟨rfl, rfl⟩ ?_ ?_
          · assumption
          · exact id
          · exact id
        · exact id
        · exact id
      · apply State.raise_keeps
        with_reducible refine Keeps.updMem ?_ rfl rfl rfl ⟨rfl, rfl⟩ ?_ ?_
        · assumption
        · exact id
        · exact id
  · split
    · apply State.fence_keeps
      split
      · assumption
      · with_reducible refine Keeps.updMem ?_ rfl rfl rfl ⟨rfl, rfl⟩ ?_ ?_
        · assumption
        · exact id
        · exact id
    · split
      · split
        · assumption
        · with_reducible refine Keeps.updMem ?_ rfl rfl rfl ⟨rfl, rfl⟩ ?_ ?_
          · assumption
          · exact id
          · exact id
      · split
        · apply State.fault_keeps
          split
          · assumption
          · with_reducible refine Keeps.updMem ?_ rfl rfl rfl ⟨rfl, rfl⟩ ?_ ?_
            · assumption
            · exact id
            · exact id
        · split
          · assumption
          · apply State.fence_keeps
            with_reducible refine Keeps.updMem ?_ rfl rfl rfl ⟨rfl, rfl⟩ ?_ ?_
            · assumption
            · exact id
            · exact id

theorem State.sramError_keeps {s0 s : State} (e : SramError) (h : Keeps s0 s) : Keeps s0 (State.sramError s e) := by
  unfold State.sramError
  split
  · apply State.logicFault_keeps
    assumption
  · apply State.memoryError_keeps
    assumption

theorem execSramError_keeps {s s9 : State} {e : SramError} (eq : execSramError e s = .next s9) : Keeps s s9 := by
  cases eq
  have h := Keeps.refl s
  apply State.sramError_keeps
  assumption

end Sys2Proof.Machine
end

