-- ==== Sys2Proof/Laws/KeepsBoundary.lean ====
section
/-! SUPPORT. What every operation and meaning of Machine/Boundary.lean keeps (`Keeps`). -/

namespace Sys2Proof.Machine

theorem State.catchUp_keeps {s0 s : State} (p n : Nat) (h : Keeps s0 s) : Keeps s0 (State.catchUp p n s) := by
  induction n generalizing s with
  | zero => exact h
  | succ n ih =>
    unfold State.catchUp
    split
    · refine ih ?_
      with_reducible refine Keeps.updMem ?_ rfl rfl rfl ⟨rfl, rfl⟩ ?_ ?_
      · assumption
      · exact id
      · exact id
    · assumption

theorem State.gtcUp_keeps {s0 s : State} (h : Keeps s0 s) : Keeps s0 (State.gtcUp s) := by
  unfold State.gtcUp
  apply State.catchUp_keeps
  assumption

theorem State.countPorts_keeps {s0 s : State} (b : BoundaryIn) (h : Keeps s0 s) : Keeps s0 (State.countPorts s b) := by
  unfold State.countPorts
  split
  · dsimp only
    with_reducible refine Keeps.upd ?_ rfl rfl rfl ⟨rfl, rfl⟩
    assumption
  · assumption

theorem State.regionFault_keeps {s0 s : State} (x : Nat × Nat × Bytes) (h : Keeps s0 s) : Keeps s0 (State.regionFault s x) := by
  unfold State.regionFault
  dsimp only
  apply State.modCore_keeps
  assumption

theorem State.boundaryIn_keeps {s0 s : State} (b : BoundaryIn) (h : Keeps s0 s) : Keeps s0 (State.boundaryIn s b) := by
  unfold State.boundaryIn
  dsimp only
  apply State.countPorts_keeps
  with_reducible refine Keeps.updMem ?_ rfl rfl rfl ⟨rfl, rfl⟩ ?_ ?_
  · refine Keeps.foldl ?_ ?_
    · intro s1 x1 h1
      apply State.regionFault_keeps
      assumption
    · assumption
  · intro hw
    refine Memory.wf_foldl ?_ _ ?_
    · intro m1 x1 hm
      apply Memory.wf_writeBytes
      assumption
    · assumption
  · intro hw
    refine Memory.wf_foldl ?_ _ ?_
    · intro m1 x1 hm
      apply Memory.wf_writeBytes
      assumption
    · assumption

theorem State.countBusy_keeps {s0 s : State} (h : Keeps s0 s) : Keeps s0 (State.countBusy s) := by
  unfold State.countBusy
  split
  · dsimp only
    with_reducible refine Keeps.upd ?_ rfl rfl rfl ⟨rfl, rfl⟩
    assumption
  · assumption

theorem State.slotPassed_keeps {s0 s : State} (h : Keeps s0 s) : Keeps s0 (State.slotPassed s) := by
  unfold State.slotPassed
  dsimp only
  with_reducible refine Keeps.upd ?_ rfl rfl rfl ⟨rfl, rfl⟩
  apply State.countBusy_keeps
  apply State.threadSlot_keeps
  assumption

theorem State.lagTest_keeps {s0 s : State} (p : Nat) (h : Keeps s0 s) : Keeps s0 (State.lagTest s p) := by
  unfold State.lagTest
  dsimp only
  split
  · assumption
  · refine Keeps.foldl ?_ ?_
    · intro s1 x1 h1
      apply State.modCtx_keeps
      assumption
    · apply State.raise_keeps
      with_reducible refine Keeps.upd ?_ rfl rfl rfl ⟨rfl, rfl⟩
      refine Keeps.foldl ?_ ?_
      · intro s1 x1 h1
        split
        · apply State.faultCode_keeps
          assumption
        · assumption
      · assumption

theorem State.lagLimitTest_keeps {s0 s : State} (h : Keeps s0 s) : Keeps s0 (State.lagLimitTest s) := by
  unfold State.lagLimitTest
  split
  · dsimp only
    split
    · apply State.lagTest_keeps
      apply State.gtcUp_keeps
      apply State.runOut_keeps
      assumption
    · apply State.gtcUp_keeps
      apply State.runOut_keeps
      assumption
  · assumption

theorem execLagLimitTest_keeps {s s9 : State} (eq : execLagLimitTest s = .next s9) : Keeps s s9 := by
  cases eq
  have h := Keeps.refl s
  apply State.lagLimitTest_keeps
  assumption

theorem State.pageDisables_keeps {s0 s : State} (h : Keeps s0 s) : Keeps s0 (State.pageDisables s) := by
  unfold State.pageDisables
  with_reducible refine Keeps.updMem ?_ rfl rfl rfl ⟨rfl, rfl⟩ ?_ ?_
  · assumption
  · exact id
  · exact id

theorem State.pageBoundary_keeps {s0 s : State} (h : Keeps s0 s) : Keeps s0 (State.pageBoundary s) := by
  unfold State.pageBoundary
  with_reducible refine Keeps.upd ?_ rfl rfl rfl ⟨rfl, rfl⟩
  assumption

theorem State.extActions_keeps {s0 s : State} (h : Keeps s0 s) : Keeps s0 (State.extActions s) := by
  unfold State.extActions
  dsimp only
  split
  · refine Keeps.foldl ?_ ?_
    · intro s1 x1 h1
      apply State.trigger_keeps
      assumption
    · split
      · refine Keeps.foldl ?_ ?_
        · intro s1 x1 h1
          split
          · apply State.haltContext_keeps
            apply State.modCtx_keeps
            assumption
          · assumption
        · with_reducible refine Keeps.updMem ?_ rfl rfl rfl ⟨rfl, rfl⟩ ?_ ?_
          · assumption
          · exact id
          · exact id
      · with_reducible refine Keeps.updMem ?_ rfl rfl rfl ⟨rfl, rfl⟩ ?_ ?_
        · assumption
        · exact id
        · exact id
  · split
    · refine Keeps.foldl ?_ ?_
      · intro s1 x1 h1
        split
        · apply State.haltContext_keeps
          apply State.modCtx_keeps
          assumption
        · assumption
      · with_reducible refine Keeps.updMem ?_ rfl rfl rfl ⟨rfl, rfl⟩ ?_ ?_
        · assumption
        · exact id
        · exact id
    · with_reducible refine Keeps.updMem ?_ rfl rfl rfl ⟨rfl, rfl⟩ ?_ ?_
      · assumption
      · exact id
      · exact id

theorem State.beforeSwitch_keeps {s0 s : State} (k : Fin 16) (h : Keeps s0 s) : Keeps s0 (State.beforeSwitch s k) := by
  unfold State.beforeSwitch
  split
  · dsimp only
    split
    · apply State.compareCopies_keeps
      apply State.stagingBoundary_keeps
      apply State.routingBoundary_keeps
      apply State.cancelBoundary_keeps
      assumption
    · apply State.releaseThreads_keeps
      apply State.modCtx_keeps
      apply State.compareCopies_keeps
      apply State.stagingBoundary_keeps
      apply State.routingBoundary_keeps
      apply State.cancelBoundary_keeps
      assumption
  · assumption

theorem State.afterSwitch_keeps {s0 s : State} (k : Fin 16) (h : Keeps s0 s) : Keeps s0 (State.afterSwitch s k) := by
  unfold State.afterSwitch
  apply State.sweep_keeps
  apply State.completeSteps_keeps
  apply State.resolve_keeps
  assumption

theorem State.dispatch_keeps {s0 s : State} (h : Keeps s0 s) : Keeps s0 (State.dispatch s) := by
  unfold State.dispatch
  dsimp only
  refine Keeps.foldl ?_ ?_
  · intro s1 x1 h1
    apply State.afterSwitch_keeps
    assumption
  · refine Keeps.foldl ?_ ?_
    · intro s1 x1 h1
      apply State.threadSwitch_keeps
      assumption
    · refine Keeps.foldl ?_ ?_
      · intro s1 x1 h1
        apply State.beforeSwitch_keeps
        assumption
      · assumption

theorem State.startSlot_keeps {s0 s : State} (h : Keeps s0 s) : Keeps s0 (State.startSlot s) := by
  unfold State.startSlot
  dsimp only
  apply State.dispatch_keeps
  refine Keeps.foldl ?_ ?_
  · intro s1 x1 h1
    apply State.sealCheck_keeps
    assumption
  · apply State.work_keeps
    apply State.startAll_keeps
    refine Keeps.foldl ?_ ?_
    · intro s1 x1 h1
      split
      · apply State.scrubDue_keeps
        assumption
      · assumption
    · assumption

theorem State.closeSteps_keeps {s0 s : State} (h : Keeps s0 s) : Keeps s0 (State.closeSteps s) := by
  unfold State.closeSteps
  refine Keeps.foldl ?_ ?_
  · intro s1 x1 h1
    dsimp only
    split
    · apply State.freeCancelled_keeps
      apply State.completeSteps_keeps
      assumption
    · apply State.completeSteps_keeps
      assumption
  · assumption

theorem State.endAll_keeps {s0 s : State} (h : Keeps s0 s) : Keeps s0 (State.endAll s) := by
  unfold State.endAll
  apply State.closeSteps_keeps
  apply State.ends_keeps
  assumption

theorem State.threadEnds_keeps {s0 s : State} (h : Keeps s0 s) : Keeps s0 (State.threadEnds s) := by
  unfold State.threadEnds
  apply State.closeSteps_keeps
  apply State.framesLoaded_keeps
  apply State.threadCommands_keeps
  assumption

theorem State.endSlot_keeps {s0 s : State} (b : BoundaryIn) (h : Keeps s0 s) : Keeps s0 (State.endSlot s b) := by
  unfold State.endSlot
  apply State.gtcUp_keeps
  apply State.slotPassed_keeps
  apply State.boundaryIn_keeps
  apply State.sendTests_keeps
  apply State.runOut_keeps
  assumption

theorem State.endLast_keeps {s0 s : State} (b : BoundaryIn) (h : Keeps s0 s) : Keeps s0 (State.endLast s b) := by
  unfold State.endLast
  dsimp only
  apply State.lagTest_keeps
  apply State.endSlot_keeps
  assumption

theorem State.enterMargin_keeps {s0 s : State} (stretch : List Nat) (h : Keeps s0 s) : Keeps s0 (State.enterMargin s stretch) := by
  unfold State.enterMargin
  apply State.work_keeps
  apply State.endAll_keeps
  apply State.gapDue_keeps
  apply State.newSlot_keeps
  assumption

theorem State.marginStart_keeps {s0 s : State} (b : BoundaryIn) (h : Keeps s0 s) : Keeps s0 (State.marginStart s b) := by
  unfold State.marginStart
  split
  · dsimp only
    split
    · assumption
    · apply State.enterMargin_keeps
      apply State.endLast_keeps
      assumption
  · assumption

theorem execMarginStart_keeps {s s9 : State} {b : BoundaryIn} (eq : execMarginStart b s = .next s9) : Keeps s s9 := by
  cases eq
  have h := Keeps.refl s
  apply State.marginStart_keeps
  assumption

theorem State.resumeHere_keeps {s0 s : State} (k : Fin 16) (h : Keeps s0 s) : Keeps s0 (State.resumeHere s k) := by
  unfold State.resumeHere
  split
  · apply State.resumeHalt_keeps
    assumption
  · assumption

theorem State.slotBoundary_keeps {s0 s : State} (b : BoundaryIn) (h : Keeps s0 s) : Keeps s0 (State.slotBoundary s b) := by
  unfold State.slotBoundary
  split
  · assumption
  · dsimp only
    apply State.startSlot_keeps
    apply State.extActions_keeps
    apply State.threadEnds_keeps
    apply State.ends_keeps
    apply State.teardowns_keeps
    refine Keeps.foldl ?_ ?_
    · intro s1 x1 h1
      apply State.resumeHere_keeps
      assumption
    · apply State.pageBoundary_keeps
      with_reducible refine Keeps.updMem ?_ rfl rfl rfl ⟨rfl, rfl⟩ ?_ ?_
      · apply State.gapDue_keeps
        apply State.newSlot_keeps
        apply State.endSlot_keeps
        assumption
      · exact id
      · exact id

theorem execSlotBoundary_keeps {s s9 : State} {b : BoundaryIn} (eq : execSlotBoundary b s = .next s9) : Keeps s s9 := by
  cases eq
  have h := Keeps.refl s
  apply State.slotBoundary_keeps
  assumption

end Sys2Proof.Machine
end

