-- ==== Sys2Proof/Laws/KeepsRotation.lean ====
section
/-! SUPPORT. What every operation and meaning of Machine/Rotation.lean keeps (`Keeps`). -/

namespace Sys2Proof.Machine

theorem State.autoFreeze_keeps {s0 s : State} (k : Fin 16) (h : Keeps s0 s) : Keeps s0 (State.autoFreeze s k) := by
  unfold State.autoFreeze
  dsimp only
  apply State.setCtx_keeps
  assumption

theorem State.rotate_keeps {s0 s : State} (e : Fin 16) (k : Fin 16) (j : Fin 16) (h : Keeps s0 s) : Keeps s0 (State.rotate s e k j) := by
  unfold State.rotate
  dsimp only
  split
  · apply State.sendAll_keeps
    apply State.autoFreeze_keeps
    apply State.modCtx_keeps
    apply State.modCtx_keeps
    apply State.setCatch_keeps
    assumption
  · apply State.freezeEffect_keeps
    apply State.autoFreeze_keeps
    apply State.modCtx_keeps
    apply State.modCtx_keeps
    apply State.setCatch_keeps
    assumption

theorem State.stagnate_keeps {s0 s : State} (e : Fin 16) (h : Keeps s0 s) : Keeps s0 (State.stagnate s e) := by
  unfold State.stagnate
  dsimp only
  split
  · assumption
  · apply State.log_keeps
    apply State.raise_keeps
    apply State.setCatch_keeps
    assumption

theorem State.rotation_keeps {s0 s : State} (cmid : Nat) (h : Keeps s0 s) : Keeps s0 (State.rotation s cmid) := by
  unfold State.rotation
  split
  · assumption
  · split
    · assumption
    · dsimp only
      split
      · assumption
      · split
        · apply State.rotate_keeps
          assumption
        · apply State.stagnate_keeps
          assumption

theorem execRotation_keeps {s s9 : State} {cmid : Nat} (eq : execRotation cmid s = .next s9) : Keeps s s9 := by
  cases eq
  have h := Keeps.refl s
  apply State.rotation_keeps
  assumption

theorem State.rotateThaw_keeps {s0 s : State} (k : Fin 16) (h : Keeps s0 s) : Keeps s0 (State.rotateThaw s k) := by
  unfold State.rotateThaw
  dsimp only
  split
  · assumption
  · split
    · apply State.takeThaw_keeps
      apply State.setCatch_keeps
      assumption
    · apply State.setCatch_keeps
      assumption

theorem State.scrubEnd_keeps {s0 s : State} (k : Fin 16) (h : Keeps s0 s) : Keeps s0 (State.scrubEnd s k) := by
  unfold State.scrubEnd
  dsimp only
  split
  · apply State.rotateThaw_keeps
    apply State.freezeScrubEnd_keeps
    assumption
  · apply State.freezeScrubEnd_keeps
    assumption

theorem execFreezeScrubEnd_keeps {s s9 : State} {slot : Fin 16} (eq : execFreezeScrubEnd slot s = .next s9) : Keeps s s9 := by
  cases eq
  have h := Keeps.refl s
  apply State.scrubEnd_keeps
  assumption

theorem execRestoreEnd_keeps {s s9 : State} {slot : Fin 16} {image : FreezeImageRef} (eq : execRestoreEnd slot image s = .next s9) : Keeps s s9 := by
  cases eq
  have h := Keeps.refl s
  apply State.restoreEnd_keeps
  assumption

end Sys2Proof.Machine
end

