-- ==== Sys2Proof/Laws/KeepsPoll.lean ====
section
/-! SUPPORT. What every operation and meaning of Machine/Poll.lean keeps (`Keeps`). -/

namespace Sys2Proof.Machine

theorem State.giveBack_keeps {s0 s : State} (q : SlotImage) (h : Keeps s0 s) : Keeps s0 (State.giveBack s q) := by
  unfold State.giveBack
  with_reducible refine Keeps.updMem ?_ rfl rfl rfl ⟨rfl, rfl⟩ ?_ ?_
  · assumption
  · intro hw
    apply Memory.wf_writeBytes
    assumption
  · exact id

theorem State.refuseSlot_keeps {s0 s : State} (q : SlotImage) (reason : Nat) (h : Keeps s0 s) : Keeps s0 (State.refuseSlot s q reason) := by
  unfold State.refuseSlot
  apply State.pushRec_keeps
  assumption

theorem State.pollSlot_keeps {s0 s : State} (q : SlotImage) (h : Keeps s0 s) : Keeps s0 (State.pollSlot s q) := by
  unfold State.pollSlot
  split
  · assumption
  · dsimp only
    split
    · apply State.refuseSlot_keeps
      apply State.giveBack_keeps
      assumption
    · split
      · split
        · with_reducible refine Keeps.updMem ?_ rfl rfl rfl ⟨rfl, rfl⟩ ?_ ?_
          · with_reducible refine Keeps.updMem ?_ rfl rfl rfl ⟨rfl, rfl⟩ ?_ ?_
            · assumption
            · exact id
            · exact id
          · exact id
          · exact id
        · split
          · apply State.refuseSlot_keeps
            apply State.giveBack_keeps
            with_reducible refine Keeps.updMem ?_ rfl rfl rfl ⟨rfl, rfl⟩ ?_ ?_
            · assumption
            · exact id
            · exact id
          · split
            · apply State.refuseSlot_keeps
              apply State.giveBack_keeps
              with_reducible refine Keeps.updMem ?_ rfl rfl rfl ⟨rfl, rfl⟩ ?_ ?_
              · assumption
              · exact id
              · exact id
            · split
              · apply State.refuseSlot_keeps
                apply State.giveBack_keeps
                with_reducible refine Keeps.updMem ?_ rfl rfl rfl ⟨rfl, rfl⟩ ?_ ?_
                · assumption
                · exact id
                · exact id
              · split
                · apply State.refuseSlot_keeps
                  apply State.giveBack_keeps
                  with_reducible refine Keeps.updMem ?_ rfl rfl rfl ⟨rfl, rfl⟩ ?_ ?_
                  · assumption
                  · exact id
                  · exact id
                · with_reducible refine Keeps.updMem ?_ rfl rfl rfl ⟨rfl, rfl⟩ ?_ ?_
                  · apply State.giveBack_keeps
                    with_reducible refine Keeps.updMem ?_ rfl rfl rfl ⟨rfl, rfl⟩ ?_ ?_
                    · assumption
                    · exact id
                    · exact id
                  · exact id
                  · exact id
      · split
        · with_reducible refine Keeps.updMem ?_ rfl rfl rfl ⟨rfl, rfl⟩ ?_ ?_
          · assumption
          · exact id
          · exact id
        · split
          · apply State.refuseSlot_keeps
            apply State.giveBack_keeps
            assumption
          · split
            · apply State.refuseSlot_keeps
              apply State.giveBack_keeps
              assumption
            · split
              · apply State.refuseSlot_keeps
                apply State.giveBack_keeps
                assumption
              · split
                · apply State.refuseSlot_keeps
                  apply State.giveBack_keeps
                  assumption
                · with_reducible refine Keeps.updMem ?_ rfl rfl rfl ⟨rfl, rfl⟩ ?_ ?_
                  · apply State.giveBack_keeps
                    assumption
                  · exact id
                  · exact id

theorem State.poll_keeps {s0 s : State} (slots : List SlotImage) (h : Keeps s0 s) : Keeps s0 (State.poll s slots) := by
  unfold State.poll
  split
  · assumption
  · dsimp only
    refine Keeps.foldl ?_ ?_
    · intro s1 x1 h1
      apply State.pollSlot_keeps
      assumption
    · with_reducible refine Keeps.upd ?_ rfl rfl rfl ⟨rfl, rfl⟩
      assumption

theorem State.act_keeps {s0 s : State} (blobs : List (Nat × Bytes)) (x : Taken) (h : Keeps s0 s) : Keeps s0 (State.act s blobs x) := by
  unfold State.act
  dsimp only
  split
  · split
    · apply State.fencedRefusal_keeps
      assumption
    · apply State.takeLoad_keeps
      assumption
  · split
    · apply State.fencedRefusal_keeps
      assumption
    · apply State.takeManifest_keeps
      assumption
  · split
    · apply State.fencedRefusal_keeps
      assumption
    · apply State.takeAnyThaw_keeps
      assumption
  · apply State.takeFirmware_keeps
    assumption
  · apply State.accept_keeps
    assumption

theorem State.acts_keeps {s0 s : State} (blobs : List (Nat × Bytes)) (h : Keeps s0 s) : Keeps s0 (State.acts s blobs) := by
  unfold State.acts
  refine Keeps.foldl ?_ ?_
  · intro s1 x1 h1
    apply State.act_keeps
    assumption
  · with_reducible refine Keeps.upd ?_ rfl rfl rfl ⟨rfl, rfl⟩
    assumption

end Sys2Proof.Machine
end

