-- ==== Sys2Proof/Laws/KeepsGovernor.lean ====
section
/-! SUPPORT. What every operation and meaning of Machine/Governor.lean keeps (`Keeps`). -/

namespace Sys2Proof.Machine

theorem State.thermalCheck_keeps {s0 s : State} (tenths : Nat) (h : Keeps s0 s) : Keeps s0 (State.thermalCheck s tenths) := by
  unfold State.thermalCheck
  dsimp only
  split
  · split
    · split
      · refine Keeps.foldl ?_ ?_
        · intro s1 x1 h1
          apply State.modCtx_keeps
          assumption
        · split
          · apply State.raise_keeps
            with_reducible refine Keeps.upd ?_ rfl rfl rfl ⟨rfl, rfl⟩
            assumption
          · with_reducible refine Keeps.upd ?_ rfl rfl rfl ⟨rfl, rfl⟩
            assumption
      · split
        · apply State.raise_keeps
          with_reducible refine Keeps.upd ?_ rfl rfl rfl ⟨rfl, rfl⟩
          assumption
        · with_reducible refine Keeps.upd ?_ rfl rfl rfl ⟨rfl, rfl⟩
          assumption
    · split
      · refine Keeps.foldl ?_ ?_
        · intro s1 x1 h1
          apply State.modCtx_keeps
          assumption
        · split
          · apply State.raise_keeps
            with_reducible refine Keeps.upd ?_ rfl rfl rfl ⟨rfl, rfl⟩
            assumption
          · with_reducible refine Keeps.upd ?_ rfl rfl rfl ⟨rfl, rfl⟩
            assumption
      · split
        · apply State.raise_keeps
          with_reducible refine Keeps.upd ?_ rfl rfl rfl ⟨rfl, rfl⟩
          assumption
        · with_reducible refine Keeps.upd ?_ rfl rfl rfl ⟨rfl, rfl⟩
          assumption
  · split
    · split
      · refine Keeps.foldl ?_ ?_
        · intro s1 x1 h1
          apply State.modCtx_keeps
          assumption
        · split
          · apply State.raise_keeps
            with_reducible refine Keeps.upd ?_ rfl rfl rfl ⟨rfl, rfl⟩
            assumption
          · with_reducible refine Keeps.upd ?_ rfl rfl rfl ⟨rfl, rfl⟩
            assumption
      · split
        · apply State.raise_keeps
          with_reducible refine Keeps.upd ?_ rfl rfl rfl ⟨rfl, rfl⟩
          assumption
        · with_reducible refine Keeps.upd ?_ rfl rfl rfl ⟨rfl, rfl⟩
          assumption
    · split
      · refine Keeps.foldl ?_ ?_
        · intro s1 x1 h1
          apply State.modCtx_keeps
          assumption
        · split
          · apply State.raise_keeps
            with_reducible refine Keeps.upd ?_ rfl rfl rfl ⟨rfl, rfl⟩
            assumption
          · with_reducible refine Keeps.upd ?_ rfl rfl rfl ⟨rfl, rfl⟩
            assumption
      · split
        · apply State.raise_keeps
          with_reducible refine Keeps.upd ?_ rfl rfl rfl ⟨rfl, rfl⟩
          assumption
        · with_reducible refine Keeps.upd ?_ rfl rfl rfl ⟨rfl, rfl⟩
          assumption

theorem State.fractionRise_keeps {s0 s : State} (h : Keeps s0 s) : Keeps s0 (State.fractionRise s) := by
  unfold State.fractionRise
  dsimp only
  split
  · assumption
  · split
    · apply State.raise_keeps
      with_reducible refine Keeps.upd ?_ rfl rfl rfl ⟨rfl, rfl⟩
      assumption
    · with_reducible refine Keeps.upd ?_ rfl rfl rfl ⟨rfl, rfl⟩
      assumption

theorem execThermalFractionRise_keeps {s s9 : State} (eq : execThermalFractionRise s = .next s9) : Keeps s s9 := by
  cases eq
  have h := Keeps.refl s
  apply State.fractionRise_keeps
  assumption

theorem State.thermalExcursion_keeps {s0 s : State} (tenths : Nat) (h : Keeps s0 s) : Keeps s0 (State.thermalExcursion s tenths) := by
  unfold State.thermalExcursion
  split
  · apply State.fence_keeps
    assumption
  · assumption

theorem execThermalExcursion_keeps {s s9 : State} {tenths : Nat} (eq : execThermalExcursion tenths s = .next s9) : Keeps s s9 := by
  cases eq
  have h := Keeps.refl s
  apply State.thermalExcursion_keeps
  assumption

theorem State.currentLimitPersist_keeps {s0 s : State} (h : Keeps s0 s) : Keeps s0 (State.currentLimitPersist s) := by
  unfold State.currentLimitPersist
  split
  · apply State.fence_keeps
    assumption
  · assumption

theorem execCurrentLimitPersist_keeps {s s9 : State} (eq : execCurrentLimitPersist s = .next s9) : Keeps s s9 := by
  cases eq
  have h := Keeps.refl s
  apply State.currentLimitPersist_keeps
  assumption

theorem State.selfTest_keeps {s0 s : State} (ok : Bool) (h : Keeps s0 s) : Keeps s0 (State.selfTest s ok) := by
  unfold State.selfTest
  split
  · dsimp only
    split
    · with_reducible refine Keeps.upd ?_ rfl rfl rfl ⟨rfl, rfl⟩
      assumption
    · apply State.fence_keeps
      with_reducible refine Keeps.upd ?_ rfl rfl rfl ⟨rfl, rfl⟩
      assumption
  · assumption

theorem State.laneChange_keeps {s0 s : State} (p : Nat) (n : Nat) (h : Keeps s0 s) : Keeps s0 (State.laneChange s p n) := by
  unfold State.laneChange
  split
  · assumption
  · dsimp only
    apply State.raise_keeps
    refine Keeps.foldl ?_ ?_
    · intro s1 x1 h1
      apply State.modCtx_keeps
      assumption
    · refine Keeps.foldl ?_ ?_
      · intro s1 x1 h1
        apply State.modCtx_keeps
        assumption
      · with_reducible refine Keeps.updMem ?_ rfl rfl rfl ⟨rfl, rfl⟩ ?_ ?_
        · assumption
        · exact id
        · exact id

theorem State.laneChanges_keeps {s0 s : State} (h : Keeps s0 s) : Keeps s0 (State.laneChanges s) := by
  unfold State.laneChanges
  split
  · assumption
  · refine Keeps.foldl ?_ ?_
    · intro s1 x1 h1
      apply State.laneChange_keeps
      assumption
    · with_reducible refine Keeps.upd ?_ rfl rfl rfl ⟨rfl, rfl⟩
      assumption

theorem State.logHot_keeps {s0 s : State} (b : Nat × Nat) (h : Keeps s0 s) : Keeps s0 (State.logHot s b) := by
  unfold State.logHot
  dsimp only
  split
  · assumption
  · split
    · assumption
    · apply State.log_keeps
      with_reducible refine Keeps.updMem ?_ rfl rfl rfl ⟨rfl, rfl⟩ ?_ ?_
      · assumption
      · exact id
      · exact id

theorem State.sensorLog_keeps {s0 s : State} (blocks : List (Nat × Nat)) (lagging : List (Nat × Nat)) (h : Keeps s0 s) : Keeps s0 (State.sensorLog s blocks lagging) := by
  unfold State.sensorLog
  split
  · assumption
  · dsimp only
    split
    · apply State.log_keeps
      with_reducible refine Keeps.updMem ?_ rfl rfl rfl ⟨rfl, rfl⟩ ?_ ?_
      · refine Keeps.foldl ?_ ?_
        · intro s1 x1 h1
          apply State.log_keeps
          assumption
        · refine Keeps.foldl ?_ ?_
          · intro s1 x1 h1
            apply State.logHot_keeps
            assumption
          · assumption
      · exact id
      · exact id
    · refine Keeps.foldl ?_ ?_
      · intro s1 x1 h1
        apply State.log_keeps
        assumption
      · refine Keeps.foldl ?_ ?_
        · intro s1 x1 h1
          apply State.logHot_keeps
          assumption
        · assumption

end Sys2Proof.Machine
end

