-- ==== Sys2Proof/Laws/KeepsWaitGraph.lean ====
section
/-! SUPPORT. What every operation and meaning of Machine/WaitGraph.lean keeps (`Keeps`). -/

namespace Sys2Proof.Machine

theorem State.noteWaits_keeps {s0 s : State} (k : Fin 16) (h : Keeps s0 s) : Keeps s0 (State.noteWaits s k) := by
  unfold State.noteWaits
  dsimp only
  split
  · apply State.setCtx_keeps
    assumption
  · assumption

theorem State.stillWater_keeps {s0 s : State} (k : Fin 16) (h : Keeps s0 s) : Keeps s0 (State.stillWater s k) := by
  unfold State.stillWater
  dsimp only
  split
  · assumption
  · apply State.signalOut_keeps
    apply State.trigger_keeps
    apply State.raise_keeps
    with_reducible refine Keeps.upd ?_ rfl rfl rfl ⟨rfl, rfl⟩
    apply State.setCtx_keeps
    assumption

theorem execStillWater_keeps {s s9 : State} {slot : Fin 16} (eq : execStillWater slot s = .next s9) : Keeps s s9 := by
  cases eq
  have h := Keeps.refl s
  apply State.stillWater_keeps
  assumption

theorem State.stillFault_keeps {s0 s : State} (k : Fin 16) (seq : Nat) (h : Keeps s0 s) : Keeps s0 (State.stillFault s k seq) := by
  unfold State.stillFault
  apply State.faultCode_keeps
  assumption

theorem State.waitForGraph_keeps {s0 s : State} (k : Fin 16) (h : Keeps s0 s) : Keeps s0 (State.waitForGraph s k) := by
  unfold State.waitForGraph
  dsimp only
  split
  · assumption
  · split
    · apply State.stillFault_keeps
      apply State.modCtx_keeps
      refine Keeps.foldl ?_ ?_
      · intro s1 x1 h1
        apply State.log_keeps
        assumption
      · assumption
    · apply State.modCtx_keeps
      refine Keeps.foldl ?_ ?_
      · intro s1 x1 h1
        apply State.log_keeps
        assumption
      · assumption

theorem execWaitForGraph_keeps {s s9 : State} {slot : Fin 16} (eq : execWaitForGraph slot s = .next s9) : Keeps s s9 := by
  cases eq
  have h := Keeps.refl s
  apply State.waitForGraph_keeps
  assumption

theorem State.watchdogLimit_keeps {s0 s : State} (k : Fin 16) (h : Keeps s0 s) : Keeps s0 (State.watchdogLimit s k) := by
  unfold State.watchdogLimit
  dsimp only
  split
  · split
    · apply State.stillFault_keeps
      assumption
    · assumption
  · assumption

theorem execWatchdogTeardownLimit_keeps {s s9 : State} {slot : Fin 16} (eq : execWatchdogTeardownLimit slot s = .next s9) : Keeps s s9 := by
  cases eq
  have h := Keeps.refl s
  apply State.watchdogLimit_keeps
  assumption

end Sys2Proof.Machine
end

