-- ==== Sys2Proof/Laws/KeepsTick.lean ====
section
/-! SUPPORT. What every operation and meaning of Machine/Tick.lean keeps (`Keeps`). -/

namespace Sys2Proof.Machine

theorem State.tickReady_keeps {s0 s t : State} {b : BoundaryIn} (eq : s.tickReady b = some t) (h : Keeps s0 s) : Keeps s0 t := by
  unfold State.tickReady at eq
  dsimp only at eq
  split at eq
  · cases eq
  · split at eq
    · rw [← Option.some.inj eq]
      exact State.gtcUp_keeps (State.runOut_keeps h)
    · split at eq
      · rw [← Option.some.inj eq]
        exact State.gtcUp_keeps (State.boundaryIn_keeps _ (State.runOut_keeps h))
      · split at eq
        · split at eq
          · rw [← Option.some.inj eq]
            apply State.endAll_keeps
            with_reducible refine Keeps.upd ?_ rfl rfl rfl ⟨rfl, rfl⟩
            exact State.endLast_keeps b h
          · cases eq
        · split at eq
          · split at eq
            · rw [← Option.some.inj eq]
              exact State.gtcUp_keeps (State.boundaryIn_keeps _ (State.runOut_keeps h))
            · cases eq
          · cases eq

theorem State.beginTick_keeps {s0 s : State} (stretch : List Nat) (h : Keeps s0 s) : Keeps s0 (State.beginTick s stretch) := by
  unfold State.beginTick
  extract_lets fresh free k lag s1 t1 src s2 s3
  have h3 : Keeps s0 s3 := by
    apply State.gapDue_keeps
    with_reducible refine Keeps.upd ?_ rfl rfl rfl ⟨rfl, by split <;> rfl⟩
    exact State.newSlot_keeps _ _ _ h
  split
  · exact h3
  · apply State.raise_keeps
    refine Keeps.foldl ?_ h3
    intro s1 x1 h1
    exact State.modCtx_keeps _ _ h1

theorem State.tickCounts_keeps {s0 s : State} (h : Keeps s0 s) : Keeps s0 (State.tickCounts s) := by
  unfold State.tickCounts
  dsimp only
  refine Keeps.foldl ?_ ?_
  · intro s1 x1 h1
    split
    · split
      · apply State.setCatch_keeps
        assumption
      · assumption
    · assumption
  · with_reducible refine Keeps.upd ?_ rfl rfl rfl ⟨rfl, rfl⟩
    refine Keeps.foldl ?_ ?_
    · intro s1 x1 h1
      apply State.modCtx_keeps
      assumption
    · with_reducible refine Keeps.upd ?_ rfl rfl rfl ⟨rfl, rfl⟩
      refine Keeps.foldl ?_ ?_
      · intro s1 x1 h1
        apply State.setCatch_keeps
        assumption
      · assumption

theorem State.calibrationEnd_keeps {s0 s : State} (was : Bool) (h : Keeps s0 s) : Keeps s0 (State.calibrationEnd s was) := by
  unfold State.calibrationEnd
  split
  · apply State.raise_keeps
    with_reducible refine Keeps.upd ?_ rfl rfl rfl ⟨rfl, rfl⟩
    assumption
  · assumption

theorem State.dieChecks_keeps {s0 s : State} (t : TickIn) (h : Keeps s0 s) : Keeps s0 (State.dieChecks s t) := by
  unfold State.dieChecks
  dsimp only
  apply State.sensorLog_keeps
  apply State.selfTest_keeps
  with_reducible refine Keeps.upd ?_ rfl rfl rfl ⟨rfl, rfl⟩
  apply State.thermalCheck_keeps
  apply State.laneChanges_keeps
  assumption

theorem State.formFinal_keeps {s0 s : State} (k : Fin 16) (h : Keeps s0 s) : Keeps s0 (State.formFinal s k) := by
  unfold State.formFinal
  dsimp only
  with_reducible refine Keeps.updMem ?_ rfl rfl rfl ⟨rfl, rfl⟩ ?_ ?_
  · assumption
  · exact id
  · exact id

theorem State.finishTeardown_keeps {s0 s : State} (k : Fin 16) (h : Keeps s0 s) : Keeps s0 (State.finishTeardown s k) := by
  unfold State.finishTeardown
  dsimp only
  split
  · assumption
  · split
    · assumption
    · apply State.emptySlot_keeps
      apply State.pushRec_keeps
      apply State.pushRec_keeps
      apply State.formRec_keeps
      apply State.formFinal_keeps
      split
      · assumption
      · apply State.release_keeps
        assumption

theorem State.enableNow_keeps {s0 s : State} (k : Fin 16) (h : Keeps s0 s) : Keeps s0 (State.enableNow s k) := by
  unfold State.enableNow
  dsimp only
  split
  · assumption
  · split
    · assumption
    · split
      · apply State.fencedRefusal_keeps
        apply State.setCtx_keeps
        assumption
      · apply State.takePending_keeps
        assumption

theorem State.lives_keeps {s0 s : State} (h : Keeps s0 s) : Keeps s0 (State.lives s) := by
  unfold State.lives
  dsimp only
  refine Keeps.foldl ?_ ?_
  · intro s1 x1 h1
    split
    · apply State.launch_keeps
      assumption
    · assumption
  · refine Keeps.foldl ?_ ?_
    · intro s1 x1 h1
      apply State.rotaLaunch_keeps
      assumption
    · apply State.teardowns_keeps
      refine Keeps.foldl ?_ ?_
      · intro s1 x1 h1
        apply State.finishTeardown_keeps
        assumption
      · refine Keeps.foldl ?_ ?_
        · intro s1 x1 h1
          apply State.launchAbort_keeps
          apply State.launchDecision_keeps
          apply State.launchEffects_keeps
          assumption
        · assumption

theorem State.thawBegins_keeps {s0 s : State} (k : Fin 16) (h : Keeps s0 s) : Keeps s0 (State.thawBegins s k) := by
  unfold State.thawBegins
  dsimp only
  split
  · apply State.restoreBegin_keeps
    assumption
  · assumption

theorem State.takeResume_keeps {s0 s : State} (k : Fin 16) (h : Keeps s0 s) : Keeps s0 (State.takeResume s k) := by
  unfold State.takeResume
  dsimp only
  split
  · assumption
  · split
    · apply State.sendAll_keeps
      apply State.setCtx_keeps
      assumption
    · apply State.modCtx_keeps
      apply State.setCtx_keeps
      assumption

theorem State.beginTicks_keeps {s0 s : State} (h : Keeps s0 s) : Keeps s0 (State.beginTicks s).1 := by
  unfold State.beginTicks
  dsimp only
  refine Keeps.foldl ?_ ?_
  · intro s1 x1 h1
    apply State.lockCompare_keeps
    assumption
  · refine Keeps.foldl ?_ ?_
    · intro s1 x1 h1
      apply State.thawBegins_keeps
      apply State.freezePending_keeps
      assumption
    · refine Keeps.foldl_fst ?_ ?_
      · intro a1 x1 h1
        split
        · dsimp only
          apply State.advanceCtx_keeps
          assumption
        · dsimp only
          apply State.advanceCtx_keeps
          assumption
      · dsimp only
        refine Keeps.foldl ?_ ?_
        · intro s1 x1 h1
          apply State.takeResume_keeps
          apply State.resumeThaw_keeps
          assumption
        · assumption

theorem State.beginTicks_keeps' {s0 s s9 : State} {r9 : _} (eq : State.beginTicks s = (s9, r9)) (h : Keeps s0 s) : Keeps s0 s9 := by
  have := State.beginTicks_keeps h
  rwa [eq] at this

theorem State.sluiceWork_keeps {s0 s : State} (t : TickIn) (h : Keeps s0 s) : Keeps s0 (State.sluiceWork s t) := by
  unfold State.sluiceWork
  dsimp only
  refine Keeps.foldl ?_ ?_
  · intro s1 x1 h1
    apply State.deferSteps_keeps
    assumption
  · refine Keeps.foldl ?_ ?_
    · intro s1 x1 h1
      apply State.enableNow_keeps
      assumption
    · split
      · apply State.writeRecords_keeps
        with_reducible refine Keeps.upd ?_ rfl rfl rfl ⟨rfl, rfl⟩
        apply State.poll_keeps
        assumption
      · split
        · apply State.writeWindow_keeps
          with_reducible refine Keeps.upd ?_ rfl rfl rfl ⟨rfl, rfl⟩
          apply State.poll_keeps
          assumption
        · with_reducible refine Keeps.upd ?_ rfl rfl rfl ⟨rfl, rfl⟩
          apply State.poll_keeps
          assumption

theorem State.notices_keeps {s0 s : State} (begun : List (Fin 16)) (h : Keeps s0 s) : Keeps s0 (State.notices s begun) := by
  unfold State.notices
  refine Keeps.foldl ?_ ?_
  · intro s1 x1 h1
    split
    · apply State.applyNotices_keeps
      assumption
    · assumption
  · assumption

theorem State.stepWork_keeps {s0 s : State} (k : Fin 16) (h : Keeps s0 s) : Keeps s0 (State.stepWork s k) := by
  unfold State.stepWork
  split
  · apply State.leaveOutcomes_keeps
    apply State.importsDue_keeps
    apply State.pace_keeps
    apply State.submissionsDue_keeps
    apply State.exhaust_keeps
    assumption
  · assumption

theorem State.tickStart_keeps {s0 s : State} (t : TickIn) (h : Keeps s0 s) : Keeps s0 (State.tickStart s t) := by
  unfold State.tickStart
  split
  · assumption
  · dsimp only
    apply State.startSlot_keeps
    apply State.seedDelays_keeps
    refine Keeps.foldl ?_ ?_
    · intro s1 x1 h1
      apply State.stepWork_keeps
      assumption
    · refine Keeps.foldl ?_ ?_
      · intro s1 x1 h1
        apply State.controlDue_keeps
        assumption
      · apply State.notices_keeps
        apply State.extActions_keeps
        apply State.sluiceWork_keeps
        apply State.threadEnds_keeps
        apply State.beginTicks_keeps
        apply State.lives_keeps
        with_reducible refine Keeps.updMem ?_ rfl rfl rfl ⟨rfl, rfl⟩ ?_ ?_
        · refine Keeps.foldl ?_ ?_
          · intro s1 x1 h1
            apply State.endTick_keeps
            assumption
          · refine Keeps.foldl ?_ ?_
            · intro s1 x1 h1
              apply State.takeSeals_keeps
              assumption
            · apply State.acts_keeps
              apply State.horizonWeirs_keeps
              refine Keeps.foldl ?_ ?_
              · intro s1 x1 h1
                apply State.releaseCheck_keeps
                apply State.commitCheck_keeps
                assumption
              · with_reducible refine Keeps.updMem ?_ rfl rfl rfl ⟨rfl, rfl⟩ ?_ ?_
                · apply State.dieChecks_keeps
                  with_reducible refine Keeps.updMem ?_ rfl rfl rfl ⟨rfl, rfl⟩ ?_ ?_
                  · apply State.calibrationEnd_keeps
                    apply State.tickCounts_keeps
                    apply State.pageDisables_keeps
                    apply State.pageBoundary_keeps
                    apply State.beginTick_keeps
                    refine Keeps.foldl ?_ ?_
                    · intro s1 x1 h1
                      apply State.noteWaits_keeps
                      assumption
                    · refine State.tickReady_keeps (by assumption) ?_
                      assumption
                  · exact id
                  · exact id
                · exact id
                · exact id
        · exact id
        · exact id

theorem execTickStart_keeps {s s9 : State} {t : TickIn} (eq : execTickStart t s = .next s9) : Keeps s s9 := by
  cases eq
  have h := Keeps.refl s
  apply State.tickStart_keeps
  assumption

end Sys2Proof.Machine
end

