-- ==== Sys2Proof/Laws/KeepsMovers.lean ====
section
/-! SUPPORT. What every operation and meaning of Machine/Movers.lean keeps (`Keeps`). -/

namespace Sys2Proof.Machine

theorem State.moverNotify_keeps {s0 s : State} (l : Fin 64) (t : Task) (vid : Nat) (n : Nat) (h : Keeps s0 s) : Keeps s0 (State.moverNotify s l t vid n) := by
  unfold State.moverNotify
  with_reducible refine Keeps.upd ?_ rfl rfl rfl ⟨rfl, rfl⟩
  assumption

theorem State.entryDone_keeps {s0 s : State} (l : Fin 64) (t : Task) (i : Nat) (crc : BitVec 16) (b : Bytes) (h : Keeps s0 s) : Keeps s0 (State.entryDone s l t i crc b) := by
  unfold State.entryDone
  dsimp only
  split
  · apply State.engineFault_keeps
    assumption
  · split
    · split
      · apply State.engineFault_keeps
        assumption
      · split
        · apply State.moverNotify_keeps
          apply State.modCore_keeps
          assumption
        · apply State.modCore_keeps
          assumption
    · split
      · apply State.engineFault_keeps
        assumption
      · split
        · apply State.moverNotify_keeps
          apply State.modCore_keeps
          assumption
        · apply State.modCore_keeps
          assumption

theorem State.moverEntryComplete_keeps {s0 s : State} (l : Fin 64) (i : Nat) (crc : BitVec 16) (block : Bytes) (h : Keeps s0 s) : Keeps s0 (State.moverEntryComplete s l i crc block) := by
  unfold State.moverEntryComplete
  split
  · assumption
  · split
    · assumption
    · dsimp only
      split
      · apply State.engineFault_keeps
        assumption
      · split
        · apply State.entryDone_keeps
          apply State.modCore_keeps
          assumption
        · assumption

theorem execMoverEntryComplete_keeps {s s9 : State} {lcid : Fin 64} {index : Nat} {crc : BitVec 16} {block : Bytes} (eq : execMoverEntryComplete lcid index crc block s = .next s9) : Keeps s s9 := by
  cases eq
  have h := Keeps.refl s
  apply State.moverEntryComplete_keeps
  assumption

theorem State.idleBeatSend_keeps {s0 s : State} (k : Fin 16) (member : Nat) (h : Keeps s0 s) : Keeps s0 (State.idleBeatSend s k member) := by
  unfold State.idleBeatSend
  dsimp only
  split
  · assumption
  · split
    · apply State.modCtx_keeps
      apply State.sendCtrl_keeps
      assumption
    · assumption

theorem execIdleBeatSend_keeps {s s9 : State} {slot : Fin 16} {member : Nat} (eq : execIdleBeatSend slot member s = .next s9) : Keeps s s9 := by
  cases eq
  have h := Keeps.refl s
  apply State.idleBeatSend_keeps
  assumption

theorem State.headwaterLoss_keeps {s0 s : State} (k : Fin 16) (h : Keeps s0 s) : Keeps s0 (State.headwaterLoss s k) := by
  unfold State.headwaterLoss
  dsimp only
  split
  · apply State.faultCode_keeps
    assumption
  · assumption

theorem execHeadwaterLoss_keeps {s s9 : State} {slot : Fin 16} (eq : execHeadwaterLoss slot s = .next s9) : Keeps s s9 := by
  cases eq
  have h := Keeps.refl s
  apply State.headwaterLoss_keeps
  assumption

end Sys2Proof.Machine
end

