-- ==== Sys2Proof/Laws/KeepsObserve.lean ====
section
/-! SUPPORT. What every operation and meaning of Machine/Observe.lean keeps (`Keeps`). -/

namespace Sys2Proof.Machine

theorem State.traceMark_keeps {s0 s : State} (l : Fin 64) (value : Nat) (trigger : Bool) (h : Keeps s0 s) : Keeps s0 (State.traceMark s l value trigger) := by
  unfold State.traceMark
  split
  · assumption
  · split
    · apply State.laneWaits_keeps
      assumption
    · apply State.performMark_keeps
      assumption

theorem execTraceMark_keeps {s s9 : State} {lcid : Fin 64} {value : BitVec 32} {trigger : Bool} (eq : execTraceMark lcid value trigger s = .next s9) : Keeps s s9 := by
  cases eq
  have h := Keeps.refl s
  apply State.traceMark_keeps
  assumption

theorem execInvalidCommand_keeps {s s9 : State} {lcid : Fin 64} {code : BitVec 4} (eq : execInvalidCommand lcid code s = .next s9) : Keeps s s9 := by
  cases eq
  have h := Keeps.refl s
  split
  · apply State.engineFault_keeps
    assumption
  · assumption

theorem State.pcSample_keeps {s0 s : State} (k : Fin 16) (xs : List CoreSample) (h : Keeps s0 s) : Keeps s0 (State.pcSample s k xs) := by
  unfold State.pcSample
  dsimp only
  split
  · refine Keeps.foldl ?_ ?_
    · intro s1 x1 h1
      apply State.modCtx_keeps
      assumption
    · assumption
  · assumption

theorem execPcSample_keeps {s s9 : State} {slot : Fin 16} {samples : List CoreSample} (eq : execPcSample slot samples s = .next s9) : Keeps s s9 := by
  cases eq
  have h := Keeps.refl s
  apply State.pcSample_keeps
  assumption

theorem State.commandRecord_keeps {s0 s : State} (l : Fin 64) (p : PondEntry) (type : Nat) (number : Nat) (opcode : Nat) (e : Engine) (latched : List Nat) (h : Keeps s0 s) : Keeps s0 (State.commandRecord s l p type number opcode e latched) := by
  unfold State.commandRecord
  dsimp only
  split
  · apply State.modCtx_keeps
    apply State.compareCopies_keeps
    assumption
  · assumption

theorem State.cmdBegin_keeps {s0 s : State} (l : Fin 64) (e : Engine) (opcode : Nat) (latched : List Nat) (h : Keeps s0 s) : Keeps s0 (State.cmdBegin s l e opcode latched) := by
  unfold State.cmdBegin
  split
  · assumption
  · split
    · assumption
    · dsimp only
      apply State.modCore_keeps
      apply State.commandRecord_keeps
      assumption

theorem State.cmdEnd_keeps {s0 s : State} (l : Fin 64) (e : Engine) (opcode : Nat) (latched : List Nat) (h : Keeps s0 s) : Keeps s0 (State.cmdEnd s l e opcode latched) := by
  unfold State.cmdEnd
  split
  · dsimp only
    apply State.modCore_keeps
    apply State.commandRecord_keeps
    assumption
  · assumption

theorem execCmdBegin_keeps {s s9 : State} {lcid : Fin 64} {engine : Engine} {opcode : BitVec 32} {latched : List Nat} (eq : execCmdBegin lcid engine opcode latched s = .next s9) : Keeps s s9 := by
  cases eq
  have h := Keeps.refl s
  apply State.cmdBegin_keeps
  assumption

theorem execCmdEnd_keeps {s s9 : State} {lcid : Fin 64} {engine : Engine} {opcode : BitVec 32} {latched : List Nat} (eq : execCmdEnd lcid engine opcode latched s = .next s9) : Keeps s s9 := by
  cases eq
  have h := Keeps.refl s
  apply State.cmdEnd_keeps
  assumption

end Sys2Proof.Machine
end

