-- ==== Sys2Proof/Laws/KeepsStartup.lean ====
section
/-! SUPPORT. What every operation and meaning of Machine/Startup.lean keeps (`Keeps`). -/

namespace Sys2Proof.Machine

theorem State.refuseImage_keeps {s0 s : State} (code : Nat) (detail : Nat) (h : Keeps s0 s) : Keeps s0 (State.refuseImage s code detail) := by
  unfold State.refuseImage
  apply State.pageError_keeps
  with_reducible refine Keeps.upd ?_ rfl rfl rfl ⟨rfl, rfl⟩
  assumption

theorem State.keepImage_keeps {s : State} (c : ConfigImage) (hc : ¬ s.config.isSome = true) : Keeps s (State.keepImage s c) :=
  ⟨⟨rfl, fun g => absurd g hc, id, id, id, Nat.le_refl _, fun _ => ⟨rfl, rfl⟩⟩, id⟩

theorem State.initWindow_keeps {s0 s : State} (h : Keeps s0 s) : Keeps s0 (State.initWindow s) := by
  unfold State.initWindow
  extract_lets b m
  have hm : Memory.wf s.mem → Memory.wf m := fun hw =>
    Memory.wf_foldl (fun _ _ g => Memory.wf_writeBytes g _ _) _ (Memory.wf_writeBytes hw _ _)
  clear_value m
  apply State.writeWindow_keeps
  with_reducible exact Keeps.updMem h rfl rfl rfl ⟨rfl, rfl⟩ hm id

theorem State.startSteward_keeps {s0 s : State} (h : Keeps s0 s) : Keeps s0 (State.startSteward s) := by
  unfold State.startSteward
  with_reducible refine Keeps.upd ?_ rfl rfl rfl ⟨rfl, rfl⟩
  assumption

theorem State.configImage_keeps {s : State} (c : ConfigImage) (malformed : Option Nat) (signatureOk chainOk : Bool) (rangeOffset : Nat)
    (firmwareRefusal : Option Nat) : Keeps s (State.configImage s c malformed signatureOk chainOk rangeOffset firmwareRefusal) := by
  have h := Keeps.refl s
  unfold State.configImage
  split
  · exact h
  · rename_i hc
    have hc : ¬ s.config.isSome = true := fun g => hc (by rw [g]; rfl)
    split
    · exact State.refuseImage_keeps _ _ h
    · split
      · exact State.refuseImage_keeps _ _ h
      · split
        · exact State.refuseImage_keeps _ _ h
        · split
          · exact State.refuseImage_keeps _ _ h
          · split
            · exact State.refuseImage_keeps _ _ (State.keepImage_keeps c hc)
            · exact State.initWindow_keeps (State.startSteward_keeps (State.keepImage_keeps c hc))

theorem execConfigImage_keeps {c : ConfigImage} {malformed : Option Nat} {signatureOk chainOk : Bool} {rangeOffset : Nat}
    {firmwareRefusal : Option Nat} {s t : State}
    (eq : execConfigImage c malformed signatureOk chainOk rangeOffset firmwareRefusal s = .next t) : Keeps s t := by
  cases eq
  exact State.configImage_keeps ..

theorem State.selfTestDone_keeps {s0 s : State} (railsOk : Bool) (comparatorsOk : Bool) (secdedBad : Option (Nat × Nat)) (h : Keeps s0 s) : Keeps s0 (State.selfTestDone s railsOk comparatorsOk secdedBad) := by
  unfold State.selfTestDone
  split
  · assumption
  · split
    · with_reducible refine Keeps.upd ?_ rfl rfl rfl ⟨rfl, rfl⟩
      assumption
    · apply State.writeWindow_keeps
      apply State.fence_keeps
      assumption

theorem execSelfTestDone_keeps {s s9 : State} {railsOk : Bool} {comparatorsOk : Bool} {secdedBad : Option (Nat × Nat)} (eq : execSelfTestDone railsOk comparatorsOk secdedBad s = .next s9) : Keeps s s9 := by
  cases eq
  have h := Keeps.refl s
  apply State.selfTestDone_keeps
  assumption

theorem State.sramScrubDone_keeps {s0 s : State} (bad : Option (Nat × Nat)) (h : Keeps s0 s) : Keeps s0 (State.sramScrubDone s bad) := by
  unfold State.sramScrubDone
  split
  · assumption
  · split
    · with_reducible refine Keeps.upd ?_ rfl rfl rfl ⟨rfl, rfl⟩
      assumption
    · apply State.writeWindow_keeps
      apply State.fence_keeps
      assumption

theorem execSramScrubDone_keeps {s s9 : State} {bad : Option (Nat × Nat)} (eq : execSramScrubDone bad s = .next s9) : Keeps s s9 := by
  cases eq
  have h := Keeps.refl s
  apply State.sramScrubDone_keeps
  assumption

theorem State.keyFailure_keeps {s0 s : State} (hk : ¬ s.boot.key.isSome = true) (h : Keeps s0 s) : Keeps s0 (State.keyFailure s) := by
  unfold State.keyFailure
  dsimp only
  apply State.writeWindow_keeps
  apply State.raise_keeps
  apply State.log_keeps
  with_reducible refine Keeps.updTo h ?_ ?_ ?_ ?_
  · exact id
  · exact Nat.le_refl _
  · exact id
  · exact fun g => absurd g hk

theorem State.takeKey_keeps {s0 s : State} (d : Nat) (p : Option (Nat × Nat)) (hk : ¬ s.boot.key.isSome = true) (h : Keeps s0 s) :
    Keeps s0 (State.takeKey s d p) := by
  unfold State.takeKey
  split
  · exact State.keyFailure_keeps hk h
  · split
    · exact State.keyFailure_keeps hk h
    · with_reducible refine Keeps.updTo h ?_ ?_ ?_ ?_
      · exact id
      · exact Nat.le_refl _
      · exact id
      · exact fun g => absurd g hk

theorem State.keyDerivation_keeps {s0 s : State} (puf : Option (BitVec 256)) (h : Keeps s0 s) : Keeps s0 (State.keyDerivation s puf) := by
  unfold State.keyDerivation
  split
  · exact h
  · rename_i hn
    have hk : ¬ s.boot.key.isSome = true := fun g => hn (by rw [g]; simp)
    split
    · exact State.keyFailure_keeps hk h
    · exact State.takeKey_keeps _ _ hk h

theorem execKeyDerivation_keeps {s s9 : State} {puf : Option (BitVec 256)} (eq : execKeyDerivation puf s = .next s9) : Keeps s s9 := by
  cases eq
  have h := Keeps.refl s
  apply State.keyDerivation_keeps
  assumption

theorem State.topologyReport_keeps {s0 s : State} (far : List Nat) (delays : List Nat) (lanes : List Nat) (h : Keeps s0 s) : Keeps s0 (State.topologyReport s far delays lanes) := by
  unfold State.topologyReport
  split
  · assumption
  · with_reducible refine Keeps.updMem ?_ rfl rfl rfl ⟨rfl, rfl⟩ ?_ ?_
    · assumption
    · exact id
    · exact id

theorem execTopologyReport_keeps {s s9 : State} {far : List Nat} {delays : List Nat} {lanes : List Nat} (eq : execTopologyReport far delays lanes s = .next s9) : Keeps s s9 := by
  cases eq
  have h := Keeps.refl s
  apply State.topologyReport_keeps
  assumption

theorem State.goReady_keeps {s0 s : State} (h : Keeps s0 s) : Keeps s0 (State.goReady s) := by
  unfold State.goReady
  split
  · dsimp only
    apply State.writeWindow_keeps
    apply State.raise_keeps
    with_reducible refine Keeps.updTo ?_ ?_ ?_ ?_ ?_
    · assumption
    · exact fun _ => rfl
    · exact Nat.le_refl _
    · exact id
    · exact fun _ => ⟨rfl, rfl⟩
  · assumption

theorem execReady_keeps {s s9 : State} (eq : execReady s = .next s9) : Keeps s s9 := by
  cases eq
  have h := Keeps.refl s
  apply State.goReady_keeps
  assumption

theorem State.clearFence_keeps {s0 s : State} (p : Priv) (h : Keeps s0 s) : Keeps s0 (State.clearFence s p) := by
  unfold State.clearFence
  split
  · apply State.accessError_keeps
    assumption
  · split
    · apply State.accessError_keeps
      assumption
    · split
      · assumption
      · with_reducible refine Keeps.upd ?_ rfl rfl rfl ⟨rfl, rfl⟩
        assumption

theorem State.fenceClear_keeps {s0 s : State} (p : Priv) (h : Keeps s0 s) : Keeps s0 (State.fenceClear s p) := by
  unfold State.fenceClear
  apply State.clearFence_keeps
  apply State.serve_keeps
  assumption

theorem execFenceClear_keeps {s s9 : State} {p : Priv} (eq : execFenceClear p s = .next s9) : Keeps s s9 := by
  cases eq
  have h := Keeps.refl s
  apply State.fenceClear_keeps
  assumption

theorem State.stayFenced_keeps {s0 s : State} (powerOnly : Bool) (h : Keeps s0 s) : Keeps s0 (State.stayFenced s powerOnly) := by
  unfold State.stayFenced
  dsimp only
  apply State.pushRec_keeps
  with_reducible refine Keeps.upd ?_ rfl rfl rfl ⟨rfl, rfl⟩
  assumption

end Sys2Proof.Machine
end

