-- ==== Sys2Proof/Laws/KeepsTiming.lean ====
section
/-! SUPPORT. What every operation and meaning of Machine/Timing.lean keeps (`Keeps`). -/

namespace Sys2Proof.Machine

theorem State.armedStart_keeps {s0 s : State} (h : Keeps s0 s) : Keeps s0 (State.armedStart s) := by
  unfold State.armedStart
  dsimp only
  split
  · with_reducible refine Keeps.upd ?_ rfl rfl rfl ⟨rfl, rfl⟩
    assumption
  · assumption

theorem State.syncEdge_keeps {s0 s : State} (h : Keeps s0 s) : Keeps s0 (State.syncEdge s) := by
  unfold State.syncEdge
  split
  · assumption
  · split
    · apply State.raise_keeps
      with_reducible refine Keeps.upd ?_ rfl rfl rfl ⟨rfl, rfl⟩
      assumption
    · apply State.armedStart_keeps
      apply State.raise_keeps
      with_reducible refine Keeps.upd ?_ rfl rfl rfl ⟨rfl, rfl⟩
      assumption

theorem execSyncEdge_keeps {s s9 : State} (eq : execSyncEdge s = .next s9) : Keeps s s9 := by
  cases eq
  have h := Keeps.refl s
  apply State.syncEdge_keeps
  assumption

theorem State.xtrigEdge_keeps {s0 s : State} (h : Keeps s0 s) : Keeps s0 (State.xtrigEdge s) := by
  unfold State.xtrigEdge
  split
  · assumption
  · split
    · apply State.raise_keeps
      with_reducible refine Keeps.upd ?_ rfl rfl rfl ⟨rfl, rfl⟩
      assumption
    · dsimp only
      apply State.signalOut_keeps
      apply State.raise_keeps
      with_reducible refine Keeps.upd ?_ rfl rfl rfl ⟨rfl, rfl⟩
      assumption

theorem execXtrigEdge_keeps {s s9 : State} (eq : execXtrigEdge s = .next s9) : Keeps s s9 := by
  cases eq
  have h := Keeps.refl s
  apply State.xtrigEdge_keeps
  assumption

theorem State.inputStuck_keeps {s0 s : State} (i : ExtInput) (h : Keeps s0 s) : Keeps s0 (State.inputStuck s i) := by
  unfold State.inputStuck
  dsimp only
  split
  · apply State.raise_keeps
    with_reducible refine Keeps.upd ?_ rfl rfl rfl ⟨rfl, rfl⟩
    assumption
  · assumption

theorem execInputStuck_keeps {s s9 : State} {i : ExtInput} (eq : execInputStuck i s = .next s9) : Keeps s s9 := by
  cases eq
  have h := Keeps.refl s
  apply State.inputStuck_keeps
  assumption

theorem State.inputStuckClear_keeps {s0 s : State} (i : ExtInput) (h : Keeps s0 s) : Keeps s0 (State.inputStuckClear s i) := by
  unfold State.inputStuckClear
  dsimp only
  split
  · split
    · apply State.raise_keeps
      with_reducible refine Keeps.upd ?_ rfl rfl rfl ⟨rfl, rfl⟩
      assumption
    · with_reducible refine Keeps.upd ?_ rfl rfl rfl ⟨rfl, rfl⟩
      assumption
  · assumption

theorem execInputStuckClear_keeps {s s9 : State} {i : ExtInput} (eq : execInputStuckClear i s = .next s9) : Keeps s s9 := by
  cases eq
  have h := Keeps.refl s
  apply State.inputStuckClear_keeps
  assumption

theorem State.xtrigOutEnd_keeps {s0 s : State} (h : Keeps s0 s) : Keeps s0 (State.xtrigOutEnd s) := by
  unfold State.xtrigOutEnd
  split
  · split
    · with_reducible refine Keeps.upd ?_ rfl rfl rfl ⟨rfl, rfl⟩
      assumption
    · assumption
  · assumption

theorem execXtrigOutEnd_keeps {s s9 : State} (eq : execXtrigOutEnd s = .next s9) : Keeps s s9 := by
  cases eq
  have h := Keeps.refl s
  apply State.xtrigOutEnd_keeps
  assumption

theorem State.startGtc_keeps {s0 s : State} (gtc : Nat) (boundary : Nat) (h : Keeps s0 s) : Keeps s0 (State.startGtc s gtc boundary) := by
  unfold State.startGtc
  apply State.raise_keeps
  with_reducible refine Keeps.upd ?_ rfl rfl rfl ⟨rfl, rfl⟩
  assumption

theorem State.align_keeps {s0 s : State} (h : Keeps s0 s) : Keeps s0 (State.align s) := by
  unfold State.align
  split
  · assumption
  · apply State.raise_keeps
    with_reducible refine Keeps.upd ?_ rfl rfl rfl ⟨rfl, rfl⟩
    assumption

theorem State.gtcStart_keeps {s0 s : State} (h : Keeps s0 s) : Keeps s0 (State.gtcStart s) := by
  unfold State.gtcStart
  split
  · assumption
  · split
    · with_reducible refine Keeps.upd ?_ rfl rfl rfl ⟨rfl, rfl⟩
      assumption
    · apply State.align_keeps
      apply State.startGtc_keeps
      apply State.runOut_keeps
      assumption

theorem execGtcStart_keeps {s s9 : State} (eq : execGtcStart s = .next s9) : Keeps s s9 := by
  cases eq
  have h := Keeps.refl s
  apply State.gtcStart_keeps
  assumption

theorem State.gtcBoundary_keeps {s0 s : State} (h : Keeps s0 s) : Keeps s0 (State.gtcBoundary s) := by
  unfold State.gtcBoundary
  split
  · assumption
  · split
    · apply State.gtcUp_keeps
      apply State.runOut_keeps
      assumption
    · apply State.gtcUp_keeps
      assumption

theorem execGtcBoundary_keeps {s s9 : State} (eq : execGtcBoundary s = .next s9) : Keeps s s9 := by
  cases eq
  have h := Keeps.refl s
  apply State.gtcBoundary_keeps
  assumption

theorem State.stopped_keeps {s0 s : State} (elapsed : Nat) (h : Keeps s0 s) : Keeps s0 (State.stopped s elapsed) := by
  unfold State.stopped
  dsimp only
  split
  · with_reducible refine Keeps.updMem ?_ rfl rfl rfl ⟨rfl, rfl⟩ ?_ ?_
    · apply State.gtcUp_keeps
      with_reducible refine Keeps.updMem ?_ rfl rfl rfl ⟨rfl, rfl⟩ ?_ ?_
      · assumption
      · exact id
      · exact id
    · exact id
    · exact id
  · split
    · apply State.lagTest_keeps
      apply State.gtcUp_keeps
      with_reducible refine Keeps.updMem ?_ rfl rfl rfl ⟨rfl, rfl⟩ ?_ ?_
      · assumption
      · exact id
      · exact id
    · apply State.gtcUp_keeps
      with_reducible refine Keeps.updMem ?_ rfl rfl rfl ⟨rfl, rfl⟩ ?_ ?_
      · assumption
      · exact id
      · exact id

theorem State.clockRestart_keeps {s0 s : State} (elapsed : Nat) (h : Keeps s0 s) : Keeps s0 (State.clockRestart s elapsed) := by
  unfold State.clockRestart
  dsimp only
  split
  · with_reducible refine Keeps.updMem ?_ rfl rfl rfl ⟨rfl, rfl⟩ ?_ ?_
    · apply State.stopped_keeps
      assumption
    · exact id
    · exact id
  · apply State.gap_keeps
    apply State.tick1_keeps
    apply State.stopped_keeps
    assumption

theorem execClockRestart_keeps {s s9 : State} {elapsed : Nat} (eq : execClockRestart elapsed s = .next s9) : Keeps s s9 := by
  cases eq
  have h := Keeps.refl s
  apply State.clockRestart_keeps
  assumption

theorem State.beaconSend_keeps {s0 s : State} (h : Keeps s0 s) : Keeps s0 (State.beaconSend s) := by
  unfold State.beaconSend
  dsimp only
  split
  · assumption
  · split
    · split
      · assumption
      · refine Keeps.foldl ?_ ?_
        · intro s1 x1 h1
          apply State.linkSend_keeps
          assumption
        · with_reducible refine Keeps.updMem ?_ rfl rfl rfl ⟨rfl, rfl⟩ ?_ ?_
          · apply State.advance_keeps
            assumption
          · exact id
          · exact id
    · split
      · assumption
      · refine Keeps.foldl ?_ ?_
        · intro s1 x1 h1
          apply State.linkSend_keeps
          assumption
        · with_reducible refine Keeps.updMem ?_ rfl rfl rfl ⟨rfl, rfl⟩ ?_ ?_
          · apply State.advance_keeps
            assumption
          · exact id
          · exact id

theorem execBeaconSend_keeps {s s9 : State} (eq : execBeaconSend s = .next s9) : Keeps s s9 := by
  cases eq
  have h := Keeps.refl s
  apply State.beaconSend_keeps
  assumption

theorem State.takeBeacon_keeps {s0 s : State} (gtc : Nat) (since : Nat) (h : Keeps s0 s) : Keeps s0 (State.takeBeacon s gtc since) := by
  unfold State.takeBeacon
  dsimp only
  split
  · apply State.raise_keeps
    with_reducible refine Keeps.upd ?_ rfl rfl rfl ⟨rfl, rfl⟩
    assumption
  · with_reducible refine Keeps.upd ?_ rfl rfl rfl ⟨rfl, rfl⟩
    assumption

theorem State.trimBeacon_keeps {s0 s : State} (e : Int) (h : Keeps s0 s) : Keeps s0 (State.trimBeacon s e) := by
  unfold State.trimBeacon
  dsimp only
  split
  · apply State.raise_keeps
    refine Keeps.foldl ?_ ?_
    · intro s1 x1 h1
      split
      · apply State.faultCode_keeps
        assumption
      · assumption
    · with_reducible refine Keeps.upd ?_ rfl rfl rfl ⟨rfl, rfl⟩
      assumption
  · with_reducible refine Keeps.upd ?_ rfl rfl rfl ⟨rfl, rfl⟩
    assumption

theorem State.beacon_keeps {s0 s : State} (port : Fin 5) (gtc : Nat) (refOffset : Nat) (seq : Nat) (h : Keeps s0 s) : Keeps s0 (State.beacon s port gtc refOffset seq) := by
  unfold State.beacon
  split
  · assumption
  · dsimp only
    split
    · split
      · apply State.align_keeps
        with_reducible refine Keeps.upd ?_ rfl rfl rfl ⟨rfl, rfl⟩
        split
        · apply State.trimBeacon_keeps
          with_reducible refine Keeps.upd ?_ rfl rfl rfl ⟨rfl, rfl⟩
          assumption
        · split
          · with_reducible refine Keeps.upd ?_ rfl rfl rfl ⟨rfl, rfl⟩
            assumption
          · apply State.takeBeacon_keeps
            with_reducible refine Keeps.upd ?_ rfl rfl rfl ⟨rfl, rfl⟩
            assumption
      · with_reducible refine Keeps.upd ?_ rfl rfl rfl ⟨rfl, rfl⟩
        split
        · apply State.trimBeacon_keeps
          with_reducible refine Keeps.upd ?_ rfl rfl rfl ⟨rfl, rfl⟩
          assumption
        · split
          · with_reducible refine Keeps.upd ?_ rfl rfl rfl ⟨rfl, rfl⟩
            assumption
          · apply State.takeBeacon_keeps
            with_reducible refine Keeps.upd ?_ rfl rfl rfl ⟨rfl, rfl⟩
            assumption
    · split
      · apply State.align_keeps
        with_reducible refine Keeps.upd ?_ rfl rfl rfl ⟨rfl, rfl⟩
        split
        · apply State.trimBeacon_keeps
          with_reducible refine Keeps.upd ?_ rfl rfl rfl ⟨rfl, rfl⟩
          assumption
        · split
          · with_reducible refine Keeps.upd ?_ rfl rfl rfl ⟨rfl, rfl⟩
            assumption
          · apply State.takeBeacon_keeps
            with_reducible refine Keeps.upd ?_ rfl rfl rfl ⟨rfl, rfl⟩
            assumption
      · with_reducible refine Keeps.upd ?_ rfl rfl rfl ⟨rfl, rfl⟩
        split
        · apply State.trimBeacon_keeps
          with_reducible refine Keeps.upd ?_ rfl rfl rfl ⟨rfl, rfl⟩
          assumption
        · split
          · with_reducible refine Keeps.upd ?_ rfl rfl rfl ⟨rfl, rfl⟩
            assumption
          · apply State.takeBeacon_keeps
            with_reducible refine Keeps.upd ?_ rfl rfl rfl ⟨rfl, rfl⟩
            assumption

theorem execBeacon_keeps {s s9 : State} {port : Fin 5} {gtc : BitVec 48} {refOffset : Nat} {seq : BitVec 16} (eq : execBeacon port gtc refOffset seq s = .next s9) : Keeps s s9 := by
  cases eq
  have h := Keeps.refl s
  apply State.beacon_keeps
  assumption

theorem State.beaconLoss_keeps {s0 s : State} (h : Keeps s0 s) : Keeps s0 (State.beaconLoss s) := by
  unfold State.beaconLoss
  dsimp only
  split
  · apply State.raise_keeps
    with_reducible refine Keeps.upd ?_ rfl rfl rfl ⟨rfl, rfl⟩
    assumption
  · assumption

theorem execBeaconLoss_keeps {s s9 : State} (eq : execBeaconLoss s = .next s9) : Keeps s s9 := by
  cases eq
  have h := Keeps.refl s
  apply State.beaconLoss_keeps
  assumption

theorem State.portReport_keeps {s0 s : State} (port : Nat) (far : Nat) (lanes : Nat) (h : Keeps s0 s) : Keeps s0 (State.portReport s port far lanes) := by
  unfold State.portReport
  refine Keeps.foldl ?_ ?_
  · intro s1 x1 h1
    dsimp only
    split
    · apply State.faultCode_keeps
      assumption
    · assumption
  · assumption

theorem State.portChange_keeps {s0 s : State} (port : Fin 5) (far : Nat) (lanes : Nat) (h : Keeps s0 s) : Keeps s0 (State.portChange s port far lanes) := by
  unfold State.portChange
  dsimp only
  apply State.portReport_keeps
  with_reducible refine Keeps.updMem ?_ rfl rfl rfl ⟨rfl, rfl⟩ ?_ ?_
  · assumption
  · exact id
  · exact id

theorem State.calibrationResult_keeps {s0 s : State} (lanes : List Nat) (delays : List Nat) (h : Keeps s0 s) : Keeps s0 (State.calibrationResult s lanes delays) := by
  unfold State.calibrationResult
  split
  · dsimp only
    refine Keeps.foldl ?_ ?_
    · intro s1 x1 h1
      apply State.portReport_keeps
      assumption
    · with_reducible refine Keeps.updMem ?_ rfl rfl rfl ⟨rfl, rfl⟩ ?_ ?_
      · assumption
      · exact id
      · exact id
  · assumption

theorem execCalibrationResult_keeps {s s9 : State} {lanes : List Nat} {delays : List Nat} (eq : execCalibrationResult lanes delays s = .next s9) : Keeps s s9 := by
  cases eq
  have h := Keeps.refl s
  apply State.calibrationResult_keeps
  assumption

theorem execPortChange_keeps {port : Fin 5} {far : BitVec 32} {lanes : Nat} {s s9 : State} (eq : execPortChange port far lanes s = .next s9) :
    Keeps s s9 := by
  unfold execPortChange at eq
  rw [← Host.Outcome.next.inj eq]
  exact State.portChange_keeps _ _ _ (Keeps.refl s)

end Sys2Proof.Machine
end

