-- ==== Sys2Proof/Laws/KeepsRegisters.lean ====
section
/-! SUPPORT. What every operation and meaning of Machine/Registers.lean keeps (`Keeps`). -/

namespace Sys2Proof.Machine

theorem State.readErr_keeps {s0 s : State} (p : Fin 64) (h : Keeps s0 s) : Keeps s0 (State.readErr s p) := by
  unfold State.readErr
  split
  · dsimp only
    with_reducible refine Keeps.upd ?_ rfl rfl rfl ⟨rfl, rfl⟩
    apply State.setPage_keeps
    assumption

theorem State.enablePage_keeps {s0 s : State} (p : Nat) (h : Keeps s0 s) : Keeps s0 (State.enablePage s p) := by
  unfold State.enablePage
  dsimp only
  split
  · with_reducible refine Keeps.upd ?_ rfl rfl rfl ⟨rfl, rfl⟩
    assumption
  · with_reducible refine Keeps.upd ?_ rfl rfl rfl ⟨rfl, rfl⟩
    assumption
  · assumption

theorem State.disablePage_keeps {s0 s : State} (p : Nat) (h : Keeps s0 s) : Keeps s0 (State.disablePage s p) := by
  unfold State.disablePage
  split
  · with_reducible refine Keeps.upd ?_ rfl rfl rfl ⟨rfl, rfl⟩
    assumption
  · with_reducible refine Keeps.upd ?_ rfl rfl rfl ⟨rfl, rfl⟩
    assumption
  · assumption

theorem State.writeHeader_keeps {s0 s : State} (p : Fin 64) (off : Nat) (v : Word) (h : Keeps s0 s) : Keeps s0 (State.writeHeader s p off v) := by
  unfold State.writeHeader
  dsimp only
  split
  · split
    · apply State.enablePage_keeps
      assumption
    · apply State.disablePage_keeps
      assumption
  · apply State.setPage_keeps
    assumption
  · apply State.setPage_keeps
    assumption
  · apply State.setPage_keeps
    assumption
  · assumption

theorem State.submitDump_keeps {s0 s : State} (k : Fin 16) (h : Keeps s0 s) : Keeps s0 (State.submitDump s k) := by
  unfold State.submitDump
  dsimp only
  split
  · apply State.pushRec_keeps
    assumption
  · apply State.setCtx_keeps
    assumption

theorem State.writeDump_keeps {s0 s : State} (k : Fin 16) (p : Priv) (v : Nat) (h : Keeps s0 s) : Keeps s0 (State.writeDump s k p v) := by
  unfold State.writeDump
  dsimp only
  split
  · apply State.accessError_keeps
    assumption
  · split
    · apply State.submitDump_keeps
      apply State.setCtx_keeps
      assumption
    · apply State.setCtx_keeps
      assumption

theorem State.writeDebug_keeps {s0 s : State} (k : Fin 16) (p : Priv) (v : Nat) (h : Keeps s0 s) : Keeps s0 (State.writeDebug s k p v) := by
  unfold State.writeDebug
  dsimp only
  split
  · assumption
  · split
    · apply State.accessError_keeps
      assumption
    · apply State.setCtx_keeps
      assumption

theorem State.writeCtxReg_keeps {s0 s : State} (k : Fin 16) (p : Priv) (off : Nat) (v : Word) (h : Keeps s0 s) : Keeps s0 (State.writeCtxReg s k p off v) := by
  unfold State.writeCtxReg
  split
  · assumption
  · split
    · apply State.accessError_keeps
      assumption
    · split
      · apply State.writeDump_keeps
        assumption
      · split
        · apply State.writeDebug_keeps
          assumption
        · split
          · apply State.accessError_keeps
            assumption
          · apply State.setCtx_keeps
            assumption

theorem State.writeCatchCfg_keeps {s0 s : State} (k : Fin 16) (p : Priv) (v : Nat) (h : Keeps s0 s) : Keeps s0 (State.writeCatchCfg s k p v) := by
  unfold State.writeCatchCfg
  dsimp only
  split
  · split
    · apply State.accessError_keeps
      assumption
    · apply State.writeCommit_keeps
      assumption
  · split
    · split
      · assumption
      · apply State.accessError_keeps
        assumption
    · apply State.writeCommit_keeps
      apply State.setCatch_keeps
      assumption

theorem State.writeCatch_keeps {s0 s : State} (k : Fin 16) (r : Nat) (p : Priv) (v : Word) (h : Keeps s0 s) : Keeps s0 (State.writeCatch s k r p v) := by
  unfold State.writeCatch
  dsimp only
  split
  · apply State.writeCatchCfg_keeps
    assumption
  · split
    · split
      · apply State.accessError_keeps
        assumption
      · apply State.setCatch_keeps
        assumption
    · split
      · assumption
      · split
        · apply State.accessError_keeps
          assumption
        · apply State.setCatch_keeps
          assumption

theorem State.writeTime_keeps {s0 s : State} (v : Nat) (h : Keeps s0 s) : Keeps s0 (State.writeTime s v) := by
  unfold State.writeTime
  split
  · with_reducible refine Keeps.upd ?_ rfl rfl rfl ⟨rfl, rfl⟩
    assumption
  · assumption

theorem State.writeExt_keeps {s0 s : State} (p : Priv) (off : Nat) (v : Nat) (h : Keeps s0 s) : Keeps s0 (State.writeExt s p off v) := by
  unfold State.writeExt
  split
  · split
    · apply State.accessError_keeps
      assumption
    · with_reducible refine Keeps.upd ?_ rfl rfl rfl ⟨rfl, rfl⟩
      assumption
  · split
    · with_reducible refine Keeps.upd ?_ rfl rfl rfl ⟨rfl, rfl⟩
      assumption
    · assumption

theorem State.writeSpecific_keeps {s0 s : State} (p : Nat) (pr : Priv) (off : Nat) (v : Word) (h : Keeps s0 s) : Keeps s0 (State.writeSpecific s p pr off v) := by
  unfold State.writeSpecific
  split
  · split
    · apply State.writeTime_keeps
      assumption
    · assumption
  · split
    · apply State.heartbeat_keeps
      assumption
    · assumption
  · split
    · assumption
    · apply State.writeCatch_keeps
      assumption
  · split
    · apply State.clearFence_keeps
      assumption
    · assumption
  · apply State.writeExt_keeps
    assumption
  · assumption

theorem State.write_keeps {s0 s : State} (p : Fin 64) (pr : Priv) (off : Nat) (v : Word) (h : Keeps s0 s) : Keeps s0 (State.write s p pr off v) := by
  unfold State.write
  split
  · apply State.accessError_keeps
    assumption
  · split
    · split
      · apply State.accessError_keeps
        assumption
      · apply State.writeHeader_keeps
        assumption
    · split
      · apply State.accessError_keeps
        assumption
      · split
        · apply State.writeCtxReg_keeps
          assumption
        · apply State.writeSpecific_keeps
          assumption

theorem State.registerWrite_keeps {s0 s : State} (a : RegAccess) (v : Word) (h : Keeps s0 s) : Keeps s0 (State.registerWrite s a v) := by
  unfold State.registerWrite
  split
  · dsimp only
    split
    · apply State.accessError_keeps
      apply State.serve_keeps
      assumption
    · apply State.write_keeps
      apply State.serve_keeps
      assumption

theorem execRegisterWrite_keeps {s s9 : State} {a : RegAccess} {value : Word} (eq : execRegisterWrite a value s = .next s9) : Keeps s s9 := by
  cases eq
  have h := Keeps.refl s
  apply State.registerWrite_keeps
  assumption

theorem State.readPeak_keeps {s0 s : State} (h : Keeps s0 s) : Keeps s0 (State.readPeak s) := by
  unfold State.readPeak
  dsimp only
  with_reducible refine Keeps.upd ?_ rfl rfl rfl ⟨rfl, rfl⟩
  assumption

theorem State.read_keeps {s0 s : State} (p : Fin 64) (off : Nat) (h : Keeps s0 s) : Keeps s0 (State.read s p off) := by
  unfold State.read
  split
  · apply State.readErr_keeps
    assumption
  · split
    · apply State.readPeak_keeps
      assumption
    · dsimp only
      with_reducible refine Keeps.upd ?_ rfl rfl rfl ⟨rfl, rfl⟩
      assumption

theorem State.registerRead_keeps {s0 s : State} (a : RegAccess) (h : Keeps s0 s) : Keeps s0 (State.registerRead s a) := by
  unfold State.registerRead
  split
  · dsimp only
    split
    · with_reducible refine Keeps.upd ?_ rfl rfl rfl ⟨rfl, rfl⟩
      apply State.accessError_keeps
      apply State.serve_keeps
      assumption
    · apply State.read_keeps
      apply State.serve_keeps
      assumption

theorem execRegisterRead_keeps {s s9 : State} {a : RegAccess} (eq : execRegisterRead a s = .next s9) : Keeps s s9 := by
  cases eq
  have h := Keeps.refl s
  apply State.registerRead_keeps
  assumption

theorem execSyncArm_keeps {s s9 : State} {p : Priv} (eq : execSyncArm p s = .next s9) : Keeps s s9 := by
  cases eq
  have h := Keeps.refl s
  apply State.registerWrite_keeps
  assumption

theorem execPageEnable_keeps {s s9 : State} {p : Priv} {page : Fin 64} (eq : execPageEnable p page s = .next s9) : Keeps s s9 := by
  cases eq
  have h := Keeps.refl s
  apply State.registerWrite_keeps
  assumption

theorem execPageDisable_keeps {s s9 : State} {p : Priv} {page : Fin 64} (eq : execPageDisable p page s = .next s9) : Keeps s s9 := by
  cases eq
  have h := Keeps.refl s
  apply State.registerWrite_keeps
  assumption

theorem State.pageDrainEnd_keeps {s0 s : State} (p : Nat) (h : Keeps s0 s) : Keeps s0 (State.pageDrainEnd s p) := by
  unfold State.pageDrainEnd
  split
  · split
    · split
      · with_reducible refine Keeps.upd ?_ rfl rfl rfl ⟨rfl, rfl⟩
        assumption
      · assumption
    · assumption
  · split
    · split
      · with_reducible refine Keeps.upd ?_ rfl rfl rfl ⟨rfl, rfl⟩
        assumption
      · assumption
    · assumption
  · assumption

theorem execPageDrainEnd_keeps {s s9 : State} {page : Fin 64} (eq : execPageDrainEnd page s = .next s9) : Keeps s s9 := by
  cases eq
  have h := Keeps.refl s
  apply State.pageDrainEnd_keeps
  assumption

theorem execEvtRawClear_keeps {s s9 : State} {p : Priv} {page : Fin 64} {value : Word} (eq : execEvtRawClear p page value s = .next s9) : Keeps s s9 := by
  cases eq
  have h := Keeps.refl s
  apply State.registerWrite_keeps
  assumption

theorem execEvtForce_keeps {s s9 : State} {p : Priv} {page : Fin 64} {value : Word} (eq : execEvtForce p page value s = .next s9) : Keeps s s9 := by
  cases eq
  have h := Keeps.refl s
  apply State.registerWrite_keeps
  assumption

theorem execPageErrRead_keeps {s s9 : State} {p : Priv} {page : Fin 64} (eq : execPageErrRead p page s = .next s9) : Keeps s s9 := by
  cases eq
  have h := Keeps.refl s
  apply State.registerRead_keeps
  assumption

theorem execObsPeakRead_keeps {s s9 : State} {p : Priv} (eq : execObsPeakRead p s = .next s9) : Keeps s s9 := by
  cases eq
  have h := Keeps.refl s
  apply State.registerRead_keeps
  assumption

theorem execCatchCommit_keeps {s s9 : State} {p : Priv} {k : Fin 16} {value : Word} (eq : execCatchCommit p k value s = .next s9) : Keeps s s9 := by
  cases eq
  have h := Keeps.refl s
  apply State.registerWrite_keeps
  assumption

theorem execCatchRelease_keeps {s s9 : State} {p : Priv} {k : Fin 16} {value : Word} (eq : execCatchRelease p k value s = .next s9) : Keeps s s9 := by
  cases eq
  have h := Keeps.refl s
  apply State.registerWrite_keeps
  assumption

theorem execTraceArm_keeps {s s9 : State} {p : Priv} {slot : Fin 16} {value : Word} (eq : execTraceArm p slot value s = .next s9) : Keeps s s9 := by
  cases eq
  have h := Keeps.refl s
  apply State.registerWrite_keeps
  assumption

theorem execTraceFlush_keeps {s s9 : State} {p : Priv} {slot : Fin 16} {value : Word} (eq : execTraceFlush p slot value s = .next s9) : Keeps s s9 := by
  cases eq
  have h := Keeps.refl s
  apply State.registerWrite_keeps
  assumption

theorem execDumpSubmit_keeps {s s9 : State} {p : Priv} {slot : Fin 16} {value : Word} (eq : execDumpSubmit p slot value s = .next s9) : Keeps s s9 := by
  cases eq
  have h := Keeps.refl s
  apply State.registerWrite_keeps
  assumption

theorem execDebugResume_keeps {s s9 : State} {p : Priv} {slot : Fin 16} {value : Word} (eq : execDebugResume p slot value s = .next s9) : Keeps s s9 := by
  cases eq
  have h := Keeps.refl s
  apply State.registerWrite_keeps
  assumption

end Sys2Proof.Machine
end

