-- ==== Sys2Proof/Laws/Fence.lean ====
section
/-! SUPPORT. What the two commands that end a fence still carry over (`Carries`), and that a reset leaves the memories canonical. -/

namespace Sys2Proof.Machine

theorem State.unfence_carries (s : State) : Carries s s.unfence := by
  unfold State.unfence
  extract_lets free b sf q s1 s2 s3
  have h1 : Carries s s1 := by
    unfold s1
    exact ⟨rfl, fun _ => rfl, id, id, id, Nat.le_refl _, fun _ => ⟨rfl, rfl⟩⟩
  have h2 : Keeps s1 s2 := Keeps.foldl (fun _ _ h => State.modCore_keeps _ _ h) (Keeps.refl s1)
  have h3 : Keeps s1 s3 := State.horizonWeirs_keeps (State.inletWeirs_keeps h2)
  clear_value s1 s2 s3
  refine h1.trans (Keeps.toCarries ?_)
  apply State.writeWindow_keeps
  split
  · apply State.raise_keeps
    exact Keeps.of h3 rfl rfl rfl rfl rfl rfl rfl ⟨rfl, rfl⟩
  · exact h3

theorem execFenceClearDone_carries {railsOk comparatorsOk : Bool} {secdedBad bad : Option (Nat × Nat)} {stewardStoreOk : Bool} {s t : State}
    (eq : execFenceClearDone railsOk comparatorsOk secdedBad bad stewardStoreOk s = .next t) : Carries s t := by
  unfold execFenceClearDone at eq
  rw [← Host.Outcome.next.inj eq]
  unfold State.fenceClearDone
  split
  · exact (Keeps.refl s).toCarries
  · split
    · exact State.unfence_carries s
    · exact (State.stayFenced_keeps _ (Keeps.refl s)).toCarries

/-- One arithmetic-clock cycle with no command. -/
theorem State.idle_keeps (s : State) : Keeps s s.tick1 := State.tick1_keeps (Keeps.refl s)

theorem State.dieReset_mem (s : State) : s.dieReset.mem = s.mem := rfl
theorem State.dieReset_spad (s : State) : s.dieReset.spad = [] := rfl
theorem State.dieReset_pending (s : State) : s.dieReset.pending = s.pending := rfl

end Sys2Proof.Machine
end

