-- ==== Sys2Proof/Laws/State.lean ====
section
/-! SUPPORT. The fields of the state after each of its updates: one lemma per field and update, and what a part reads as after it is set. -/

namespace Sys2Proof.Machine

@[simp] theorem State.setCtx_pending (s : State) (k : Fin 16) (c : Ctx) : (s.setCtx k c).pending = s.pending := rfl
@[simp] theorem State.setCtx_config (s : State) (k : Fin 16) (c : Ctx) : (s.setCtx k c).config = s.config := rfl
@[simp] theorem State.setCtx_boot (s : State) (k : Fin 16) (c : Ctx) : (s.setCtx k c).boot = s.boot := rfl
@[simp] theorem State.setCtx_time (s : State) (k : Fin 16) (c : Ctx) : (s.setCtx k c).time = s.time := rfl
@[simp] theorem State.setCtx_pages (s : State) (k : Fin 16) (c : Ctx) : (s.setCtx k c).pages = s.pages := rfl
@[simp] theorem State.setCtx_ext (s : State) (k : Fin 16) (c : Ctx) : (s.setCtx k c).ext = s.ext := rfl
@[simp] theorem State.setCtx_extRun (s : State) (k : Fin 16) (c : Ctx) : (s.setCtx k c).extRun = s.extRun := rfl
@[simp] theorem State.setCtx_extEnablePending (s : State) (k : Fin 16) (c : Ctx) : (s.setCtx k c).extEnablePending = s.extEnablePending := rfl
@[simp] theorem State.setCtx_obsEnablePending (s : State) (k : Fin 16) (c : Ctx) : (s.setCtx k c).obsEnablePending = s.obsEnablePending := rfl
@[simp] theorem State.setCtx_extEnable (s : State) (k : Fin 16) (c : Ctx) : (s.setCtx k c).extEnable = s.extEnable := rfl
@[simp] theorem State.setCtx_obsEnable (s : State) (k : Fin 16) (c : Ctx) : (s.setCtx k c).obsEnable = s.obsEnable := rfl
@[simp] theorem State.setCtx_gov (s : State) (k : Fin 16) (c : Ctx) : (s.setCtx k c).gov = s.gov := rfl
@[simp] theorem State.setCtx_steward (s : State) (k : Fin 16) (c : Ctx) : (s.setCtx k c).steward = s.steward := rfl
@[simp] theorem State.setCtx_sluice (s : State) (k : Fin 16) (c : Ctx) : (s.setCtx k c).sluice = s.sluice := rfl
@[simp] theorem State.setCtx_safety (s : State) (k : Fin 16) (c : Ctx) : (s.setCtx k c).safety = s.safety := rfl
@[simp] theorem State.setCtx_catches (s : State) (k : Fin 16) (c : Ctx) : (s.setCtx k c).catches = s.catches := rfl
@[simp] theorem State.setCtx_cores (s : State) (k : Fin 16) (c : Ctx) : (s.setCtx k c).cores = s.cores := rfl
@[simp] theorem State.setCtx_ctrl (s : State) (k : Fin 16) (c : Ctx) : (s.setCtx k c).ctrl = s.ctrl := rfl
@[simp] theorem State.setCtx_units (s : State) (k : Fin 16) (c : Ctx) : (s.setCtx k c).units = s.units := rfl
@[simp] theorem State.setCtx_placeOrder (s : State) (k : Fin 16) (c : Ctx) : (s.setCtx k c).placeOrder = s.placeOrder := rfl
@[simp] theorem State.setCtx_cntOps (s : State) (k : Fin 16) (c : Ctx) : (s.setCtx k c).cntOps = s.cntOps := rfl
@[simp] theorem State.setCtx_chanOps (s : State) (k : Fin 16) (c : Ctx) : (s.setCtx k c).chanOps = s.chanOps := rfl
@[simp] theorem State.setCtx_writes (s : State) (k : Fin 16) (c : Ctx) : (s.setCtx k c).writes = s.writes := rfl
@[simp] theorem State.setCtx_horizon (s : State) (k : Fin 16) (c : Ctx) : (s.setCtx k c).horizon = s.horizon := rfl
@[simp] theorem State.setCtx_arrivals (s : State) (k : Fin 16) (c : Ctx) : (s.setCtx k c).arrivals = s.arrivals := rfl
@[simp] theorem State.setCtx_horizonStalled (s : State) (k : Fin 16) (c : Ctx) : (s.setCtx k c).horizonStalled = s.horizonStalled := rfl
@[simp] theorem State.setCtx_quotaStalled (s : State) (k : Fin 16) (c : Ctx) : (s.setCtx k c).quotaStalled = s.quotaStalled := rfl
@[simp] theorem State.setCtx_beHorizonStalled (s : State) (k : Fin 16) (c : Ctx) : (s.setCtx k c).beHorizonStalled = s.beHorizonStalled := rfl
@[simp] theorem State.setCtx_horizonCredit (s : State) (k : Fin 16) (c : Ctx) : (s.setCtx k c).horizonCredit = s.horizonCredit := rfl
@[simp] theorem State.setCtx_quotaCredit (s : State) (k : Fin 16) (c : Ctx) : (s.setCtx k c).quotaCredit = s.quotaCredit := rfl
@[simp] theorem State.setCtx_beCredit (s : State) (k : Fin 16) (c : Ctx) : (s.setCtx k c).beCredit = s.beCredit := rfl
@[simp] theorem State.setCtx_beInletDelay (s : State) (k : Fin 16) (c : Ctx) : (s.setCtx k c).beInletDelay = s.beInletDelay := rfl
@[simp] theorem State.setCtx_beHorizonDelay (s : State) (k : Fin 16) (c : Ctx) : (s.setCtx k c).beHorizonDelay = s.beHorizonDelay := rfl
@[simp] theorem State.setCtx_packets (s : State) (k : Fin 16) (c : Ctx) : (s.setCtx k c).packets = s.packets := rfl
@[simp] theorem State.setCtx_inletStalled (s : State) (k : Fin 16) (c : Ctx) : (s.setCtx k c).inletStalled = s.inletStalled := rfl
@[simp] theorem State.setCtx_inletQuotaStalled (s : State) (k : Fin 16) (c : Ctx) : (s.setCtx k c).inletQuotaStalled = s.inletQuotaStalled := rfl
@[simp] theorem State.setCtx_beInletStalled (s : State) (k : Fin 16) (c : Ctx) : (s.setCtx k c).beInletStalled = s.beInletStalled := rfl
@[simp] theorem State.setCtx_inletCorrected (s : State) (k : Fin 16) (c : Ctx) : (s.setCtx k c).inletCorrected = s.inletCorrected := rfl
@[simp] theorem State.setCtx_windows (s : State) (k : Fin 16) (c : Ctx) : (s.setCtx k c).windows = s.windows := rfl
@[simp] theorem State.setCtx_stagingRegions (s : State) (k : Fin 16) (c : Ctx) : (s.setCtx k c).stagingRegions = s.stagingRegions := rfl
@[simp] theorem State.setCtx_counterLow (s : State) (k : Fin 16) (c : Ctx) : (s.setCtx k c).counterLow = s.counterLow := rfl
@[simp] theorem State.setCtx_ringLow (s : State) (k : Fin 16) (c : Ctx) : (s.setCtx k c).ringLow = s.ringLow := rfl
@[simp] theorem State.setCtx_jobsPublished (s : State) (k : Fin 16) (c : Ctx) : (s.setCtx k c).jobsPublished = s.jobsPublished := rfl
@[simp] theorem State.setCtx_served (s : State) (k : Fin 16) (c : Ctx) : (s.setCtx k c).served = s.served := rfl
@[simp] theorem State.setCtx_movesCreated (s : State) (k : Fin 16) (c : Ctx) : (s.setCtx k c).movesCreated = s.movesCreated := rfl
@[simp] theorem State.setCtx_obs (s : State) (k : Fin 16) (c : Ctx) : (s.setCtx k c).obs = s.obs := rfl
@[simp] theorem State.setCtx_mem (s : State) (k : Fin 16) (c : Ctx) : (s.setCtx k c).mem = s.mem := rfl
@[simp] theorem State.setCtx_spad (s : State) (k : Fin 16) (c : Ctx) : (s.setCtx k c).spad = s.spad := rfl
@[simp] theorem State.setCtx_images (s : State) (k : Fin 16) (c : Ctx) : (s.setCtx k c).images = s.images := rfl
@[simp] theorem State.setCtx_linkOut (s : State) (k : Fin 16) (c : Ctx) : (s.setCtx k c).linkOut = s.linkOut := rfl
@[simp] theorem State.setCtx_results (s : State) (k : Fin 16) (c : Ctx) : (s.setCtx k c).results = s.results := rfl
@[simp] theorem State.setCtx_readData (s : State) (k : Fin 16) (c : Ctx) : (s.setCtx k c).readData = s.readData := rfl

@[simp] theorem State.modCtx_pending (s : State) (k : Fin 16) (f : Ctx → Ctx) : (s.modCtx k f).pending = s.pending := rfl
@[simp] theorem State.modCtx_config (s : State) (k : Fin 16) (f : Ctx → Ctx) : (s.modCtx k f).config = s.config := rfl
@[simp] theorem State.modCtx_boot (s : State) (k : Fin 16) (f : Ctx → Ctx) : (s.modCtx k f).boot = s.boot := rfl
@[simp] theorem State.modCtx_time (s : State) (k : Fin 16) (f : Ctx → Ctx) : (s.modCtx k f).time = s.time := rfl
@[simp] theorem State.modCtx_pages (s : State) (k : Fin 16) (f : Ctx → Ctx) : (s.modCtx k f).pages = s.pages := rfl
@[simp] theorem State.modCtx_ext (s : State) (k : Fin 16) (f : Ctx → Ctx) : (s.modCtx k f).ext = s.ext := rfl
@[simp] theorem State.modCtx_extRun (s : State) (k : Fin 16) (f : Ctx → Ctx) : (s.modCtx k f).extRun = s.extRun := rfl
@[simp] theorem State.modCtx_extEnablePending (s : State) (k : Fin 16) (f : Ctx → Ctx) : (s.modCtx k f).extEnablePending = s.extEnablePending := rfl
@[simp] theorem State.modCtx_obsEnablePending (s : State) (k : Fin 16) (f : Ctx → Ctx) : (s.modCtx k f).obsEnablePending = s.obsEnablePending := rfl
@[simp] theorem State.modCtx_extEnable (s : State) (k : Fin 16) (f : Ctx → Ctx) : (s.modCtx k f).extEnable = s.extEnable := rfl
@[simp] theorem State.modCtx_obsEnable (s : State) (k : Fin 16) (f : Ctx → Ctx) : (s.modCtx k f).obsEnable = s.obsEnable := rfl
@[simp] theorem State.modCtx_gov (s : State) (k : Fin 16) (f : Ctx → Ctx) : (s.modCtx k f).gov = s.gov := rfl
@[simp] theorem State.modCtx_steward (s : State) (k : Fin 16) (f : Ctx → Ctx) : (s.modCtx k f).steward = s.steward := rfl
@[simp] theorem State.modCtx_sluice (s : State) (k : Fin 16) (f : Ctx → Ctx) : (s.modCtx k f).sluice = s.sluice := rfl
@[simp] theorem State.modCtx_safety (s : State) (k : Fin 16) (f : Ctx → Ctx) : (s.modCtx k f).safety = s.safety := rfl
@[simp] theorem State.modCtx_catches (s : State) (k : Fin 16) (f : Ctx → Ctx) : (s.modCtx k f).catches = s.catches := rfl
@[simp] theorem State.modCtx_cores (s : State) (k : Fin 16) (f : Ctx → Ctx) : (s.modCtx k f).cores = s.cores := rfl
@[simp] theorem State.modCtx_ctrl (s : State) (k : Fin 16) (f : Ctx → Ctx) : (s.modCtx k f).ctrl = s.ctrl := rfl
@[simp] theorem State.modCtx_units (s : State) (k : Fin 16) (f : Ctx → Ctx) : (s.modCtx k f).units = s.units := rfl
@[simp] theorem State.modCtx_placeOrder (s : State) (k : Fin 16) (f : Ctx → Ctx) : (s.modCtx k f).placeOrder = s.placeOrder := rfl
@[simp] theorem State.modCtx_cntOps (s : State) (k : Fin 16) (f : Ctx → Ctx) : (s.modCtx k f).cntOps = s.cntOps := rfl
@[simp] theorem State.modCtx_chanOps (s : State) (k : Fin 16) (f : Ctx → Ctx) : (s.modCtx k f).chanOps = s.chanOps := rfl
@[simp] theorem State.modCtx_writes (s : State) (k : Fin 16) (f : Ctx → Ctx) : (s.modCtx k f).writes = s.writes := rfl
@[simp] theorem State.modCtx_horizon (s : State) (k : Fin 16) (f : Ctx → Ctx) : (s.modCtx k f).horizon = s.horizon := rfl
@[simp] theorem State.modCtx_arrivals (s : State) (k : Fin 16) (f : Ctx → Ctx) : (s.modCtx k f).arrivals = s.arrivals := rfl
@[simp] theorem State.modCtx_horizonStalled (s : State) (k : Fin 16) (f : Ctx → Ctx) : (s.modCtx k f).horizonStalled = s.horizonStalled := rfl
@[simp] theorem State.modCtx_quotaStalled (s : State) (k : Fin 16) (f : Ctx → Ctx) : (s.modCtx k f).quotaStalled = s.quotaStalled := rfl
@[simp] theorem State.modCtx_beHorizonStalled (s : State) (k : Fin 16) (f : Ctx → Ctx) : (s.modCtx k f).beHorizonStalled = s.beHorizonStalled := rfl
@[simp] theorem State.modCtx_horizonCredit (s : State) (k : Fin 16) (f : Ctx → Ctx) : (s.modCtx k f).horizonCredit = s.horizonCredit := rfl
@[simp] theorem State.modCtx_quotaCredit (s : State) (k : Fin 16) (f : Ctx → Ctx) : (s.modCtx k f).quotaCredit = s.quotaCredit := rfl
@[simp] theorem State.modCtx_beCredit (s : State) (k : Fin 16) (f : Ctx → Ctx) : (s.modCtx k f).beCredit = s.beCredit := rfl
@[simp] theorem State.modCtx_beInletDelay (s : State) (k : Fin 16) (f : Ctx → Ctx) : (s.modCtx k f).beInletDelay = s.beInletDelay := rfl
@[simp] theorem State.modCtx_beHorizonDelay (s : State) (k : Fin 16) (f : Ctx → Ctx) : (s.modCtx k f).beHorizonDelay = s.beHorizonDelay := rfl
@[simp] theorem State.modCtx_packets (s : State) (k : Fin 16) (f : Ctx → Ctx) : (s.modCtx k f).packets = s.packets := rfl
@[simp] theorem State.modCtx_inletStalled (s : State) (k : Fin 16) (f : Ctx → Ctx) : (s.modCtx k f).inletStalled = s.inletStalled := rfl
@[simp] theorem State.modCtx_inletQuotaStalled (s : State) (k : Fin 16) (f : Ctx → Ctx) : (s.modCtx k f).inletQuotaStalled = s.inletQuotaStalled := rfl
@[simp] theorem State.modCtx_beInletStalled (s : State) (k : Fin 16) (f : Ctx → Ctx) : (s.modCtx k f).beInletStalled = s.beInletStalled := rfl
@[simp] theorem State.modCtx_inletCorrected (s : State) (k : Fin 16) (f : Ctx → Ctx) : (s.modCtx k f).inletCorrected = s.inletCorrected := rfl
@[simp] theorem State.modCtx_windows (s : State) (k : Fin 16) (f : Ctx → Ctx) : (s.modCtx k f).windows = s.windows := rfl
@[simp] theorem State.modCtx_stagingRegions (s : State) (k : Fin 16) (f : Ctx → Ctx) : (s.modCtx k f).stagingRegions = s.stagingRegions := rfl
@[simp] theorem State.modCtx_counterLow (s : State) (k : Fin 16) (f : Ctx → Ctx) : (s.modCtx k f).counterLow = s.counterLow := rfl
@[simp] theorem State.modCtx_ringLow (s : State) (k : Fin 16) (f : Ctx → Ctx) : (s.modCtx k f).ringLow = s.ringLow := rfl
@[simp] theorem State.modCtx_jobsPublished (s : State) (k : Fin 16) (f : Ctx → Ctx) : (s.modCtx k f).jobsPublished = s.jobsPublished := rfl
@[simp] theorem State.modCtx_served (s : State) (k : Fin 16) (f : Ctx → Ctx) : (s.modCtx k f).served = s.served := rfl
@[simp] theorem State.modCtx_movesCreated (s : State) (k : Fin 16) (f : Ctx → Ctx) : (s.modCtx k f).movesCreated = s.movesCreated := rfl
@[simp] theorem State.modCtx_obs (s : State) (k : Fin 16) (f : Ctx → Ctx) : (s.modCtx k f).obs = s.obs := rfl
@[simp] theorem State.modCtx_mem (s : State) (k : Fin 16) (f : Ctx → Ctx) : (s.modCtx k f).mem = s.mem := rfl
@[simp] theorem State.modCtx_spad (s : State) (k : Fin 16) (f : Ctx → Ctx) : (s.modCtx k f).spad = s.spad := rfl
@[simp] theorem State.modCtx_images (s : State) (k : Fin 16) (f : Ctx → Ctx) : (s.modCtx k f).images = s.images := rfl
@[simp] theorem State.modCtx_linkOut (s : State) (k : Fin 16) (f : Ctx → Ctx) : (s.modCtx k f).linkOut = s.linkOut := rfl
@[simp] theorem State.modCtx_results (s : State) (k : Fin 16) (f : Ctx → Ctx) : (s.modCtx k f).results = s.results := rfl
@[simp] theorem State.modCtx_readData (s : State) (k : Fin 16) (f : Ctx → Ctx) : (s.modCtx k f).readData = s.readData := rfl

@[simp] theorem State.setCore_pending (s : State) (l : Fin 64) (c : Core) : (s.setCore l c).pending = s.pending := rfl
@[simp] theorem State.setCore_config (s : State) (l : Fin 64) (c : Core) : (s.setCore l c).config = s.config := rfl
@[simp] theorem State.setCore_boot (s : State) (l : Fin 64) (c : Core) : (s.setCore l c).boot = s.boot := rfl
@[simp] theorem State.setCore_time (s : State) (l : Fin 64) (c : Core) : (s.setCore l c).time = s.time := rfl
@[simp] theorem State.setCore_pages (s : State) (l : Fin 64) (c : Core) : (s.setCore l c).pages = s.pages := rfl
@[simp] theorem State.setCore_ext (s : State) (l : Fin 64) (c : Core) : (s.setCore l c).ext = s.ext := rfl
@[simp] theorem State.setCore_extRun (s : State) (l : Fin 64) (c : Core) : (s.setCore l c).extRun = s.extRun := rfl
@[simp] theorem State.setCore_extEnablePending (s : State) (l : Fin 64) (c : Core) : (s.setCore l c).extEnablePending = s.extEnablePending := rfl
@[simp] theorem State.setCore_obsEnablePending (s : State) (l : Fin 64) (c : Core) : (s.setCore l c).obsEnablePending = s.obsEnablePending := rfl
@[simp] theorem State.setCore_extEnable (s : State) (l : Fin 64) (c : Core) : (s.setCore l c).extEnable = s.extEnable := rfl
@[simp] theorem State.setCore_obsEnable (s : State) (l : Fin 64) (c : Core) : (s.setCore l c).obsEnable = s.obsEnable := rfl
@[simp] theorem State.setCore_gov (s : State) (l : Fin 64) (c : Core) : (s.setCore l c).gov = s.gov := rfl
@[simp] theorem State.setCore_steward (s : State) (l : Fin 64) (c : Core) : (s.setCore l c).steward = s.steward := rfl
@[simp] theorem State.setCore_sluice (s : State) (l : Fin 64) (c : Core) : (s.setCore l c).sluice = s.sluice := rfl
@[simp] theorem State.setCore_safety (s : State) (l : Fin 64) (c : Core) : (s.setCore l c).safety = s.safety := rfl
@[simp] theorem State.setCore_ctxs (s : State) (l : Fin 64) (c : Core) : (s.setCore l c).ctxs = s.ctxs := rfl
@[simp] theorem State.setCore_catches (s : State) (l : Fin 64) (c : Core) : (s.setCore l c).catches = s.catches := rfl
@[simp] theorem State.setCore_ctrl (s : State) (l : Fin 64) (c : Core) : (s.setCore l c).ctrl = s.ctrl := rfl
@[simp] theorem State.setCore_units (s : State) (l : Fin 64) (c : Core) : (s.setCore l c).units = s.units := rfl
@[simp] theorem State.setCore_placeOrder (s : State) (l : Fin 64) (c : Core) : (s.setCore l c).placeOrder = s.placeOrder := rfl
@[simp] theorem State.setCore_cntOps (s : State) (l : Fin 64) (c : Core) : (s.setCore l c).cntOps = s.cntOps := rfl
@[simp] theorem State.setCore_chanOps (s : State) (l : Fin 64) (c : Core) : (s.setCore l c).chanOps = s.chanOps := rfl
@[simp] theorem State.setCore_writes (s : State) (l : Fin 64) (c : Core) : (s.setCore l c).writes = s.writes := rfl
@[simp] theorem State.setCore_horizon (s : State) (l : Fin 64) (c : Core) : (s.setCore l c).horizon = s.horizon := rfl
@[simp] theorem State.setCore_arrivals (s : State) (l : Fin 64) (c : Core) : (s.setCore l c).arrivals = s.arrivals := rfl
@[simp] theorem State.setCore_horizonStalled (s : State) (l : Fin 64) (c : Core) : (s.setCore l c).horizonStalled = s.horizonStalled := rfl
@[simp] theorem State.setCore_quotaStalled (s : State) (l : Fin 64) (c : Core) : (s.setCore l c).quotaStalled = s.quotaStalled := rfl
@[simp] theorem State.setCore_beHorizonStalled (s : State) (l : Fin 64) (c : Core) : (s.setCore l c).beHorizonStalled = s.beHorizonStalled := rfl
@[simp] theorem State.setCore_horizonCredit (s : State) (l : Fin 64) (c : Core) : (s.setCore l c).horizonCredit = s.horizonCredit := rfl
@[simp] theorem State.setCore_quotaCredit (s : State) (l : Fin 64) (c : Core) : (s.setCore l c).quotaCredit = s.quotaCredit := rfl
@[simp] theorem State.setCore_beCredit (s : State) (l : Fin 64) (c : Core) : (s.setCore l c).beCredit = s.beCredit := rfl
@[simp] theorem State.setCore_beInletDelay (s : State) (l : Fin 64) (c : Core) : (s.setCore l c).beInletDelay = s.beInletDelay := rfl
@[simp] theorem State.setCore_beHorizonDelay (s : State) (l : Fin 64) (c : Core) : (s.setCore l c).beHorizonDelay = s.beHorizonDelay := rfl
@[simp] theorem State.setCore_packets (s : State) (l : Fin 64) (c : Core) : (s.setCore l c).packets = s.packets := rfl
@[simp] theorem State.setCore_inletStalled (s : State) (l : Fin 64) (c : Core) : (s.setCore l c).inletStalled = s.inletStalled := rfl
@[simp] theorem State.setCore_inletQuotaStalled (s : State) (l : Fin 64) (c : Core) : (s.setCore l c).inletQuotaStalled = s.inletQuotaStalled := rfl
@[simp] theorem State.setCore_beInletStalled (s : State) (l : Fin 64) (c : Core) : (s.setCore l c).beInletStalled = s.beInletStalled := rfl
@[simp] theorem State.setCore_inletCorrected (s : State) (l : Fin 64) (c : Core) : (s.setCore l c).inletCorrected = s.inletCorrected := rfl
@[simp] theorem State.setCore_windows (s : State) (l : Fin 64) (c : Core) : (s.setCore l c).windows = s.windows := rfl
@[simp] theorem State.setCore_stagingRegions (s : State) (l : Fin 64) (c : Core) : (s.setCore l c).stagingRegions = s.stagingRegions := rfl
@[simp] theorem State.setCore_counterLow (s : State) (l : Fin 64) (c : Core) : (s.setCore l c).counterLow = s.counterLow := rfl
@[simp] theorem State.setCore_ringLow (s : State) (l : Fin 64) (c : Core) : (s.setCore l c).ringLow = s.ringLow := rfl
@[simp] theorem State.setCore_jobsPublished (s : State) (l : Fin 64) (c : Core) : (s.setCore l c).jobsPublished = s.jobsPublished := rfl
@[simp] theorem State.setCore_served (s : State) (l : Fin 64) (c : Core) : (s.setCore l c).served = s.served := rfl
@[simp] theorem State.setCore_movesCreated (s : State) (l : Fin 64) (c : Core) : (s.setCore l c).movesCreated = s.movesCreated := rfl
@[simp] theorem State.setCore_obs (s : State) (l : Fin 64) (c : Core) : (s.setCore l c).obs = s.obs := rfl
@[simp] theorem State.setCore_mem (s : State) (l : Fin 64) (c : Core) : (s.setCore l c).mem = s.mem := rfl
@[simp] theorem State.setCore_spad (s : State) (l : Fin 64) (c : Core) : (s.setCore l c).spad = s.spad := rfl
@[simp] theorem State.setCore_images (s : State) (l : Fin 64) (c : Core) : (s.setCore l c).images = s.images := rfl
@[simp] theorem State.setCore_linkOut (s : State) (l : Fin 64) (c : Core) : (s.setCore l c).linkOut = s.linkOut := rfl
@[simp] theorem State.setCore_results (s : State) (l : Fin 64) (c : Core) : (s.setCore l c).results = s.results := rfl
@[simp] theorem State.setCore_readData (s : State) (l : Fin 64) (c : Core) : (s.setCore l c).readData = s.readData := rfl

@[simp] theorem State.modCore_pending (s : State) (l : Fin 64) (f : Core → Core) : (s.modCore l f).pending = s.pending := rfl
@[simp] theorem State.modCore_config (s : State) (l : Fin 64) (f : Core → Core) : (s.modCore l f).config = s.config := rfl
@[simp] theorem State.modCore_boot (s : State) (l : Fin 64) (f : Core → Core) : (s.modCore l f).boot = s.boot := rfl
@[simp] theorem State.modCore_time (s : State) (l : Fin 64) (f : Core → Core) : (s.modCore l f).time = s.time := rfl
@[simp] theorem State.modCore_pages (s : State) (l : Fin 64) (f : Core → Core) : (s.modCore l f).pages = s.pages := rfl
@[simp] theorem State.modCore_ext (s : State) (l : Fin 64) (f : Core → Core) : (s.modCore l f).ext = s.ext := rfl
@[simp] theorem State.modCore_extRun (s : State) (l : Fin 64) (f : Core → Core) : (s.modCore l f).extRun = s.extRun := rfl
@[simp] theorem State.modCore_extEnablePending (s : State) (l : Fin 64) (f : Core → Core) : (s.modCore l f).extEnablePending = s.extEnablePending := rfl
@[simp] theorem State.modCore_obsEnablePending (s : State) (l : Fin 64) (f : Core → Core) : (s.modCore l f).obsEnablePending = s.obsEnablePending := rfl
@[simp] theorem State.modCore_extEnable (s : State) (l : Fin 64) (f : Core → Core) : (s.modCore l f).extEnable = s.extEnable := rfl
@[simp] theorem State.modCore_obsEnable (s : State) (l : Fin 64) (f : Core → Core) : (s.modCore l f).obsEnable = s.obsEnable := rfl
@[simp] theorem State.modCore_gov (s : State) (l : Fin 64) (f : Core → Core) : (s.modCore l f).gov = s.gov := rfl
@[simp] theorem State.modCore_steward (s : State) (l : Fin 64) (f : Core → Core) : (s.modCore l f).steward = s.steward := rfl
@[simp] theorem State.modCore_sluice (s : State) (l : Fin 64) (f : Core → Core) : (s.modCore l f).sluice = s.sluice := rfl
@[simp] theorem State.modCore_safety (s : State) (l : Fin 64) (f : Core → Core) : (s.modCore l f).safety = s.safety := rfl
@[simp] theorem State.modCore_ctxs (s : State) (l : Fin 64) (f : Core → Core) : (s.modCore l f).ctxs = s.ctxs := rfl
@[simp] theorem State.modCore_catches (s : State) (l : Fin 64) (f : Core → Core) : (s.modCore l f).catches = s.catches := rfl
@[simp] theorem State.modCore_ctrl (s : State) (l : Fin 64) (f : Core → Core) : (s.modCore l f).ctrl = s.ctrl := rfl
@[simp] theorem State.modCore_units (s : State) (l : Fin 64) (f : Core → Core) : (s.modCore l f).units = s.units := rfl
@[simp] theorem State.modCore_placeOrder (s : State) (l : Fin 64) (f : Core → Core) : (s.modCore l f).placeOrder = s.placeOrder := rfl
@[simp] theorem State.modCore_cntOps (s : State) (l : Fin 64) (f : Core → Core) : (s.modCore l f).cntOps = s.cntOps := rfl
@[simp] theorem State.modCore_chanOps (s : State) (l : Fin 64) (f : Core → Core) : (s.modCore l f).chanOps = s.chanOps := rfl
@[simp] theorem State.modCore_writes (s : State) (l : Fin 64) (f : Core → Core) : (s.modCore l f).writes = s.writes := rfl
@[simp] theorem State.modCore_horizon (s : State) (l : Fin 64) (f : Core → Core) : (s.modCore l f).horizon = s.horizon := rfl
@[simp] theorem State.modCore_arrivals (s : State) (l : Fin 64) (f : Core → Core) : (s.modCore l f).arrivals = s.arrivals := rfl
@[simp] theorem State.modCore_horizonStalled (s : State) (l : Fin 64) (f : Core → Core) : (s.modCore l f).horizonStalled = s.horizonStalled := rfl
@[simp] theorem State.modCore_quotaStalled (s : State) (l : Fin 64) (f : Core → Core) : (s.modCore l f).quotaStalled = s.quotaStalled := rfl
@[simp] theorem State.modCore_beHorizonStalled (s : State) (l : Fin 64) (f : Core → Core) : (s.modCore l f).beHorizonStalled = s.beHorizonStalled := rfl
@[simp] theorem State.modCore_horizonCredit (s : State) (l : Fin 64) (f : Core → Core) : (s.modCore l f).horizonCredit = s.horizonCredit := rfl
@[simp] theorem State.modCore_quotaCredit (s : State) (l : Fin 64) (f : Core → Core) : (s.modCore l f).quotaCredit = s.quotaCredit := rfl
@[simp] theorem State.modCore_beCredit (s : State) (l : Fin 64) (f : Core → Core) : (s.modCore l f).beCredit = s.beCredit := rfl
@[simp] theorem State.modCore_beInletDelay (s : State) (l : Fin 64) (f : Core → Core) : (s.modCore l f).beInletDelay = s.beInletDelay := rfl
@[simp] theorem State.modCore_beHorizonDelay (s : State) (l : Fin 64) (f : Core → Core) : (s.modCore l f).beHorizonDelay = s.beHorizonDelay := rfl
@[simp] theorem State.modCore_packets (s : State) (l : Fin 64) (f : Core → Core) : (s.modCore l f).packets = s.packets := rfl
@[simp] theorem State.modCore_inletStalled (s : State) (l : Fin 64) (f : Core → Core) : (s.modCore l f).inletStalled = s.inletStalled := rfl
@[simp] theorem State.modCore_inletQuotaStalled (s : State) (l : Fin 64) (f : Core → Core) : (s.modCore l f).inletQuotaStalled = s.inletQuotaStalled := rfl
@[simp] theorem State.modCore_beInletStalled (s : State) (l : Fin 64) (f : Core → Core) : (s.modCore l f).beInletStalled = s.beInletStalled := rfl
@[simp] theorem State.modCore_inletCorrected (s : State) (l : Fin 64) (f : Core → Core) : (s.modCore l f).inletCorrected = s.inletCorrected := rfl
@[simp] theorem State.modCore_windows (s : State) (l : Fin 64) (f : Core → Core) : (s.modCore l f).windows = s.windows := rfl
@[simp] theorem State.modCore_stagingRegions (s : State) (l : Fin 64) (f : Core → Core) : (s.modCore l f).stagingRegions = s.stagingRegions := rfl
@[simp] theorem State.modCore_counterLow (s : State) (l : Fin 64) (f : Core → Core) : (s.modCore l f).counterLow = s.counterLow := rfl
@[simp] theorem State.modCore_ringLow (s : State) (l : Fin 64) (f : Core → Core) : (s.modCore l f).ringLow = s.ringLow := rfl
@[simp] theorem State.modCore_jobsPublished (s : State) (l : Fin 64) (f : Core → Core) : (s.modCore l f).jobsPublished = s.jobsPublished := rfl
@[simp] theorem State.modCore_served (s : State) (l : Fin 64) (f : Core → Core) : (s.modCore l f).served = s.served := rfl
@[simp] theorem State.modCore_movesCreated (s : State) (l : Fin 64) (f : Core → Core) : (s.modCore l f).movesCreated = s.movesCreated := rfl
@[simp] theorem State.modCore_obs (s : State) (l : Fin 64) (f : Core → Core) : (s.modCore l f).obs = s.obs := rfl
@[simp] theorem State.modCore_mem (s : State) (l : Fin 64) (f : Core → Core) : (s.modCore l f).mem = s.mem := rfl
@[simp] theorem State.modCore_spad (s : State) (l : Fin 64) (f : Core → Core) : (s.modCore l f).spad = s.spad := rfl
@[simp] theorem State.modCore_images (s : State) (l : Fin 64) (f : Core → Core) : (s.modCore l f).images = s.images := rfl
@[simp] theorem State.modCore_linkOut (s : State) (l : Fin 64) (f : Core → Core) : (s.modCore l f).linkOut = s.linkOut := rfl
@[simp] theorem State.modCore_results (s : State) (l : Fin 64) (f : Core → Core) : (s.modCore l f).results = s.results := rfl
@[simp] theorem State.modCore_readData (s : State) (l : Fin 64) (f : Core → Core) : (s.modCore l f).readData = s.readData := rfl

@[simp] theorem State.setUnit_pending (s : State) (k : Fin 8) (u : CflUnit) : (s.setUnit k u).pending = s.pending := rfl
@[simp] theorem State.setUnit_config (s : State) (k : Fin 8) (u : CflUnit) : (s.setUnit k u).config = s.config := rfl
@[simp] theorem State.setUnit_boot (s : State) (k : Fin 8) (u : CflUnit) : (s.setUnit k u).boot = s.boot := rfl
@[simp] theorem State.setUnit_time (s : State) (k : Fin 8) (u : CflUnit) : (s.setUnit k u).time = s.time := rfl
@[simp] theorem State.setUnit_pages (s : State) (k : Fin 8) (u : CflUnit) : (s.setUnit k u).pages = s.pages := rfl
@[simp] theorem State.setUnit_ext (s : State) (k : Fin 8) (u : CflUnit) : (s.setUnit k u).ext = s.ext := rfl
@[simp] theorem State.setUnit_extRun (s : State) (k : Fin 8) (u : CflUnit) : (s.setUnit k u).extRun = s.extRun := rfl
@[simp] theorem State.setUnit_extEnablePending (s : State) (k : Fin 8) (u : CflUnit) : (s.setUnit k u).extEnablePending = s.extEnablePending := rfl
@[simp] theorem State.setUnit_obsEnablePending (s : State) (k : Fin 8) (u : CflUnit) : (s.setUnit k u).obsEnablePending = s.obsEnablePending := rfl
@[simp] theorem State.setUnit_extEnable (s : State) (k : Fin 8) (u : CflUnit) : (s.setUnit k u).extEnable = s.extEnable := rfl
@[simp] theorem State.setUnit_obsEnable (s : State) (k : Fin 8) (u : CflUnit) : (s.setUnit k u).obsEnable = s.obsEnable := rfl
@[simp] theorem State.setUnit_gov (s : State) (k : Fin 8) (u : CflUnit) : (s.setUnit k u).gov = s.gov := rfl
@[simp] theorem State.setUnit_steward (s : State) (k : Fin 8) (u : CflUnit) : (s.setUnit k u).steward = s.steward := rfl
@[simp] theorem State.setUnit_sluice (s : State) (k : Fin 8) (u : CflUnit) : (s.setUnit k u).sluice = s.sluice := rfl
@[simp] theorem State.setUnit_safety (s : State) (k : Fin 8) (u : CflUnit) : (s.setUnit k u).safety = s.safety := rfl
@[simp] theorem State.setUnit_ctxs (s : State) (k : Fin 8) (u : CflUnit) : (s.setUnit k u).ctxs = s.ctxs := rfl
@[simp] theorem State.setUnit_catches (s : State) (k : Fin 8) (u : CflUnit) : (s.setUnit k u).catches = s.catches := rfl
@[simp] theorem State.setUnit_cores (s : State) (k : Fin 8) (u : CflUnit) : (s.setUnit k u).cores = s.cores := rfl
@[simp] theorem State.setUnit_ctrl (s : State) (k : Fin 8) (u : CflUnit) : (s.setUnit k u).ctrl = s.ctrl := rfl
@[simp] theorem State.setUnit_placeOrder (s : State) (k : Fin 8) (u : CflUnit) : (s.setUnit k u).placeOrder = s.placeOrder := rfl
@[simp] theorem State.setUnit_cntOps (s : State) (k : Fin 8) (u : CflUnit) : (s.setUnit k u).cntOps = s.cntOps := rfl
@[simp] theorem State.setUnit_chanOps (s : State) (k : Fin 8) (u : CflUnit) : (s.setUnit k u).chanOps = s.chanOps := rfl
@[simp] theorem State.setUnit_writes (s : State) (k : Fin 8) (u : CflUnit) : (s.setUnit k u).writes = s.writes := rfl
@[simp] theorem State.setUnit_horizon (s : State) (k : Fin 8) (u : CflUnit) : (s.setUnit k u).horizon = s.horizon := rfl
@[simp] theorem State.setUnit_arrivals (s : State) (k : Fin 8) (u : CflUnit) : (s.setUnit k u).arrivals = s.arrivals := rfl
@[simp] theorem State.setUnit_horizonStalled (s : State) (k : Fin 8) (u : CflUnit) : (s.setUnit k u).horizonStalled = s.horizonStalled := rfl
@[simp] theorem State.setUnit_quotaStalled (s : State) (k : Fin 8) (u : CflUnit) : (s.setUnit k u).quotaStalled = s.quotaStalled := rfl
@[simp] theorem State.setUnit_beHorizonStalled (s : State) (k : Fin 8) (u : CflUnit) : (s.setUnit k u).beHorizonStalled = s.beHorizonStalled := rfl
@[simp] theorem State.setUnit_horizonCredit (s : State) (k : Fin 8) (u : CflUnit) : (s.setUnit k u).horizonCredit = s.horizonCredit := rfl
@[simp] theorem State.setUnit_quotaCredit (s : State) (k : Fin 8) (u : CflUnit) : (s.setUnit k u).quotaCredit = s.quotaCredit := rfl
@[simp] theorem State.setUnit_beCredit (s : State) (k : Fin 8) (u : CflUnit) : (s.setUnit k u).beCredit = s.beCredit := rfl
@[simp] theorem State.setUnit_beInletDelay (s : State) (k : Fin 8) (u : CflUnit) : (s.setUnit k u).beInletDelay = s.beInletDelay := rfl
@[simp] theorem State.setUnit_beHorizonDelay (s : State) (k : Fin 8) (u : CflUnit) : (s.setUnit k u).beHorizonDelay = s.beHorizonDelay := rfl
@[simp] theorem State.setUnit_packets (s : State) (k : Fin 8) (u : CflUnit) : (s.setUnit k u).packets = s.packets := rfl
@[simp] theorem State.setUnit_inletStalled (s : State) (k : Fin 8) (u : CflUnit) : (s.setUnit k u).inletStalled = s.inletStalled := rfl
@[simp] theorem State.setUnit_inletQuotaStalled (s : State) (k : Fin 8) (u : CflUnit) : (s.setUnit k u).inletQuotaStalled = s.inletQuotaStalled := rfl
@[simp] theorem State.setUnit_beInletStalled (s : State) (k : Fin 8) (u : CflUnit) : (s.setUnit k u).beInletStalled = s.beInletStalled := rfl
@[simp] theorem State.setUnit_inletCorrected (s : State) (k : Fin 8) (u : CflUnit) : (s.setUnit k u).inletCorrected = s.inletCorrected := rfl
@[simp] theorem State.setUnit_windows (s : State) (k : Fin 8) (u : CflUnit) : (s.setUnit k u).windows = s.windows := rfl
@[simp] theorem State.setUnit_stagingRegions (s : State) (k : Fin 8) (u : CflUnit) : (s.setUnit k u).stagingRegions = s.stagingRegions := rfl
@[simp] theorem State.setUnit_counterLow (s : State) (k : Fin 8) (u : CflUnit) : (s.setUnit k u).counterLow = s.counterLow := rfl
@[simp] theorem State.setUnit_ringLow (s : State) (k : Fin 8) (u : CflUnit) : (s.setUnit k u).ringLow = s.ringLow := rfl
@[simp] theorem State.setUnit_jobsPublished (s : State) (k : Fin 8) (u : CflUnit) : (s.setUnit k u).jobsPublished = s.jobsPublished := rfl
@[simp] theorem State.setUnit_served (s : State) (k : Fin 8) (u : CflUnit) : (s.setUnit k u).served = s.served := rfl
@[simp] theorem State.setUnit_movesCreated (s : State) (k : Fin 8) (u : CflUnit) : (s.setUnit k u).movesCreated = s.movesCreated := rfl
@[simp] theorem State.setUnit_obs (s : State) (k : Fin 8) (u : CflUnit) : (s.setUnit k u).obs = s.obs := rfl
@[simp] theorem State.setUnit_mem (s : State) (k : Fin 8) (u : CflUnit) : (s.setUnit k u).mem = s.mem := rfl
@[simp] theorem State.setUnit_spad (s : State) (k : Fin 8) (u : CflUnit) : (s.setUnit k u).spad = s.spad := rfl
@[simp] theorem State.setUnit_images (s : State) (k : Fin 8) (u : CflUnit) : (s.setUnit k u).images = s.images := rfl
@[simp] theorem State.setUnit_linkOut (s : State) (k : Fin 8) (u : CflUnit) : (s.setUnit k u).linkOut = s.linkOut := rfl
@[simp] theorem State.setUnit_results (s : State) (k : Fin 8) (u : CflUnit) : (s.setUnit k u).results = s.results := rfl
@[simp] theorem State.setUnit_readData (s : State) (k : Fin 8) (u : CflUnit) : (s.setUnit k u).readData = s.readData := rfl

@[simp] theorem State.setCatch_pending (s : State) (k : Fin 16) (c : Catch) : (s.setCatch k c).pending = s.pending := rfl
@[simp] theorem State.setCatch_config (s : State) (k : Fin 16) (c : Catch) : (s.setCatch k c).config = s.config := rfl
@[simp] theorem State.setCatch_boot (s : State) (k : Fin 16) (c : Catch) : (s.setCatch k c).boot = s.boot := rfl
@[simp] theorem State.setCatch_time (s : State) (k : Fin 16) (c : Catch) : (s.setCatch k c).time = s.time := rfl
@[simp] theorem State.setCatch_pages (s : State) (k : Fin 16) (c : Catch) : (s.setCatch k c).pages = s.pages := rfl
@[simp] theorem State.setCatch_ext (s : State) (k : Fin 16) (c : Catch) : (s.setCatch k c).ext = s.ext := rfl
@[simp] theorem State.setCatch_extRun (s : State) (k : Fin 16) (c : Catch) : (s.setCatch k c).extRun = s.extRun := rfl
@[simp] theorem State.setCatch_extEnablePending (s : State) (k : Fin 16) (c : Catch) : (s.setCatch k c).extEnablePending = s.extEnablePending := rfl
@[simp] theorem State.setCatch_obsEnablePending (s : State) (k : Fin 16) (c : Catch) : (s.setCatch k c).obsEnablePending = s.obsEnablePending := rfl
@[simp] theorem State.setCatch_extEnable (s : State) (k : Fin 16) (c : Catch) : (s.setCatch k c).extEnable = s.extEnable := rfl
@[simp] theorem State.setCatch_obsEnable (s : State) (k : Fin 16) (c : Catch) : (s.setCatch k c).obsEnable = s.obsEnable := rfl
@[simp] theorem State.setCatch_gov (s : State) (k : Fin 16) (c : Catch) : (s.setCatch k c).gov = s.gov := rfl
@[simp] theorem State.setCatch_steward (s : State) (k : Fin 16) (c : Catch) : (s.setCatch k c).steward = s.steward := rfl
@[simp] theorem State.setCatch_sluice (s : State) (k : Fin 16) (c : Catch) : (s.setCatch k c).sluice = s.sluice := rfl
@[simp] theorem State.setCatch_safety (s : State) (k : Fin 16) (c : Catch) : (s.setCatch k c).safety = s.safety := rfl
@[simp] theorem State.setCatch_ctxs (s : State) (k : Fin 16) (c : Catch) : (s.setCatch k c).ctxs = s.ctxs := rfl
@[simp] theorem State.setCatch_cores (s : State) (k : Fin 16) (c : Catch) : (s.setCatch k c).cores = s.cores := rfl
@[simp] theorem State.setCatch_ctrl (s : State) (k : Fin 16) (c : Catch) : (s.setCatch k c).ctrl = s.ctrl := rfl
@[simp] theorem State.setCatch_units (s : State) (k : Fin 16) (c : Catch) : (s.setCatch k c).units = s.units := rfl
@[simp] theorem State.setCatch_placeOrder (s : State) (k : Fin 16) (c : Catch) : (s.setCatch k c).placeOrder = s.placeOrder := rfl
@[simp] theorem State.setCatch_cntOps (s : State) (k : Fin 16) (c : Catch) : (s.setCatch k c).cntOps = s.cntOps := rfl
@[simp] theorem State.setCatch_chanOps (s : State) (k : Fin 16) (c : Catch) : (s.setCatch k c).chanOps = s.chanOps := rfl
@[simp] theorem State.setCatch_writes (s : State) (k : Fin 16) (c : Catch) : (s.setCatch k c).writes = s.writes := rfl
@[simp] theorem State.setCatch_horizon (s : State) (k : Fin 16) (c : Catch) : (s.setCatch k c).horizon = s.horizon := rfl
@[simp] theorem State.setCatch_arrivals (s : State) (k : Fin 16) (c : Catch) : (s.setCatch k c).arrivals = s.arrivals := rfl
@[simp] theorem State.setCatch_horizonStalled (s : State) (k : Fin 16) (c : Catch) : (s.setCatch k c).horizonStalled = s.horizonStalled := rfl
@[simp] theorem State.setCatch_quotaStalled (s : State) (k : Fin 16) (c : Catch) : (s.setCatch k c).quotaStalled = s.quotaStalled := rfl
@[simp] theorem State.setCatch_beHorizonStalled (s : State) (k : Fin 16) (c : Catch) : (s.setCatch k c).beHorizonStalled = s.beHorizonStalled := rfl
@[simp] theorem State.setCatch_horizonCredit (s : State) (k : Fin 16) (c : Catch) : (s.setCatch k c).horizonCredit = s.horizonCredit := rfl
@[simp] theorem State.setCatch_quotaCredit (s : State) (k : Fin 16) (c : Catch) : (s.setCatch k c).quotaCredit = s.quotaCredit := rfl
@[simp] theorem State.setCatch_beCredit (s : State) (k : Fin 16) (c : Catch) : (s.setCatch k c).beCredit = s.beCredit := rfl
@[simp] theorem State.setCatch_beInletDelay (s : State) (k : Fin 16) (c : Catch) : (s.setCatch k c).beInletDelay = s.beInletDelay := rfl
@[simp] theorem State.setCatch_beHorizonDelay (s : State) (k : Fin 16) (c : Catch) : (s.setCatch k c).beHorizonDelay = s.beHorizonDelay := rfl
@[simp] theorem State.setCatch_packets (s : State) (k : Fin 16) (c : Catch) : (s.setCatch k c).packets = s.packets := rfl
@[simp] theorem State.setCatch_inletStalled (s : State) (k : Fin 16) (c : Catch) : (s.setCatch k c).inletStalled = s.inletStalled := rfl
@[simp] theorem State.setCatch_inletQuotaStalled (s : State) (k : Fin 16) (c : Catch) : (s.setCatch k c).inletQuotaStalled = s.inletQuotaStalled := rfl
@[simp] theorem State.setCatch_beInletStalled (s : State) (k : Fin 16) (c : Catch) : (s.setCatch k c).beInletStalled = s.beInletStalled := rfl
@[simp] theorem State.setCatch_inletCorrected (s : State) (k : Fin 16) (c : Catch) : (s.setCatch k c).inletCorrected = s.inletCorrected := rfl
@[simp] theorem State.setCatch_windows (s : State) (k : Fin 16) (c : Catch) : (s.setCatch k c).windows = s.windows := rfl
@[simp] theorem State.setCatch_stagingRegions (s : State) (k : Fin 16) (c : Catch) : (s.setCatch k c).stagingRegions = s.stagingRegions := rfl
@[simp] theorem State.setCatch_counterLow (s : State) (k : Fin 16) (c : Catch) : (s.setCatch k c).counterLow = s.counterLow := rfl
@[simp] theorem State.setCatch_ringLow (s : State) (k : Fin 16) (c : Catch) : (s.setCatch k c).ringLow = s.ringLow := rfl
@[simp] theorem State.setCatch_jobsPublished (s : State) (k : Fin 16) (c : Catch) : (s.setCatch k c).jobsPublished = s.jobsPublished := rfl
@[simp] theorem State.setCatch_served (s : State) (k : Fin 16) (c : Catch) : (s.setCatch k c).served = s.served := rfl
@[simp] theorem State.setCatch_movesCreated (s : State) (k : Fin 16) (c : Catch) : (s.setCatch k c).movesCreated = s.movesCreated := rfl
@[simp] theorem State.setCatch_obs (s : State) (k : Fin 16) (c : Catch) : (s.setCatch k c).obs = s.obs := rfl
@[simp] theorem State.setCatch_mem (s : State) (k : Fin 16) (c : Catch) : (s.setCatch k c).mem = s.mem := rfl
@[simp] theorem State.setCatch_spad (s : State) (k : Fin 16) (c : Catch) : (s.setCatch k c).spad = s.spad := rfl
@[simp] theorem State.setCatch_images (s : State) (k : Fin 16) (c : Catch) : (s.setCatch k c).images = s.images := rfl
@[simp] theorem State.setCatch_linkOut (s : State) (k : Fin 16) (c : Catch) : (s.setCatch k c).linkOut = s.linkOut := rfl
@[simp] theorem State.setCatch_results (s : State) (k : Fin 16) (c : Catch) : (s.setCatch k c).results = s.results := rfl
@[simp] theorem State.setCatch_readData (s : State) (k : Fin 16) (c : Catch) : (s.setCatch k c).readData = s.readData := rfl

@[simp] theorem State.setFrame_pending (s : State) (c f : Fin 8) (v : Frame) : (s.setFrame c f v).pending = s.pending := rfl
@[simp] theorem State.setFrame_config (s : State) (c f : Fin 8) (v : Frame) : (s.setFrame c f v).config = s.config := rfl
@[simp] theorem State.setFrame_boot (s : State) (c f : Fin 8) (v : Frame) : (s.setFrame c f v).boot = s.boot := rfl
@[simp] theorem State.setFrame_time (s : State) (c f : Fin 8) (v : Frame) : (s.setFrame c f v).time = s.time := rfl
@[simp] theorem State.setFrame_pages (s : State) (c f : Fin 8) (v : Frame) : (s.setFrame c f v).pages = s.pages := rfl
@[simp] theorem State.setFrame_ext (s : State) (c f : Fin 8) (v : Frame) : (s.setFrame c f v).ext = s.ext := rfl
@[simp] theorem State.setFrame_extRun (s : State) (c f : Fin 8) (v : Frame) : (s.setFrame c f v).extRun = s.extRun := rfl
@[simp] theorem State.setFrame_extEnablePending (s : State) (c f : Fin 8) (v : Frame) : (s.setFrame c f v).extEnablePending = s.extEnablePending := rfl
@[simp] theorem State.setFrame_obsEnablePending (s : State) (c f : Fin 8) (v : Frame) : (s.setFrame c f v).obsEnablePending = s.obsEnablePending := rfl
@[simp] theorem State.setFrame_extEnable (s : State) (c f : Fin 8) (v : Frame) : (s.setFrame c f v).extEnable = s.extEnable := rfl
@[simp] theorem State.setFrame_obsEnable (s : State) (c f : Fin 8) (v : Frame) : (s.setFrame c f v).obsEnable = s.obsEnable := rfl
@[simp] theorem State.setFrame_gov (s : State) (c f : Fin 8) (v : Frame) : (s.setFrame c f v).gov = s.gov := rfl
@[simp] theorem State.setFrame_steward (s : State) (c f : Fin 8) (v : Frame) : (s.setFrame c f v).steward = s.steward := rfl
@[simp] theorem State.setFrame_sluice (s : State) (c f : Fin 8) (v : Frame) : (s.setFrame c f v).sluice = s.sluice := rfl
@[simp] theorem State.setFrame_safety (s : State) (c f : Fin 8) (v : Frame) : (s.setFrame c f v).safety = s.safety := rfl
@[simp] theorem State.setFrame_ctxs (s : State) (c f : Fin 8) (v : Frame) : (s.setFrame c f v).ctxs = s.ctxs := rfl
@[simp] theorem State.setFrame_catches (s : State) (c f : Fin 8) (v : Frame) : (s.setFrame c f v).catches = s.catches := rfl
@[simp] theorem State.setFrame_cores (s : State) (c f : Fin 8) (v : Frame) : (s.setFrame c f v).cores = s.cores := rfl
@[simp] theorem State.setFrame_units (s : State) (c f : Fin 8) (v : Frame) : (s.setFrame c f v).units = s.units := rfl
@[simp] theorem State.setFrame_placeOrder (s : State) (c f : Fin 8) (v : Frame) : (s.setFrame c f v).placeOrder = s.placeOrder := rfl
@[simp] theorem State.setFrame_cntOps (s : State) (c f : Fin 8) (v : Frame) : (s.setFrame c f v).cntOps = s.cntOps := rfl
@[simp] theorem State.setFrame_chanOps (s : State) (c f : Fin 8) (v : Frame) : (s.setFrame c f v).chanOps = s.chanOps := rfl
@[simp] theorem State.setFrame_writes (s : State) (c f : Fin 8) (v : Frame) : (s.setFrame c f v).writes = s.writes := rfl
@[simp] theorem State.setFrame_horizon (s : State) (c f : Fin 8) (v : Frame) : (s.setFrame c f v).horizon = s.horizon := rfl
@[simp] theorem State.setFrame_arrivals (s : State) (c f : Fin 8) (v : Frame) : (s.setFrame c f v).arrivals = s.arrivals := rfl
@[simp] theorem State.setFrame_horizonStalled (s : State) (c f : Fin 8) (v : Frame) : (s.setFrame c f v).horizonStalled = s.horizonStalled := rfl
@[simp] theorem State.setFrame_quotaStalled (s : State) (c f : Fin 8) (v : Frame) : (s.setFrame c f v).quotaStalled = s.quotaStalled := rfl
@[simp] theorem State.setFrame_beHorizonStalled (s : State) (c f : Fin 8) (v : Frame) : (s.setFrame c f v).beHorizonStalled = s.beHorizonStalled := rfl
@[simp] theorem State.setFrame_horizonCredit (s : State) (c f : Fin 8) (v : Frame) : (s.setFrame c f v).horizonCredit = s.horizonCredit := rfl
@[simp] theorem State.setFrame_quotaCredit (s : State) (c f : Fin 8) (v : Frame) : (s.setFrame c f v).quotaCredit = s.quotaCredit := rfl
@[simp] theorem State.setFrame_beCredit (s : State) (c f : Fin 8) (v : Frame) : (s.setFrame c f v).beCredit = s.beCredit := rfl
@[simp] theorem State.setFrame_beInletDelay (s : State) (c f : Fin 8) (v : Frame) : (s.setFrame c f v).beInletDelay = s.beInletDelay := rfl
@[simp] theorem State.setFrame_beHorizonDelay (s : State) (c f : Fin 8) (v : Frame) : (s.setFrame c f v).beHorizonDelay = s.beHorizonDelay := rfl
@[simp] theorem State.setFrame_packets (s : State) (c f : Fin 8) (v : Frame) : (s.setFrame c f v).packets = s.packets := rfl
@[simp] theorem State.setFrame_inletStalled (s : State) (c f : Fin 8) (v : Frame) : (s.setFrame c f v).inletStalled = s.inletStalled := rfl
@[simp] theorem State.setFrame_inletQuotaStalled (s : State) (c f : Fin 8) (v : Frame) : (s.setFrame c f v).inletQuotaStalled = s.inletQuotaStalled := rfl
@[simp] theorem State.setFrame_beInletStalled (s : State) (c f : Fin 8) (v : Frame) : (s.setFrame c f v).beInletStalled = s.beInletStalled := rfl
@[simp] theorem State.setFrame_inletCorrected (s : State) (c f : Fin 8) (v : Frame) : (s.setFrame c f v).inletCorrected = s.inletCorrected := rfl
@[simp] theorem State.setFrame_windows (s : State) (c f : Fin 8) (v : Frame) : (s.setFrame c f v).windows = s.windows := rfl
@[simp] theorem State.setFrame_stagingRegions (s : State) (c f : Fin 8) (v : Frame) : (s.setFrame c f v).stagingRegions = s.stagingRegions := rfl
@[simp] theorem State.setFrame_counterLow (s : State) (c f : Fin 8) (v : Frame) : (s.setFrame c f v).counterLow = s.counterLow := rfl
@[simp] theorem State.setFrame_ringLow (s : State) (c f : Fin 8) (v : Frame) : (s.setFrame c f v).ringLow = s.ringLow := rfl
@[simp] theorem State.setFrame_jobsPublished (s : State) (c f : Fin 8) (v : Frame) : (s.setFrame c f v).jobsPublished = s.jobsPublished := rfl
@[simp] theorem State.setFrame_served (s : State) (c f : Fin 8) (v : Frame) : (s.setFrame c f v).served = s.served := rfl
@[simp] theorem State.setFrame_movesCreated (s : State) (c f : Fin 8) (v : Frame) : (s.setFrame c f v).movesCreated = s.movesCreated := rfl
@[simp] theorem State.setFrame_obs (s : State) (c f : Fin 8) (v : Frame) : (s.setFrame c f v).obs = s.obs := rfl
@[simp] theorem State.setFrame_mem (s : State) (c f : Fin 8) (v : Frame) : (s.setFrame c f v).mem = s.mem := rfl
@[simp] theorem State.setFrame_spad (s : State) (c f : Fin 8) (v : Frame) : (s.setFrame c f v).spad = s.spad := rfl
@[simp] theorem State.setFrame_images (s : State) (c f : Fin 8) (v : Frame) : (s.setFrame c f v).images = s.images := rfl
@[simp] theorem State.setFrame_linkOut (s : State) (c f : Fin 8) (v : Frame) : (s.setFrame c f v).linkOut = s.linkOut := rfl
@[simp] theorem State.setFrame_results (s : State) (c f : Fin 8) (v : Frame) : (s.setFrame c f v).results = s.results := rfl
@[simp] theorem State.setFrame_readData (s : State) (c f : Fin 8) (v : Frame) : (s.setFrame c f v).readData = s.readData := rfl

@[simp] theorem State.setPage_pending (s : State) (p : Fin 64) (h : PageHdr) : (s.setPage p h).pending = s.pending := rfl
@[simp] theorem State.setPage_config (s : State) (p : Fin 64) (h : PageHdr) : (s.setPage p h).config = s.config := rfl
@[simp] theorem State.setPage_boot (s : State) (p : Fin 64) (h : PageHdr) : (s.setPage p h).boot = s.boot := rfl
@[simp] theorem State.setPage_time (s : State) (p : Fin 64) (h : PageHdr) : (s.setPage p h).time = s.time := rfl
@[simp] theorem State.setPage_ext (s : State) (p : Fin 64) (h : PageHdr) : (s.setPage p h).ext = s.ext := rfl
@[simp] theorem State.setPage_extRun (s : State) (p : Fin 64) (h : PageHdr) : (s.setPage p h).extRun = s.extRun := rfl
@[simp] theorem State.setPage_extEnablePending (s : State) (p : Fin 64) (h : PageHdr) : (s.setPage p h).extEnablePending = s.extEnablePending := rfl
@[simp] theorem State.setPage_obsEnablePending (s : State) (p : Fin 64) (h : PageHdr) : (s.setPage p h).obsEnablePending = s.obsEnablePending := rfl
@[simp] theorem State.setPage_extEnable (s : State) (p : Fin 64) (h : PageHdr) : (s.setPage p h).extEnable = s.extEnable := rfl
@[simp] theorem State.setPage_obsEnable (s : State) (p : Fin 64) (h : PageHdr) : (s.setPage p h).obsEnable = s.obsEnable := rfl
@[simp] theorem State.setPage_gov (s : State) (p : Fin 64) (h : PageHdr) : (s.setPage p h).gov = s.gov := rfl
@[simp] theorem State.setPage_steward (s : State) (p : Fin 64) (h : PageHdr) : (s.setPage p h).steward = s.steward := rfl
@[simp] theorem State.setPage_sluice (s : State) (p : Fin 64) (h : PageHdr) : (s.setPage p h).sluice = s.sluice := rfl
@[simp] theorem State.setPage_safety (s : State) (p : Fin 64) (h : PageHdr) : (s.setPage p h).safety = s.safety := rfl
@[simp] theorem State.setPage_ctxs (s : State) (p : Fin 64) (h : PageHdr) : (s.setPage p h).ctxs = s.ctxs := rfl
@[simp] theorem State.setPage_catches (s : State) (p : Fin 64) (h : PageHdr) : (s.setPage p h).catches = s.catches := rfl
@[simp] theorem State.setPage_cores (s : State) (p : Fin 64) (h : PageHdr) : (s.setPage p h).cores = s.cores := rfl
@[simp] theorem State.setPage_ctrl (s : State) (p : Fin 64) (h : PageHdr) : (s.setPage p h).ctrl = s.ctrl := rfl
@[simp] theorem State.setPage_units (s : State) (p : Fin 64) (h : PageHdr) : (s.setPage p h).units = s.units := rfl
@[simp] theorem State.setPage_placeOrder (s : State) (p : Fin 64) (h : PageHdr) : (s.setPage p h).placeOrder = s.placeOrder := rfl
@[simp] theorem State.setPage_cntOps (s : State) (p : Fin 64) (h : PageHdr) : (s.setPage p h).cntOps = s.cntOps := rfl
@[simp] theorem State.setPage_chanOps (s : State) (p : Fin 64) (h : PageHdr) : (s.setPage p h).chanOps = s.chanOps := rfl
@[simp] theorem State.setPage_writes (s : State) (p : Fin 64) (h : PageHdr) : (s.setPage p h).writes = s.writes := rfl
@[simp] theorem State.setPage_horizon (s : State) (p : Fin 64) (h : PageHdr) : (s.setPage p h).horizon = s.horizon := rfl
@[simp] theorem State.setPage_arrivals (s : State) (p : Fin 64) (h : PageHdr) : (s.setPage p h).arrivals = s.arrivals := rfl
@[simp] theorem State.setPage_horizonStalled (s : State) (p : Fin 64) (h : PageHdr) : (s.setPage p h).horizonStalled = s.horizonStalled := rfl
@[simp] theorem State.setPage_quotaStalled (s : State) (p : Fin 64) (h : PageHdr) : (s.setPage p h).quotaStalled = s.quotaStalled := rfl
@[simp] theorem State.setPage_beHorizonStalled (s : State) (p : Fin 64) (h : PageHdr) : (s.setPage p h).beHorizonStalled = s.beHorizonStalled := rfl
@[simp] theorem State.setPage_horizonCredit (s : State) (p : Fin 64) (h : PageHdr) : (s.setPage p h).horizonCredit = s.horizonCredit := rfl
@[simp] theorem State.setPage_quotaCredit (s : State) (p : Fin 64) (h : PageHdr) : (s.setPage p h).quotaCredit = s.quotaCredit := rfl
@[simp] theorem State.setPage_beCredit (s : State) (p : Fin 64) (h : PageHdr) : (s.setPage p h).beCredit = s.beCredit := rfl
@[simp] theorem State.setPage_beInletDelay (s : State) (p : Fin 64) (h : PageHdr) : (s.setPage p h).beInletDelay = s.beInletDelay := rfl
@[simp] theorem State.setPage_beHorizonDelay (s : State) (p : Fin 64) (h : PageHdr) : (s.setPage p h).beHorizonDelay = s.beHorizonDelay := rfl
@[simp] theorem State.setPage_packets (s : State) (p : Fin 64) (h : PageHdr) : (s.setPage p h).packets = s.packets := rfl
@[simp] theorem State.setPage_inletStalled (s : State) (p : Fin 64) (h : PageHdr) : (s.setPage p h).inletStalled = s.inletStalled := rfl
@[simp] theorem State.setPage_inletQuotaStalled (s : State) (p : Fin 64) (h : PageHdr) : (s.setPage p h).inletQuotaStalled = s.inletQuotaStalled := rfl
@[simp] theorem State.setPage_beInletStalled (s : State) (p : Fin 64) (h : PageHdr) : (s.setPage p h).beInletStalled = s.beInletStalled := rfl
@[simp] theorem State.setPage_inletCorrected (s : State) (p : Fin 64) (h : PageHdr) : (s.setPage p h).inletCorrected = s.inletCorrected := rfl
@[simp] theorem State.setPage_windows (s : State) (p : Fin 64) (h : PageHdr) : (s.setPage p h).windows = s.windows := rfl
@[simp] theorem State.setPage_stagingRegions (s : State) (p : Fin 64) (h : PageHdr) : (s.setPage p h).stagingRegions = s.stagingRegions := rfl
@[simp] theorem State.setPage_counterLow (s : State) (p : Fin 64) (h : PageHdr) : (s.setPage p h).counterLow = s.counterLow := rfl
@[simp] theorem State.setPage_ringLow (s : State) (p : Fin 64) (h : PageHdr) : (s.setPage p h).ringLow = s.ringLow := rfl
@[simp] theorem State.setPage_jobsPublished (s : State) (p : Fin 64) (h : PageHdr) : (s.setPage p h).jobsPublished = s.jobsPublished := rfl
@[simp] theorem State.setPage_served (s : State) (p : Fin 64) (h : PageHdr) : (s.setPage p h).served = s.served := rfl
@[simp] theorem State.setPage_movesCreated (s : State) (p : Fin 64) (h : PageHdr) : (s.setPage p h).movesCreated = s.movesCreated := rfl
@[simp] theorem State.setPage_obs (s : State) (p : Fin 64) (h : PageHdr) : (s.setPage p h).obs = s.obs := rfl
@[simp] theorem State.setPage_mem (s : State) (p : Fin 64) (h : PageHdr) : (s.setPage p h).mem = s.mem := rfl
@[simp] theorem State.setPage_spad (s : State) (p : Fin 64) (h : PageHdr) : (s.setPage p h).spad = s.spad := rfl
@[simp] theorem State.setPage_images (s : State) (p : Fin 64) (h : PageHdr) : (s.setPage p h).images = s.images := rfl
@[simp] theorem State.setPage_linkOut (s : State) (p : Fin 64) (h : PageHdr) : (s.setPage p h).linkOut = s.linkOut := rfl
@[simp] theorem State.setPage_results (s : State) (p : Fin 64) (h : PageHdr) : (s.setPage p h).results = s.results := rfl
@[simp] theorem State.setPage_readData (s : State) (p : Fin 64) (h : PageHdr) : (s.setPage p h).readData = s.readData := rfl

@[simp] theorem State.raise_pending (s : State) (p : Fin 64) (b : Nat) : (s.raise p b).pending = s.pending := rfl
@[simp] theorem State.raise_config (s : State) (p : Fin 64) (b : Nat) : (s.raise p b).config = s.config := rfl
@[simp] theorem State.raise_boot (s : State) (p : Fin 64) (b : Nat) : (s.raise p b).boot = s.boot := rfl
@[simp] theorem State.raise_time (s : State) (p : Fin 64) (b : Nat) : (s.raise p b).time = s.time := rfl
@[simp] theorem State.raise_ext (s : State) (p : Fin 64) (b : Nat) : (s.raise p b).ext = s.ext := rfl
@[simp] theorem State.raise_extRun (s : State) (p : Fin 64) (b : Nat) : (s.raise p b).extRun = s.extRun := rfl
@[simp] theorem State.raise_extEnablePending (s : State) (p : Fin 64) (b : Nat) : (s.raise p b).extEnablePending = s.extEnablePending := rfl
@[simp] theorem State.raise_obsEnablePending (s : State) (p : Fin 64) (b : Nat) : (s.raise p b).obsEnablePending = s.obsEnablePending := rfl
@[simp] theorem State.raise_extEnable (s : State) (p : Fin 64) (b : Nat) : (s.raise p b).extEnable = s.extEnable := rfl
@[simp] theorem State.raise_obsEnable (s : State) (p : Fin 64) (b : Nat) : (s.raise p b).obsEnable = s.obsEnable := rfl
@[simp] theorem State.raise_gov (s : State) (p : Fin 64) (b : Nat) : (s.raise p b).gov = s.gov := rfl
@[simp] theorem State.raise_steward (s : State) (p : Fin 64) (b : Nat) : (s.raise p b).steward = s.steward := rfl
@[simp] theorem State.raise_sluice (s : State) (p : Fin 64) (b : Nat) : (s.raise p b).sluice = s.sluice := rfl
@[simp] theorem State.raise_safety (s : State) (p : Fin 64) (b : Nat) : (s.raise p b).safety = s.safety := rfl
@[simp] theorem State.raise_ctxs (s : State) (p : Fin 64) (b : Nat) : (s.raise p b).ctxs = s.ctxs := rfl
@[simp] theorem State.raise_catches (s : State) (p : Fin 64) (b : Nat) : (s.raise p b).catches = s.catches := rfl
@[simp] theorem State.raise_cores (s : State) (p : Fin 64) (b : Nat) : (s.raise p b).cores = s.cores := rfl
@[simp] theorem State.raise_ctrl (s : State) (p : Fin 64) (b : Nat) : (s.raise p b).ctrl = s.ctrl := rfl
@[simp] theorem State.raise_units (s : State) (p : Fin 64) (b : Nat) : (s.raise p b).units = s.units := rfl
@[simp] theorem State.raise_placeOrder (s : State) (p : Fin 64) (b : Nat) : (s.raise p b).placeOrder = s.placeOrder := rfl
@[simp] theorem State.raise_cntOps (s : State) (p : Fin 64) (b : Nat) : (s.raise p b).cntOps = s.cntOps := rfl
@[simp] theorem State.raise_chanOps (s : State) (p : Fin 64) (b : Nat) : (s.raise p b).chanOps = s.chanOps := rfl
@[simp] theorem State.raise_writes (s : State) (p : Fin 64) (b : Nat) : (s.raise p b).writes = s.writes := rfl
@[simp] theorem State.raise_horizon (s : State) (p : Fin 64) (b : Nat) : (s.raise p b).horizon = s.horizon := rfl
@[simp] theorem State.raise_arrivals (s : State) (p : Fin 64) (b : Nat) : (s.raise p b).arrivals = s.arrivals := rfl
@[simp] theorem State.raise_horizonStalled (s : State) (p : Fin 64) (b : Nat) : (s.raise p b).horizonStalled = s.horizonStalled := rfl
@[simp] theorem State.raise_quotaStalled (s : State) (p : Fin 64) (b : Nat) : (s.raise p b).quotaStalled = s.quotaStalled := rfl
@[simp] theorem State.raise_beHorizonStalled (s : State) (p : Fin 64) (b : Nat) : (s.raise p b).beHorizonStalled = s.beHorizonStalled := rfl
@[simp] theorem State.raise_horizonCredit (s : State) (p : Fin 64) (b : Nat) : (s.raise p b).horizonCredit = s.horizonCredit := rfl
@[simp] theorem State.raise_quotaCredit (s : State) (p : Fin 64) (b : Nat) : (s.raise p b).quotaCredit = s.quotaCredit := rfl
@[simp] theorem State.raise_beCredit (s : State) (p : Fin 64) (b : Nat) : (s.raise p b).beCredit = s.beCredit := rfl
@[simp] theorem State.raise_beInletDelay (s : State) (p : Fin 64) (b : Nat) : (s.raise p b).beInletDelay = s.beInletDelay := rfl
@[simp] theorem State.raise_beHorizonDelay (s : State) (p : Fin 64) (b : Nat) : (s.raise p b).beHorizonDelay = s.beHorizonDelay := rfl
@[simp] theorem State.raise_packets (s : State) (p : Fin 64) (b : Nat) : (s.raise p b).packets = s.packets := rfl
@[simp] theorem State.raise_inletStalled (s : State) (p : Fin 64) (b : Nat) : (s.raise p b).inletStalled = s.inletStalled := rfl
@[simp] theorem State.raise_inletQuotaStalled (s : State) (p : Fin 64) (b : Nat) : (s.raise p b).inletQuotaStalled = s.inletQuotaStalled := rfl
@[simp] theorem State.raise_beInletStalled (s : State) (p : Fin 64) (b : Nat) : (s.raise p b).beInletStalled = s.beInletStalled := rfl
@[simp] theorem State.raise_inletCorrected (s : State) (p : Fin 64) (b : Nat) : (s.raise p b).inletCorrected = s.inletCorrected := rfl
@[simp] theorem State.raise_windows (s : State) (p : Fin 64) (b : Nat) : (s.raise p b).windows = s.windows := rfl
@[simp] theorem State.raise_stagingRegions (s : State) (p : Fin 64) (b : Nat) : (s.raise p b).stagingRegions = s.stagingRegions := rfl
@[simp] theorem State.raise_counterLow (s : State) (p : Fin 64) (b : Nat) : (s.raise p b).counterLow = s.counterLow := rfl
@[simp] theorem State.raise_ringLow (s : State) (p : Fin 64) (b : Nat) : (s.raise p b).ringLow = s.ringLow := rfl
@[simp] theorem State.raise_jobsPublished (s : State) (p : Fin 64) (b : Nat) : (s.raise p b).jobsPublished = s.jobsPublished := rfl
@[simp] theorem State.raise_served (s : State) (p : Fin 64) (b : Nat) : (s.raise p b).served = s.served := rfl
@[simp] theorem State.raise_movesCreated (s : State) (p : Fin 64) (b : Nat) : (s.raise p b).movesCreated = s.movesCreated := rfl
@[simp] theorem State.raise_obs (s : State) (p : Fin 64) (b : Nat) : (s.raise p b).obs = s.obs := rfl
@[simp] theorem State.raise_mem (s : State) (p : Fin 64) (b : Nat) : (s.raise p b).mem = s.mem := rfl
@[simp] theorem State.raise_spad (s : State) (p : Fin 64) (b : Nat) : (s.raise p b).spad = s.spad := rfl
@[simp] theorem State.raise_images (s : State) (p : Fin 64) (b : Nat) : (s.raise p b).images = s.images := rfl
@[simp] theorem State.raise_linkOut (s : State) (p : Fin 64) (b : Nat) : (s.raise p b).linkOut = s.linkOut := rfl
@[simp] theorem State.raise_results (s : State) (p : Fin 64) (b : Nat) : (s.raise p b).results = s.results := rfl
@[simp] theorem State.raise_readData (s : State) (p : Fin 64) (b : Nat) : (s.raise p b).readData = s.readData := rfl

@[simp] theorem State.pageError_pending (s : State) (p : Fin 64) (c d : Nat) : (s.pageError p c d).pending = s.pending := rfl
@[simp] theorem State.pageError_config (s : State) (p : Fin 64) (c d : Nat) : (s.pageError p c d).config = s.config := rfl
@[simp] theorem State.pageError_boot (s : State) (p : Fin 64) (c d : Nat) : (s.pageError p c d).boot = s.boot := rfl
@[simp] theorem State.pageError_time (s : State) (p : Fin 64) (c d : Nat) : (s.pageError p c d).time = s.time := rfl
@[simp] theorem State.pageError_ext (s : State) (p : Fin 64) (c d : Nat) : (s.pageError p c d).ext = s.ext := rfl
@[simp] theorem State.pageError_extRun (s : State) (p : Fin 64) (c d : Nat) : (s.pageError p c d).extRun = s.extRun := rfl
@[simp] theorem State.pageError_extEnablePending (s : State) (p : Fin 64) (c d : Nat) : (s.pageError p c d).extEnablePending = s.extEnablePending := rfl
@[simp] theorem State.pageError_obsEnablePending (s : State) (p : Fin 64) (c d : Nat) : (s.pageError p c d).obsEnablePending = s.obsEnablePending := rfl
@[simp] theorem State.pageError_extEnable (s : State) (p : Fin 64) (c d : Nat) : (s.pageError p c d).extEnable = s.extEnable := rfl
@[simp] theorem State.pageError_obsEnable (s : State) (p : Fin 64) (c d : Nat) : (s.pageError p c d).obsEnable = s.obsEnable := rfl
@[simp] theorem State.pageError_gov (s : State) (p : Fin 64) (c d : Nat) : (s.pageError p c d).gov = s.gov := rfl
@[simp] theorem State.pageError_steward (s : State) (p : Fin 64) (c d : Nat) : (s.pageError p c d).steward = s.steward := rfl
@[simp] theorem State.pageError_sluice (s : State) (p : Fin 64) (c d : Nat) : (s.pageError p c d).sluice = s.sluice := rfl
@[simp] theorem State.pageError_safety (s : State) (p : Fin 64) (c d : Nat) : (s.pageError p c d).safety = s.safety := rfl
@[simp] theorem State.pageError_ctxs (s : State) (p : Fin 64) (c d : Nat) : (s.pageError p c d).ctxs = s.ctxs := rfl
@[simp] theorem State.pageError_catches (s : State) (p : Fin 64) (c d : Nat) : (s.pageError p c d).catches = s.catches := rfl
@[simp] theorem State.pageError_cores (s : State) (p : Fin 64) (c d : Nat) : (s.pageError p c d).cores = s.cores := rfl
@[simp] theorem State.pageError_ctrl (s : State) (p : Fin 64) (c d : Nat) : (s.pageError p c d).ctrl = s.ctrl := rfl
@[simp] theorem State.pageError_units (s : State) (p : Fin 64) (c d : Nat) : (s.pageError p c d).units = s.units := rfl
@[simp] theorem State.pageError_placeOrder (s : State) (p : Fin 64) (c d : Nat) : (s.pageError p c d).placeOrder = s.placeOrder := rfl
@[simp] theorem State.pageError_cntOps (s : State) (p : Fin 64) (c d : Nat) : (s.pageError p c d).cntOps = s.cntOps := rfl
@[simp] theorem State.pageError_chanOps (s : State) (p : Fin 64) (c d : Nat) : (s.pageError p c d).chanOps = s.chanOps := rfl
@[simp] theorem State.pageError_writes (s : State) (p : Fin 64) (c d : Nat) : (s.pageError p c d).writes = s.writes := rfl
@[simp] theorem State.pageError_horizon (s : State) (p : Fin 64) (c d : Nat) : (s.pageError p c d).horizon = s.horizon := rfl
@[simp] theorem State.pageError_arrivals (s : State) (p : Fin 64) (c d : Nat) : (s.pageError p c d).arrivals = s.arrivals := rfl
@[simp] theorem State.pageError_horizonStalled (s : State) (p : Fin 64) (c d : Nat) : (s.pageError p c d).horizonStalled = s.horizonStalled := rfl
@[simp] theorem State.pageError_quotaStalled (s : State) (p : Fin 64) (c d : Nat) : (s.pageError p c d).quotaStalled = s.quotaStalled := rfl
@[simp] theorem State.pageError_beHorizonStalled (s : State) (p : Fin 64) (c d : Nat) : (s.pageError p c d).beHorizonStalled = s.beHorizonStalled := rfl
@[simp] theorem State.pageError_horizonCredit (s : State) (p : Fin 64) (c d : Nat) : (s.pageError p c d).horizonCredit = s.horizonCredit := rfl
@[simp] theorem State.pageError_quotaCredit (s : State) (p : Fin 64) (c d : Nat) : (s.pageError p c d).quotaCredit = s.quotaCredit := rfl
@[simp] theorem State.pageError_beCredit (s : State) (p : Fin 64) (c d : Nat) : (s.pageError p c d).beCredit = s.beCredit := rfl
@[simp] theorem State.pageError_beInletDelay (s : State) (p : Fin 64) (c d : Nat) : (s.pageError p c d).beInletDelay = s.beInletDelay := rfl
@[simp] theorem State.pageError_beHorizonDelay (s : State) (p : Fin 64) (c d : Nat) : (s.pageError p c d).beHorizonDelay = s.beHorizonDelay := rfl
@[simp] theorem State.pageError_packets (s : State) (p : Fin 64) (c d : Nat) : (s.pageError p c d).packets = s.packets := rfl
@[simp] theorem State.pageError_inletStalled (s : State) (p : Fin 64) (c d : Nat) : (s.pageError p c d).inletStalled = s.inletStalled := rfl
@[simp] theorem State.pageError_inletQuotaStalled (s : State) (p : Fin 64) (c d : Nat) : (s.pageError p c d).inletQuotaStalled = s.inletQuotaStalled := rfl
@[simp] theorem State.pageError_beInletStalled (s : State) (p : Fin 64) (c d : Nat) : (s.pageError p c d).beInletStalled = s.beInletStalled := rfl
@[simp] theorem State.pageError_inletCorrected (s : State) (p : Fin 64) (c d : Nat) : (s.pageError p c d).inletCorrected = s.inletCorrected := rfl
@[simp] theorem State.pageError_windows (s : State) (p : Fin 64) (c d : Nat) : (s.pageError p c d).windows = s.windows := rfl
@[simp] theorem State.pageError_stagingRegions (s : State) (p : Fin 64) (c d : Nat) : (s.pageError p c d).stagingRegions = s.stagingRegions := rfl
@[simp] theorem State.pageError_counterLow (s : State) (p : Fin 64) (c d : Nat) : (s.pageError p c d).counterLow = s.counterLow := rfl
@[simp] theorem State.pageError_ringLow (s : State) (p : Fin 64) (c d : Nat) : (s.pageError p c d).ringLow = s.ringLow := rfl
@[simp] theorem State.pageError_jobsPublished (s : State) (p : Fin 64) (c d : Nat) : (s.pageError p c d).jobsPublished = s.jobsPublished := rfl
@[simp] theorem State.pageError_served (s : State) (p : Fin 64) (c d : Nat) : (s.pageError p c d).served = s.served := rfl
@[simp] theorem State.pageError_movesCreated (s : State) (p : Fin 64) (c d : Nat) : (s.pageError p c d).movesCreated = s.movesCreated := rfl
@[simp] theorem State.pageError_obs (s : State) (p : Fin 64) (c d : Nat) : (s.pageError p c d).obs = s.obs := rfl
@[simp] theorem State.pageError_mem (s : State) (p : Fin 64) (c d : Nat) : (s.pageError p c d).mem = s.mem := rfl
@[simp] theorem State.pageError_spad (s : State) (p : Fin 64) (c d : Nat) : (s.pageError p c d).spad = s.spad := rfl
@[simp] theorem State.pageError_images (s : State) (p : Fin 64) (c d : Nat) : (s.pageError p c d).images = s.images := rfl
@[simp] theorem State.pageError_linkOut (s : State) (p : Fin 64) (c d : Nat) : (s.pageError p c d).linkOut = s.linkOut := rfl
@[simp] theorem State.pageError_results (s : State) (p : Fin 64) (c d : Nat) : (s.pageError p c d).results = s.results := rfl
@[simp] theorem State.pageError_readData (s : State) (p : Fin 64) (c d : Nat) : (s.pageError p c d).readData = s.readData := rfl

@[simp] theorem State.pushRec_pending (s : State) (r : Rec) : (s.pushRec r).pending = s.pending := rfl
@[simp] theorem State.pushRec_config (s : State) (r : Rec) : (s.pushRec r).config = s.config := rfl
@[simp] theorem State.pushRec_boot (s : State) (r : Rec) : (s.pushRec r).boot = s.boot := rfl
@[simp] theorem State.pushRec_time (s : State) (r : Rec) : (s.pushRec r).time = s.time := rfl
@[simp] theorem State.pushRec_pages (s : State) (r : Rec) : (s.pushRec r).pages = s.pages := rfl
@[simp] theorem State.pushRec_ext (s : State) (r : Rec) : (s.pushRec r).ext = s.ext := rfl
@[simp] theorem State.pushRec_extRun (s : State) (r : Rec) : (s.pushRec r).extRun = s.extRun := rfl
@[simp] theorem State.pushRec_extEnablePending (s : State) (r : Rec) : (s.pushRec r).extEnablePending = s.extEnablePending := rfl
@[simp] theorem State.pushRec_obsEnablePending (s : State) (r : Rec) : (s.pushRec r).obsEnablePending = s.obsEnablePending := rfl
@[simp] theorem State.pushRec_extEnable (s : State) (r : Rec) : (s.pushRec r).extEnable = s.extEnable := rfl
@[simp] theorem State.pushRec_obsEnable (s : State) (r : Rec) : (s.pushRec r).obsEnable = s.obsEnable := rfl
@[simp] theorem State.pushRec_gov (s : State) (r : Rec) : (s.pushRec r).gov = s.gov := rfl
@[simp] theorem State.pushRec_steward (s : State) (r : Rec) : (s.pushRec r).steward = s.steward := rfl
@[simp] theorem State.pushRec_safety (s : State) (r : Rec) : (s.pushRec r).safety = s.safety := rfl
@[simp] theorem State.pushRec_ctxs (s : State) (r : Rec) : (s.pushRec r).ctxs = s.ctxs := rfl
@[simp] theorem State.pushRec_catches (s : State) (r : Rec) : (s.pushRec r).catches = s.catches := rfl
@[simp] theorem State.pushRec_cores (s : State) (r : Rec) : (s.pushRec r).cores = s.cores := rfl
@[simp] theorem State.pushRec_ctrl (s : State) (r : Rec) : (s.pushRec r).ctrl = s.ctrl := rfl
@[simp] theorem State.pushRec_units (s : State) (r : Rec) : (s.pushRec r).units = s.units := rfl
@[simp] theorem State.pushRec_placeOrder (s : State) (r : Rec) : (s.pushRec r).placeOrder = s.placeOrder := rfl
@[simp] theorem State.pushRec_cntOps (s : State) (r : Rec) : (s.pushRec r).cntOps = s.cntOps := rfl
@[simp] theorem State.pushRec_chanOps (s : State) (r : Rec) : (s.pushRec r).chanOps = s.chanOps := rfl
@[simp] theorem State.pushRec_writes (s : State) (r : Rec) : (s.pushRec r).writes = s.writes := rfl
@[simp] theorem State.pushRec_horizon (s : State) (r : Rec) : (s.pushRec r).horizon = s.horizon := rfl
@[simp] theorem State.pushRec_arrivals (s : State) (r : Rec) : (s.pushRec r).arrivals = s.arrivals := rfl
@[simp] theorem State.pushRec_horizonStalled (s : State) (r : Rec) : (s.pushRec r).horizonStalled = s.horizonStalled := rfl
@[simp] theorem State.pushRec_quotaStalled (s : State) (r : Rec) : (s.pushRec r).quotaStalled = s.quotaStalled := rfl
@[simp] theorem State.pushRec_beHorizonStalled (s : State) (r : Rec) : (s.pushRec r).beHorizonStalled = s.beHorizonStalled := rfl
@[simp] theorem State.pushRec_horizonCredit (s : State) (r : Rec) : (s.pushRec r).horizonCredit = s.horizonCredit := rfl
@[simp] theorem State.pushRec_quotaCredit (s : State) (r : Rec) : (s.pushRec r).quotaCredit = s.quotaCredit := rfl
@[simp] theorem State.pushRec_beCredit (s : State) (r : Rec) : (s.pushRec r).beCredit = s.beCredit := rfl
@[simp] theorem State.pushRec_beInletDelay (s : State) (r : Rec) : (s.pushRec r).beInletDelay = s.beInletDelay := rfl
@[simp] theorem State.pushRec_beHorizonDelay (s : State) (r : Rec) : (s.pushRec r).beHorizonDelay = s.beHorizonDelay := rfl
@[simp] theorem State.pushRec_packets (s : State) (r : Rec) : (s.pushRec r).packets = s.packets := rfl
@[simp] theorem State.pushRec_inletStalled (s : State) (r : Rec) : (s.pushRec r).inletStalled = s.inletStalled := rfl
@[simp] theorem State.pushRec_inletQuotaStalled (s : State) (r : Rec) : (s.pushRec r).inletQuotaStalled = s.inletQuotaStalled := rfl
@[simp] theorem State.pushRec_beInletStalled (s : State) (r : Rec) : (s.pushRec r).beInletStalled = s.beInletStalled := rfl
@[simp] theorem State.pushRec_inletCorrected (s : State) (r : Rec) : (s.pushRec r).inletCorrected = s.inletCorrected := rfl
@[simp] theorem State.pushRec_windows (s : State) (r : Rec) : (s.pushRec r).windows = s.windows := rfl
@[simp] theorem State.pushRec_stagingRegions (s : State) (r : Rec) : (s.pushRec r).stagingRegions = s.stagingRegions := rfl
@[simp] theorem State.pushRec_counterLow (s : State) (r : Rec) : (s.pushRec r).counterLow = s.counterLow := rfl
@[simp] theorem State.pushRec_ringLow (s : State) (r : Rec) : (s.pushRec r).ringLow = s.ringLow := rfl
@[simp] theorem State.pushRec_jobsPublished (s : State) (r : Rec) : (s.pushRec r).jobsPublished = s.jobsPublished := rfl
@[simp] theorem State.pushRec_served (s : State) (r : Rec) : (s.pushRec r).served = s.served := rfl
@[simp] theorem State.pushRec_movesCreated (s : State) (r : Rec) : (s.pushRec r).movesCreated = s.movesCreated := rfl
@[simp] theorem State.pushRec_obs (s : State) (r : Rec) : (s.pushRec r).obs = s.obs := rfl
@[simp] theorem State.pushRec_mem (s : State) (r : Rec) : (s.pushRec r).mem = s.mem := rfl
@[simp] theorem State.pushRec_spad (s : State) (r : Rec) : (s.pushRec r).spad = s.spad := rfl
@[simp] theorem State.pushRec_images (s : State) (r : Rec) : (s.pushRec r).images = s.images := rfl
@[simp] theorem State.pushRec_linkOut (s : State) (r : Rec) : (s.pushRec r).linkOut = s.linkOut := rfl
@[simp] theorem State.pushRec_results (s : State) (r : Rec) : (s.pushRec r).results = s.results := rfl
@[simp] theorem State.pushRec_readData (s : State) (r : Rec) : (s.pushRec r).readData = s.readData := rfl

/-- A message has one of three fates (R36, R344, R395). -/
theorem State.sendMsg_cases (s : State) (d : Nat) (h : MsgHdr) (b : MsgBody) :
    s.sendMsg d h b = s ∨ (∃ port, s.sendMsg d h b = s.linkSend port d h b) ∨ s.sendMsg d h b = s.stray h.sender := by
  unfold State.sendMsg; split
  · exact .inl rfl
  · split
    · exact .inr (.inl ⟨_, rfl⟩)
    · exact .inr (.inr rfl)

theorem State.sendMsg_eq {α : Type} (f : State → α) (s : State) (d : Nat) (h : MsgHdr) (b : MsgBody)
    (h1 : ∀ p, f (s.linkSend p d h b) = f s) (h2 : f (s.stray h.sender) = f s) : f (s.sendMsg d h b) = f s := by
  rcases s.sendMsg_cases d h b with e | ⟨p, e⟩ | e <;> rw [e]
  · exact h1 p
  · exact h2

@[simp] theorem State.linkSend_pages (s : State) (p d : Nat) (h : MsgHdr) (b : MsgBody) : (s.linkSend p d h b).pages = s.pages := rfl
@[simp] theorem State.linkSend_safety (s : State) (p d : Nat) (h : MsgHdr) (b : MsgBody) : (s.linkSend p d h b).safety = s.safety := rfl
@[simp] theorem State.sendMsg_pending (s : State) (d : Nat) (h : MsgHdr) (b : MsgBody) : (s.sendMsg d h b).pending = s.pending :=
  State.sendMsg_eq (·.pending) s d h b (fun _ => rfl) rfl
@[simp] theorem State.sendMsg_config (s : State) (d : Nat) (h : MsgHdr) (b : MsgBody) : (s.sendMsg d h b).config = s.config :=
  State.sendMsg_eq (·.config) s d h b (fun _ => rfl) rfl
@[simp] theorem State.sendMsg_boot (s : State) (d : Nat) (h : MsgHdr) (b : MsgBody) : (s.sendMsg d h b).boot = s.boot :=
  State.sendMsg_eq (·.boot) s d h b (fun _ => rfl) rfl
@[simp] theorem State.sendMsg_time (s : State) (d : Nat) (h : MsgHdr) (b : MsgBody) : (s.sendMsg d h b).time = s.time :=
  State.sendMsg_eq (·.time) s d h b (fun _ => rfl) rfl
@[simp] theorem State.sendMsg_ext (s : State) (d : Nat) (h : MsgHdr) (b : MsgBody) : (s.sendMsg d h b).ext = s.ext :=
  State.sendMsg_eq (·.ext) s d h b (fun _ => rfl) rfl
@[simp] theorem State.sendMsg_extRun (s : State) (d : Nat) (h : MsgHdr) (b : MsgBody) : (s.sendMsg d h b).extRun = s.extRun :=
  State.sendMsg_eq (·.extRun) s d h b (fun _ => rfl) rfl
@[simp] theorem State.sendMsg_extEnablePending (s : State) (d : Nat) (h : MsgHdr) (b : MsgBody) : (s.sendMsg d h b).extEnablePending = s.extEnablePending :=
  State.sendMsg_eq (·.extEnablePending) s d h b (fun _ => rfl) rfl
@[simp] theorem State.sendMsg_obsEnablePending (s : State) (d : Nat) (h : MsgHdr) (b : MsgBody) : (s.sendMsg d h b).obsEnablePending = s.obsEnablePending :=
  State.sendMsg_eq (·.obsEnablePending) s d h b (fun _ => rfl) rfl
@[simp] theorem State.sendMsg_extEnable (s : State) (d : Nat) (h : MsgHdr) (b : MsgBody) : (s.sendMsg d h b).extEnable = s.extEnable :=
  State.sendMsg_eq (·.extEnable) s d h b (fun _ => rfl) rfl
@[simp] theorem State.sendMsg_obsEnable (s : State) (d : Nat) (h : MsgHdr) (b : MsgBody) : (s.sendMsg d h b).obsEnable = s.obsEnable :=
  State.sendMsg_eq (·.obsEnable) s d h b (fun _ => rfl) rfl
@[simp] theorem State.sendMsg_gov (s : State) (d : Nat) (h : MsgHdr) (b : MsgBody) : (s.sendMsg d h b).gov = s.gov :=
  State.sendMsg_eq (·.gov) s d h b (fun _ => rfl) rfl
@[simp] theorem State.sendMsg_steward (s : State) (d : Nat) (h : MsgHdr) (b : MsgBody) : (s.sendMsg d h b).steward = s.steward :=
  State.sendMsg_eq (·.steward) s d h b (fun _ => rfl) rfl
@[simp] theorem State.sendMsg_sluice (s : State) (d : Nat) (h : MsgHdr) (b : MsgBody) : (s.sendMsg d h b).sluice = s.sluice :=
  State.sendMsg_eq (·.sluice) s d h b (fun _ => rfl) rfl
@[simp] theorem State.sendMsg_ctxs (s : State) (d : Nat) (h : MsgHdr) (b : MsgBody) : (s.sendMsg d h b).ctxs = s.ctxs :=
  State.sendMsg_eq (·.ctxs) s d h b (fun _ => rfl) rfl
@[simp] theorem State.sendMsg_catches (s : State) (d : Nat) (h : MsgHdr) (b : MsgBody) : (s.sendMsg d h b).catches = s.catches :=
  State.sendMsg_eq (·.catches) s d h b (fun _ => rfl) rfl
@[simp] theorem State.sendMsg_cores (s : State) (d : Nat) (h : MsgHdr) (b : MsgBody) : (s.sendMsg d h b).cores = s.cores :=
  State.sendMsg_eq (·.cores) s d h b (fun _ => rfl) rfl
@[simp] theorem State.sendMsg_ctrl (s : State) (d : Nat) (h : MsgHdr) (b : MsgBody) : (s.sendMsg d h b).ctrl = s.ctrl :=
  State.sendMsg_eq (·.ctrl) s d h b (fun _ => rfl) rfl
@[simp] theorem State.sendMsg_units (s : State) (d : Nat) (h : MsgHdr) (b : MsgBody) : (s.sendMsg d h b).units = s.units :=
  State.sendMsg_eq (·.units) s d h b (fun _ => rfl) rfl
@[simp] theorem State.sendMsg_placeOrder (s : State) (d : Nat) (h : MsgHdr) (b : MsgBody) : (s.sendMsg d h b).placeOrder = s.placeOrder :=
  State.sendMsg_eq (·.placeOrder) s d h b (fun _ => rfl) rfl
@[simp] theorem State.sendMsg_cntOps (s : State) (d : Nat) (h : MsgHdr) (b : MsgBody) : (s.sendMsg d h b).cntOps = s.cntOps :=
  State.sendMsg_eq (·.cntOps) s d h b (fun _ => rfl) rfl
@[simp] theorem State.sendMsg_chanOps (s : State) (d : Nat) (h : MsgHdr) (b : MsgBody) : (s.sendMsg d h b).chanOps = s.chanOps :=
  State.sendMsg_eq (·.chanOps) s d h b (fun _ => rfl) rfl
@[simp] theorem State.sendMsg_writes (s : State) (d : Nat) (h : MsgHdr) (b : MsgBody) : (s.sendMsg d h b).writes = s.writes :=
  State.sendMsg_eq (·.writes) s d h b (fun _ => rfl) rfl
@[simp] theorem State.sendMsg_horizon (s : State) (d : Nat) (h : MsgHdr) (b : MsgBody) : (s.sendMsg d h b).horizon = s.horizon :=
  State.sendMsg_eq (·.horizon) s d h b (fun _ => rfl) rfl
@[simp] theorem State.sendMsg_arrivals (s : State) (d : Nat) (h : MsgHdr) (b : MsgBody) : (s.sendMsg d h b).arrivals = s.arrivals :=
  State.sendMsg_eq (·.arrivals) s d h b (fun _ => rfl) rfl
@[simp] theorem State.sendMsg_horizonStalled (s : State) (d : Nat) (h : MsgHdr) (b : MsgBody) : (s.sendMsg d h b).horizonStalled = s.horizonStalled :=
  State.sendMsg_eq (·.horizonStalled) s d h b (fun _ => rfl) rfl
@[simp] theorem State.sendMsg_quotaStalled (s : State) (d : Nat) (h : MsgHdr) (b : MsgBody) : (s.sendMsg d h b).quotaStalled = s.quotaStalled :=
  State.sendMsg_eq (·.quotaStalled) s d h b (fun _ => rfl) rfl
@[simp] theorem State.sendMsg_beHorizonStalled (s : State) (d : Nat) (h : MsgHdr) (b : MsgBody) : (s.sendMsg d h b).beHorizonStalled = s.beHorizonStalled :=
  State.sendMsg_eq (·.beHorizonStalled) s d h b (fun _ => rfl) rfl
@[simp] theorem State.sendMsg_horizonCredit (s : State) (d : Nat) (h : MsgHdr) (b : MsgBody) : (s.sendMsg d h b).horizonCredit = s.horizonCredit :=
  State.sendMsg_eq (·.horizonCredit) s d h b (fun _ => rfl) rfl
@[simp] theorem State.sendMsg_quotaCredit (s : State) (d : Nat) (h : MsgHdr) (b : MsgBody) : (s.sendMsg d h b).quotaCredit = s.quotaCredit :=
  State.sendMsg_eq (·.quotaCredit) s d h b (fun _ => rfl) rfl
@[simp] theorem State.sendMsg_beCredit (s : State) (d : Nat) (h : MsgHdr) (b : MsgBody) : (s.sendMsg d h b).beCredit = s.beCredit :=
  State.sendMsg_eq (·.beCredit) s d h b (fun _ => rfl) rfl
@[simp] theorem State.sendMsg_beInletDelay (s : State) (d : Nat) (h : MsgHdr) (b : MsgBody) : (s.sendMsg d h b).beInletDelay = s.beInletDelay :=
  State.sendMsg_eq (·.beInletDelay) s d h b (fun _ => rfl) rfl
@[simp] theorem State.sendMsg_beHorizonDelay (s : State) (d : Nat) (h : MsgHdr) (b : MsgBody) : (s.sendMsg d h b).beHorizonDelay = s.beHorizonDelay :=
  State.sendMsg_eq (·.beHorizonDelay) s d h b (fun _ => rfl) rfl
@[simp] theorem State.sendMsg_packets (s : State) (d : Nat) (h : MsgHdr) (b : MsgBody) : (s.sendMsg d h b).packets = s.packets :=
  State.sendMsg_eq (·.packets) s d h b (fun _ => rfl) rfl
@[simp] theorem State.sendMsg_inletStalled (s : State) (d : Nat) (h : MsgHdr) (b : MsgBody) : (s.sendMsg d h b).inletStalled = s.inletStalled :=
  State.sendMsg_eq (·.inletStalled) s d h b (fun _ => rfl) rfl
@[simp] theorem State.sendMsg_inletQuotaStalled (s : State) (d : Nat) (h : MsgHdr) (b : MsgBody) : (s.sendMsg d h b).inletQuotaStalled = s.inletQuotaStalled :=
  State.sendMsg_eq (·.inletQuotaStalled) s d h b (fun _ => rfl) rfl
@[simp] theorem State.sendMsg_beInletStalled (s : State) (d : Nat) (h : MsgHdr) (b : MsgBody) : (s.sendMsg d h b).beInletStalled = s.beInletStalled :=
  State.sendMsg_eq (·.beInletStalled) s d h b (fun _ => rfl) rfl
@[simp] theorem State.sendMsg_inletCorrected (s : State) (d : Nat) (h : MsgHdr) (b : MsgBody) : (s.sendMsg d h b).inletCorrected = s.inletCorrected :=
  State.sendMsg_eq (·.inletCorrected) s d h b (fun _ => rfl) rfl
@[simp] theorem State.sendMsg_windows (s : State) (d : Nat) (h : MsgHdr) (b : MsgBody) : (s.sendMsg d h b).windows = s.windows :=
  State.sendMsg_eq (·.windows) s d h b (fun _ => rfl) rfl
@[simp] theorem State.sendMsg_stagingRegions (s : State) (d : Nat) (h : MsgHdr) (b : MsgBody) : (s.sendMsg d h b).stagingRegions = s.stagingRegions :=
  State.sendMsg_eq (·.stagingRegions) s d h b (fun _ => rfl) rfl
@[simp] theorem State.sendMsg_counterLow (s : State) (d : Nat) (h : MsgHdr) (b : MsgBody) : (s.sendMsg d h b).counterLow = s.counterLow :=
  State.sendMsg_eq (·.counterLow) s d h b (fun _ => rfl) rfl
@[simp] theorem State.sendMsg_ringLow (s : State) (d : Nat) (h : MsgHdr) (b : MsgBody) : (s.sendMsg d h b).ringLow = s.ringLow :=
  State.sendMsg_eq (·.ringLow) s d h b (fun _ => rfl) rfl
@[simp] theorem State.sendMsg_jobsPublished (s : State) (d : Nat) (h : MsgHdr) (b : MsgBody) : (s.sendMsg d h b).jobsPublished = s.jobsPublished :=
  State.sendMsg_eq (·.jobsPublished) s d h b (fun _ => rfl) rfl
@[simp] theorem State.sendMsg_served (s : State) (d : Nat) (h : MsgHdr) (b : MsgBody) : (s.sendMsg d h b).served = s.served :=
  State.sendMsg_eq (·.served) s d h b (fun _ => rfl) rfl
@[simp] theorem State.sendMsg_movesCreated (s : State) (d : Nat) (h : MsgHdr) (b : MsgBody) : (s.sendMsg d h b).movesCreated = s.movesCreated :=
  State.sendMsg_eq (·.movesCreated) s d h b (fun _ => rfl) rfl
@[simp] theorem State.sendMsg_obs (s : State) (d : Nat) (h : MsgHdr) (b : MsgBody) : (s.sendMsg d h b).obs = s.obs :=
  State.sendMsg_eq (·.obs) s d h b (fun _ => rfl) rfl
@[simp] theorem State.sendMsg_mem (s : State) (d : Nat) (h : MsgHdr) (b : MsgBody) : (s.sendMsg d h b).mem = s.mem :=
  State.sendMsg_eq (·.mem) s d h b (fun _ => rfl) rfl
@[simp] theorem State.sendMsg_spad (s : State) (d : Nat) (h : MsgHdr) (b : MsgBody) : (s.sendMsg d h b).spad = s.spad :=
  State.sendMsg_eq (·.spad) s d h b (fun _ => rfl) rfl
@[simp] theorem State.sendMsg_images (s : State) (d : Nat) (h : MsgHdr) (b : MsgBody) : (s.sendMsg d h b).images = s.images :=
  State.sendMsg_eq (·.images) s d h b (fun _ => rfl) rfl
@[simp] theorem State.sendMsg_results (s : State) (d : Nat) (h : MsgHdr) (b : MsgBody) : (s.sendMsg d h b).results = s.results :=
  State.sendMsg_eq (·.results) s d h b (fun _ => rfl) rfl
@[simp] theorem State.sendMsg_readData (s : State) (d : Nat) (h : MsgHdr) (b : MsgBody) : (s.sendMsg d h b).readData = s.readData :=
  State.sendMsg_eq (·.readData) s d h b (fun _ => rfl) rfl

@[simp] theorem State.giveResult_pending (s : State) (l n : Nat) (r : ResultBody) : (s.giveResult l n r).pending = s.pending := rfl
@[simp] theorem State.giveResult_config (s : State) (l n : Nat) (r : ResultBody) : (s.giveResult l n r).config = s.config := rfl
@[simp] theorem State.giveResult_boot (s : State) (l n : Nat) (r : ResultBody) : (s.giveResult l n r).boot = s.boot := rfl
@[simp] theorem State.giveResult_time (s : State) (l n : Nat) (r : ResultBody) : (s.giveResult l n r).time = s.time := rfl
@[simp] theorem State.giveResult_pages (s : State) (l n : Nat) (r : ResultBody) : (s.giveResult l n r).pages = s.pages := rfl
@[simp] theorem State.giveResult_ext (s : State) (l n : Nat) (r : ResultBody) : (s.giveResult l n r).ext = s.ext := rfl
@[simp] theorem State.giveResult_extRun (s : State) (l n : Nat) (r : ResultBody) : (s.giveResult l n r).extRun = s.extRun := rfl
@[simp] theorem State.giveResult_extEnablePending (s : State) (l n : Nat) (r : ResultBody) : (s.giveResult l n r).extEnablePending = s.extEnablePending := rfl
@[simp] theorem State.giveResult_obsEnablePending (s : State) (l n : Nat) (r : ResultBody) : (s.giveResult l n r).obsEnablePending = s.obsEnablePending := rfl
@[simp] theorem State.giveResult_extEnable (s : State) (l n : Nat) (r : ResultBody) : (s.giveResult l n r).extEnable = s.extEnable := rfl
@[simp] theorem State.giveResult_obsEnable (s : State) (l n : Nat) (r : ResultBody) : (s.giveResult l n r).obsEnable = s.obsEnable := rfl
@[simp] theorem State.giveResult_gov (s : State) (l n : Nat) (r : ResultBody) : (s.giveResult l n r).gov = s.gov := rfl
@[simp] theorem State.giveResult_steward (s : State) (l n : Nat) (r : ResultBody) : (s.giveResult l n r).steward = s.steward := rfl
@[simp] theorem State.giveResult_sluice (s : State) (l n : Nat) (r : ResultBody) : (s.giveResult l n r).sluice = s.sluice := rfl
@[simp] theorem State.giveResult_safety (s : State) (l n : Nat) (r : ResultBody) : (s.giveResult l n r).safety = s.safety := rfl
@[simp] theorem State.giveResult_ctxs (s : State) (l n : Nat) (r : ResultBody) : (s.giveResult l n r).ctxs = s.ctxs := rfl
@[simp] theorem State.giveResult_catches (s : State) (l n : Nat) (r : ResultBody) : (s.giveResult l n r).catches = s.catches := rfl
@[simp] theorem State.giveResult_cores (s : State) (l n : Nat) (r : ResultBody) : (s.giveResult l n r).cores = s.cores := rfl
@[simp] theorem State.giveResult_ctrl (s : State) (l n : Nat) (r : ResultBody) : (s.giveResult l n r).ctrl = s.ctrl := rfl
@[simp] theorem State.giveResult_units (s : State) (l n : Nat) (r : ResultBody) : (s.giveResult l n r).units = s.units := rfl
@[simp] theorem State.giveResult_placeOrder (s : State) (l n : Nat) (r : ResultBody) : (s.giveResult l n r).placeOrder = s.placeOrder := rfl
@[simp] theorem State.giveResult_cntOps (s : State) (l n : Nat) (r : ResultBody) : (s.giveResult l n r).cntOps = s.cntOps := rfl
@[simp] theorem State.giveResult_chanOps (s : State) (l n : Nat) (r : ResultBody) : (s.giveResult l n r).chanOps = s.chanOps := rfl
@[simp] theorem State.giveResult_writes (s : State) (l n : Nat) (r : ResultBody) : (s.giveResult l n r).writes = s.writes := rfl
@[simp] theorem State.giveResult_horizon (s : State) (l n : Nat) (r : ResultBody) : (s.giveResult l n r).horizon = s.horizon := rfl
@[simp] theorem State.giveResult_arrivals (s : State) (l n : Nat) (r : ResultBody) : (s.giveResult l n r).arrivals = s.arrivals := rfl
@[simp] theorem State.giveResult_horizonStalled (s : State) (l n : Nat) (r : ResultBody) : (s.giveResult l n r).horizonStalled = s.horizonStalled := rfl
@[simp] theorem State.giveResult_quotaStalled (s : State) (l n : Nat) (r : ResultBody) : (s.giveResult l n r).quotaStalled = s.quotaStalled := rfl
@[simp] theorem State.giveResult_beHorizonStalled (s : State) (l n : Nat) (r : ResultBody) : (s.giveResult l n r).beHorizonStalled = s.beHorizonStalled := rfl
@[simp] theorem State.giveResult_horizonCredit (s : State) (l n : Nat) (r : ResultBody) : (s.giveResult l n r).horizonCredit = s.horizonCredit := rfl
@[simp] theorem State.giveResult_quotaCredit (s : State) (l n : Nat) (r : ResultBody) : (s.giveResult l n r).quotaCredit = s.quotaCredit := rfl
@[simp] theorem State.giveResult_beCredit (s : State) (l n : Nat) (r : ResultBody) : (s.giveResult l n r).beCredit = s.beCredit := rfl
@[simp] theorem State.giveResult_beInletDelay (s : State) (l n : Nat) (r : ResultBody) : (s.giveResult l n r).beInletDelay = s.beInletDelay := rfl
@[simp] theorem State.giveResult_beHorizonDelay (s : State) (l n : Nat) (r : ResultBody) : (s.giveResult l n r).beHorizonDelay = s.beHorizonDelay := rfl
@[simp] theorem State.giveResult_packets (s : State) (l n : Nat) (r : ResultBody) : (s.giveResult l n r).packets = s.packets := rfl
@[simp] theorem State.giveResult_inletStalled (s : State) (l n : Nat) (r : ResultBody) : (s.giveResult l n r).inletStalled = s.inletStalled := rfl
@[simp] theorem State.giveResult_inletQuotaStalled (s : State) (l n : Nat) (r : ResultBody) : (s.giveResult l n r).inletQuotaStalled = s.inletQuotaStalled := rfl
@[simp] theorem State.giveResult_beInletStalled (s : State) (l n : Nat) (r : ResultBody) : (s.giveResult l n r).beInletStalled = s.beInletStalled := rfl
@[simp] theorem State.giveResult_inletCorrected (s : State) (l n : Nat) (r : ResultBody) : (s.giveResult l n r).inletCorrected = s.inletCorrected := rfl
@[simp] theorem State.giveResult_windows (s : State) (l n : Nat) (r : ResultBody) : (s.giveResult l n r).windows = s.windows := rfl
@[simp] theorem State.giveResult_stagingRegions (s : State) (l n : Nat) (r : ResultBody) : (s.giveResult l n r).stagingRegions = s.stagingRegions := rfl
@[simp] theorem State.giveResult_counterLow (s : State) (l n : Nat) (r : ResultBody) : (s.giveResult l n r).counterLow = s.counterLow := rfl
@[simp] theorem State.giveResult_ringLow (s : State) (l n : Nat) (r : ResultBody) : (s.giveResult l n r).ringLow = s.ringLow := rfl
@[simp] theorem State.giveResult_jobsPublished (s : State) (l n : Nat) (r : ResultBody) : (s.giveResult l n r).jobsPublished = s.jobsPublished := rfl
@[simp] theorem State.giveResult_served (s : State) (l n : Nat) (r : ResultBody) : (s.giveResult l n r).served = s.served := rfl
@[simp] theorem State.giveResult_movesCreated (s : State) (l n : Nat) (r : ResultBody) : (s.giveResult l n r).movesCreated = s.movesCreated := rfl
@[simp] theorem State.giveResult_obs (s : State) (l n : Nat) (r : ResultBody) : (s.giveResult l n r).obs = s.obs := rfl
@[simp] theorem State.giveResult_mem (s : State) (l n : Nat) (r : ResultBody) : (s.giveResult l n r).mem = s.mem := rfl
@[simp] theorem State.giveResult_spad (s : State) (l n : Nat) (r : ResultBody) : (s.giveResult l n r).spad = s.spad := rfl
@[simp] theorem State.giveResult_images (s : State) (l n : Nat) (r : ResultBody) : (s.giveResult l n r).images = s.images := rfl
@[simp] theorem State.giveResult_linkOut (s : State) (l n : Nat) (r : ResultBody) : (s.giveResult l n r).linkOut = s.linkOut := rfl
@[simp] theorem State.giveResult_readData (s : State) (l n : Nat) (r : ResultBody) : (s.giveResult l n r).readData = s.readData := rfl

@[simp] theorem State.ctx_setCtx_same (s : State) (k : Fin 16) (c : Ctx) : (s.setCtx k c).ctx k = c := by simp [State.ctx, State.setCtx]

theorem State.ctx_setCtx_other (s : State) {j k : Fin 16} (c : Ctx) (h : j ≠ k) : (s.setCtx k c).ctx j = s.ctx j := by
  have : k.val ≠ j.val := fun e => h (Fin.ext e.symm)
  simp [State.ctx, State.setCtx, this]

@[simp] theorem State.core_setCore_same (s : State) (k : Fin 64) (c : Core) : (s.setCore k c).core k = c := by simp [State.core, State.setCore]

theorem State.core_setCore_other (s : State) {j k : Fin 64} (c : Core) (h : j ≠ k) : (s.setCore k c).core j = s.core j := by
  have : k.val ≠ j.val := fun e => h (Fin.ext e.symm)
  simp [State.core, State.setCore, this]

@[simp] theorem State.unit_setUnit_same (s : State) (k : Fin 8) (c : CflUnit) : (s.setUnit k c).unit k = c := by simp [State.unit, State.setUnit]

theorem State.unit_setUnit_other (s : State) {j k : Fin 8} (c : CflUnit) (h : j ≠ k) : (s.setUnit k c).unit j = s.unit j := by
  have : k.val ≠ j.val := fun e => h (Fin.ext e.symm)
  simp [State.unit, State.setUnit, this]

@[simp] theorem State.catch_setCatch_same (s : State) (k : Fin 16) (c : Catch) : (s.setCatch k c).catch_ k = c := by simp [State.catch_, State.setCatch]

theorem State.catch_setCatch_other (s : State) {j k : Fin 16} (c : Catch) (h : j ≠ k) : (s.setCatch k c).catch_ j = s.catch_ j := by
  have : k.val ≠ j.val := fun e => h (Fin.ext e.symm)
  simp [State.catch_, State.setCatch, this]

@[simp] theorem State.page_setPage_same (s : State) (k : Fin 64) (c : PageHdr) : (s.setPage k c).page k = c := by simp [State.page, State.setPage]

theorem State.page_setPage_other (s : State) {j k : Fin 64} (c : PageHdr) (h : j ≠ k) : (s.setPage k c).page j = s.page j := by
  have : k.val ≠ j.val := fun e => h (Fin.ext e.symm)
  simp [State.page, State.setPage, this]

@[simp] theorem State.ctx_modCtx_same (s : State) (k : Fin 16) (f : Ctx → Ctx) : (s.modCtx k f).ctx k = f (s.ctx k) := State.ctx_setCtx_same s k _

theorem State.ctx_modCtx_other (s : State) {j k : Fin 16} (f : Ctx → Ctx) (h : j ≠ k) : (s.modCtx k f).ctx j = s.ctx j :=
  State.ctx_setCtx_other s _ h

@[simp] theorem State.core_modCore_same (s : State) (k : Fin 64) (f : Core → Core) : (s.modCore k f).core k = f (s.core k) := State.core_setCore_same s k _

theorem State.core_modCore_other (s : State) {j k : Fin 64} (f : Core → Core) (h : j ≠ k) : (s.modCore k f).core j = s.core j :=
  State.core_setCore_other s _ h

/-- A fold of steps that leave a part of the state alone leaves it alone. -/
theorem foldl_part {α β : Type} (p : State → β) {f : State → α → State} (h : ∀ s x, p (f s x) = p s) (l : List α) (s : State) :
    p (l.foldl f s) = p s := by
  induction l generalizing s with
  | nil => rfl
  | cons x l ih => exact (ih _).trans (h s x)

/-- Readings of a part that two states share. -/
theorem State.ctx_congr {s t : State} (h : t.ctxs = s.ctxs) (k : Fin 16) : t.ctx k = s.ctx k := by simp [State.ctx, h]
theorem State.core_congr {s t : State} (h : t.cores = s.cores) (l : Fin 64) : t.core l = s.core l := by simp [State.core, h]

end Sys2Proof.Machine
end

