-- ==== Sys2Proof/Laws/Still.lean ====
section
/-! SUPPORT. `Still`: the position in time stays; how it composes. -/

namespace Sys2Proof.Machine

/-- The time unit but for what links and calibration report: the clocks, the GTC with its boundaries and its trim, the tick, the slot and the offset. -/
def TimeUnit.grid (t : TimeUnit) : TimeUnit :=
  { t with linkDelay := [], lanes := [], nextLanes := none, lanesBefore := [], lanesAc := none, lastChangePort := 0, lastChangeLanes := 0, lastChangeGtc := 0, calDone := 0 }

/-- No time has passed between two states, and the configuration image is the same. -/
structure Still (s0 s : State) : Prop where
  grid : s.time.grid = s0.time.grid
  config : s.config = s0.config

theorem Still.refl (s : State) : Still s s := ⟨rfl, rfl⟩

theorem Still.trans {s t u : State} (h : Still s t) (g : Still t u) : Still s u := ⟨Eq.trans g.grid h.grid, Eq.trans g.config h.config⟩

/-- A record update that leaves the position in time alone. -/
theorem Still.upd {s0 s : State} {boot : Boot} {time : TimeUnit} {pages : Vector PageHdr 64} {ext : ExtUnit} {extRun : PageRun} {extEnablePending : Bool} {obsEnablePending :
    Bool} {extEnable : Bool} {obsEnable : Bool} {gov : Governor} {steward : Steward} {sluice : Sluice} {safety : Safety} {ctxs : Vector Ctx 16}
    {catches : Vector Catch 16} {cores : Vector Core 64} {ctrl : Vector (Vector Frame 8) 8} {units : Vector CflUnit 8} {placeOrder : Nat}
    {cntOps : List CntOp} {chanOps : List ChanOp} {writes : List WriteJob} {horizon : List Held} {arrivals : Nat} {horizonStalled : Bool}
    {quotaStalled : BitVec 16} {beHorizonStalled : Bool} {horizonCredit : Nat} {quotaCredit : List Nat} {beCredit : Nat} {beInletDelay : BitVec 16} {beHorizonDelay : BitVec 16} {packets : List Packet}
    {inletStalled : Bool} {inletQuotaStalled : BitVec 16} {beInletStalled : Bool} {inletCorrected : Nat} {windows : List Window} {stagingRegions : List RegionIn} {counterLow : Nat} {ringLow : Nat} {jobsPublished : Nat} {served : Nat} {movesCreated : Nat} {obs : ObsUnit} {mem
    : Memory} {spad : Memory} {images : List FreezeImage} {linkOut : List Msg} {results : List CoreResult} {readData : Word}
    (h : Still s0 s) (e : time.grid = s.time.grid) :
    Still s0 (State.mk s.pending s.config boot time pages ext extRun extEnablePending obsEnablePending extEnable obsEnable gov steward sluice safety ctxs
    catches cores ctrl units placeOrder cntOps chanOps writes horizon arrivals horizonStalled quotaStalled beHorizonStalled horizonCredit quotaCredit beCredit beInletDelay
    beHorizonDelay packets inletStalled inletQuotaStalled beInletStalled inletCorrected windows stagingRegions counterLow ringLow jobsPublished
    served movesCreated obs mem spad images linkOut results readData) :=
  ⟨Eq.trans e h.grid, h.config⟩

theorem Still.foldl {s0 : State} {α : Type} {f : State → α → State} {l : List α} {s : State}
    (hf : ∀ s x, Still s0 s → Still s0 (f s x)) (h : Still s0 s) : Still s0 (l.foldl f s) := by
  induction l generalizing s with
  | nil => exact h
  | cons x l ih => exact ih (hf s x h)

theorem Still.foldl_fst {s0 : State} {α β : Type} {f : State × β → α → State × β} {l : List α} {a : State × β}
    (hf : ∀ a x, Still s0 a.1 → Still s0 (f a x).1) (h : Still s0 a.1) : Still s0 (l.foldl f a).1 := by
  induction l generalizing a with
  | nil => exact h
  | cons x l ih => exact ih (hf a x h)

theorem Still.foldl_of {s0 : State} {α β : Type} (p : β → State) {f : β → α → β} {l : List α} {a : β}
    (hf : ∀ a x, Still s0 (p a) → Still s0 (p (f a x))) (h : Still s0 (p a)) : Still s0 (p (l.foldl f a)) := by
  induction l generalizing a with
  | nil => exact h
  | cons x l ih => exact ih (hf a x h)

end Sys2Proof.Machine
end

