-- ==== Sys2Proof/Laws/StillOps.lean ====
section
/-! SUPPORT. The operations of Machine/Ops.lean that leave the position in time alone (`Still`). -/

namespace Sys2Proof.Machine

theorem State.setCtx_still {s0 s : State} (k : Fin 16) (c : Ctx) (h : Still s0 s) : Still s0 (State.setCtx s k c) := by
  unfold State.setCtx
  with_reducible refine Still.upd ?_ rfl
  assumption

theorem State.modCtx_still {s0 s : State} (k : Fin 16) (f : Ctx → Ctx) (h : Still s0 s) : Still s0 (State.modCtx s k f) := by
  unfold State.modCtx
  apply State.setCtx_still
  assumption

theorem State.setCore_still {s0 s : State} (l : Fin 64) (c : Core) (h : Still s0 s) : Still s0 (State.setCore s l c) := by
  unfold State.setCore
  with_reducible refine Still.upd ?_ rfl
  assumption

theorem State.modCore_still {s0 s : State} (l : Fin 64) (f : Core → Core) (h : Still s0 s) : Still s0 (State.modCore s l f) := by
  unfold State.modCore
  apply State.setCore_still
  assumption

theorem State.setUnit_still {s0 s : State} (k : Fin 8) (u : CflUnit) (h : Still s0 s) : Still s0 (State.setUnit s k u) := by
  unfold State.setUnit
  with_reducible refine Still.upd ?_ rfl
  assumption

theorem State.setCatch_still {s0 s : State} (k : Fin 16) (c : Catch) (h : Still s0 s) : Still s0 (State.setCatch s k c) := by
  unfold State.setCatch
  with_reducible refine Still.upd ?_ rfl
  assumption

theorem State.setFrame_still {s0 s : State} (c : Fin 8) (f : Fin 8) (v : Frame) (h : Still s0 s) : Still s0 (State.setFrame s c f v) := by
  unfold State.setFrame
  with_reducible refine Still.upd ?_ rfl
  assumption

theorem State.setPage_still {s0 s : State} (p : Fin 64) (h1 : PageHdr) (h : Still s0 s) : Still s0 (State.setPage s p h1) := by
  unfold State.setPage
  with_reducible refine Still.upd ?_ rfl
  assumption

theorem State.raise_still {s0 s : State} (p : Fin 64) (bitNo : Nat) (h : Still s0 s) : Still s0 (State.raise s p bitNo) := by
  unfold State.raise
  apply State.setPage_still
  assumption

theorem State.pageError_still {s0 s : State} (p : Fin 64) (code : Nat) (detail : Nat) (h : Still s0 s) : Still s0 (State.pageError s p code detail) := by
  unfold State.pageError
  apply State.setPage_still
  assumption

theorem State.peak_still {s0 s : State} (p : Peaks) (h : Still s0 s) : Still s0 (State.peak s p) := by
  unfold State.peak
  split
  · dsimp only
    with_reducible refine Still.upd ?_ rfl
    assumption
  · assumption

theorem State.signalOut_still {s0 s : State} (cfgBit : Nat) (h : Still s0 s) : Still s0 (State.signalOut s cfgBit) := by
  unfold State.signalOut
  split
  · with_reducible refine Still.upd ?_ rfl
    assumption
  · assumption

theorem State.countLive_still {s0 s : State} (kind : Nat) (h : Still s0 s) : Still s0 (State.countLive s kind) := by
  unfold State.countLive
  refine Still.foldl ?_ ?_
  · intro s1 x1 h1
    apply State.modCtx_still
    assumption
  · assumption

theorem State.causeLive_still {s0 s : State} (bitNo : Nat) (h : Still s0 s) : Still s0 (State.causeLive s bitNo) := by
  unfold State.causeLive
  refine Still.foldl ?_ ?_
  · intro s1 x1 h1
    apply State.modCtx_still
    assumption
  · assumption

theorem State.mirror_still {s0 s : State} (e : LogEntry) (h : Still s0 s) : Still s0 (State.mirror s e).1 := by
  unfold State.mirror
  dsimp only
  split
  · split
    · split
      · dsimp only
        with_reducible refine Still.upd ?_ rfl
        assumption
      · dsimp only
        with_reducible refine Still.upd ?_ rfl
        assumption
    · assumption
  · split
    · split
      · dsimp only
        with_reducible refine Still.upd ?_ rfl
        assumption
      · dsimp only
        with_reducible refine Still.upd ?_ rfl
        assumption
    · assumption

theorem State.mirror_still' {s0 s s9 : State} {e : LogEntry} {r9 : _} (eq : State.mirror s e = (s9, r9)) (h : Still s0 s) : Still s0 s9 := by
  have := State.mirror_still e h
  rwa [eq] at this

theorem State.log_still {s0 s : State} (kind : Nat) (severity : Nat) (payload : Bytes) (h : Still s0 s) : Still s0 (State.log s kind severity payload) := by
  unfold State.log
  dsimp only
  split
  · split
    · split
      · apply State.mirror_still
        with_reducible refine Still.upd ?_ rfl
        assumption
      · with_reducible refine Still.upd ?_ rfl
        with_reducible refine Still.upd ?_ rfl
        assumption
    · split
      · apply State.mirror_still
        apply State.raise_still
        with_reducible refine Still.upd ?_ rfl
        assumption
      · with_reducible refine Still.upd ?_ rfl
        apply State.raise_still
        with_reducible refine Still.upd ?_ rfl
        assumption
  · split
    · split
      · split
        · apply State.mirror_still
          with_reducible refine Still.upd ?_ rfl
          apply State.mirror_still
          with_reducible refine Still.upd ?_ rfl
          assumption
        · with_reducible refine Still.upd ?_ rfl
          apply State.mirror_still
          with_reducible refine Still.upd ?_ rfl
          assumption
      · with_reducible refine Still.upd ?_ rfl
        with_reducible refine Still.upd ?_ rfl
        assumption
    · split
      · split
        · apply State.mirror_still
          with_reducible refine Still.upd ?_ rfl
          apply State.mirror_still
          apply State.raise_still
          with_reducible refine Still.upd ?_ rfl
          assumption
        · with_reducible refine Still.upd ?_ rfl
          apply State.mirror_still
          apply State.raise_still
          with_reducible refine Still.upd ?_ rfl
          assumption
      · with_reducible refine Still.upd ?_ rfl
        apply State.raise_still
        with_reducible refine Still.upd ?_ rfl
        assumption

theorem State.countTaken_still {s0 s : State} (h : Still s0 s) : Still s0 (State.countTaken s) := by
  unfold State.countTaken
  with_reducible refine Still.upd ?_ rfl
  assumption

theorem State.pushRec_still {s0 s : State} (r : Rec) (h : Still s0 s) : Still s0 (State.pushRec s r) := by
  unfold State.pushRec
  with_reducible refine Still.upd ?_ rfl
  assumption

theorem State.result_still {s0 s : State} (h1 : SubHdr) (kind : Nat) (taken : Nat) (reason : Nat) (k : Option (Fin 16)) (due : Nat) (h : Still s0 s) : Still s0 (State.result s h1 kind taken reason k due) := by
  unfold State.result
  apply State.pushRec_still
  assumption

theorem State.outcome_still {s0 s : State} (w : Waiting) (reason : Nat) (k : Fin 16) (due : Nat) (h : Still s0 s) : Still s0 (State.outcome s w reason k due) := by
  unfold State.outcome
  split
  · assumption
  · apply State.result_still
    assumption

theorem State.setPhase_still {s0 s : State} (k : Fin 16) (p : Phase) (h : Still s0 s) : Still s0 (State.setPhase s k p) := by
  unfold State.setPhase
  apply State.raise_still
  apply State.raise_still
  apply State.modCtx_still
  assumption

theorem State.engineFault_still {s0 s : State} (l : Fin 64) (code : Nat) (detail : Nat) (h : Still s0 s) : Still s0 (State.engineFault s l code detail) := by
  unfold State.engineFault
  apply State.modCore_still
  assumption

theorem State.haltCores_still {s0 s : State} (k : Fin 16) (h : Still s0 s) : Still s0 (State.haltCores s k) := by
  unfold State.haltCores
  refine Still.foldl ?_ ?_
  · intro s1 x1 h1
    apply State.modCore_still
    assumption
  · assumption

theorem State.runCores_still {s0 s : State} (k : Fin 16) (h : Still s0 s) : Still s0 (State.runCores s k) := by
  unfold State.runCores
  refine Still.foldl ?_ ?_
  · intro s1 x1 h1
    apply State.modCore_still
    assumption
  · assumption

theorem State.trigger_still {s0 s : State} (k : Fin 16) (source : Nat) (detail : Nat) (layer : Nat) (op : Nat) (h : Still s0 s) : Still s0 (State.trigger s k source detail layer op) := by
  unfold State.trigger
  dsimp only
  split
  · split
    · apply State.signalOut_still
      apply State.raise_still
      apply State.setCtx_still
      assumption
    · apply State.raise_still
      apply State.setCtx_still
      assumption
  · assumption

theorem State.fault_still {s0 s : State} (k : Fin 16) (f : FaultInfo) (h : Still s0 s) : Still s0 (State.fault s k f) := by
  unfold State.fault
  dsimp only
  split
  · assumption
  · split
    · split
      · apply State.trigger_still
        apply State.raise_still
        apply State.pushRec_still
        apply State.modCtx_still
        assumption
      · split
        · apply State.trigger_still
          apply State.raise_still
          apply State.haltCores_still
          apply State.modCtx_still
          assumption
        · apply State.trigger_still
          apply State.raise_still
          apply State.modCtx_still
          assumption
    · split
      · apply State.trigger_still
        apply State.raise_still
        apply State.pushRec_still
        apply State.modCtx_still
        assumption
      · split
        · apply State.trigger_still
          apply State.raise_still
          apply State.haltCores_still
          apply State.modCtx_still
          assumption
        · apply State.trigger_still
          apply State.raise_still
          apply State.modCtx_still
          assumption

theorem State.faultCode_still {s0 s : State} (k : Fin 16) (code : Nat) (d1 : Nat) (d2 : Nat) (h : Still s0 s) : Still s0 (State.faultCode s k code d1 d2) := by
  unfold State.faultCode
  apply State.fault_still
  assumption

theorem State.stray_still {s0 s : State} (sender : Nat) (h : Still s0 s) : Still s0 (State.stray s sender) := by
  unfold State.stray
  apply State.raise_still
  apply State.pageError_still
  with_reducible refine Still.upd ?_ rfl
  assumption

theorem State.linkSend_still {s0 s : State} (port : Nat) (dest : Nat) (hdr : MsgHdr) (body : MsgBody) (h : Still s0 s) : Still s0 (State.linkSend s port dest hdr body) := by
  unfold State.linkSend
  with_reducible refine Still.upd ?_ rfl
  assumption

theorem State.sendMsg_still {s0 s : State} (dest : Nat) (hdr : MsgHdr) (body : MsgBody) (h : Still s0 s) : Still s0 (State.sendMsg s dest hdr body) := by
  unfold State.sendMsg
  split
  · assumption
  · split
    · apply State.linkSend_still
      assumption
    · apply State.stray_still
      assumption

theorem State.sendCtrl_still {s0 s : State} (k : Fin 16) (dest : Nat) (body : Ctrl) (h : Still s0 s) : Still s0 (State.sendCtrl s k dest body) := by
  unfold State.sendCtrl
  split
  · apply State.modCtx_still
    assumption
  · apply State.sendMsg_still
    assumption

theorem State.sendOthers_still {s0 s : State} (k : Fin 16) (body : Ctrl) (h : Still s0 s) : Still s0 (State.sendOthers s k body) := by
  unfold State.sendOthers
  refine Still.foldl ?_ ?_
  · intro s1 x1 h1
    apply State.sendCtrl_still
    assumption
  · assumption

theorem State.sendAll_still {s0 s : State} (k : Fin 16) (body : Ctrl) (h : Still s0 s) : Still s0 (State.sendAll s k body) := by
  unfold State.sendAll
  refine Still.foldl ?_ ?_
  · intro s1 x1 h1
    apply State.modCtx_still
    apply State.sendCtrl_still
    assumption
  · assumption

theorem State.fenceNotice_still {s0 s : State} (code : Nat) (k : Fin 16) (h : Still s0 s) : Still s0 (State.fenceNotice s code k) := by
  unfold State.fenceNotice
  dsimp only
  split
  · apply State.modCtx_still
    split
    · apply State.sendAll_still
      assumption
    · apply State.sendCtrl_still
      assumption
  · assumption

theorem State.fenceCtx_still {s0 s : State} (code : Nat) (d1 : Nat) (d2 : Nat) (k : Fin 16) (h : Still s0 s) : Still s0 (State.fenceCtx s code d1 d2 k) := by
  unfold State.fenceCtx
  dsimp only
  split
  · assumption
  · apply State.modCtx_still
    apply State.fault_still
    assumption

theorem State.fence_still {s0 s : State} (code : Nat) (d1 : Nat) (d2 : Nat) (h : Still s0 s) : Still s0 (State.fence s code d1 d2) := by
  unfold State.fence
  split
  · assumption
  · dsimp only
    apply State.pushRec_still
    apply State.signalOut_still
    apply State.raise_still
    apply State.raise_still
    refine Still.foldl ?_ ?_
    · intro s1 x1 h1
      apply State.fenceCtx_still
      assumption
    · with_reducible refine Still.upd ?_ rfl
      refine Still.foldl ?_ ?_
      · intro s1 x1 h1
        apply State.fenceNotice_still
        assumption
      · with_reducible refine Still.upd ?_ rfl
        assumption

end Sys2Proof.Machine
end

