-- ==== Sys2Proof/Laws/StillCounters.lean ====
section
/-! SUPPORT. The operations of Machine/Counters.lean that leave the position in time alone (`Still`). -/

namespace Sys2Proof.Machine

theorem State.compareCopies_still {s0 s : State} (k : Fin 16) (vids : List Nat) (h : Still s0 s) : Still s0 (State.compareCopies s k vids) := by
  unfold State.compareCopies
  split
  · apply State.faultCode_still
    assumption
  · assumption

theorem State.pairFault_still {s0 s : State} (k : Fin 16) (f : Bool × Nat × Nat) (h : Still s0 s) : Still s0 (State.pairFault s k f) := by
  unfold State.pairFault
  apply State.faultCode_still
  apply State.raise_still
  apply State.modCtx_still
  assumption

theorem State.saturation_still {s0 s : State} (k : Fin 16) (vid : Nat) (h : Still s0 s) : Still s0 (State.saturation s k vid) := by
  unfold State.saturation
  apply State.faultCode_still
  apply State.raise_still
  apply State.modCtx_still
  assumption

theorem State.reachWaits_still {s0 s : State} (k : Fin 16) (h : Still s0 s) : Still s0 (State.reachWaits s k) := by
  unfold State.reachWaits
  dsimp only
  refine Still.foldl ?_ ?_
  · intro s1 x1 h1
    apply State.modCore_still
    assumption
  · assumption

theorem State.giveResult_still {s0 s : State} (lcid : Nat) (late : Nat) (r : ResultBody) (h : Still s0 s) : Still s0 (State.giveResult s lcid late r) := by
  unfold State.giveResult
  with_reducible refine Still.upd ?_ rfl
  assumption

theorem State.beginWait_still {s0 s : State} (o : CntOp) (h : Still s0 s) : Still s0 (State.beginWait s o) := by
  unfold State.beginWait
  split
  · apply State.modCore_still
    assumption
  · assumption

theorem State.serveRead_still {s0 s : State} (k : Fin 16) (o : CntOp) (h : Still s0 s) : Still s0 (State.serveRead s k o) := by
  unfold State.serveRead
  split
  · apply State.giveResult_still
    assumption
  · assumption

theorem State.resolveCounters_still {s0 s : State} (k : Fin 16) (notices : List (Nat × Nat)) (h : Still s0 s) : Still s0 (State.resolveCounters s k notices) := by
  unfold State.resolveCounters
  dsimp only
  split
  · apply State.compareCopies_still
    assumption
  · split
    · split
      · apply State.reachWaits_still
        refine Still.foldl ?_ ?_
        · intro s1 x1 h1
          apply State.serveRead_still
          assumption
        · refine Still.foldl ?_ ?_
          · intro s1 x1 h1
            apply State.saturation_still
            assumption
          · refine Still.foldl ?_ ?_
            · intro s1 x1 h1
              apply State.pairFault_still
              assumption
            · refine Still.foldl ?_ ?_
              · intro s1 x1 h1
                apply State.beginWait_still
                assumption
              · refine Still.foldl ?_ ?_
                · intro s1 x1 h1
                  apply State.giveResult_still
                  assumption
                · with_reducible refine Still.upd ?_ rfl
                  apply State.setCtx_still
                  apply State.compareCopies_still
                  assumption
      · refine Still.foldl ?_ ?_
        · intro s1 x1 h1
          apply State.serveRead_still
          assumption
        · refine Still.foldl ?_ ?_
          · intro s1 x1 h1
            apply State.saturation_still
            assumption
          · refine Still.foldl ?_ ?_
            · intro s1 x1 h1
              apply State.pairFault_still
              assumption
            · refine Still.foldl ?_ ?_
              · intro s1 x1 h1
                apply State.beginWait_still
                assumption
              · refine Still.foldl ?_ ?_
                · intro s1 x1 h1
                  apply State.giveResult_still
                  assumption
                · with_reducible refine Still.upd ?_ rfl
                  apply State.setCtx_still
                  apply State.compareCopies_still
                  assumption
    · split
      · apply State.reachWaits_still
        refine Still.foldl ?_ ?_
        · intro s1 x1 h1
          apply State.serveRead_still
          assumption
        · refine Still.foldl ?_ ?_
          · intro s1 x1 h1
            apply State.saturation_still
            assumption
          · refine Still.foldl ?_ ?_
            · intro s1 x1 h1
              apply State.pairFault_still
              assumption
            · refine Still.foldl ?_ ?_
              · intro s1 x1 h1
                apply State.beginWait_still
                assumption
              · refine Still.foldl ?_ ?_
                · intro s1 x1 h1
                  apply State.giveResult_still
                  assumption
                · with_reducible refine Still.upd ?_ rfl
                  apply State.setCtx_still
                  apply State.compareCopies_still
                  assumption
      · refine Still.foldl ?_ ?_
        · intro s1 x1 h1
          apply State.serveRead_still
          assumption
        · refine Still.foldl ?_ ?_
          · intro s1 x1 h1
            apply State.saturation_still
            assumption
          · refine Still.foldl ?_ ?_
            · intro s1 x1 h1
              apply State.pairFault_still
              assumption
            · refine Still.foldl ?_ ?_
              · intro s1 x1 h1
                apply State.beginWait_still
                assumption
              · refine Still.foldl ?_ ?_
                · intro s1 x1 h1
                  apply State.giveResult_still
                  assumption
                · with_reducible refine Still.upd ?_ rfl
                  apply State.setCtx_still
                  apply State.compareCopies_still
                  assumption

theorem State.useCredit_still {s0 s : State} (k : Fin 16) (h : Still s0 s) : Still s0 (State.useCredit s k) := by
  unfold State.useCredit
  with_reducible refine Still.upd ?_ rfl
  assumption

theorem State.markCredits_still {s0 s : State} (old : State) (h : Still s0 s) : Still s0 (State.markCredits s old) := by
  unfold State.markCredits
  dsimp only
  refine Still.foldl ?_ ?_
  · intro s1 x1 h1
    apply State.modCtx_still
    assumption
  · assumption

theorem State.horizonWeirs_still {s0 s : State} (h : Still s0 s) : Still s0 (State.horizonWeirs s) := by
  unfold State.horizonWeirs
  dsimp only
  apply State.peak_still
  apply State.markCredits_still
  with_reducible refine Still.upd ?_ rfl
  assumption

theorem State.seedDelays_still {s0 s : State} (h : Still s0 s) : Still s0 (State.seedDelays s) := by
  unfold State.seedDelays
  with_reducible refine Still.upd ?_ rfl
  assumption

theorem State.sendNotice_still {s0 s : State} (k : Fin 16) (dest : Nat) (vc : Nat) (epoch : Nat) (body : MsgBody) (h : Still s0 s) : Still s0 (State.sendNotice s k dest vc epoch body) := by
  unfold State.sendNotice
  dsimp only
  split
  · split
    · apply State.horizonWeirs_still
      with_reducible refine Still.upd ?_ rfl
      apply State.useCredit_still
      assumption
    · apply State.modCtx_still
      assumption
  · apply State.sendMsg_still
    assumption

theorem State.sendWaiting_still {s0 s : State} (k : Fin 16) (h : Still s0 s) : Still s0 (State.sendWaiting s k) := by
  unfold State.sendWaiting
  dsimp only
  split
  · assumption
  · refine Still.foldl ?_ ?_
    · intro s1 x1 h1
      apply State.sendNotice_still
      assumption
    · apply State.setCtx_still
      assumption

theorem State.sendRipple_still {s0 s : State} (o : CntOp) (h : Still s0 s) : Still s0 (State.sendRipple s o) := by
  unfold State.sendRipple
  split
  · apply State.sendNotice_still
    assumption
  · assumption

theorem State.sendRipples_still {s0 s : State} (h : Still s0 s) : Still s0 (State.sendRipples s) := by
  unfold State.sendRipples
  dsimp only
  with_reducible refine Still.upd ?_ rfl
  refine Still.foldl ?_ ?_
  · intro s1 x1 h1
    apply State.sendRipple_still
    assumption
  · assumption

theorem State.acceptHeld_still {s0 s : State} (h : Still s0 s) : Still s0 (State.acceptHeld s) := by
  unfold State.acceptHeld
  with_reducible refine Still.upd ?_ rfl
  assumption

theorem State.performCounter_still {s0 s : State} (l : Fin 64) (t : Task) (code : Nat) (vid : Nat) (translate : Bool) (zero : Bool) (kind : CntKind) (after : Nat) (movers : List Nat) (h : Still s0 s) : Still s0 (State.performCounter s l t code vid translate zero kind after movers) := by
  unfold State.performCounter
  split
  · apply State.engineFault_still
    assumption
  · dsimp only
    with_reducible refine Still.upd ?_ rfl
    assumption

theorem State.laneWaits_still {s0 s : State} (l : Fin 64) (c : LaneCmd) (h : Still s0 s) : Still s0 (State.laneWaits s l c) := by
  unfold State.laneWaits
  apply State.modCore_still
  assumption

theorem State.counterCommand_still {s0 s : State} (l : Fin 64) (code : Nat) (vid : Nat) (translate : Bool) (zero : Bool) (kind : CntKind) (h : Still s0 s) : Still s0 (State.counterCommand s l code vid translate zero kind) := by
  unfold State.counterCommand
  split
  · assumption
  · dsimp only
    split
    · apply State.laneWaits_still
      assumption
    · apply State.performCounter_still
      assumption

theorem execCntInc_still {s s9 : State} {lcid : Fin 64} {vid : BitVec 20} {increment : BitVec 32} (eq : execCntInc lcid vid increment s = .next s9) : Still s s9 := by
  cases eq
  have h := Still.refl s
  apply State.counterCommand_still
  assumption

theorem execCntTake_still {s s9 : State} {lcid : Fin 64} {vid : BitVec 20} (eq : execCntTake lcid vid s = .next s9) : Still s s9 := by
  cases eq
  have h := Still.refl s
  apply State.counterCommand_still
  assumption

theorem execCntRead_still {s s9 : State} {lcid : Fin 64} {vid : BitVec 20} (eq : execCntRead lcid vid s = .next s9) : Still s s9 := by
  cases eq
  have h := Still.refl s
  apply State.counterCommand_still
  assumption

theorem execCntWait_still {s s9 : State} {lcid : Fin 64} {vid : BitVec 20} {target : BitVec 48} (eq : execCntWait lcid vid target s = .next s9) : Still s s9 := by
  cases eq
  have h := Still.refl s
  apply State.counterCommand_still
  assumption

theorem execRipple_still {s s9 : State} {lcid : Fin 64} {dest : BitVec 32} {vid : BitVec 20} {increment : BitVec 32} {dmv1 : Bool} (eq : execRipple lcid dest vid increment dmv1 s = .next s9) : Still s s9 := by
  cases eq
  have h := Still.refl s
  apply State.counterCommand_still
  assumption

theorem State.cntWaitRelease_still {s0 s : State} (l : Fin 64) (h : Still s0 s) : Still s0 (State.cntWaitRelease s l) := by
  unfold State.cntWaitRelease
  split
  · split
    · dsimp only
      with_reducible refine Still.upd ?_ rfl
      apply State.modCore_still
      assumption
    · assumption
  · assumption

theorem execCntWaitRelease_still {s s9 : State} {lcid : Fin 64} (eq : execCntWaitRelease lcid s = .next s9) : Still s s9 := by
  cases eq
  have h := Still.refl s
  apply State.cntWaitRelease_still
  assumption

end Sys2Proof.Machine
end

