-- ==== Sys2Proof/Laws/StillRouting.lean ====
section
/-! SUPPORT. The operations of Machine/Routing.lean that leave the position in time alone (`Still`). -/

namespace Sys2Proof.Machine

theorem State.inletWeirs_still {s0 s : State} (h : Still s0 s) : Still s0 (State.inletWeirs s) := by
  unfold State.inletWeirs
  dsimp only
  apply State.peak_still
  with_reducible refine Still.upd ?_ rfl
  split
  · apply State.raise_still
    assumption
  · assumption

theorem State.recordFault_still {s0 s : State} (t : Task) (lcid : Nat) (row : Nat) (r : BitVec 64) (h : Still s0 s) : Still s0 (State.recordFault s t lcid row r) := by
  unfold State.recordFault
  apply State.fault_still
  assumption

theorem State.setOpen_still {s0 s : State} (lcid : Nat) (f : Packet → Option Packet) (h : Still s0 s) : Still s0 (State.setOpen s lcid f) := by
  unfold State.setOpen
  with_reducible refine Still.upd ?_ rfl
  assumption

theorem State.writeOpen_still {s0 s : State} (lcid : Nat) (t : Task) (r : BitVec 64) (h : Still s0 s) : Still s0 (State.writeOpen s lcid t r) := by
  unfold State.writeOpen
  split
  · apply State.recordFault_still
    assumption
  · split
    · apply State.recordFault_still
      assumption
    · with_reducible refine Still.upd ?_ rfl
      assumption

theorem State.writeChoice_still {s0 s : State} (lcid : Nat) (t : Task) (r : BitVec 64) (h : Still s0 s) : Still s0 (State.writeChoice s lcid t r) := by
  unfold State.writeChoice
  split
  · apply State.recordFault_still
    assumption
  · split
    · apply State.recordFault_still
      assumption
    · split
      · apply State.recordFault_still
        assumption
      · apply State.setOpen_still
        assumption

theorem State.writeClose_still {s0 s : State} (lcid : Nat) (t : Task) (r : BitVec 64) (h : Still s0 s) : Still s0 (State.writeClose s lcid t r) := by
  unfold State.writeClose
  split
  · apply State.recordFault_still
    assumption
  · split
    · apply State.recordFault_still
      assumption
    · split
      · apply State.recordFault_still
        assumption
      · apply State.setOpen_still
        assumption

theorem State.writeRecord_still {s0 s : State} (lcid : Nat) (t : Task) (r : BitVec 64) (h : Still s0 s) : Still s0 (State.writeRecord s lcid t r) := by
  unfold State.writeRecord
  dsimp only
  apply State.inletWeirs_still
  split
  · split
    · apply State.setOpen_still
      apply State.modCore_still
      assumption
    · apply State.modCore_still
      assumption
  · split
    · apply State.writeChoice_still
      apply State.modCore_still
      assumption
    · apply State.writeOpen_still
      apply State.modCore_still
      assumption
    · apply State.writeClose_still
      apply State.modCore_still
      assumption
    · apply State.recordFault_still
      apply State.modCore_still
      assumption

theorem State.offerRecord_still {s0 s : State} (l : Fin 64) (r : BitVec 64) (h : Still s0 s) : Still s0 (State.offerRecord s l r) := by
  unfold State.offerRecord
  split
  · assumption
  · dsimp only
    split
    · apply State.modCore_still
      apply State.inletWeirs_still
      assumption
    · apply State.writeRecord_still
      apply State.inletWeirs_still
      assumption

theorem State.inletAc_still {s0 s : State} (h : Still s0 s) : Still s0 (State.inletAc s) := by
  unfold State.inletAc
  split
  · assumption
  · refine Still.foldl ?_ ?_
    · intro s1 x1 h1
      split
      · split
        · assumption
        · apply State.writeRecord_still
          apply State.modCore_still
          assumption
      · assumption
    · apply State.inletWeirs_still
      assumption

theorem execOpenRecord_still {s s9 : State} {lcid : Fin 64} {record : BitVec 64} (eq : execOpenRecord lcid record s = .next s9) : Still s s9 := by
  cases eq
  have h := Still.refl s
  apply State.offerRecord_still
  assumption

theorem execChoiceRecord_still {s s9 : State} {lcid : Fin 64} {record : BitVec 64} (eq : execChoiceRecord lcid record s = .next s9) : Still s s9 := by
  cases eq
  have h := Still.refl s
  apply State.offerRecord_still
  assumption

theorem execCloseRecord_still {s s9 : State} {lcid : Fin 64} {record : BitVec 64} (eq : execCloseRecord lcid record s = .next s9) : Still s s9 := by
  cases eq
  have h := Still.refl s
  apply State.offerRecord_still
  assumption

theorem State.packetFault_still {s0 s : State} (p : Packet) (h : Still s0 s) : Still s0 (State.packetFault s p) := by
  unfold State.packetFault
  apply State.fault_still
  assumption

theorem State.collectJob_still {s0 s : State} (k : Fin 16) (step : Nat) (layer : Nat) (h : Still s0 s) : Still s0 (State.collectJob s k step layer) := by
  unfold State.collectJob
  dsimp only
  split
  · assumption
  · split
    · apply State.packetFault_still
      assumption
    · assumption
  · split
    · assumption
    · split
      · assumption
      · split
        · apply State.packetFault_still
          assumption
        · split
          · apply State.packetFault_still
            assumption
          · apply State.modCtx_still
            with_reducible refine Still.upd ?_ rfl
            assumption

theorem State.startNextJob_still {s0 s : State} (k : Fin 16) (h : Still s0 s) : Still s0 (State.startNextJob s k) := by
  unfold State.startNextJob
  dsimp only
  split
  · assumption
  · split
    · assumption
    · split
      · apply State.fault_still
        apply State.modCtx_still
        assumption
      · apply State.setCtx_still
        assumption

theorem State.publishJob_still {s0 s : State} (k : Fin 16) (j : Job) (h : Still s0 s) : Still s0 (State.publishJob s k j) := by
  unfold State.publishJob
  dsimp only
  with_reducible refine Still.upd ?_ rfl
  apply State.setCtx_still
  assumption

theorem State.publishDue_still {s0 s : State} (k : Fin 16) (h : Still s0 s) : Still s0 (State.publishDue s k) := by
  unfold State.publishDue
  split
  · apply State.publishJob_still
    assumption
  · assumption

theorem State.routingBoundary_still {s0 s : State} (k : Fin 16) (h : Still s0 s) : Still s0 (State.routingBoundary s k) := by
  unfold State.routingBoundary
  dsimp only
  apply State.modCtx_still
  apply State.startNextJob_still
  refine Still.foldl ?_ ?_
  · intro s1 x1 h1
    apply State.collectJob_still
    assumption
  · apply State.publishDue_still
    assumption

theorem State.jobPublish_still {s0 s : State} (k : Fin 16) (h : Still s0 s) : Still s0 (State.jobPublish s k) := by
  unfold State.jobPublish
  dsimp only
  split
  · split
    · with_reducible refine Still.upd ?_ rfl
      apply State.setCtx_still
      assumption
    · assumption
  · assumption

theorem execJobPublish_still {s s9 : State} {slot : Fin 16} (eq : execJobPublish slot s = .next s9) : Still s s9 := by
  cases eq
  have h := Still.refl s
  apply State.jobPublish_still
  assumption

theorem State.fetchHandoff_still {s0 s : State} (l : Fin 64) (h : Still s0 s) : Still s0 (State.fetchHandoff s l) := by
  unfold State.fetchHandoff
  split
  · assumption
  · dsimp only
    split
    · apply State.engineFault_still
      assumption
    · split
      · assumption
      · split
        · assumption
        · split
          · apply State.sendNotice_still
            assumption
          · apply State.sendMsg_still
            assumption

theorem execFetchHandoff_still {s s9 : State} {lcid : Fin 64} (eq : execFetchHandoff lcid s = .next s9) : Still s s9 := by
  cases eq
  have h := Still.refl s
  apply State.fetchHandoff_still
  assumption

theorem State.fetchEnd_still {s0 s : State} (t : Task) (h : Still s0 s) : Still s0 (State.fetchEnd s t) := by
  unfold State.fetchEnd
  dsimp only
  split
  · assumption
  · split
    · apply State.modCtx_still
      assumption
    · assumption
    · apply State.sendNotice_still
      assumption

theorem State.landingArrives_still {s0 s : State} (k : Fin 16) (l : Landing) (h : Still s0 s) : Still s0 (State.landingArrives s k l) := by
  unfold State.landingArrives
  dsimp only
  apply State.modCtx_still
  assumption

theorem State.serveTask_still {s0 s : State} (k : Fin 16) (reqs : List (Nat × Nat × FetchReq)) (h : Still s0 s) : Still s0 (State.serveTask s k reqs) := by
  unfold State.serveTask
  split
  · assumption
  · dsimp only
    with_reducible refine Still.upd ?_ rfl
    apply State.setCtx_still
    assumption

theorem State.serveRequests_still {s0 s : State} (k : Fin 16) (reqs : List (Nat × Nat × FetchReq)) (h : Still s0 s) : Still s0 (State.serveRequests s k reqs) := by
  unfold State.serveRequests
  dsimp only
  refine Still.foldl ?_ ?_
  · intro s1 x1 h1
    refine Still.foldl ?_ ?_
    · intro s1 x1 h1
      apply State.serveTask_still
      assumption
    · assumption
  · assumption

theorem State.serveEnd_still {s0 s : State} (t : Task) (length : Nat) (members : List (Nat × Nat × Nat × Nat)) (h : Still s0 s) : Still s0 (State.serveEnd s t length members) := by
  unfold State.serveEnd
  refine Still.foldl ?_ ?_
  · intro s1 x1 h1
    apply State.sendNotice_still
    assumption
  · assumption

theorem State.cancelRouting_still {s0 s : State} (k : Fin 16) (steps : List Nat) (h : Still s0 s) : Still s0 (State.cancelRouting s k steps) := by
  unfold State.cancelRouting
  dsimp only
  apply State.inletWeirs_still
  apply State.modCtx_still
  with_reducible refine Still.upd ?_ rfl
  assumption

end Sys2Proof.Machine
end

