-- ==== Sys2Proof/Laws/StillLedger.lean ====
section
/-! SUPPORT. The operations of Machine/Ledger.lean that leave the position in time alone (`Still`). -/

namespace Sys2Proof.Machine

theorem State.setLedger_still {s0 s : State} (k : Fin 16) (l : Ledger) (h : Still s0 s) : Still s0 (State.setLedger s k l) := by
  unfold State.setLedger
  dsimp only
  with_reducible refine Still.upd ?_ rfl
  apply State.modCtx_still
  assumption

theorem State.planNode_still {s0 s : State} (k : Fin 16) (step : Nat) (n : Nat) (h : Still s0 s) : Still s0 (State.planNode s k step n) := by
  unfold State.planNode
  dsimp only
  split
  · assumption
  · split
    · apply State.setCtx_still
      assumption
    · split
      · apply State.faultCode_still
        assumption
      · apply State.setCtx_still
        assumption

theorem State.issueNode_still {s0 s : State} (k : Fin 16) (step n fuel : Nat) (h : Still s0 s) : Still s0 (State.issueNode s k step n fuel) := by
  induction fuel generalizing s with
  | zero => exact h
  | succ m ih =>
    unfold State.issueNode
    dsimp only
    split
    · assumption
    · split
      · refine ih ?_
        apply State.setCtx_still
        assumption
      · assumption

theorem State.stagingBoundary_still {s0 s : State} (k : Fin 16) (h : Still s0 s) : Still s0 (State.stagingBoundary s k) := by
  unfold State.stagingBoundary
  refine Still.foldl ?_ ?_
  · intro s1 x1 h1
    apply State.issueNode_still
    assumption
  · assumption

theorem State.stagingIssue_still {s0 s : State} (k : Fin 16) (n : Nat) (h : Still s0 s) : Still s0 (State.stagingIssue s k n) := by
  unfold State.stagingIssue
  split
  · assumption
  · refine Still.foldl ?_ ?_
    · intro s1 x1 h1
      split
      · apply State.issueNode_still
        apply State.modCtx_still
        assumption
      · assumption
    · assumption

theorem execStagingIssue_still {s s9 : State} {slot : Fin 16} {node : Nat} (eq : execStagingIssue slot node s = .next s9) : Still s s9 := by
  cases eq
  have h := Still.refl s
  apply State.stagingIssue_still
  assumption

theorem State.applyChange_still {s0 s : State} (k : Fin 16) (step : Nat) (x : Change) (h : Still s0 s) : Still s0 (State.applyChange s k step x) := by
  unfold State.applyChange
  split
  · split
    · assumption
    · split
      · apply State.setLedger_still
        assumption
      · apply State.faultCode_still
        assumption
  · apply State.setLedger_still
    assumption
  · assumption

theorem State.lengthLimit_still {s0 s : State} (k : Fin 16) (step : Nat) (g : Nat) (h : Still s0 s) : Still s0 (State.lengthLimit s k step g) := by
  unfold State.lengthLimit
  apply State.pushRec_still
  assumption

theorem State.ledgerJoins_still {s0 s : State} (k : Fin 16) (step : Nat) (changes : List Change) (h : Still s0 s) : Still s0 (State.ledgerJoins s k step changes).1 := by
  unfold State.ledgerJoins
  dsimp only
  refine Still.foldl ?_ ?_
  · intro s1 x1 h1
    apply State.lengthLimit_still
    assumption
  · refine Still.foldl ?_ ?_
    · intro s1 x1 h1
      apply State.applyChange_still
      assumption
    · assumption

theorem State.ledgerJoins_still' {s0 s s9 : State} {k : Fin 16} {step : Nat} {changes : List Change} {r9 : _} (eq : State.ledgerJoins s k step changes = (s9, r9)) (h : Still s0 s) : Still s0 s9 := by
  have := State.ledgerJoins_still k step changes h
  rwa [eq] at this

theorem State.ledgerPlan_still {s0 s : State} (k : Fin 16) (step : Nat) (template : Nat) (batch : List BatchSeq) (h : Still s0 s) : Still s0 (State.ledgerPlan s k step template batch) := by
  unfold State.ledgerPlan
  dsimp only
  split
  · assumption
  · refine Still.foldl ?_ ?_
    · intro s1 x1 h1
      apply State.planNode_still
      assumption
    · apply State.setLedger_still
      apply State.modCtx_still
      with_reducible refine Still.upd ?_ rfl
      assumption

theorem State.moveEnd_still {s0 s : State} (k : Fin 16) (q : Nat) (gen : Nat) (g : Nat) (y : Nat) (p : Nat) (tier : Nat) (frame : Nat) (h : Still s0 s) : Still s0 (State.moveEnd s k q gen g y p tier frame) := by
  unfold State.moveEnd
  dsimp only
  split
  · assumption
  · apply State.modCtx_still
    apply State.setLedger_still
    assumption

theorem State.pageCrc_still {s0 s : State} (k : Fin 16) (q : Nat) (g : Nat) (y : Nat) (p : Nat) (crc : BitVec 16) (h : Still s0 s) : Still s0 (State.pageCrc s k q g y p crc) := by
  unfold State.pageCrc
  apply State.setLedger_still
  assumption

theorem State.reportedCrc_still {s0 s : State} (t : Task) (live : Bool) (crc : BitVec 16) (h : Still s0 s) : Still s0 (State.reportedCrc s t live crc) := by
  unfold State.reportedCrc
  split
  · split
    · apply State.pageCrc_still
      assumption
    · assumption
  · apply State.pageCrc_still
    assumption
  · split
    · apply State.pageCrc_still
      assumption
    · assumption
  · assumption

theorem State.freeSeq_still {s0 s : State} (k : Fin 16) (q : Nat) (h : Still s0 s) : Still s0 (State.freeSeq s k q) := by
  unfold State.freeSeq
  dsimp only
  apply State.setLedger_still
  assumption

theorem State.beginExport_still {s0 s : State} (k : Fin 16) (q : Seq) (h : Still s0 s) : Still s0 (State.beginExport s k q) := by
  unfold State.beginExport
  dsimp only
  apply State.setLedger_still
  apply State.setCtx_still
  assumption

theorem State.exportDone_still {s0 s : State} (k : Fin 16) (q : Seq) (h : Still s0 s) : Still s0 (State.exportDone s k q) := by
  unfold State.exportDone
  dsimp only
  apply State.freeSeq_still
  apply State.pushRec_still
  apply State.setLedger_still
  assumption

theorem State.finishLeaves_still {s0 s : State} (k : Fin 16) (h : Still s0 s) : Still s0 (State.finishLeaves s k) := by
  unfold State.finishLeaves
  dsimp only
  refine Still.foldl ?_ ?_
  · intro s1 x1 h1
    split
    · apply State.freeSeq_still
      assumption
    · split
      · apply State.exportDone_still
        assumption
      · apply State.beginExport_still
        assumption
  · assumption

theorem State.exportEnd_still {s0 s : State} (k : Fin 16) (q : Nat) (h : Still s0 s) : Still s0 (State.exportEnd s k q) := by
  unfold State.exportEnd
  dsimp only
  split
  · split
    · apply State.exportDone_still
      apply State.setLedger_still
      assumption
    · apply State.setLedger_still
      assumption
  · apply State.setLedger_still
    assumption

theorem State.importDone_still {s0 s : State} (k : Fin 16) (q : Seq) (h : Still s0 s) : Still s0 (State.importDone s k q) := by
  unfold State.importDone
  split
  · assumption
  · apply State.setLedger_still
    apply State.result_still
    assumption

theorem State.importEnd_still {s0 s : State} (k : Fin 16) (q : Nat) (h : Still s0 s) : Still s0 (State.importEnd s k q) := by
  unfold State.importEnd
  dsimp only
  split
  · split
    · apply State.importDone_still
      apply State.setLedger_still
      assumption
    · apply State.setLedger_still
      assumption
  · apply State.setLedger_still
    assumption

theorem State.beginImport_still {s0 s : State} (k : Fin 16) (h1 : SubHdr) (taken : Nat) (r : ImportReq) (h : Still s0 s) : Still s0 (State.beginImport s k h1 taken r).1 := by
  unfold State.beginImport
  dsimp only
  split
  · assumption
  · split
    · assumption
    · split
      · split
        · dsimp only
          apply State.importDone_still
          apply State.setCtx_still
          apply State.setLedger_still
          assumption
        · dsimp only
          apply State.setCtx_still
          apply State.setLedger_still
          assumption
      · dsimp only
        apply State.setCtx_still
        apply State.setLedger_still
        assumption

theorem State.beginImport_still' {s0 s s9 : State} {k : Fin 16} {h1 : SubHdr} {taken : Nat} {r : ImportReq} {r9 : _} (eq : State.beginImport s k h1 taken r = (s9, r9)) (h : Still s0 s) : Still s0 s9 := by
  have := State.beginImport_still k h1 taken r h
  rwa [eq] at this

end Sys2Proof.Machine
end

