-- ==== Sys2Proof/Laws/StillChannels.lean ====
section
/-! SUPPORT. The operations of Machine/Channels.lean that leave the position in time alone (`Still`). -/

namespace Sys2Proof.Machine

theorem State.performReceiver_still {s0 s : State} (l : Fin 64) (t : Task) (code : Nat) (rings : List Nat) (kind : ChanKind) (h : Still s0 s) : Still s0 (State.performReceiver s l t code rings kind) := by
  unfold State.performReceiver
  dsimp only
  split
  · apply State.engineFault_still
    assumption
  · with_reducible refine Still.upd ?_ rfl
    assumption

theorem State.receiverCommand_still {s0 s : State} (l : Fin 64) (code : Nat) (rings : List Nat) (kind : ChanKind) (h : Still s0 s) : Still s0 (State.receiverCommand s l code rings kind) := by
  unfold State.receiverCommand
  split
  · assumption
  · split
    · apply State.laneWaits_still
      assumption
    · apply State.performReceiver_still
      assumption

theorem execRingOpen_still {s s9 : State} {lcid : Fin 64} {ring : BitVec 10} {persist : Bool} (eq : execRingOpen lcid ring persist s = .next s9) : Still s s9 := by
  cases eq
  have h := Still.refl s
  apply State.receiverCommand_still
  assumption

theorem execRingClose_still {s s9 : State} {lcid : Fin 64} {ring : BitVec 10} (eq : execRingClose lcid ring s = .next s9) : Still s s9 := by
  cases eq
  have h := Still.refl s
  apply State.receiverCommand_still
  assumption

theorem execRecv_still {s s9 : State} {lcid : Fin 64} {rings : List Nat} {rotation : Bool} {poll : Bool} (eq : execRecv lcid rings rotation poll s = .next s9) : Still s s9 := by
  cases eq
  have h := Still.refl s
  apply State.receiverCommand_still
  assumption

theorem execRelease_still {s s9 : State} {lcid : Fin 64} {ring : BitVec 10} (eq : execRelease lcid ring s = .next s9) : Still s s9 := by
  cases eq
  have h := Still.refl s
  apply State.receiverCommand_still
  assumption

theorem State.tryRecv_still {s0 s t : State} {lcid : Nat} {k : Fin 16} {rings : List Nat} {rotation : Bool}
    (eq : s.tryRecv lcid k rings rotation = some t) (h : Still s0 s) : Still s0 t := by
  unfold State.tryRecv at eq
  dsimp only at eq
  split at eq
  · cases eq
  · split at eq
    · cases eq
    · split at eq
      · cases eq
      · cases eq
        apply State.giveResult_still
        apply State.modCore_still
        apply State.setCtx_still
        assumption

theorem State.tryRecv_getD_still {s0 s : State} {lcid : Nat} {k : Fin 16} {rings : List Nat} {rotation : Bool} (h : Still s0 s) :
    Still s0 ((s.tryRecv lcid k rings rotation).getD s) := by
  cases e : s.tryRecv lcid k rings rotation with
  | none => exact h
  | some t => exact State.tryRecv_still e h

theorem State.discardStalled_still {s0 s : State} (k : Fin 16) (closing : Nat → Bool) (h : Still s0 s) : Still s0 (State.discardStalled s k closing) := by
  unfold State.discardStalled
  refine Still.foldl ?_ ?_
  · intro s1 x1 h1
    split
    · split
      · apply State.giveResult_still
        apply State.modCore_still
        assumption
      · assumption
    · assumption
  · assumption

theorem State.retest_still {s0 s : State} (k : Fin 16) (ring : Nat) (h : Still s0 s) : Still s0 (State.retest s k ring) := by
  unfold State.retest
  refine Still.foldl ?_ ?_
  · intro s1 x1 h1
    apply State.modCore_still
    assumption
  · assumption

theorem State.chanEffect_still {s0 s : State} (o : ChanOp) (h : Still s0 s) : Still s0 (State.chanEffect s o) := by
  unfold State.chanEffect
  split
  · dsimp only
    apply State.giveResult_still
    apply State.modCtx_still
    apply State.discardStalled_still
    assumption
  · apply State.modCtx_still
    apply State.discardStalled_still
    assumption
  · apply State.retest_still
    apply State.modCtx_still
    assumption
  · split
    · refine State.tryRecv_still (by assumption) ?_
      assumption
    · split
      · apply State.giveResult_still
        assumption
      · apply State.modCore_still
        assumption

theorem State.chanEffects_still {s0 s : State} (h : Still s0 s) : Still s0 (State.chanEffects s) := by
  unfold State.chanEffects
  dsimp only
  refine Still.foldl ?_ ?_
  · intro s1 x1 h1
    apply State.chanEffect_still
    assumption
  · with_reducible refine Still.upd ?_ rfl
    assumption

theorem State.recvRelease_still {s0 s : State} (l : Fin 64) (h : Still s0 s) : Still s0 (State.recvRelease s l) := by
  unfold State.recvRelease
  split
  · dsimp only
    split
    · refine State.tryRecv_getD_still ?_
      assumption
    · assumption
  · assumption

theorem execRecvRelease_still {s s9 : State} {lcid : Fin 64} (eq : execRecvRelease lcid s = .next s9) : Still s s9 := by
  cases eq
  have h := Still.refl s
  apply State.recvRelease_still
  assumption

theorem State.sendResult_still {s0 s : State} (l : Fin 64) (ac : Nat) (r : ResultBody) (h : Still s0 s) : Still s0 (State.sendResult s l ac r) := by
  unfold State.sendResult
  dsimp only
  with_reducible refine Still.upd ?_ rfl
  apply State.modCore_still
  assumption

theorem State.trySend_still {s0 s : State} (l : Fin 64) (k : Fin 16) (ac : Nat) (w : SendWait) (h : Still s0 s) : Still s0 (State.trySend s l k ac w) := by
  unfold State.trySend
  split
  · assumption
  · split
    · apply State.sendResult_still
      assumption
    · split
      · dsimp only
        apply State.sendResult_still
        with_reducible refine Still.upd ?_ rfl
        apply State.modCtx_still
        assumption
      · apply State.modCore_still
        assumption

theorem State.sendTest_still {s0 s : State} (l : Fin 64) (h : Still s0 s) : Still s0 (State.sendTest s l) := by
  unfold State.sendTest
  split
  · split
    · split
      · assumption
      · apply State.trySend_still
        assumption
    · assumption
  · assumption

theorem State.sendTests_still {s0 s : State} (h : Still s0 s) : Still s0 (State.sendTests s) := by
  unfold State.sendTests
  refine Still.foldl ?_ ?_
  · intro s1 x1 h1
    apply State.sendTest_still
    assumption
  · assumption

theorem State.performSend_still {s0 s : State} (l : Fin 64) (t : Task) (w : SendWait) (h : Still s0 s) : Still s0 (State.performSend s l t w) := by
  unfold State.performSend
  split
  · apply State.engineFault_still
    assumption
  · apply State.modCore_still
    assumption

theorem State.send_still {s0 s : State} (l : Fin 64) (w : SendWait) (h : Still s0 s) : Still s0 (State.send s l w) := by
  unfold State.send
  split
  · assumption
  · split
    · apply State.laneWaits_still
      assumption
    · apply State.performSend_still
      assumption

theorem State.performMark_still {s0 s : State} (l : Fin 64) (t : Task) (value : Nat) (trigger : Bool) (h : Still s0 s) : Still s0 (State.performMark s l t value trigger) := by
  unfold State.performMark
  with_reducible refine Still.upd ?_ rfl
  assumption

theorem State.lanePerform_still {s0 s : State} (l : Fin 64) (c : LaneCmd) (h : Still s0 s) : Still s0 (State.lanePerform s l c) := by
  unfold State.lanePerform
  split
  · assumption
  · split
    · apply State.laneWaits_still
      assumption
    · split
      · apply State.performCounter_still
        assumption
      · apply State.performReceiver_still
        assumption
      · apply State.performSend_still
        assumption
      · apply State.performMark_still
        assumption

theorem State.laneAc_still {s0 s : State} (l : Fin 64) (h : Still s0 s) : Still s0 (State.laneAc s l) := by
  unfold State.laneAc
  dsimp only
  split
  · assumption
  · refine Still.foldl ?_ ?_
    · intro s1 x1 h1
      apply State.lanePerform_still
      assumption
    · apply State.setCore_still
      assumption

theorem execSend_still {s s9 : State} {lcid : Fin 64} {ring : BitVec 10} {units : Nat} {tag : BitVec 8} {check : Bool} {epoch : BitVec 16} {payload : Bytes} (eq : execSend lcid ring units tag check epoch payload s = .next s9) : Still s s9 := by
  cases eq
  have h := Still.refl s
  apply State.send_still
  assumption

theorem State.sendAccept_still {s0 s : State} (l : Fin 64) (h : Still s0 s) : Still s0 (State.sendAccept s l) := by
  unfold State.sendAccept
  split
  · split
    · assumption
    · apply State.modCore_still
      assumption
  · assumption

theorem execSendAccept_still {s s9 : State} {lcid : Fin 64} (eq : execSendAccept lcid s = .next s9) : Still s s9 := by
  cases eq
  have h := Still.refl s
  apply State.sendAccept_still
  assumption

theorem State.writesAc_still {s0 s : State} (h : Still s0 s) : Still s0 (State.writesAc s) := by
  unfold State.writesAc
  split
  · assumption
  · with_reducible refine Still.upd ?_ rfl
    assumption

theorem State.messageWritten_still {s0 s : State} (k : Fin 8) (h : Still s0 s) : Still s0 (State.messageWritten s k) := by
  unfold State.messageWritten
  split
  · assumption
  · dsimp only
    split
    · with_reducible refine Still.upd ?_ rfl
      assumption
    · split
      · apply State.modCtx_still
        with_reducible refine Still.upd ?_ rfl
        assumption
      · with_reducible refine Still.upd ?_ rfl
        assumption

theorem execMessageWritten_still {s s9 : State} {cluster : Fin 8} (eq : execMessageWritten cluster s = .next s9) : Still s s9 := by
  cases eq
  have h := Still.refl s
  apply State.messageWritten_still
  assumption

end Sys2Proof.Machine
end

