-- ==== Sys2Proof/Laws/StillConfluence.lean ====
section
/-! SUPPORT. The operations of Machine/Confluence.lean that leave the position in time alone (`Still`). -/

namespace Sys2Proof.Machine

theorem State.rangeFault_still {s0 s : State} (k : Fin 16) (cluster : Nat) (i : Nat) (h : Still s0 s) : Still s0 (State.rangeFault s k cluster i) := by
  unfold State.rangeFault
  dsimp only
  apply State.faultCode_still
  apply State.modCtx_still
  assumption

theorem State.addInt_still {s0 s : State} (k : Fin 16) (cluster : Nat) (i : Nat) (p : Int) (h : Still s0 s) : Still s0 (State.addInt s k cluster i p) := by
  unfold State.addInt
  dsimp only
  split
  · assumption
  · split
    · apply State.modCtx_still
      assumption
    · apply State.rangeFault_still
      assumption

theorem State.writeBack_still {s0 s : State} (cluster : Nat) (x : AcSum) (h : Still s0 s) : Still s0 (State.writeBack s cluster x) := by
  unfold State.writeBack
  split
  · apply State.rangeFault_still
    assumption
  · split
    · apply State.modCtx_still
      assumption
    · apply State.addInt_still
      assumption

theorem State.addEntries_still {s0 s : State} (cluster : Nat) (es : List IntakeEntry) (h : Still s0 s) : Still s0 (State.addEntries s cluster es) := by
  unfold State.addEntries
  dsimp only
  refine Still.foldl ?_ ?_
  · intro s1 x1 h1
    apply State.writeBack_still
    assumption
  · refine Still.foldl ?_ ?_
    · intro s1 x1 h1
      apply State.modCtx_still
      assumption
    · refine Still.foldl ?_ ?_
      · intro s1 x1 h1
        split
        · apply State.modCtx_still
          assumption
        · assumption
      · assumption

theorem State.remoteEntry_still {s0 s : State} (k : Fin 16) (h1 : MsgHdr) (cluster : Nat) (index : Nat) (item : CflItem) (lcid : optParam Nat 0) (seq : optParam (Option Nat) Option.none) (h : Still s0 s) : Still s0 (State.remoteEntry s k h1 cluster index item lcid seq) := by
  unfold State.remoteEntry
  dsimp only
  split
  · apply State.modCtx_still
    assumption
  · split
    · split
      · split
        · apply State.faultCode_still
          assumption
        · with_reducible refine Still.upd ?_ rfl
          apply State.setUnit_still
          assumption
      · split
        · apply State.faultCode_still
          assumption
        · with_reducible refine Still.upd ?_ rfl
          apply State.setUnit_still
          assumption
    · split
      · split
        · apply State.faultCode_still
          assumption
        · with_reducible refine Still.upd ?_ rfl
          apply State.setUnit_still
          assumption
      · split
        · apply State.faultCode_still
          assumption
        · with_reducible refine Still.upd ?_ rfl
          apply State.setUnit_still
          assumption

theorem State.sendRemote_still {s0 s : State} (k : Fin 16) (dest : Nat) (epoch : Nat) (cluster : Nat) (es : List (Nat × CflItem)) (h : Still s0 s) : Still s0 (State.sendRemote s k dest epoch cluster es) := by
  unfold State.sendRemote
  dsimp only
  split
  · refine Still.foldl ?_ ?_
    · intro s1 x1 h1
      apply State.remoteEntry_still
      assumption
    · assumption
  · apply State.sendMsg_still
    assumption

theorem State.forward_still {s0 s : State} (g : List IntakeEntry) (h : Still s0 s) : Still s0 (State.forward s g) := by
  unfold State.forward
  split
  · assumption
  · split
    · refine Still.foldl ?_ ?_
      · intro s1 x1 h1
        apply State.remoteEntry_still
        assumption
      · assumption
    · apply State.sendRemote_still
      assumption

theorem State.takeEntries_still {s0 s : State} (cluster : Nat) (fromLocal : List IntakeEntry) (fromRemote : List IntakeEntry) (h : Still s0 s) : Still s0 (State.takeEntries s cluster fromLocal fromRemote) := by
  unfold State.takeEntries
  dsimp only
  apply State.addEntries_still
  refine Still.foldl ?_ ?_
  · intro s1 x1 h1
    apply State.forward_still
    assumption
  · assumption

theorem State.acceptCore_still {s0 s : State} (k : Fin 8) (l : Fin 64) (h : Still s0 s) : Still s0 (State.acceptCore s k l) := by
  unfold State.acceptCore
  dsimp only
  split
  · split
    · assumption
    · apply State.setCore_still
      apply State.setUnit_still
      assumption
  · assumption

theorem State.discardOffers_still {s0 s : State} (l : Fin 64) (h : Still s0 s) : Still s0 (State.discardOffers s l) := by
  unfold State.discardOffers
  dsimp only
  split
  · split
    · assumption
    · apply State.modCtx_still
      apply State.setCore_still
      assumption
  · assumption

theorem State.offerPairs_still {s0 s : State} (l : Fin 64) (pairs : List (BitVec 128)) (h : Still s0 s) : Still s0 (State.offerPairs s l pairs) := by
  unfold State.offerPairs
  split
  · assumption
  · dsimp only
    split
    · apply State.modCore_still
      assumption
    · apply State.engineFault_still
      apply State.modCore_still
      assumption

theorem execPairRecord_still {s s9 : State} {lcid : Fin 64} {pairs : List (BitVec 128)} (eq : execPairRecord lcid pairs s = .next s9) : Still s s9 := by
  cases eq
  have h := Still.refl s
  apply State.offerPairs_still
  assumption

theorem State.cflCommand_still {s0 s : State} (l : Fin 64) (code : Nat) (first : Nat) (count : Nat) (op : CflOp) (h : Still s0 s) : Still s0 (State.cflCommand s l code first count op) := by
  unfold State.cflCommand
  split
  · assumption
  · split
    · apply State.engineFault_still
      assumption
    · dsimp only
      apply State.setUnit_still
      assumption

theorem execCflDrain_still {s s9 : State} {lcid : Fin 64} {first : Nat} {count : Nat} {format : Nat} {dest : Nat} {clear : Bool} (eq : execCflDrain lcid first count format dest clear s = .next s9) : Still s s9 := by
  cases eq
  have h := Still.refl s
  apply State.cflCommand_still
  assumption

theorem execCflExport_still {s s9 : State} {lcid : Fin 64} {first : Nat} {count : Nat} {dest : BitVec 32} {cluster : Nat} {destFirst : Nat} {clear : Bool} (eq : execCflExport lcid first count dest cluster destFirst clear s = .next s9) : Still s s9 := by
  cases eq
  have h := Still.refl s
  apply State.cflCommand_still
  assumption

theorem execCflClear_still {s s9 : State} {lcid : Fin 64} {first : Nat} {count : Nat} (eq : execCflClear lcid first count s = .next s9) : Still s s9 := by
  cases eq
  have h := Still.refl s
  apply State.cflCommand_still
  assumption

theorem State.exportElements_still {s0 s : State} (k : Fin 16) (dest : Nat) (epoch : Nat) (cluster : Nat) (fast : Bool) (first : Nat) (words : List (BitVec 256)) (h : Still s0 s) : Still s0 (State.exportElements s k dest epoch cluster fast first words) := by
  unfold State.exportElements
  dsimp only
  refine Still.foldl ?_ ?_
  · intro s1 x1 h1
    apply State.sendRemote_still
    assumption
  · assumption

theorem State.cflPart_still {s0 s : State} (cluster : Nat) (m : CflCmd) (h : Still s0 s) : Still s0 (State.cflPart s cluster m) := by
  unfold State.cflPart
  dsimp only
  split
  · apply State.modCtx_still
    assumption
  · with_reducible refine Still.upd ?_ rfl
    split
    · apply State.modCtx_still
      apply State.modCtx_still
      assumption
    · apply State.modCtx_still
      assumption
  · apply State.exportElements_still
    split
    · apply State.modCtx_still
      assumption
    · assumption

theorem State.cflRun_still {s0 s : State} (k : Fin 8) (h : Still s0 s) : Still s0 (State.cflRun s k) := by
  unfold State.cflRun
  dsimp only
  split
  · assumption
  · split
    · apply State.giveResult_still
      apply State.setUnit_still
      apply State.cflPart_still
      assumption
    · apply State.setUnit_still
      apply State.cflPart_still
      assumption

theorem State.cflStart_still {s0 s : State} (k : Fin 8) (h : Still s0 s) : Still s0 (State.cflStart s k) := by
  unfold State.cflStart
  dsimp only
  split
  · assumption
  · split
    · apply State.modCtx_still
      apply State.setUnit_still
      assumption
    · assumption

theorem State.scrubStart_still {s0 s : State} (k : Fin 8) (h : Still s0 s) : Still s0 (State.scrubStart s k) := by
  unfold State.scrubStart
  dsimp only
  split
  · assumption
  · split
    · apply State.modCtx_still
      apply State.setUnit_still
      assumption
    · assumption

theorem State.cflIssue_still {s0 s : State} (k : Fin 8) (h : Still s0 s) : Still s0 (State.cflIssue s k) := by
  unfold State.cflIssue
  dsimp only
  split
  · assumption
  · apply State.setUnit_still
    assumption

theorem State.cflWork_still {s0 s : State} (k : Fin 8) (h : Still s0 s) : Still s0 (State.cflWork s k) := by
  unfold State.cflWork
  dsimp only
  split
  · assumption
  · apply State.setUnit_still
    split
    · apply State.takeEntries_still
      apply State.setUnit_still
      assumption
    · refine Still.foldl ?_ ?_
      · intro s1 x1 h1
        apply State.acceptCore_still
        assumption
      · apply State.takeEntries_still
        apply State.setUnit_still
        assumption

theorem State.cflAc_still {s0 s : State} (k : Fin 8) (h : Still s0 s) : Still s0 (State.cflAc s k) := by
  unfold State.cflAc
  split
  · assumption
  · dsimp only
    apply State.cflIssue_still
    apply State.cflWork_still
    apply State.cflRun_still
    apply State.cflStart_still
    apply State.scrubStart_still
    refine Still.foldl ?_ ?_
    · intro s1 x1 h1
      apply State.discardOffers_still
      assumption
    · assumption

end Sys2Proof.Machine
end

