-- ==== Sys2Proof/Laws/StillClock.lean ====
section
/-! SUPPORT. The operations of Machine/Clock.lean that leave the position in time alone (`Still`). -/

namespace Sys2Proof.Machine

theorem State.countWeirs_still {s0 s : State} (n : Nat) (h : Still s0 s) : Still s0 (State.countWeirs s n) := by
  unfold State.countWeirs
  split
  · with_reducible refine Still.upd ?_ rfl
    assumption
  · assumption

theorem State.countCfl_still {s0 s : State} (k : Fin 8) (n : Nat) (h : Still s0 s) : Still s0 (State.countCfl s k n) := by
  unfold State.countCfl
  split
  · with_reducible refine Still.upd ?_ rfl
    assumption
  · assumption

theorem State.cflAcCounted_still {s0 s : State} (k : Fin 8) (h : Still s0 s) : Still s0 (State.cflAcCounted s k) := by
  unfold State.cflAcCounted
  dsimp only
  apply State.countCfl_still
  apply State.cflAc_still
  assumption

theorem State.traceAc_still {s0 s : State} (k : Fin 16) (h : Still s0 s) : Still s0 (State.traceAc s k) := by
  unfold State.traceAc
  dsimp only
  split
  · assumption
  · apply State.setCtx_still
    with_reducible refine Still.upd ?_ rfl
    assumption

theorem State.markEffect_still {s0 s : State} (o : CntOp) (h : Still s0 s) : Still s0 (State.markEffect s o) := by
  unfold State.markEffect
  split
  · dsimp only
    split
    · split
      · apply State.trigger_still
        apply State.setCtx_still
        assumption
      · apply State.setCtx_still
        assumption
    · assumption
  · assumption

theorem State.markEffects_still {s0 s : State} (h : Still s0 s) : Still s0 (State.markEffects s) := by
  unfold State.markEffects
  dsimp only
  split
  · assumption
  · refine Still.foldl ?_ ?_
    · intro s1 x1 h1
      apply State.markEffect_still
      assumption
    · with_reducible refine Still.upd ?_ rfl
      assumption

theorem State.work_still {s0 s : State} (h : Still s0 s) : Still s0 (State.work s) := by
  unfold State.work
  dsimp only
  refine Still.foldl ?_ ?_
  · intro s1 x1 h1
    apply State.cflAcCounted_still
    assumption
  · refine Still.foldl ?_ ?_
    · intro s1 x1 h1
      apply State.traceAc_still
      assumption
    · refine Still.foldl ?_ ?_
      · intro s1 x1 h1
        apply State.resolveCounters_still
        assumption
      · apply State.inletAc_still
        apply State.markEffects_still
        apply State.sendRipples_still
        apply State.writesAc_still
        apply State.chanEffects_still
        refine Still.foldl ?_ ?_
        · intro s1 x1 h1
          apply State.sendWaiting_still
          assumption
        · apply State.acceptHeld_still
          refine Still.foldl ?_ ?_
          · intro s1 x1 h1
            apply State.laneAc_still
            assumption
          · apply State.sendTests_still
            assumption

theorem State.gap_still {s0 s : State} (first : Nat) (last : Nat) (elapsed : Nat) (h : Still s0 s) : Still s0 (State.gap s first last elapsed) := by
  unfold State.gap
  dsimp only
  split
  · apply State.log_still
    refine Still.foldl ?_ ?_
    · intro s1 x1 h1
      apply State.modCtx_still
      assumption
    · assumption
  · refine Still.foldl ?_ ?_
    · intro s1 x1 h1
      apply State.modCtx_still
      assumption
    · assumption

end Sys2Proof.Machine
end

