-- ==== Sys2Proof/Laws/StillSequencer.lean ====
section
/-! SUPPORT. The operations of Machine/Sequencer.lean that leave the position in time alone (`Still`). -/

namespace Sys2Proof.Machine

theorem State.taskFault_still {s0 s : State} (t : Task) (core : Nat) (code : Nat) (d1 : Nat) (d2 : Nat) (status : EndStatus) (h : Still s0 s) : Still s0 (State.taskFault s t core code d1 d2 status) := by
  unfold State.taskFault
  apply State.fault_still
  assumption

theorem State.descriptorFault_still {s0 s : State} (t : Task) (h : Still s0 s) : Still s0 (State.descriptorFault s t) := by
  unfold State.descriptorFault
  apply State.taskFault_still
  assumption

theorem State.completeNode_still {s0 s : State} (k : Fin 16) (step : Nat) (n : Nat) (h : Still s0 s) : Still s0 (State.completeNode s k step n) := by
  unfold State.completeNode
  apply State.modCtx_still
  assumption

theorem State.resolveNode.finish_still {s0 s : State} (k : Fin 16) (step : Nat) (n : Nat) (r : StepRun) (count : Nat) (h : Still s0 s) : Still s0 (State.resolveNode.finish k step n s r count) := by
  unfold State.resolveNode.finish
  dsimp only
  split
  · apply State.completeNode_still
    apply State.modCtx_still
    assumption
  · apply State.modCtx_still
    assumption

theorem State.resolveNode_still {s0 s : State} (k : Fin 16) (step : Nat) (n : Nat) (h : Still s0 s) : Still s0 (State.resolveNode s k step n) := by
  unfold State.resolveNode
  dsimp only
  split
  · assumption
  · split
    · apply State.taskFault_still
      assumption
    · split
      · split
        · apply State.taskFault_still
          assumption
        · apply State.resolveNode.finish_still
          assumption
      · apply State.resolveNode.finish_still
        assumption

theorem State.admitClaim_still {s0 s : State} (k : Fin 16) (x : Claim) (h : Still s0 s) : Still s0 (State.admitClaim s k x) := by
  cases x with
  | node step n => exact State.resolveNode_still k step n h
  | aux i =>
    unfold State.admitClaim
    exact State.modCtx_still _ _ h

theorem State.resolve_still {s0 s : State} (k : Fin 16) (h : Still s0 s) : Still s0 (State.resolve s k) := by
  unfold State.resolve
  split
  · assumption
  · dsimp only
    apply State.peak_still
    apply State.modCtx_still
    split
    · assumption
    · refine Still.foldl ?_ ?_
      · intro s1 x1 h1
        split
        · apply State.admitClaim_still
          assumption
        · assumption
      · assumption

theorem State.place_still {s0 s : State} (t : Task) (n : Nat) (h : Still s0 s) : Still s0 (State.place s t n) := by
  unfold State.place
  dsimp only
  with_reducible refine Still.upd ?_ rfl
  apply State.modCtx_still
  split
  · split
    · apply State.setFrame_still
      assumption
    · assumption
  · apply State.modCore_still
    assumption

theorem Sweep.placed_still {s0 : State} {acc : Sweep} (t : Task) (n : Nat) (h : Still s0 acc.s) : Still s0 (Sweep.placed acc t n).s := by
  unfold Sweep.placed
  split
  · dsimp only
    apply State.place_still
    assumption
  · dsimp only
    apply State.place_still
    assumption

theorem Sweep.indices_still {s0 : State} {w : Sweep} (k : Fin 16) (step n : Nat) (l : List Nat) (h : Still s0 w.s) :
    Still s0 (Sweep.indices k step n w l).s := by
  induction l generalizing w with
  | nil => exact h
  | cons i is ih =>
    unfold Sweep.indices
    dsimp only
    split
    · assumption
    · split
      · dsimp only
        apply State.descriptorFault_still
        assumption
      · split
        · assumption
        · split
          · refine ih ?_
            assumption
          · split
            · assumption
            · refine ih ?_
              dsimp only
              apply State.modCtx_still
              apply Sweep.placed_still
              assumption

theorem Sweep.entry_still {s0 : State} {acc : Sweep} (k : Fin 16) (x : Claim) (h : Still s0 acc.s) : Still s0 (Sweep.entry k acc x).s := by
  unfold Sweep.entry
  split
  · dsimp only
    split
    · assumption
    · split
      · assumption
      · apply Sweep.indices_still
        split
        · dsimp only
          apply State.modCtx_still
          assumption
        · assumption
  · dsimp only
    split
    · assumption
    · split
      · assumption
      · dsimp only
        apply State.modCtx_still
        apply Sweep.placed_still
        assumption

theorem State.moveEntry_still {s0 s : State} (k : Fin 16) (idle : Nat) (l : Nat) (e : PondEntry) (h : Still s0 s) : Still s0 (State.moveEntry s k idle l e) := by
  unfold State.moveEntry
  dsimp only
  with_reducible refine Still.upd ?_ rfl
  apply State.modCtx_still
  apply State.modCore_still
  apply State.modCore_still
  assumption

theorem State.balance_still {s0 s : State} (k : Fin 16) (taken : List Nat) (h : Still s0 s) : Still s0 (State.balance s k taken) := by
  unfold State.balance
  dsimp only
  split
  · assumption
  · refine Still.foldl_fst ?_ ?_
    · intro a1 x1 h1
      split
      · dsimp only
        apply State.moveEntry_still
        assumption
      · assumption
    · assumption

theorem Sweep.fold_still {s0 : State} (k : Fin 16) (xs : List (Nat × Claim)) {w : Sweep} (h : Still s0 w.s) :
    Still s0 (xs.foldl (fun w x => if w.s.works k then Sweep.entry k w x.2 else w) w).s := by
  refine Still.foldl_of Sweep.s ?_ h
  intro a x g
  split
  · exact Sweep.entry_still k x.2 g
  · exact g

theorem State.sweep_still {s0 s : State} (k : Fin 16) (h : Still s0 s) : Still s0 (State.sweep s k) := by
  unfold State.sweep
  split
  · exact h
  · dsimp only
    split
    · exact State.balance_still _ _ (State.modCtx_still _ _ (Sweep.fold_still k _ h))
    · exact State.modCtx_still _ _ (Sweep.fold_still k _ h)

theorem State.crcResult_still {s0 s : State} (l : Fin 64) (second : Bool) (ok : Bool) (crc : BitVec 32) (h : Still s0 s) : Still s0 (State.crcResult s l second ok crc) := by
  unfold State.crcResult
  dsimp only
  split
  · split
    · assumption
    · split
      · apply State.setCore_still
        assumption
      · apply State.taskFault_still
        apply State.setCore_still
        assumption
  · split
    · assumption
    · split
      · apply State.setCore_still
        assumption
      · apply State.taskFault_still
        apply State.setCore_still
        assumption

theorem execPondCrcResult_still {s s9 : State} {lcid : Fin 64} {entry : Bool} {ok : Bool} {crc : BitVec 32} (eq : execPondCrcResult lcid entry ok crc s = .next s9) : Still s s9 := by
  cases eq
  have h := Still.refl s
  apply State.crcResult_still
  assumption

theorem State.taskReport_still {s0 s : State} (l : Fin 64) (r : EndReport) (h : Still s0 s) : Still s0 (State.taskReport s l r) := by
  unfold State.taskReport
  dsimp only
  apply State.modCore_still
  assumption

theorem execTaskEnd_still {s s9 : State} {lcid : Fin 64} {r : EndReport} (eq : execTaskEnd lcid r s = .next s9) : Still s s9 := by
  cases eq
  have h := Still.refl s
  apply State.taskReport_still
  assumption

theorem State.windowClose_still {s0 s : State} (l : Fin 64) (h : Still s0 s) : Still s0 (State.windowClose s l) := by
  unfold State.windowClose
  split
  · assumption
  · split
    · assumption
    · dsimp only
      apply State.modCore_still
      with_reducible refine Still.upd ?_ rfl
      apply State.sendTests_still
      assumption

theorem execWindowClose_still {s s9 : State} {lcid : Fin 64} (eq : execWindowClose lcid s = .next s9) : Still s s9 := by
  cases eq
  have h := Still.refl s
  apply State.windowClose_still
  assumption

theorem State.flushCore_still {s0 s : State} (l : Fin 64) (p : Task → Bool) (back : Bool) (h : Still s0 s) : Still s0 (State.flushCore s l p back) := by
  unfold State.flushCore
  dsimp only
  apply State.modCore_still
  split
  · split
    · apply State.modCtx_still
      split
      · apply State.modCtx_still
        assumption
      · assumption
    · apply State.modCtx_still
      split
      · apply State.modCtx_still
        assumption
      · assumption
  · split
    · split
      · apply State.modCtx_still
        assumption
      · apply State.modCtx_still
        assumption
    · assumption

theorem State.park_still {s0 s : State} (k : Fin 16) (h : Still s0 s) : Still s0 (State.park s k) := by
  unfold State.park
  dsimp only
  apply State.modCtx_still
  with_reducible refine Still.upd ?_ rfl
  assumption

theorem State.reload_still {s0 s : State} (k : Fin 16) (h : Still s0 s) : Still s0 (State.reload s k) := by
  unfold State.reload
  dsimp only
  apply State.modCtx_still
  refine Still.foldl ?_ ?_
  · intro s1 x1 h1
    apply State.modCore_still
    assumption
  · assumption

theorem State.flush_still {s0 s : State} (k : Fin 16) (p : Task → Bool) (back : Bool) (h : Still s0 s) : Still s0 (State.flush s k p back) := by
  unfold State.flush
  refine Still.foldl ?_ ?_
  · intro s1 x1 h1
    apply State.flushCore_still
    assumption
  · apply State.reload_still
    assumption

theorem State.assertStart_still {s0 s : State} (l : Fin 64) (order : Nat) (h : Still s0 s) : Still s0 (State.assertStart s l order) := by
  unfold State.assertStart
  apply State.modCore_still
  assumption

theorem State.decideStarts_still {s0 s : State} (ilimit : Bool) (k : Fin 16) (h : Still s0 s) : Still s0 (State.decideStarts s ilimit k) := by
  unfold State.decideStarts
  split
  · assumption
  · dsimp only
    split
    · split
      · split
        · with_reducible refine Still.upd ?_ rfl
          apply State.modCtx_still
          refine Still.foldl ?_ ?_
          · intro s1 x1 h1
            apply State.assertStart_still
            assumption
          · assumption
        · apply State.modCtx_still
          refine Still.foldl ?_ ?_
          · intro s1 x1 h1
            apply State.assertStart_still
            assumption
          · assumption
      · split
        · with_reducible refine Still.upd ?_ rfl
          apply State.modCtx_still
          refine Still.foldl ?_ ?_
          · intro s1 x1 h1
            apply State.assertStart_still
            assumption
          · assumption
        · apply State.modCtx_still
          refine Still.foldl ?_ ?_
          · intro s1 x1 h1
            apply State.assertStart_still
            assumption
          · assumption
    · split
      · split
        · with_reducible refine Still.upd ?_ rfl
          apply State.modCtx_still
          refine Still.foldl ?_ ?_
          · intro s1 x1 h1
            apply State.assertStart_still
            assumption
          · assumption
        · apply State.modCtx_still
          refine Still.foldl ?_ ?_
          · intro s1 x1 h1
            apply State.assertStart_still
            assumption
          · assumption
      · split
        · with_reducible refine Still.upd ?_ rfl
          apply State.modCtx_still
          refine Still.foldl ?_ ?_
          · intro s1 x1 h1
            apply State.assertStart_still
            assumption
          · assumption
        · apply State.modCtx_still
          refine Still.foldl ?_ ?_
          · intro s1 x1 h1
            apply State.assertStart_still
            assumption
          · assumption

theorem State.startEntry_still {s0 s : State} (l : Fin 64) (h : Still s0 s) : Still s0 (State.startEntry s l) := by
  unfold State.startEntry
  dsimp only
  split
  · assumption
  · apply State.modCtx_still
    apply State.setCore_still
    assumption

theorem State.startAll_still {s0 s : State} (h : Still s0 s) : Still s0 (State.startAll s) := by
  unfold State.startAll
  refine Still.foldl ?_ ?_
  · intro s1 x1 h1
    dsimp only
    split
    · assumption
    · apply State.startEntry_still
      assumption
  · assumption

end Sys2Proof.Machine
end

