-- ==== Sys2Proof/Laws/StillThreads.lean ====
section
/-! SUPPORT. The operations of Machine/Threads.lean that leave the position in time alone (`Still`). -/

namespace Sys2Proof.Machine

theorem State.haltContext_still {s0 s : State} (k : Fin 16) (cause : Nat) (bp : Nat) (ctid : Nat) (ids : optParam (Nat × Nat) (65535, 65535)) (h : Still s0 s) : Still s0 (State.haltContext s k cause bp ctid ids) := by
  unfold State.haltContext
  split
  · assumption
  · dsimp only
    split
    · split
      · split
        · apply State.sendCtrl_still
          apply State.trigger_still
          apply State.park_still
          apply State.haltCores_still
          apply State.modCtx_still
          assumption
        · apply State.trigger_still
          apply State.park_still
          apply State.haltCores_still
          apply State.modCtx_still
          assumption
      · split
        · apply State.sendCtrl_still
          apply State.trigger_still
          apply State.raise_still
          apply State.park_still
          apply State.haltCores_still
          apply State.modCtx_still
          assumption
        · apply State.trigger_still
          apply State.raise_still
          apply State.park_still
          apply State.haltCores_still
          apply State.modCtx_still
          assumption
    · split
      · split
        · apply State.sendCtrl_still
          apply State.park_still
          apply State.haltCores_still
          apply State.modCtx_still
          assumption
        · apply State.park_still
          apply State.haltCores_still
          apply State.modCtx_still
          assumption
      · split
        · apply State.sendCtrl_still
          apply State.raise_still
          apply State.park_still
          apply State.haltCores_still
          apply State.modCtx_still
          assumption
        · apply State.raise_still
          apply State.park_still
          apply State.haltCores_still
          apply State.modCtx_still
          assumption

theorem State.threadCommand_still {s0 s : State} (c : Fin 8) (m : ThreadCmd) (h : Still s0 s) : Still s0 (State.threadCommand s c m) := by
  unfold State.threadCommand
  split
  · assumption
  · dsimp only
    split
    · apply State.modCtx_still
      apply State.setFrame_still
      assumption
    · assumption

theorem execSetFlags_still {s s9 : State} {ctid : Fin 8} {nextStep : Bool} {node : Nat} {flags : BitVec 32} (eq : execSetFlags ctid nextStep node flags s = .next s9) : Still s s9 := by
  cases eq
  have h := Still.refl s
  apply State.threadCommand_still
  assumption

theorem execWaitFlags_still {s s9 : State} {ctid : Fin 8} {mask : BitVec 24} {any : Bool} (eq : execWaitFlags ctid mask any s = .next s9) : Still s s9 := by
  cases eq
  have h := Still.refl s
  apply State.threadCommand_still
  assumption

theorem execWaitCounter_still {s s9 : State} {ctid : Fin 8} {vid : BitVec 20} {target : BitVec 48} (eq : execWaitCounter ctid vid target s = .next s9) : Still s s9 := by
  cases eq
  have h := Still.refl s
  apply State.threadCommand_still
  assumption

theorem execYield_still {s s9 : State} {ctid : Fin 8} (eq : execYield ctid s = .next s9) : Still s s9 := by
  cases eq
  have h := Still.refl s
  apply State.threadCommand_still
  assumption

theorem execEndThread_still {s s9 : State} {ctid : Fin 8} {status : BitVec 8} (eq : execEndThread ctid status s = .next s9) : Still s s9 := by
  cases eq
  have h := Still.refl s
  apply State.threadCommand_still
  assumption

theorem execBreakThread_still {s s9 : State} {ctid : Fin 8} {id : BitVec 8} (eq : execBreakThread ctid id s = .next s9) : Still s s9 := by
  cases eq
  have h := Still.refl s
  apply State.threadCommand_still
  assumption

theorem execReservedThreadCommand_still {s s9 : State} {ctid : Fin 8} {code : BitVec 4} (eq : execReservedThreadCommand ctid code s = .next s9) : Still s s9 := by
  cases eq
  have h := Still.refl s
  apply State.threadCommand_still
  assumption

theorem State.instanceEnded_still {s0 s : State} (k : Fin 16) (t : Task) (h : Still s0 s) : Still s0 (State.instanceEnded s k t) := by
  unfold State.instanceEnded
  dsimp only
  split
  · assumption
  · split
    · assumption
    · split
      · apply State.completeNode_still
        apply State.modCtx_still
        assumption
      · apply State.modCtx_still
        assumption

theorem State.freeThread_still {s0 s : State} (c : Fin 8) (f : Fin 8) (t : Task) (h : Still s0 s) : Still s0 (State.freeThread s c f t) := by
  unfold State.freeThread
  apply State.modCtx_still
  apply State.setFrame_still
  assumption

theorem State.threadFault_still {s0 s : State} (c : Fin 8) (f : Fin 8) (code : Nat) (status : Nat) (h : Still s0 s) : Still s0 (State.threadFault s c f code status) := by
  unfold State.threadFault
  dsimp only
  apply State.taskFault_still
  apply State.modCtx_still
  apply State.freeThread_still
  assumption

theorem State.threadEffect_still {s0 s : State} (c : Fin 8) (f : Fin 8) (m : ThreadCmd) (h : Still s0 s) : Still s0 (State.threadEffect s c f m) := by
  unfold State.threadEffect
  dsimp only
  split
  · assumption
  · split
    · split
      · apply State.threadFault_still
        assumption
      · apply State.modCtx_still
        assumption
    · apply State.setFrame_still
      assumption
    · split
      · apply State.threadFault_still
        assumption
      · apply State.setFrame_still
        assumption
    · apply State.setFrame_still
      assumption
    · split
      · apply State.instanceEnded_still
        apply State.modCtx_still
        apply State.freeThread_still
        assumption
      · apply State.threadFault_still
        assumption
    · apply State.haltContext_still
      assumption
    · apply State.threadFault_still
      assumption

theorem State.frameEffects_still {s0 s : State} (c : Fin 8) (f : Fin 8) (h : Still s0 s) : Still s0 (State.frameEffects s c f) := by
  unfold State.frameEffects
  dsimp only
  split
  · assumption
  · apply State.setFrame_still
    refine Still.foldl ?_ ?_
    · intro s1 x1 h1
      apply State.threadEffect_still
      assumption
    · assumption

theorem State.threadCommands_still {s0 s : State} (h : Still s0 s) : Still s0 (State.threadCommands s) := by
  unfold State.threadCommands
  refine Still.foldl ?_ ?_
  · intro s1 x1 h1
    apply State.frameEffects_still
    assumption
  · assumption

theorem State.framesLoaded_still {s0 s : State} (h : Still s0 s) : Still s0 (State.framesLoaded s) := by
  unfold State.framesLoaded
  refine Still.foldl ?_ ?_
  · intro s1 x1 h1
    dsimp only
    split
    · apply State.setFrame_still
      assumption
    · assumption
  · assumption

theorem State.releaseThreads_still {s0 s : State} (k : Fin 16) (h : Still s0 s) : Still s0 (State.releaseThreads s k) := by
  unfold State.releaseThreads
  refine Still.foldl ?_ ?_
  · intro s1 x1 h1
    dsimp only
    split
    · apply State.setFrame_still
      assumption
    · assumption
  · assumption

theorem State.switchIn_still {s0 s : State} (c : Fin 8) (f : Fin 8) (h : Still s0 s) : Still s0 (State.switchIn s c f) := by
  unfold State.switchIn
  dsimp only
  split
  · apply State.setFrame_still
    assumption
  · apply State.modCtx_still
    apply State.setFrame_still
    assumption

theorem State.threadSwitch_still {s0 s : State} (c : Fin 8) (h : Still s0 s) : Still s0 (State.threadSwitch s c) := by
  unfold State.threadSwitch
  dsimp only
  split
  · apply State.switchIn_still
    split
    · split
      · apply State.setFrame_still
        assumption
      · assumption
    · assumption
  · split
    · split
      · apply State.setFrame_still
        assumption
      · assumption
    · assumption

theorem State.threadSlot_still {s0 s : State} (h : Still s0 s) : Still s0 (State.threadSlot s) := by
  unfold State.threadSlot
  refine Still.foldl ?_ ?_
  · intro s1 x1 h1
    dsimp only
    split
    · apply State.setFrame_still
      assumption
    · assumption
  · assumption

end Sys2Proof.Machine
end

