-- ==== Sys2Proof/Laws/StillDrain.lean ====
section
/-! SUPPORT. The operations of Machine/Drain.lean that leave the position in time alone (`Still`). -/

namespace Sys2Proof.Machine

theorem State.endChunk_still {s0 s : State} (k : Fin 16) (h : Still s0 s) : Still s0 (State.endChunk s k) := by
  unfold State.endChunk
  dsimp only
  split
  · split
    · split
      · apply State.raise_still
        apply State.modCtx_still
        apply State.modCtx_still
        with_reducible refine Still.upd ?_ rfl
        assumption
      · apply State.modCtx_still
        apply State.modCtx_still
        with_reducible refine Still.upd ?_ rfl
        assumption
    · apply State.modCtx_still
      with_reducible refine Still.upd ?_ rfl
      assumption
  · assumption

theorem State.chunkDrain_still {s0 s : State} (k : Fin 16) (h : Still s0 s) : Still s0 (State.chunkDrain s k) := by
  unfold State.chunkDrain
  dsimp only
  split
  · apply State.setCtx_still
    assumption
  · assumption

theorem execChunkDrain_still {s s9 : State} {slot : Fin 16} (eq : execChunkDrain slot s = .next s9) : Still s s9 := by
  cases eq
  have h := Still.refl s
  apply State.chunkDrain_still
  assumption

theorem State.chunkWritten_still {s0 s : State} (k : Fin 16) (h : Still s0 s) : Still s0 (State.chunkWritten s k) := by
  unfold State.chunkWritten
  split
  · split
    · apply State.endChunk_still
      assumption
    · assumption
  · assumption

theorem execChunkWritten_still {s s9 : State} {slot : Fin 16} (eq : execChunkWritten slot s = .next s9) : Still s s9 := by
  cases eq
  have h := Still.refl s
  apply State.chunkWritten_still
  assumption

theorem State.drainAll_still {s0 s : State} (k : Fin 16) (fuel : Nat) (h : Still s0 s) : Still s0 (State.drainAll s k fuel).1 := by
  induction fuel generalizing s with
  | zero => exact h
  | succ n ih =>
    unfold State.drainAll
    dsimp only
    split
    · exact ih (State.endChunk_still k h)
    · split
      · exact h
      · exact ih (State.setCtx_still k _ h)

theorem State.drainAll_still' {s0 s t : State} {k : Fin 16} {fuel n : Nat} (eq : State.drainAll s k fuel = (t, n)) (h : Still s0 s) :
    Still s0 t := by
  have := State.drainAll_still k fuel h
  rwa [eq] at this

theorem State.teardownFlush_still {s0 s : State} (k : Fin 16) (h : Still s0 s) : Still s0 (State.teardownFlush s k).1 := by
  unfold State.teardownFlush
  dsimp only
  apply State.drainAll_still
  apply State.modCtx_still
  assumption

theorem State.teardownFlush_still' {s0 s s9 : State} {k : Fin 16} {r9 : _} (eq : State.teardownFlush s k = (s9, r9)) (h : Still s0 s) : Still s0 s9 := by
  have := State.teardownFlush_still k h
  rwa [eq] at this

end Sys2Proof.Machine
end

