-- ==== Sys2Proof/Laws/StillEnds.lean ====
section
/-! SUPPORT. The operations of Machine/Ends.lean that leave the position in time alone (`Still`). -/

namespace Sys2Proof.Machine

theorem State.dumpRecord_still {s0 s : State} (k : Fin 16) (reason : Nat) (nameId : Nat) (step : Nat) (dest : Nat) (h : Still s0 s) : Still s0 (State.dumpRecord s k reason nameId step dest) := by
  unfold State.dumpRecord
  apply State.pushRec_still
  assumption

theorem State.dumpEnd_still {s0 s : State} (t : Task) (nameId : Nat) (dest : Nat) (h : Still s0 s) : Still s0 (State.dumpEnd s t nameId dest) := by
  unfold State.dumpEnd
  dsimp only
  split
  · assumption
  · split
    · assumption
    · apply State.dumpRecord_still
      apply State.modCtx_still
      with_reducible refine Still.upd ?_ rfl
      assumption

theorem State.normalEnd_still {s0 s : State} (t : Task) (h : Still s0 s) : Still s0 (State.normalEnd s t) := by
  unfold State.normalEnd
  dsimp only
  split
  · apply State.instanceEnded_still
    split
    · apply State.fetchEnd_still
      assumption
    · assumption
  · apply State.serveEnd_still
    assumption
  · split
    · apply State.modCtx_still
      assumption
    · assumption
  · apply State.moveEnd_still
    assumption
  · split
    · apply State.importEnd_still
      assumption
    · assumption
  · apply State.exportEnd_still
    assumption
  · apply State.dumpEnd_still
    assumption

theorem State.statusEnd_still {s0 s : State} (l : Fin 64) (t : Task) (r : EndReport) (h : Still s0 s) : Still s0 (State.statusEnd s l t r) := by
  unfold State.statusEnd
  split
  · apply State.normalEnd_still
    apply State.modCtx_still
    assumption
  · apply State.taskFault_still
    assumption
  · split
    · apply State.taskFault_still
      assumption
    · apply State.taskFault_still
      assumption
  · assumption

theorem State.packetEnd_still {s0 s : State} (l : Fin 64) (t : Task) (h : Still s0 s) : Still s0 (State.packetEnd s l t) := by
  unfold State.packetEnd
  split
  · assumption
  · dsimp only
    split
    · apply State.setOpen_still
      assumption
    · apply State.recordFault_still
      apply State.setOpen_still
      assumption

theorem State.endTask_still {s0 s : State} (l : Fin 64) (e : PondEntry) (h : Still s0 s) : Still s0 (State.endTask s l e) := by
  unfold State.endTask
  dsimp only
  apply State.statusEnd_still
  split
  · split
    · apply State.reportedCrc_still
      apply State.packetEnd_still
      apply State.modCtx_still
      apply State.discardStalled_still
      apply State.modCore_still
      assumption
    · apply State.packetEnd_still
      apply State.modCtx_still
      apply State.discardStalled_still
      apply State.modCore_still
      assumption
  · apply State.packetEnd_still
    apply State.modCtx_still
    apply State.discardStalled_still
    apply State.modCore_still
    assumption

theorem State.ends_still {s0 s : State} (h : Still s0 s) : Still s0 (State.ends s) := by
  unfold State.ends
  refine Still.foldl ?_ ?_
  · intro s1 x1 h1
    apply State.endTask_still
    assumption
  · assumption

theorem State.stepRecord_still {s0 s : State} (k : Fin 16) (r : Rec) (h : Still s0 s) : Still s0 (State.stepRecord s k r) := by
  unfold State.stepRecord
  dsimp only
  split
  · assumption
  · split
    · apply State.modCtx_still
      assumption
    · apply State.pushRec_still
      assumption

theorem State.deadlines_still {s0 s : State} (k : Fin 16) (r : StepRun) (h : Still s0 s) : Still s0 (State.deadlines s k r) := by
  unfold State.deadlines
  dsimp only
  refine Still.foldl ?_ ?_
  · intro s1 x1 h1
    split
    · apply State.faultCode_still
      apply State.modCtx_still
      apply State.trigger_still
      apply State.stepRecord_still
      assumption
    · apply State.trigger_still
      apply State.stepRecord_still
      assumption
  · assumption

theorem State.sendStepReport_still {s0 s : State} (k : Fin 16) (step : Nat) (cancelled : Bool) (h : Still s0 s) : Still s0 (State.sendStepReport s k step cancelled) := by
  unfold State.sendStepReport
  split
  · dsimp only
    apply State.sendCtrl_still
    assumption
  · assumption

theorem State.completeStep_still {s0 s : State} (k : Fin 16) (r : StepRun) (h : Still s0 s) : Still s0 (State.completeStep s k r) := by
  unfold State.completeStep
  dsimp only
  apply State.sendStepReport_still
  split
  · apply State.modCtx_still
    apply State.modCtx_still
    apply State.deadlines_still
    apply State.stepRecord_still
    assumption
  · apply State.finishLeaves_still
    apply State.modCtx_still
    apply State.modCtx_still
    apply State.setLedger_still
    apply State.deadlines_still
    apply State.stepRecord_still
    assumption

theorem State.completeSteps_still {s0 s : State} (k : Fin 16) (h : Still s0 s) : Still s0 (State.completeSteps s k) := by
  unfold State.completeSteps
  split
  · assumption
  · refine Still.foldl ?_ ?_
    · intro s1 x1 h1
      apply State.completeStep_still
      assumption
    · assumption

theorem State.dropThreads_still {s0 s : State} (k : Fin 16) (p : Task → Bool) (h : Still s0 s) : Still s0 (State.dropThreads s k p) := by
  unfold State.dropThreads
  refine Still.foldl ?_ ?_
  · intro s1 x1 h1
    dsimp only
    split
    · apply State.freeThread_still
      assumption
    · assumption
  · assumption

theorem State.dumpsCancelled_still {s0 s : State} (k : Fin 16) (steps : List Nat) (h : Still s0 s) : Still s0 (State.dumpsCancelled s k steps) := by
  unfold State.dumpsCancelled
  refine Still.foldl ?_ ?_
  · intro s1 x1 h1
    refine Still.foldl ?_ ?_
    · intro s1 x1 h1
      split
      · apply State.dumpRecord_still
        assumption
      · assumption
    · assumption
  · assumption

theorem State.requestsCancelled_still {s0 s : State} (k : Fin 16) (h : Still s0 s) : Still s0 (State.requestsCancelled s k) := by
  unfold State.requestsCancelled
  refine Still.foldl ?_ ?_
  · intro s1 x1 h1
    apply State.dumpRecord_still
    assumption
  · apply State.modCtx_still
    assumption

theorem State.cancelStep_still {s0 s : State} (k : Fin 16) (step : Nat) (h : Still s0 s) : Still s0 (State.cancelStep s k step).1 := by
  unfold State.cancelStep
  dsimp only
  split
  · assumption
  · split
    · split
      · dsimp only
        apply State.modCtx_still
        apply State.cancelRouting_still
        apply State.modCtx_still
        apply State.dropThreads_still
        apply State.park_still
        apply State.flush_still
        apply State.dumpsCancelled_still
        assumption
      · dsimp only
        apply State.finishLeaves_still
        apply State.modCtx_still
        apply State.cancelRouting_still
        apply State.modCtx_still
        apply State.dropThreads_still
        apply State.park_still
        apply State.flush_still
        apply State.dumpsCancelled_still
        assumption
    · split
      · dsimp only
        apply State.modCtx_still
        apply State.cancelRouting_still
        apply State.modCtx_still
        apply State.dropThreads_still
        apply State.flush_still
        apply State.dumpsCancelled_still
        assumption
      · dsimp only
        apply State.finishLeaves_still
        apply State.modCtx_still
        apply State.cancelRouting_still
        apply State.modCtx_still
        apply State.dropThreads_still
        apply State.flush_still
        apply State.dumpsCancelled_still
        assumption

theorem State.cancelStep_still' {s0 s s9 : State} {k : Fin 16} {step : Nat} {r9 : _} (eq : State.cancelStep s k step = (s9, r9)) (h : Still s0 s) : Still s0 s9 := by
  have := State.cancelStep_still k step h
  rwa [eq] at this

theorem State.freeCancelled_still {s0 s : State} (k : Fin 16) (h : Still s0 s) : Still s0 (State.freeCancelled s k) := by
  unfold State.freeCancelled
  dsimp only
  split
  · assumption
  · apply State.modCtx_still
    refine Still.foldl ?_ ?_
    · intro s1 x1 h1
      apply State.modCtx_still
      apply State.stepRecord_still
      assumption
    · assumption

theorem State.scrubDue_still {s0 s : State} (k : Fin 16) (h : Still s0 s) : Still s0 (State.scrubDue s k) := by
  unfold State.scrubDue
  dsimp only
  split
  · apply State.modCtx_still
    refine Still.foldl ?_ ?_
    · intro s1 x1 h1
      apply State.setUnit_still
      assumption
    · assumption
  · assumption

theorem State.rebaseDue_still {s0 s : State} (k : Fin 16) (h : Still s0 s) : Still s0 (State.rebaseDue s k) := by
  unfold State.rebaseDue
  dsimp only
  split
  · assumption
  · refine Still.foldl ?_ ?_
    · intro s1 x1 h1
      apply State.sendStepReport_still
      assumption
    · apply State.compareCopies_still
      apply State.setCtx_still
      assumption

theorem State.cancelBoundary_still {s0 s : State} (k : Fin 16) (h : Still s0 s) : Still s0 (State.cancelBoundary s k) := by
  unfold State.cancelBoundary
  apply State.rebaseDue_still
  apply State.scrubDue_still
  apply State.freeCancelled_still
  assumption

theorem State.dropWork_still {s0 s : State} (k : Fin 16) (h : Still s0 s) : Still s0 (State.dropWork s k) := by
  unfold State.dropWork
  with_reducible refine Still.upd ?_ rfl
  assumption

theorem State.resetCores_still {s0 s : State} (k : Fin 16) (h : Still s0 s) : Still s0 (State.resetCores s k) := by
  unfold State.resetCores
  dsimp only
  refine Still.foldl ?_ ?_
  · intro s1 x1 h1
    split
    · apply State.setFrame_still
      assumption
    · assumption
  · refine Still.foldl ?_ ?_
    · intro s1 x1 h1
      apply State.setCore_still
      assumption
    · assumption

theorem State.teardownNotice_still {s0 s : State} (k : Fin 16) (code : Nat) (h : Still s0 s) : Still s0 (State.teardownNotice s k code) := by
  unfold State.teardownNotice
  dsimp only
  split
  · assumption
  · apply State.modCtx_still
    split
    · apply State.sendAll_still
      assumption
    · apply State.sendCtrl_still
      assumption

theorem State.beginTeardown_still {s0 s : State} (k : Fin 16) (h : Still s0 s) : Still s0 (State.beginTeardown s k) := by
  unfold State.beginTeardown
  dsimp only
  split
  · assumption
  · split
    · apply State.pushRec_still
      apply State.modCtx_still
      apply State.raise_still
      apply State.setPhase_still
      apply State.modCtx_still
      apply State.teardownFlush_still
      apply State.dropWork_still
      apply State.resetCores_still
      apply State.flush_still
      apply State.teardownNotice_still
      apply State.requestsCancelled_still
      apply State.dumpsCancelled_still
      assumption
    · apply State.raise_still
      apply State.setPhase_still
      apply State.modCtx_still
      apply State.teardownFlush_still
      apply State.dropWork_still
      apply State.resetCores_still
      apply State.flush_still
      apply State.teardownNotice_still
      apply State.requestsCancelled_still
      apply State.dumpsCancelled_still
      assumption

theorem State.teardowns_still {s0 s : State} (h : Still s0 s) : Still s0 (State.teardowns s) := by
  unfold State.teardowns
  refine Still.foldl ?_ ?_
  · intro s1 x1 h1
    split
    · apply State.beginTeardown_still
      assumption
    · assumption
  · assumption

theorem State.scrubSpads_still {s0 s : State} (k : Fin 16) (h : Still s0 s) : Still s0 (State.scrubSpads s k) := by
  unfold State.scrubSpads
  with_reducible refine Still.upd ?_ rfl
  assumption

theorem State.scrubLedger_still {s0 s : State} (k : Fin 16) (h : Still s0 s) : Still s0 (State.scrubLedger s k) := by
  unfold State.scrubLedger
  dsimp only
  with_reducible refine Still.upd ?_ rfl
  assumption

theorem State.clearKey_still {s0 s : State} (k : Fin 16) (h : Still s0 s) : Still s0 (State.clearKey s k) := by
  unfold State.clearKey
  split
  · assumption
  · apply State.log_still
    with_reducible refine Still.upd ?_ rfl
    assumption

theorem State.dropNotices_still {s0 s : State} (k : Fin 16) (h : Still s0 s) : Still s0 (State.dropNotices s k) := by
  unfold State.dropNotices
  dsimp only
  apply State.horizonWeirs_still
  apply State.inletWeirs_still
  refine Still.foldl ?_ ?_
  · intro s1 x1 h1
    apply State.stray_still
    assumption
  · with_reducible refine Still.upd ?_ rfl
    assumption

theorem State.release_still {s0 s : State} (k : Fin 16) (h : Still s0 s) : Still s0 (State.release s k) := by
  unfold State.release
  dsimp only
  apply State.modCtx_still
  with_reducible refine Still.upd ?_ rfl
  apply State.clearKey_still
  refine Still.foldl ?_ ?_
  · intro s1 x1 h1
    apply State.setCore_still
    assumption
  · apply State.dropNotices_still
    apply State.scrubLedger_still
    apply State.scrubSpads_still
    assumption

theorem State.teardownScrubEnd_still {s0 s : State} (k : Fin 16) (h : Still s0 s) : Still s0 (State.teardownScrubEnd s k) := by
  unfold State.teardownScrubEnd
  dsimp only
  split
  · split
    · apply State.release_still
      assumption
    · assumption
  · assumption

theorem execTeardownScrubEnd_still {s s9 : State} {slot : Fin 16} (eq : execTeardownScrubEnd slot s = .next s9) : Still s s9 := by
  cases eq
  have h := Still.refl s
  apply State.teardownScrubEnd_still
  assumption

end Sys2Proof.Machine
end

