-- ==== Sys2Proof/Laws/StillNotices.lean ====
section
/-! SUPPORT. The operations of Machine/Notices.lean that leave the position in time alone (`Still`). -/

namespace Sys2Proof.Machine

theorem State.discardNotice_still {s0 s : State} (k : Fin 16) (h : Still s0 s) : Still s0 (State.discardNotice s k) := by
  unfold State.discardNotice
  apply State.modCtx_still
  assumption

theorem State.countLate_still {s0 s : State} (k : Fin 16) (h1 : MsgHdr) (control : Bool) (h : Still s0 s) : Still s0 (State.countLate s k h1 control) := by
  unfold State.countLate
  dsimp only
  split
  · split
    · apply State.modCtx_still
      assumption
    · assumption
  · split
    · apply State.modCtx_still
      assumption
    · assumption

theorem State.enqueue_still {s0 s : State} (k : Fin 16) (h1 : MsgHdr) (b : MsgBody) (h : Still s0 s) : Still s0 (State.enqueue s k h1 b) := by
  unfold State.enqueue
  dsimp only
  apply State.horizonWeirs_still
  with_reducible refine Still.upd ?_ rfl
  split
  · split
    · assumption
    · apply State.useCredit_still
      assumption
  · split
    · assumption
    · apply State.useCredit_still
      assumption

theorem State.addressee_still {s0 s : State} (h1 : MsgHdr) (peer : Bool) (h : Still s0 s) : Still s0 (State.addressee s h1 peer).1 := by
  unfold State.addressee
  split
  · dsimp only
    apply State.stray_still
    assumption
  · dsimp only
    split
    · assumption
    · split
      · dsimp only
        apply State.stray_still
        assumption
      · assumption

theorem State.addressee_still' {s0 s s9 : State} {h1 : MsgHdr} {peer : Bool} {r9 : _} (eq : State.addressee s h1 peer = (s9, r9)) (h : Still s0 s) : Still s0 s9 := by
  have := State.addressee_still h1 peer h
  rwa [eq] at this

theorem State.notice_still {s0 s : State} (h1 : MsgHdr) (b : MsgBody) (h : Still s0 s) : Still s0 (State.notice s h1 b) := by
  unfold State.notice
  split
  · refine State.addressee_still' (by assumption) ?_
    assumption
  · split
    · apply State.discardNotice_still
      refine State.addressee_still' (by assumption) ?_
      assumption
    · apply State.enqueue_still
      apply State.countLate_still
      refine State.addressee_still' (by assumption) ?_
      assumption

theorem State.landing_still {s0 s : State} (h1 : MsgHdr) (l : Landing) (h : Still s0 s) : Still s0 (State.landing s h1 l) := by
  unfold State.landing
  split
  · refine State.addressee_still' (by assumption) ?_
    with_reducible refine Still.upd ?_ rfl
    assumption
  · dsimp only
    split
    · apply State.discardNotice_still
      refine State.addressee_still' (by assumption) ?_
      with_reducible refine Still.upd ?_ rfl
      assumption
    · split
      · split
        · apply State.enqueue_still
          apply State.countLate_still
          refine State.addressee_still' (by assumption) ?_
          with_reducible refine Still.upd ?_ rfl
          assumption
        · apply State.faultCode_still
          refine State.addressee_still' (by assumption) ?_
          with_reducible refine Still.upd ?_ rfl
          assumption
      · split
        · apply State.enqueue_still
          apply State.countLate_still
          refine State.addressee_still' (by assumption) ?_
          with_reducible refine Still.upd ?_ rfl
          assumption
        · apply State.faultCode_still
          refine State.addressee_still' (by assumption) ?_
          with_reducible refine Still.upd ?_ rfl
          assumption

theorem execLandingNotice_still {s s9 : State} {h1 : MsgHdr} {l : Landing} (eq : execLandingNotice h1 l s = .next s9) : Still s s9 := by
  cases eq
  have h := Still.refl s
  apply State.landing_still
  assumption

theorem execFetchRequest_still {s s9 : State} {h1 : MsgHdr} {f : FetchReq} (eq : execFetchRequest h1 f s = .next s9) : Still s s9 := by
  cases eq
  have h := Still.refl s
  apply State.notice_still
  assumption

theorem State.remoteArrives_still {s0 s : State} (h1 : MsgHdr) (cluster : Nat) (index : Nat) (item : CflItem) (h : Still s0 s) : Still s0 (State.remoteArrives s h1 cluster index item) := by
  unfold State.remoteArrives
  split
  · refine State.addressee_still' (by assumption) ?_
    assumption
  · apply State.remoteEntry_still
    refine State.addressee_still' (by assumption) ?_
    assumption

theorem execWideLanding_still {s s9 : State} {h1 : MsgHdr} {cluster : Nat} {index : Nat} {word : BitVec 256} (eq : execWideLanding h1 cluster index word s = .next s9) : Still s s9 := by
  cases eq
  have h := Still.refl s
  apply State.remoteArrives_still
  assumption

theorem execForwardedPair_still {s s9 : State} {h1 : MsgHdr} {cluster : Nat} {record : BitVec 128} (eq : execForwardedPair h1 cluster record s = .next s9) : Still s s9 := by
  cases eq
  have h := Still.refl s
  apply State.remoteArrives_still
  assumption

theorem State.tickSeal_still {s0 s : State} (h1 : MsgHdr) (h : Still s0 s) : Still s0 (State.tickSeal s h1) := by
  unfold State.tickSeal
  split
  · refine State.addressee_still' (by assumption) ?_
    assumption
  · split
    · apply State.enqueue_still
      refine State.addressee_still' (by assumption) ?_
      assumption
    · apply State.modCtx_still
      refine State.addressee_still' (by assumption) ?_
      assumption

theorem State.takeSeals_still {s0 s : State} (k : Fin 16) (h : Still s0 s) : Still s0 (State.takeSeals s k) := by
  unfold State.takeSeals
  dsimp only
  split
  · assumption
  · apply State.horizonWeirs_still
    apply State.modCtx_still
    with_reducible refine Still.upd ?_ rfl
    assumption

theorem State.rippleReceived_still {s0 s : State} (h1 : MsgHdr) (vid : Nat) (n : Nat) (h : Still s0 s) : Still s0 (State.rippleReceived s h1 vid n) := by
  unfold State.rippleReceived
  split
  · apply State.tickSeal_still
    assumption
  · apply State.notice_still
    assumption

theorem execRippleReceived_still {s s9 : State} {h1 : MsgHdr} {vid : BitVec 20} {increment : BitVec 32} (eq : execRippleReceived h1 vid increment s = .next s9) : Still s s9 := by
  cases eq
  have h := Still.refl s
  apply State.rippleReceived_still
  assumption

theorem execTickSeal_still {s s9 : State} {h1 : MsgHdr} (eq : execTickSeal h1 s = .next s9) : Still s s9 := by
  cases eq
  have h := Still.refl s
  apply State.tickSeal_still
  assumption

theorem State.ctrlSeal_still {s0 s : State} (h1 : MsgHdr) (h : Still s0 s) : Still s0 (State.ctrlSeal s h1) := by
  unfold State.ctrlSeal
  split
  · refine State.addressee_still' (by assumption) ?_
    assumption
  · apply State.modCtx_still
    refine State.addressee_still' (by assumption) ?_
    assumption

theorem execControlSeal_still {s s9 : State} {h1 : MsgHdr} (eq : execControlSeal h1 s = .next s9) : Still s s9 := by
  cases eq
  have h := Still.refl s
  apply State.ctrlSeal_still
  assumption

theorem State.sendTickSeals_still {s0 s : State} (k : Fin 16) (tick : Nat) (h : Still s0 s) : Still s0 (State.sendTickSeals s k tick) := by
  unfold State.sendTickSeals
  refine Still.foldl ?_ ?_
  · intro s1 x1 h1
    refine Still.foldl ?_ ?_
    · intro s1 x1 h1
      apply State.sendMsg_still
      assumption
    · assumption
  · assumption

theorem State.sendControlSeals_still {s0 s : State} (k : Fin 16) (tick : Nat) (h : Still s0 s) : Still s0 (State.sendControlSeals s k tick) := by
  unfold State.sendControlSeals
  refine Still.foldl ?_ ?_
  · intro s1 x1 h1
    apply State.sendMsg_still
    assumption
  · assumption

theorem State.commit_still {s0 s : State} (l : Landing) (h : Still s0 s) : Still s0 (State.commit s l) := by
  unfold State.commit
  with_reducible refine Still.upd ?_ rfl
  assumption

theorem State.increment_still {s0 s : State} (k : Fin 16) (sender : Nat) (vid : Nat) (n : Nat) (h : Still s0 s) : Still s0 (State.increment s k sender vid n).1 := by
  unfold State.increment
  split
  · split
    · assumption
    · dsimp only
      apply State.faultCode_still
      assumption
  · dsimp only
    apply State.faultCode_still
    assumption

theorem State.increment_still' {s0 s s9 : State} {k : Fin 16} {sender : Nat} {vid : Nat} {n : Nat} {r9 : _} (eq : State.increment s k sender vid n = (s9, r9)) (h : Still s0 s) : Still s0 s9 := by
  have := State.increment_still k sender vid n h
  rwa [eq] at this

theorem NoticeAcc.apply_still {s0 : State} {acc : NoticeAcc} (k : Fin 16) (e : Held) (h : Still s0 acc.s) : Still s0 (NoticeAcc.apply k acc e).s := by
  unfold NoticeAcc.apply
  split
  · dsimp only
    apply State.discardNotice_still
    assumption
  · split
    · dsimp only
      apply State.increment_still
      assumption
    · split
      · dsimp only
        apply State.faultCode_still
        assumption
      · split
        · dsimp only
          apply State.landingArrives_still
          apply State.commit_still
          assumption
        · dsimp only
          apply State.increment_still
          apply State.landingArrives_still
          apply State.commit_still
          assumption
    · assumption
    · assumption

theorem State.lateBehind_still {s0 s : State} (k : Fin 16) (tick : Nat) (h : Still s0 s) : Still s0 (State.lateBehind s k tick) := by
  unfold State.lateBehind
  dsimp only
  split
  · assumption
  · refine Still.foldl ?_ ?_
    · intro s1 x1 h1
      apply State.modCtx_still
      assumption
    · with_reducible refine Still.upd ?_ rfl
      assumption

theorem State.applyNotices_still {s0 s : State} (k : Fin 16) (tick : Nat) (h : Still s0 s) : Still s0 (State.applyNotices s k tick) := by
  unfold State.applyNotices
  dsimp only
  split
  · apply State.lateBehind_still
    assumption
  · apply State.horizonWeirs_still
    apply State.serveRequests_still
    apply State.resolveCounters_still
    refine Still.foldl_of NoticeAcc.s ?_ ?_
    · intro a1 x1 h1
      apply NoticeAcc.apply_still
      assumption
    · dsimp only
      with_reducible refine Still.upd ?_ rfl
      apply State.lateBehind_still
      assumption

theorem State.control_still {s0 s : State} (h1 : MsgHdr) (c : Ctrl) (h : Still s0 s) : Still s0 (State.control s h1 c) := by
  unfold State.control
  split
  · apply State.sendMsg_still
    assumption
  · split
    · refine State.addressee_still' (by assumption) ?_
      assumption
    · apply State.enqueue_still
      apply State.countLate_still
      refine State.addressee_still' (by assumption) ?_
      assumption

theorem State.dropCtrlDue_still {s0 s : State} (k : Fin 16) (h : Still s0 s) : Still s0 (State.dropCtrlDue s k) := by
  unfold State.dropCtrlDue
  dsimp only
  apply State.horizonWeirs_still
  apply State.modCtx_still
  with_reducible refine Still.upd ?_ rfl
  assumption

theorem execStepStart_still {s s9 : State} {h1 : MsgHdr} {step : Nat} {template : Option Nat} {changes : List Change} (eq : execStepStart h1 step template changes s = .next s9) : Still s s9 := by
  cases eq
  have h := Still.refl s
  apply State.control_still
  assumption

theorem execStepReport_still {s s9 : State} {h1 : MsgHdr} {step : Nat} {cancelled : Bool} {b : Nat} {r1 : Nat} {r2 : Nat} (eq : execStepReport h1 step cancelled b r1 r2 s = .next s9) : Still s s9 := by
  cases eq
  have h := Still.refl s
  apply State.control_still
  assumption

theorem execBlockedReport_still {s s9 : State} {h1 : MsgHdr} {blocked : Bool} (eq : execBlockedReport h1 blocked s = .next s9) : Still s s9 := by
  cases eq
  have h := Still.refl s
  apply State.control_still
  assumption

theorem execCancelMessage_still {s s9 : State} {h1 : MsgHdr} {step : Nat} (eq : execCancelMessage h1 step s = .next s9) : Still s s9 := by
  cases eq
  have h := Still.refl s
  apply State.control_still
  assumption

theorem execFreezeMessage_still {s s9 : State} {h1 : MsgHdr} {tick : Nat} (eq : execFreezeMessage h1 tick s = .next s9) : Still s s9 := by
  cases eq
  have h := Still.refl s
  apply State.control_still
  assumption

theorem execThawMessage_still {s s9 : State} {h1 : MsgHdr} (eq : execThawMessage h1 s = .next s9) : Still s s9 := by
  cases eq
  have h := Still.refl s
  apply State.control_still
  assumption

theorem execResumeMessage_still {s s9 : State} {h1 : MsgHdr} {gtc : Nat} (eq : execResumeMessage h1 gtc s = .next s9) : Still s s9 := by
  cases eq
  have h := Still.refl s
  apply State.control_still
  assumption

theorem execRestoreReport_still {s s9 : State} {h1 : MsgHdr} {serial : Nat} {ok : Bool} (eq : execRestoreReport h1 serial ok s = .next s9) : Still s s9 := by
  cases eq
  have h := Still.refl s
  apply State.control_still
  assumption

theorem execTeardownMessage_still {s s9 : State} {h1 : MsgHdr} {code : Nat} {member : Nat} (eq : execTeardownMessage h1 code member s = .next s9) : Still s s9 := by
  cases eq
  have h := Still.refl s
  apply State.control_still
  assumption

theorem execIdleBeat_still {s s9 : State} {h1 : MsgHdr} (eq : execIdleBeat h1 s = .next s9) : Still s s9 := by
  cases eq
  have h := Still.refl s
  apply State.control_still
  assumption

theorem execLockstepList_still {s s9 : State} {h1 : MsgHdr} {tick : Nat} {entries : List DigestEntry} (eq : execLockstepList h1 tick entries s = .next s9) : Still s s9 := by
  cases eq
  have h := Still.refl s
  apply State.control_still
  assumption

theorem execLockstepHalt_still {s s9 : State} {h1 : MsgHdr} (eq : execLockstepHalt h1 s = .next s9) : Still s s9 := by
  cases eq
  have h := Still.refl s
  apply State.control_still
  assumption

theorem execHaltRelay_still {s s9 : State} {h1 : MsgHdr} {cause : Nat} {bp : Nat} (eq : execHaltRelay h1 cause bp s = .next s9) : Still s s9 := by
  cases eq
  have h := Still.refl s
  apply State.control_still
  assumption

theorem State.peerDigest_still {s0 s : State} (h1 : MsgHdr) (tick : Nat) (d : BitVec 64) (h : Still s0 s) : Still s0 (State.peerDigest s h1 tick d) := by
  unfold State.peerDigest
  split
  · refine State.addressee_still' (by assumption) ?_
    assumption
  · apply State.modCtx_still
    refine State.addressee_still' (by assumption) ?_
    assumption

theorem execDigestMessage_still {s s9 : State} {h1 : MsgHdr} {tick : Nat} {d : BitVec 64} (eq : execDigestMessage h1 tick d s = .next s9) : Still s s9 := by
  cases eq
  have h := Still.refl s
  apply State.peerDigest_still
  assumption

end Sys2Proof.Machine
end

