-- ==== Sys2Proof/Laws/StillSteps.lean ====
section
/-! SUPPORT. The operations of Machine/Steps.lean that leave the position in time alone (`Still`). -/

namespace Sys2Proof.Machine

theorem State.takeDumps_still {s0 s : State} (k : Fin 16) (h : Still s0 s) : Still s0 (State.takeDumps s k) := by
  unfold State.takeDumps
  dsimp only
  refine Still.foldl ?_ ?_
  · intro s1 x1 h1
    split
    · apply State.dumpRecord_still
      assumption
    · assumption
  · apply State.modCtx_still
    assumption

theorem State.createDumps_still {s0 s : State} (k : Fin 16) (step : Nat) (t : Nat) (h : Still s0 s) : Still s0 (State.createDumps s k step t) := by
  unfold State.createDumps
  dsimp only
  refine Still.foldl ?_ ?_
  · intro s1 x1 h1
    split
    · apply State.dumpRecord_still
      assumption
    · split
      · apply State.dumpRecord_still
        assumption
      · apply State.modCtx_still
        assumption
  · apply State.modCtx_still
    assumption

theorem State.namedOutcomes_still {s0 s : State} (k : Fin 16) (step : Nat) (h : Still s0 s) : Still s0 (State.namedOutcomes s k step) := by
  unfold State.namedOutcomes
  dsimp only
  refine Still.foldl ?_ ?_
  · intro s1 x1 h1
    apply State.result_still
    assumption
  · apply State.modCtx_still
    assumption

theorem State.stepBoundary_still {s0 s : State} (k : Fin 16) (step : Nat) (template : Option Nat) (changes : List Change) (h : Still s0 s) : Still s0 (State.stepBoundary s k step template changes) := by
  unfold State.stepBoundary
  dsimp only
  split
  · assumption
  · split
    · apply State.faultCode_still
      assumption
    · split
      · apply State.faultCode_still
        assumption
      · split
        · apply State.descriptorFault_still
          assumption
        · apply State.namedOutcomes_still
          apply State.createDumps_still
          apply State.ledgerPlan_still
          apply State.modCtx_still
          apply State.ledgerJoins_still
          apply State.modCtx_still
          assumption

theorem ChangeAcc.refuse_still {s0 : State} {acc : ChangeAcc} (k : Fin 16) (w : Waiting) (reason : Nat) (h : Still s0 acc.s) : Still s0 (ChangeAcc.refuse k acc w reason).s := by
  unfold ChangeAcc.refuse
  dsimp only
  apply State.result_still
  assumption

theorem ChangeAcc.accept_still {s0 : State} {acc : ChangeAcc} (k : Fin 16) (step : Nat) (w : Waiting) (x : Change) (f : List Admitted → List Admitted) (h : Still s0 acc.s) : Still s0 (ChangeAcc.accept k step acc w x f).s := by
  unfold ChangeAcc.accept
  dsimp only
  apply State.modCtx_still
  assumption

theorem ChangeAcc.take_still {s0 : State} {acc : ChangeAcc} (k : Fin 16) (step : Nat) (w : Waiting) (h : Still s0 acc.s) : Still s0 (ChangeAcc.take k step acc w).s := by
  unfold ChangeAcc.take
  split
  · assumption
  · split
    · dsimp only
      split
      · apply ChangeAcc.accept_still
        assumption
      · apply ChangeAcc.refuse_still
        assumption
    · split
      · dsimp only
        apply ChangeAcc.refuse_still
        assumption
      · dsimp only
        apply ChangeAcc.accept_still
        assumption
    · dsimp only
      split
      · apply ChangeAcc.accept_still
        assumption
      · apply ChangeAcc.refuse_still
        assumption
    · assumption

theorem State.buildChanges_still {s0 s : State} (k : Fin 16) (step : Nat) (h : Still s0 s) : Still s0 (State.buildChanges s k step).1 := by
  unfold State.buildChanges
  dsimp only
  apply State.modCtx_still
  refine Still.foldl_of ChangeAcc.s ?_ ?_
  · intro a1 x1 h1
    apply ChangeAcc.take_still
    assumption
  · assumption

theorem State.buildChanges_still' {s0 s s9 : State} {k : Fin 16} {step : Nat} {r9 : _} (eq : State.buildChanges s k step = (s9, r9)) (h : Still s0 s) : Still s0 s9 := by
  have := State.buildChanges_still k step h
  rwa [eq] at this

theorem State.exhaust_still {s0 s : State} (k : Fin 16) (h : Still s0 s) : Still s0 (State.exhaust s k) := by
  unfold State.exhaust
  dsimp only
  split
  · assumption
  · apply State.modCtx_still
    apply State.pushRec_still
    apply State.pushRec_still
    assumption

theorem State.pace_still {s0 s : State} (k : Fin 16) (h : Still s0 s) : Still s0 (State.pace s k) := by
  unfold State.pace
  dsimp only
  split
  · split
    · assumption
    · split
      · apply State.buildChanges_still
        assumption
      · split
        · apply State.sendAll_still
          apply State.modCtx_still
          apply State.buildChanges_still
          assumption
        · apply State.stepBoundary_still
          apply State.modCtx_still
          apply State.buildChanges_still
          assumption
  · split
    · assumption
    · split
      · apply State.buildChanges_still
        assumption
      · split
        · apply State.sendAll_still
          apply State.modCtx_still
          apply State.buildChanges_still
          assumption
        · apply State.stepBoundary_still
          apply State.modCtx_still
          apply State.buildChanges_still
          assumption

theorem State.leaveOutcomes_still {s0 s : State} (k : Fin 16) (h : Still s0 s) : Still s0 (State.leaveOutcomes s k) := by
  unfold State.leaveOutcomes
  dsimp only
  split
  · assumption
  · refine Still.foldl ?_ ?_
    · intro s1 x1 h1
      apply State.result_still
      assumption
    · apply State.setCtx_still
      assumption

end Sys2Proof.Machine
end

