-- ==== Sys2Proof/Laws/StillRecords.lean ====
section
/-! SUPPORT. The operations of Machine/Records.lean that leave the position in time alone (`Still`). -/

namespace Sys2Proof.Machine

theorem State.writeWindow_still {s0 s : State} (h : Still s0 s) : Still s0 (State.writeWindow s) := by
  unfold State.writeWindow
  dsimp only
  with_reducible refine Still.upd ?_ rfl
  assumption

theorem State.formRec_still {s0 s : State} (r : Rec) (h : Still s0 s) : Still s0 (State.formRec s r).1 := by
  unfold State.formRec
  split
  · split
    · dsimp only
      apply State.log_still
      apply State.signalOut_still
      assumption
    · split
      · dsimp only
        apply State.log_still
        apply State.signalOut_still
        assumption
      · dsimp only
        apply State.log_still
        apply State.signalOut_still
        assumption
  · split
    · split
      · assumption
      · assumption
    · assumption

theorem State.formRec_still' {s0 s s9 : State} {r : Rec} {r9 : _} (eq : State.formRec s r = (s9, r9)) (h : Still s0 s) : Still s0 s9 := by
  have := State.formRec_still r h
  rwa [eq] at this

theorem State.writeRec_still {s0 s : State} (r : Rec) (h : Still s0 s) : Still s0 (State.writeRec s r).1 := by
  unfold State.writeRec
  extract_lets size q len pos gap used b s1 s2
  split
  · have h1 : Still s0 s1 := ⟨h.grid, h.config⟩
    clear_value s1
    change Still s0 s2
    unfold s2
    split
    · exact State.raise_still _ _ h1
    · exact State.raise_still _ _ h1
    · exact h1
  · exact h

theorem State.writeRec_still' {s0 s t : State} {r : Rec} {ok : Bool} (eq : State.writeRec s r = (t, ok)) (h : Still s0 s) : Still s0 t := by
  have := State.writeRec_still r h
  rwa [eq] at this

theorem State.writeDie_still {s0 s : State} (r : Rec) (old : Bool) (h : Still s0 s) : Still s0 (State.writeDie s r old) := by
  unfold State.writeDie
  dsimp only
  split
  · split
    · assumption
    · split
      · split
        · with_reducible refine Still.upd ?_ rfl
          assumption
        · apply State.raise_still
          with_reducible refine Still.upd ?_ rfl
          assumption
      · apply State.raise_still
        with_reducible refine Still.upd ?_ rfl
        assumption
  · split
    · apply State.writeRec_still
      assumption
    · split
      · split
        · with_reducible refine Still.upd ?_ rfl
          assumption
        · apply State.raise_still
          with_reducible refine Still.upd ?_ rfl
          assumption
      · apply State.raise_still
        with_reducible refine Still.upd ?_ rfl
        assumption

theorem State.writeCtx_still {s0 s : State} (k : Fin 16) (old : Nat) (l : List Rec) (h : Still s0 s) : Still s0 (State.writeCtx s k old l) := by
  induction l generalizing s old with
  | nil => exact h
  | cons r rs ih =>
    have h2 := State.writeRec_still r h
    rw [State.writeCtx]
    generalize s.writeRec r = w at *
    dsimp only
    split
    · exact ih _ h2
    · split
      · exact State.modCtx_still k _ h
      · exact State.raise_still _ _ (State.modCtx_still k _ h)

theorem State.formDue_still {s0 s : State} (h : Still s0 s) : Still s0 (State.formDue s).1 := by
  unfold State.formDue
  dsimp only
  refine Still.foldl_fst ?_ ?_
  · intro a1 x1 h1
    split
    · dsimp only
      apply State.formRec_still
      assumption
    · assumption
  · dsimp only
    with_reducible refine Still.upd ?_ rfl
    assumption

theorem State.formDue_still' {s0 s s9 : State} {r9 : _} (eq : State.formDue s = (s9, r9)) (h : Still s0 s) : Still s0 s9 := by
  have := State.formDue_still h
  rwa [eq] at this

theorem State.writeSlot_still {s0 s : State} (recs : List Rec) (k : Fin 16) (h : Still s0 s) : Still s0 (State.writeSlot s recs k) := by
  unfold State.writeSlot
  dsimp only
  apply State.writeCtx_still
  apply State.modCtx_still
  assumption

theorem State.writeRecords_still {s0 s : State} (tail : Nat) (h : Still s0 s) : Still s0 (State.writeRecords s tail) := by
  unfold State.writeRecords
  dsimp only
  apply State.writeWindow_still
  refine Still.foldl ?_ ?_
  · intro s1 x1 h1
    apply State.writeSlot_still
    assumption
  · refine Still.foldl ?_ ?_
    · intro s1 x1 h1
      apply State.writeDie_still
      assumption
    · refine Still.foldl ?_ ?_
      · intro s1 x1 h1
        apply State.writeDie_still
        assumption
      · with_reducible refine Still.upd ?_ rfl
        apply State.formDue_still
        with_reducible refine Still.upd ?_ rfl
        assumption

theorem State.deferSteps_still {s0 s : State} (k : Fin 16) (h : Still s0 s) : Still s0 (State.deferSteps s k) := by
  unfold State.deferSteps
  apply State.modCtx_still
  assumption

end Sys2Proof.Machine
end

