-- ==== Sys2Proof/Laws/StillLife.lean ====
section
/-! SUPPORT. The operations of Machine/Life.lean that leave the position in time alone (`Still`). -/

namespace Sys2Proof.Machine

theorem State.observeTick_still {s0 s : State} (k : Fin 16) (launch : Bool) (h : Still s0 s) : Still s0 (State.observeTick s k launch) := by
  unfold State.observeTick
  dsimp only
  split
  · split
    · split
      · apply State.raise_still
        apply State.modCtx_still
        apply State.modCtx_still
        apply State.setCtx_still
        assumption
      · apply State.modCtx_still
        apply State.modCtx_still
        apply State.setCtx_still
        assumption
    · split
      · apply State.raise_still
        apply State.modCtx_still
        apply State.setCtx_still
        assumption
      · apply State.modCtx_still
        apply State.setCtx_still
        assumption
  · apply State.takeDumps_still
    split
    · split
      · apply State.raise_still
        apply State.modCtx_still
        apply State.modCtx_still
        apply State.setCtx_still
        assumption
      · apply State.modCtx_still
        apply State.modCtx_still
        apply State.setCtx_still
        assumption
    · split
      · apply State.raise_still
        apply State.modCtx_still
        apply State.setCtx_still
        assumption
      · apply State.modCtx_still
        apply State.setCtx_still
        assumption

theorem State.loadKeys_still {s0 s : State} (k : Fin 16) (h : Still s0 s) : Still s0 (State.loadKeys s k) := by
  unfold State.loadKeys
  dsimp only
  refine Still.foldl ?_ ?_
  · intro s1 x1 h1
    apply State.modCore_still
    assumption
  · assumption

theorem State.launch_still {s0 s : State} (k : Fin 16) (h : Still s0 s) : Still s0 (State.launch s k) := by
  unfold State.launch
  dsimp only
  apply State.observeTick_still
  split
  · apply State.modCtx_still
    apply State.pushRec_still
    split
    · apply State.modCtx_still
      apply State.result_still
      apply State.loadKeys_still
      apply State.setPhase_still
      apply State.modCtx_still
      assumption
    · apply State.loadKeys_still
      apply State.setPhase_still
      apply State.modCtx_still
      assumption
  · apply State.pushRec_still
    split
    · apply State.modCtx_still
      apply State.result_still
      apply State.loadKeys_still
      apply State.setPhase_still
      apply State.modCtx_still
      assumption
    · apply State.loadKeys_still
      apply State.setPhase_still
      apply State.modCtx_still
      assumption

theorem State.rotaLaunch_still {s0 s : State} (k : Fin 16) (h : Still s0 s) : Still s0 (State.rotaLaunch s k) := by
  unfold State.rotaLaunch
  dsimp only
  split
  · apply State.modCtx_still
    apply State.sendAll_still
    assumption
  · assumption

theorem State.lockEnd_still {s0 s : State} (k : Fin 16) (h : Still s0 s) : Still s0 (State.lockEnd s k) := by
  unfold State.lockEnd
  dsimp only
  split
  · assumption
  · apply State.sendMsg_still
    apply State.modCtx_still
    assumption

theorem State.diverge_still {s0 s : State} (k : Fin 16) (tick : Nat) (h : Still s0 s) : Still s0 (State.diverge s k tick) := by
  unfold State.diverge
  dsimp only
  split
  · apply State.sendCtrl_still
    apply State.sendMsg_still
    apply State.signalOut_still
    apply State.modCtx_still
    apply State.haltContext_still
    assumption
  · apply State.sendMsg_still
    apply State.signalOut_still
    apply State.modCtx_still
    apply State.haltContext_still
    assumption

theorem State.lockCompare_still {s0 s : State} (k : Fin 16) (h : Still s0 s) : Still s0 (State.lockCompare s k) := by
  unfold State.lockCompare
  dsimp only
  split
  · assumption
  · split
    · assumption
    · split
      · refine Still.foldl ?_ ?_
        · intro s1 x1 h1
          apply State.pushRec_still
          assumption
        · apply State.setCtx_still
          assumption
      · apply State.diverge_still
        assumption

theorem State.divergence_still {s0 s : State} (k : Fin 16) (tick : Nat) (theirs : List DigestEntry) (h : Still s0 s) : Still s0 (State.divergence s k tick theirs) := by
  unfold State.divergence
  dsimp only
  split
  · assumption
  · split
    · assumption
    · apply State.faultCode_still
      apply State.raise_still
      apply State.log_still
      assumption

theorem State.endTick_still {s0 s : State} (k : Fin 16) (h : Still s0 s) : Still s0 (State.endTick s k) := by
  unfold State.endTick
  dsimp only
  split
  · assumption
  · split
    · apply State.sendControlSeals_still
      split
      · split
        · apply State.sendCtrl_still
          apply State.lockEnd_still
          assumption
        · apply State.lockEnd_still
          assumption
      · apply State.sendTickSeals_still
        split
        · apply State.sendCtrl_still
          apply State.lockEnd_still
          assumption
        · apply State.lockEnd_still
          assumption
    · split
      · apply State.sendCtrl_still
        apply State.lockEnd_still
        assumption
      · apply State.lockEnd_still
        assumption

theorem State.freezeAt_still {s0 s : State} (k : Fin 16) (f : Nat) (h : Still s0 s) : Still s0 (State.freezeAt s k f) := by
  unfold State.freezeAt
  dsimp only
  apply State.setPhase_still
  apply State.modCtx_still
  apply State.flush_still
  apply State.haltCores_still
  assumption

theorem State.sealCheck_still {s0 s : State} (k : Fin 16) (h : Still s0 s) : Still s0 (State.sealCheck s k) := by
  unfold State.sealCheck
  dsimp only
  split
  · apply State.modCtx_still
    apply State.sendTickSeals_still
    assumption
  · assumption

theorem State.coreAck_still {s0 s : State} (l : Fin 64) (drained : Bool) (h : Still s0 s) : Still s0 (State.coreAck s l drained) := by
  unfold State.coreAck
  split
  · dsimp only
    refine Still.foldl ?_ ?_
    · intro s1 x1 h1
      apply State.sealCheck_still
      assumption
    · apply State.modCore_still
      assumption
  · assumption

theorem execCoreHalted_still {s s9 : State} {lcid : Fin 64} {drained : Bool} (eq : execCoreHalted lcid drained s = .next s9) : Still s s9 := by
  cases eq
  have h := Still.refl s
  apply State.coreAck_still
  assumption

theorem State.resumeHalt_still {s0 s : State} (k : Fin 16) (h : Still s0 s) : Still s0 (State.resumeHalt s k) := by
  unfold State.resumeHalt
  dsimp only
  apply State.setCtx_still
  split
  · assumption
  · apply State.reload_still
    apply State.runCores_still
    assumption

theorem State.advanceCtx.go_still {s0 s : State} (k : Fin 16) (c : Ctx) (t : Nat) (h : Still s0 s) : Still s0 (State.advanceCtx.go k s c t).1 := by
  unfold State.advanceCtx.go
  split
  · split
    · dsimp only
      apply State.observeTick_still
      apply State.modCtx_still
      apply State.reload_still
      apply State.runCores_still
      assumption
    · dsimp only
      apply State.observeTick_still
      apply State.modCtx_still
      assumption
  · split
    · dsimp only
      apply State.modCtx_still
      assumption
    · dsimp only
      apply State.modCtx_still
      apply State.park_still
      apply State.haltCores_still
      assumption

theorem State.advanceCtx.go_still' {s0 s s9 : State} {k : Fin 16} {c : Ctx} {t : Nat} {r9 : _} (eq : State.advanceCtx.go k s c t = (s9, r9)) (h : Still s0 s) : Still s0 s9 := by
  have := State.advanceCtx.go_still k c t h
  rwa [eq] at this

theorem State.advanceCtx_still {s0 s : State} (k : Fin 16) (h : Still s0 s) : Still s0 (State.advanceCtx s k).1 := by
  unfold State.advanceCtx
  dsimp only
  split
  · assumption
  · split
    · split
      · dsimp only
        apply State.resumeHalt_still
        assumption
      · split
        · dsimp only
          apply State.resumeHalt_still
          assumption
        · split
          · split
            · dsimp only
              apply State.freezeAt_still
              apply State.resumeHalt_still
              assumption
            · apply State.advanceCtx.go_still
              apply State.resumeHalt_still
              assumption
          · apply State.advanceCtx.go_still
            apply State.resumeHalt_still
            assumption
    · split
      · assumption
      · split
        · assumption
        · split
          · split
            · dsimp only
              apply State.freezeAt_still
              assumption
            · apply State.advanceCtx.go_still
              assumption
          · apply State.advanceCtx.go_still
            assumption

theorem State.advanceCtx_still' {s0 s s9 : State} {k : Fin 16} {r9 : _} (eq : State.advanceCtx s k = (s9, r9)) (h : Still s0 s) : Still s0 s9 := by
  have := State.advanceCtx_still k h
  rwa [eq] at this

theorem State.freezeSaveBegin_still {s0 s : State} (k : Fin 16) (h : Still s0 s) : Still s0 (State.freezeSaveBegin s k) := by
  unfold State.freezeSaveBegin
  dsimp only
  split
  · assumption
  · split
    · apply State.faultCode_still
      assumption
    · apply State.modCtx_still
      apply State.compareCopies_still
      assumption

theorem execFreezeSaveBegin_still {s s9 : State} {slot : Fin 16} (eq : execFreezeSaveBegin slot s = .next s9) : Still s s9 := by
  cases eq
  have h := Still.refl s
  apply State.freezeSaveBegin_still
  assumption

theorem State.packContext_still {s0 s : State} (k : Fin 16) (h : Still s0 s) : Still s0 (State.packContext s k) := by
  unfold State.packContext
  dsimp only
  apply State.resetCores_still
  apply State.horizonWeirs_still
  with_reducible refine Still.upd ?_ rfl
  apply State.setCtx_still
  assumption

theorem State.freezeSaveEnd_still {s0 s : State} (k : Fin 16) (h : Still s0 s) : Still s0 (State.freezeSaveEnd s k) := by
  unfold State.freezeSaveEnd
  extract_lets c bytes s1 s2 old image
  split
  · split
    · exact h
    · have h1 : Still s0 s1 := ⟨h.grid, h.config⟩
      have h2 : Still s0 s2 := State.packContext_still k h1
      clear_value image old s2 s1 bytes
      apply State.modCtx_still
      exact ⟨h2.grid, h2.config⟩
  · exact h

theorem execFreezeSaveEnd_still {s s9 : State} {slot : Fin 16} (eq : execFreezeSaveEnd slot s = .next s9) : Still s s9 := by
  cases eq
  have h := Still.refl s
  apply State.freezeSaveEnd_still
  assumption

theorem State.emptySlot_still {s0 s : State} (k : Fin 16) (h : Still s0 s) : Still s0 (State.emptySlot s k) := by
  unfold State.emptySlot
  dsimp only
  apply State.setPhase_still
  apply State.setCtx_still
  with_reducible refine Still.upd ?_ rfl
  assumption

theorem State.freezeEnd_still {s0 s : State} (k : Fin 16) (h : Still s0 s) : Still s0 (State.freezeEnd s k) := by
  unfold State.freezeEnd
  dsimp only
  split
  · split
    · assumption
    · split
      · apply State.emptySlot_still
        apply State.dropNotices_still
        apply State.clearKey_still
        apply State.pushRec_still
        apply State.modCtx_still
        split
        · apply State.outcome_still
          refine Still.foldl ?_ ?_
          · intro s1 x1 h1
            apply State.modCore_still
            assumption
          · apply State.scrubSpads_still
            assumption
        · refine Still.foldl ?_ ?_
          · intro s1 x1 h1
            apply State.modCore_still
            assumption
          · apply State.scrubSpads_still
            assumption
      · apply State.setPhase_still
        apply State.modCtx_still
        split
        · apply State.outcome_still
          refine Still.foldl ?_ ?_
          · intro s1 x1 h1
            apply State.modCore_still
            assumption
          · apply State.scrubSpads_still
            assumption
        · refine Still.foldl ?_ ?_
          · intro s1 x1 h1
            apply State.modCore_still
            assumption
          · apply State.scrubSpads_still
            assumption
  · assumption

theorem State.unpackContext_still {s0 s : State} (k : Fin 16) (h : Still s0 s) : Still s0 (State.unpackContext s k) := by
  unfold State.unpackContext
  dsimp only
  apply State.setCtx_still
  apply State.horizonWeirs_still
  with_reducible refine Still.upd ?_ rfl
  refine Still.foldl ?_ ?_
  · intro s1 x1 h1
    apply State.setFrame_still
    assumption
  · refine Still.foldl ?_ ?_
    · intro s1 x1 h1
      apply State.setCore_still
      assumption
    · assumption

theorem State.restoreBegin_still {s0 s : State} (k : Fin 16) (h : Still s0 s) : Still s0 (State.restoreBegin s k) := by
  unfold State.restoreBegin
  dsimp only
  split
  · apply State.setCtx_still
    assumption
  · assumption

theorem State.thawEnds_still {s0 s : State} (k : Fin 16) (h : Still s0 s) : Still s0 (State.thawEnds s k) := by
  unfold State.thawEnds
  dsimp only
  split
  · apply State.emptySlot_still
    apply State.dropNotices_still
    apply State.clearKey_still
    apply State.requestsCancelled_still
    split
    · apply State.outcome_still
      assumption
    · assumption
  · apply State.setPhase_still
    apply State.modCtx_still
    split
    · apply State.outcome_still
      assumption
    · assumption

theorem State.thawRefused_still {s0 s : State} (k : Fin 16) (h : Still s0 s) : Still s0 (State.thawRefused s k) := by
  unfold State.thawRefused
  dsimp only
  apply State.thawEnds_still
  split
  · apply State.sendOthers_still
    assumption
  · assumption

theorem State.restoreEnd_still {s0 s : State} (k : Fin 16) (i : FreezeImageRef) (h : Still s0 s) : Still s0 (State.restoreEnd s k i) := by
  unfold State.restoreEnd
  dsimp only
  split
  · split
    · assumption
    · split
      · split
        · apply State.sendCtrl_still
          apply State.modCtx_still
          apply State.unpackContext_still
          split
          · apply State.setCtx_still
            with_reducible refine Still.upd ?_ rfl
            assumption
          · with_reducible refine Still.upd ?_ rfl
            assumption
        · apply State.modCtx_still
          apply State.modCtx_still
          apply State.unpackContext_still
          split
          · apply State.setCtx_still
            with_reducible refine Still.upd ?_ rfl
            assumption
          · with_reducible refine Still.upd ?_ rfl
            assumption
      · split
        · apply State.thawRefused_still
          apply State.sendCtrl_still
          with_reducible refine Still.upd ?_ rfl
          assumption
        · apply State.thawRefused_still
          with_reducible refine Still.upd ?_ rfl
          assumption
  · assumption

theorem State.releaseCancels_still {s0 s : State} (k : Fin 16) (f : Nat) (h : Still s0 s) : Still s0 (State.releaseCancels s k f) := by
  unfold State.releaseCancels
  dsimp only
  refine Still.foldl ?_ ?_
  · intro s1 x1 h1
    refine Still.foldl ?_ ?_
    · intro s1 x1 h1
      apply State.sendMsg_still
      assumption
    · assumption
  · apply State.modCtx_still
    assumption

theorem State.resumeThaw_still {s0 s : State} (k : Fin 16) (h : Still s0 s) : Still s0 (State.resumeThaw s k) := by
  unfold State.resumeThaw
  dsimp only
  split
  · split
    · apply State.releaseCancels_still
      split
      · apply State.outcome_still
        apply State.loadKeys_still
        apply State.runCores_still
        apply State.setPhase_still
        with_reducible refine Still.upd ?_ rfl
        apply State.setCtx_still
        assumption
      · apply State.loadKeys_still
        apply State.runCores_still
        apply State.setPhase_still
        with_reducible refine Still.upd ?_ rfl
        apply State.setCtx_still
        assumption
    · assumption
  · assumption

theorem State.freezePending_still {s0 s : State} (k : Fin 16) (h : Still s0 s) : Still s0 (State.freezePending s k) := by
  unfold State.freezePending
  dsimp only
  split
  · split
    · split
      · apply State.sendAll_still
        apply State.setCtx_still
        assumption
      · apply State.setCtx_still
        assumption
    · apply State.modCtx_still
      apply State.setCtx_still
      assumption
  · assumption

end Sys2Proof.Machine
end

