-- ==== Sys2Proof/Laws/StillControl.lean ====
section
/-! SUPPORT. The operations of Machine/Control.lean that leave the position in time alone (`Still`). -/

namespace Sys2Proof.Machine

theorem State.reportEffect_still {s0 s : State} (k : Fin 16) (sender : Nat) (step : Nat) (b : Nat) (r1 : Nat) (r2 : Nat) (h : Still s0 s) : Still s0 (State.reportEffect s k sender step b r1 r2) := by
  unfold State.reportEffect
  dsimp only
  apply State.modCtx_still
  assumption

theorem State.blockedEffect_still {s0 s : State} (k : Fin 16) (sender : Nat) (blocked : Bool) (h : Still s0 s) : Still s0 (State.blockedEffect s k sender blocked) := by
  unfold State.blockedEffect
  dsimp only
  apply State.modCtx_still
  assumption

theorem State.cancelOutcomes_still {s0 s : State} (k : Fin 16) (step : Nat) (reason : Nat) (h : Still s0 s) : Still s0 (State.cancelOutcomes s k step reason) := by
  unfold State.cancelOutcomes
  dsimp only
  refine Still.foldl ?_ ?_
  · intro s1 x1 h1
    apply State.result_still
    assumption
  · apply State.setCtx_still
    assumption

theorem State.cancelEffect_still {s0 s : State} (k : Fin 16) (step : Nat) (h : Still s0 s) : Still s0 (State.cancelEffect s k step) := by
  unfold State.cancelEffect
  dsimp only
  apply State.cancelOutcomes_still
  split
  · split
    · apply State.modCtx_still
      apply State.cancelStep_still
      apply State.modCtx_still
      assumption
    · apply State.cancelStep_still
      apply State.modCtx_still
      assumption
  · split
    · apply State.modCtx_still
      apply State.cancelStep_still
      assumption
    · apply State.cancelStep_still
      assumption

theorem State.freezeEffect_still {s0 s : State} (k : Fin 16) (f : Nat) (h : Still s0 s) : Still s0 (State.freezeEffect s k f) := by
  unfold State.freezeEffect
  dsimp only
  split
  · split
    · apply State.setCtx_still
      assumption
    · apply State.setCtx_still
      assumption
  · assumption

theorem State.thawEffect_still {s0 s : State} (k : Fin 16) (h : Still s0 s) : Still s0 (State.thawEffect s k) := by
  unfold State.thawEffect
  dsimp only
  split
  · split
    · apply State.restoreBegin_still
      apply State.setPhase_still
      apply State.modCtx_still
      assumption
    · split
      · apply State.restoreBegin_still
        apply State.setPhase_still
        apply State.modCtx_still
        apply State.modCtx_still
        assumption
      · apply State.sendCtrl_still
        apply State.modCtx_still
        assumption
  · split
    · split
      · apply State.modCtx_still
        apply State.modCtx_still
        assumption
      · apply State.restoreBegin_still
        apply State.modCtx_still
        assumption
    · split
      · apply State.raise_still
        apply State.modCtx_still
        apply State.modCtx_still
        assumption
      · apply State.modCtx_still
        assumption

theorem State.restoredEffect_still {s0 s : State} (k : Fin 16) (sender : Nat) (ok : Bool) (h : Still s0 s) : Still s0 (State.restoredEffect s k sender ok) := by
  unfold State.restoredEffect
  dsimp only
  split
  · split
    · apply State.releaseCancels_still
      apply State.sendAll_still
      apply State.modCtx_still
      assumption
    · apply State.sendAll_still
      apply State.modCtx_still
      assumption
  · apply State.modCtx_still
    assumption

theorem State.resumeEffect_still {s0 s : State} (k : Fin 16) (z : Nat) (h : Still s0 s) : Still s0 (State.resumeEffect s k z) := by
  unfold State.resumeEffect
  dsimp only
  split
  · split
    · apply State.thawRefused_still
      assumption
    · apply State.setCtx_still
      assumption
  · apply State.setCtx_still
    assumption
  · split
    · apply State.setCtx_still
      assumption
    · assumption
  · apply State.setCtx_still
    assumption
  · assumption

theorem State.teardownEffect_still {s0 s : State} (k : Fin 16) (sender : Nat) (code : Nat) (member : Nat) (h : Still s0 s) : Still s0 (State.teardownEffect s k sender code member) := by
  unfold State.teardownEffect
  dsimp only
  split
  · apply State.sendAll_still
    assumption
  · apply State.beginTeardown_still
    apply State.fault_still
    assumption

theorem State.haltEffect_still {s0 s : State} (k : Fin 16) (cause : Nat) (bp : Nat) (h : Still s0 s) : Still s0 (State.haltEffect s k cause bp) := by
  unfold State.haltEffect
  split
  · apply State.haltContext_still
    assumption
  · apply State.sendAll_still
    assumption

theorem State.applyCtrl_still {s0 s : State} (k : Fin 16) (sender : Nat) (x : Ctrl) (h : Still s0 s) : Still s0 (State.applyCtrl s k sender x) := by
  unfold State.applyCtrl
  dsimp only
  split
  · exact h
  have noted : Still s0 (if sender = s.headwaterAddr k then s.modCtx k fun c => { c with lastControl := c.tick } else s) := by
    split
    · exact State.modCtx_still _ _ h
    · exact h
  generalize (if sender = s.headwaterAddr k then s.modCtx k fun c => { c with lastControl := c.tick } else s) = u at noted ⊢
  cases x with
  | stepStart step t ch =>
    dsimp only
    split
    · exact State.modCtx_still _ _ noted
    · exact State.stepBoundary_still _ _ _ _ noted
  | stepReport => exact State.reportEffect_still _ _ _ _ _ _ noted
  | blockedReport => exact State.blockedEffect_still _ _ _ noted
  | cancel => exact State.cancelEffect_still _ _ noted
  | freeze => exact State.freezeEffect_still _ _ noted
  | thaw => exact State.thawEffect_still _ noted
  | resume => exact State.resumeEffect_still _ _ noted
  | restoreReport => exact State.restoredEffect_still _ _ _ noted
  | teardown => exact State.teardownEffect_still _ _ _ _ noted
  | lockList => exact State.divergence_still _ _ _ noted
  | lockHalt => exact State.haltEffect_still _ _ _ noted
  | haltRelay => exact State.haltEffect_still _ _ _ noted
  | _ => exact noted

theorem State.controlDue_still {s0 s : State} (k : Fin 16) (h : Still s0 s) : Still s0 (State.controlDue s k) := by
  unfold State.controlDue
  dsimp only
  split
  · assumption
  · split
    · assumption
    · refine Still.foldl ?_ ?_
      · intro s1 x1 h1
        apply State.applyCtrl_still
        assumption
      · apply State.dropCtrlDue_still
        assumption

theorem State.applySetFlag_still {s0 s : State} (k : Fin 16) (w : Waiting) (step : Nat) (node : Nat) (flags : BitVec 32) (h : Still s0 s) : Still s0 (State.applySetFlag s k w step node flags) := by
  unfold State.applySetFlag
  dsimp only
  split
  · split
    · apply State.result_still
      assumption
    · split
      · apply State.result_still
        assumption
      · apply State.result_still
        apply State.modCtx_still
        assumption
  · split
    · split
      · split
        · apply State.result_still
          assumption
        · apply State.result_still
          apply State.modCtx_still
          assumption
      · split
        · apply State.result_still
          assumption
        · apply State.result_still
          apply State.modCtx_still
          assumption
    · apply State.result_still
      assumption

theorem State.takeImport_still {s0 s : State} (k : Fin 16) (w : Waiting) (due : Nat) (r : ImportReq) (h : Still s0 s) : Still s0 (State.takeImport s k w due r) := by
  unfold State.takeImport
  dsimp only
  split
  · apply State.result_still
    refine State.beginImport_still' (by assumption) ?_
    apply State.modCtx_still
    assumption
  · refine State.beginImport_still' (by assumption) ?_
    apply State.modCtx_still
    assumption

theorem State.submissionsDue_still {s0 s : State} (k : Fin 16) (h : Still s0 s) : Still s0 (State.submissionsDue s k) := by
  unfold State.submissionsDue
  dsimp only
  split
  · assumption
  · refine Still.foldl ?_ ?_
    · intro s1 x1 h1
      split
      · apply State.applySetFlag_still
        assumption
      · assumption
    · apply State.setCtx_still
      assumption

theorem State.importsDue_still {s0 s : State} (k : Fin 16) (h : Still s0 s) : Still s0 (State.importsDue s k) := by
  unfold State.importsDue
  dsimp only
  split
  · assumption
  · refine Still.foldl ?_ ?_
    · intro s1 x1 h1
      split
      · apply State.takeImport_still
        assumption
      · assumption
    · apply State.setCtx_still
      assumption

theorem State.refuse_still {s0 s : State} (h1 : SubHdr) (sub : Sub) (k : Fin 16) (taken : Nat) (reason : Nat) (due : Nat) (h : Still s0 s) : Still s0 (State.refuse s h1 sub k taken reason due) := by
  unfold State.refuse
  apply State.result_still
  assumption

theorem State.holdEnable_still {s0 s : State} (k : Fin 16) (w : Waiting) (due : Nat) (h : Still s0 s) : Still s0 (State.holdEnable s k w due) := by
  unfold State.holdEnable
  dsimp only
  split
  · apply State.refuse_still
    assumption
  · apply State.raise_still
    apply State.setCtx_still
    assumption

theorem State.takeFreeze_still {s0 s : State} (k : Fin 16) (w : Waiting) (addr : Nat) (length : Nat) (due : Nat) (h : Still s0 s) : Still s0 (State.takeFreeze s k w addr length due) := by
  unfold State.takeFreeze
  dsimp only
  split
  · apply State.refuse_still
    assumption
  · split
    · apply State.refuse_still
      assumption
    · split
      · apply State.refuse_still
        assumption
      · split
        · apply State.modCtx_still
          apply State.setCtx_still
          assumption
        · split
          · apply State.freezeEffect_still
            apply State.setCtx_still
            assumption
          · split
            · apply State.sendAll_still
              apply State.setCtx_still
              assumption
            · apply State.setCtx_still
              assumption

theorem State.takeThaw_still {s0 s : State} (k : Fin 16) (w : Waiting) (due : Nat) (h : Still s0 s) : Still s0 (State.takeThaw s k w due) := by
  unfold State.takeThaw
  dsimp only
  split
  · apply State.holdEnable_still
    assumption
  · split
    · apply State.refuse_still
      assumption
    · split
      · apply State.refuse_still
        assumption
      · split
        · apply State.setPhase_still
          apply State.setCtx_still
          assumption
        · split
          · apply State.sendAll_still
            apply State.setCtx_still
            assumption
          · apply State.setCtx_still
            assumption

theorem State.takeCancel_still {s0 s : State} (k : Fin 16) (w : Waiting) (step : Nat) (h : Still s0 s) : Still s0 (State.takeCancel s k w step) := by
  unfold State.takeCancel
  dsimp only
  split
  · apply State.modCtx_still
    apply State.modCtx_still
    assumption
  · split
    · apply State.sendAll_still
      apply State.modCtx_still
      apply State.modCtx_still
      assumption
    · apply State.modCtx_still
      apply State.modCtx_still
      apply State.modCtx_still
      assumption

theorem State.takeStep_still {s0 s : State} (k : Fin 16) (w : Waiting) (template : Nat) (count : Nat) (due : Nat) (h : Still s0 s) : Still s0 (State.takeStep s k w template count due) := by
  unfold State.takeStep
  dsimp only
  split
  · apply State.refuse_still
    assumption
  · apply State.modCtx_still
    assumption

theorem State.takeChange_still {s0 s : State} (k : Fin 16) (w : Waiting) (h : Still s0 s) : Still s0 (State.takeChange s k w) := by
  unfold State.takeChange
  apply State.modCtx_still
  assumption

theorem State.takeTeardown_still {s0 s : State} (k : Fin 16) (w : Waiting) (h : Still s0 s) : Still s0 (State.takeTeardown s k w) := by
  unfold State.takeTeardown
  dsimp only
  split
  · split
    · apply State.faultCode_still
      apply State.modCtx_still
      assumption
    · apply State.modCtx_still
      assumption
  · apply State.faultCode_still
    apply State.modCtx_still
    assumption

theorem State.accept_still {s0 s : State} (h1 : SubHdr) (sub : Sub) (payload : Bytes) (taken : Nat) (due : Nat) (h : Still s0 s) : Still s0 (State.accept s h1 sub payload taken due) := by
  unfold State.accept
  split
  · apply State.result_still
    assumption
  · dsimp only
    split
    · apply State.refuse_still
      assumption
    · split
      · apply State.refuse_still
        assumption
      · split
        · apply State.takeFreeze_still
          assumption
        · apply State.takeThaw_still
          assumption
        · apply State.takeTeardown_still
          assumption
        · apply State.takeCancel_still
          assumption
        · split
          · apply State.takeChange_still
            assumption
          · apply State.refuse_still
            assumption
        · apply State.takeChange_still
          assumption
        · split
          · apply State.refuse_still
            assumption
          · apply State.takeChange_still
            assumption
        · split
          · apply State.takeImport_still
            assumption
          · apply State.modCtx_still
            assumption
        · split
          · apply State.refuse_still
            assumption
          · apply State.modCtx_still
            assumption
        · apply State.pushRec_still
          assumption
        · apply State.takeStep_still
          assumption
        · apply State.refuse_still
          assumption

theorem State.submit_still {s0 s : State} (h1 : SubHdr) (sub : Sub) (h : Still s0 s) : Still s0 (State.submit s h1 sub) := by
  unfold State.submit
  split
  · apply State.accept_still
    apply State.countTaken_still
    assumption
  · assumption

theorem State.fencedRefusal_still {s0 s : State} (h1 : SubHdr) (sub : Sub) (due : Nat) (h : Still s0 s) : Still s0 (State.fencedRefusal s h1 sub due) := by
  unfold State.fencedRefusal
  apply State.result_still
  assumption

theorem execFreeze_still {s s9 : State} {h1 : SubHdr} {addr : Nat} {length : Nat} {release : Bool} (eq : execFreeze h1 addr length release s = .next s9) : Still s s9 := by
  cases eq
  have h := Still.refl s
  apply State.submit_still
  assumption

theorem execTeardown_still {s s9 : State} {h1 : SubHdr} (eq : execTeardown h1 s = .next s9) : Still s s9 := by
  cases eq
  have h := Still.refl s
  apply State.submit_still
  assumption

theorem execCancel_still {s s9 : State} {h1 : SubHdr} {step : Nat} (eq : execCancel h1 step s = .next s9) : Still s s9 := by
  cases eq
  have h := Still.refl s
  apply State.submit_still
  assumption

theorem execJoin_still {s s9 : State} {h1 : SubHdr} {r : JoinReq} (eq : execJoin h1 r s = .next s9) : Still s s9 := by
  cases eq
  have h := Still.refl s
  apply State.submit_still
  assumption

theorem execLeave_still {s s9 : State} {h1 : SubHdr} {r : LeaveReq} (eq : execLeave h1 r s = .next s9) : Still s s9 := by
  cases eq
  have h := Still.refl s
  apply State.submit_still
  assumption

theorem execImportSeq_still {s s9 : State} {h1 : SubHdr} {r : ImportReq} (eq : execImportSeq h1 r s = .next s9) : Still s s9 := by
  cases eq
  have h := Still.refl s
  apply State.submit_still
  assumption

theorem execAppendCount_still {s s9 : State} {h1 : SubHdr} {globalId : Nat} {tokens : Nat} (eq : execAppendCount h1 globalId tokens s = .next s9) : Still s s9 := by
  cases eq
  have h := Still.refl s
  apply State.submit_still
  assumption

theorem execSetFlag_still {s s9 : State} {h1 : SubHdr} {step : Nat} {node : Nat} {flags : BitVec 32} (eq : execSetFlag h1 step node flags s = .next s9) : Still s s9 := by
  cases eq
  have h := Still.refl s
  apply State.submit_still
  assumption

theorem execRunRecord_still {s s9 : State} {h1 : SubHdr} (eq : execRunRecord h1 s = .next s9) : Still s s9 := by
  cases eq
  have h := Still.refl s
  apply State.submit_still
  assumption

theorem execStep_still {s s9 : State} {h1 : SubHdr} {template : Nat} {count : Nat} (eq : execStep h1 template count s = .next s9) : Still s s9 := by
  cases eq
  have h := Still.refl s
  apply State.submit_still
  assumption

end Sys2Proof.Machine
end

