-- ==== Sys2Proof/Laws/StillImage.lean ====
section
/-! SUPPORT. The operations of Machine/Image.lean that leave the position in time alone (`Still`). -/

namespace Sys2Proof.Machine

theorem State.takeImage_still {s0 s : State} (k : Fin 16) (fast : Bool) (i : Image) (h : Still s0 s) : Still s0 (State.takeImage s k fast i) := by
  unfold State.takeImage
  dsimp only
  with_reducible refine Still.upd ?_ rfl
  apply State.setCtx_still
  assumption

end Sys2Proof.Machine
end

