-- ==== Sys2Proof/Laws/StillManifest.lean ====
section
/-! SUPPORT. The operations of Machine/Manifest.lean that leave the position in time alone (`Still`). -/

namespace Sys2Proof.Machine

theorem State.sendLaunch_still {s0 s : State} (k : Fin 16) (dest : Nat) (x : Ctrl) (h : Still s0 s) : Still s0 (State.sendLaunch s k dest x) := by
  unfold State.sendLaunch
  dsimp only
  split
  · apply State.setCatch_still
    assumption
  · apply State.sendMsg_still
    assumption

theorem State.refuseMsg_still {s0 s : State} (m : Manifest) (code : Nat) (h : Still s0 s) : Still s0 (State.refuseMsg s m code) := by
  unfold State.refuseMsg
  split
  · split
    · assumption
    · apply State.linkSend_still
      assumption
  · assumption

theorem State.takeManifest_still {s0 s : State} (h1 : SubHdr) (b : Bytes) (due : Nat) (h : Still s0 s) : Still s0 (State.takeManifest s h1 b due) := by
  unfold State.takeManifest
  split
  · apply State.refuseMsg_still
    apply State.result_still
    assumption
  · dsimp only
    split
    · split
      · apply State.sendMsg_still
        apply State.result_still
        apply State.raise_still
        apply State.horizonWeirs_still
        apply State.setCatch_still
        assumption
      · apply State.result_still
        apply State.raise_still
        apply State.horizonWeirs_still
        apply State.setCatch_still
        assumption
    · apply State.result_still
      apply State.raise_still
      apply State.horizonWeirs_still
      apply State.setCatch_still
      assumption

theorem execManifest_still {s s9 : State} {h1 : SubHdr} {bytes : Bytes} (eq : execManifest h1 bytes s = .next s9) : Still s s9 := by
  cases eq
  have h := Still.refl s
  split
  · assumption
  · split
    · apply State.fencedRefusal_still
      apply State.countTaken_still
      assumption
    · apply State.takeManifest_still
      apply State.countTaken_still
      assumption

theorem State.launchMsg_still {s0 s : State} (h1 : MsgHdr) (peer : Bool) (x : Ctrl) (h : Still s0 s) : Still s0 (State.launchMsg s h1 peer x) := by
  unfold State.launchMsg
  split
  · apply State.stray_still
    assumption
  · dsimp only
    apply State.setCatch_still
    assumption

theorem execJoinMessage_still {s s9 : State} {h1 : MsgHdr} {index : Nat} {hash : Nat} {summary : MemberSummary} (eq : execJoinMessage h1 index hash summary s = .next s9) : Still s s9 := by
  cases eq
  have h := Still.refl s
  apply State.launchMsg_still
  assumption

theorem execRefuse_still {s s9 : State} {h1 : MsgHdr} {index : Nat} {reason : Nat} (eq : execRefuse h1 index reason s = .next s9) : Still s s9 := by
  cases eq
  have h := Still.refl s
  apply State.launchMsg_still
  assumption

theorem execConfirm_still {s s9 : State} {m : ConfirmMsg} (eq : execConfirm m s = .next s9) : Still s s9 := by
  cases eq
  have h := Still.refl s
  apply State.launchMsg_still
  assumption

theorem execAbort_still {s s9 : State} {h1 : MsgHdr} (eq : execAbort h1 s = .next s9) : Still s s9 := by
  cases eq
  have h := Still.refl s
  apply State.launchMsg_still
  assumption

theorem execLockstepHello_still {s s9 : State} {h1 : MsgHdr} {horizon : Nat} {launch : Nat} {index : Nat} (eq : execLockstepHello h1 horizon launch index s = .next s9) : Still s s9 := by
  cases eq
  have h := Still.refl s
  apply State.launchMsg_still
  assumption

theorem State.launchEffect_still {s0 s : State} (k : Fin 16) (sender : Nat) (x : Ctrl) (h : Still s0 s) : Still s0 (State.launchEffect s k sender x) := by
  unfold State.launchEffect
  dsimp only
  split
  · apply State.setCatch_still
    assumption
  · apply State.setCatch_still
    assumption
  · apply State.setCatch_still
    assumption
  · apply State.setCatch_still
    assumption
  · split
    · split
      · assumption
      · apply State.sendLaunch_still
        assumption
    · assumption
  · assumption

theorem State.launchEffects_still {s0 s : State} (k : Fin 16) (h : Still s0 s) : Still s0 (State.launchEffects s k) := by
  unfold State.launchEffects
  dsimp only
  split
  · assumption
  · refine Still.foldl ?_ ?_
    · intro s1 x1 h1
      apply State.launchEffect_still
      assumption
    · apply State.setCatch_still
      assumption

theorem State.firstBatch_still {s0 s : State} (k : Fin 16) (h : Still s0 s) : Still s0 (State.firstBatch s k).1 := by
  unfold State.firstBatch
  split
  · assumption
  · apply State.buildChanges_still
    apply State.modCtx_still
    assumption

theorem State.firstBatch_still' {s0 s s9 : State} {k : Fin 16} {r9 : _} (eq : State.firstBatch s k = (s9, r9)) (h : Still s0 s) : Still s0 s9 := by
  have := State.firstBatch_still k h
  rwa [eq] at this

theorem State.launchDecision_still {s0 s : State} (k : Fin 16) (h : Still s0 s) : Still s0 (State.launchDecision s k) := by
  unfold State.launchDecision
  dsimp only
  split
  · assumption
  · split
    · assumption
    · refine Still.foldl ?_ ?_
      · intro s1 x1 h1
        apply State.sendLaunch_still
        assumption
      · split
        · apply State.firstBatch_still
          apply State.setCatch_still
          assumption
        · dsimp only
          apply State.setCatch_still
          assumption

theorem State.dropLoading_still {s0 s : State} (k : Fin 16) (j : Fin 16) (h : Still s0 s) : Still s0 (State.dropLoading s k j) := by
  unfold State.dropLoading
  dsimp only
  split
  · apply State.emptySlot_still
    apply State.clearKey_still
    apply State.requestsCancelled_still
    split
    · apply State.result_still
      assumption
    · assumption
  · assumption

theorem State.launchAbort_still {s0 s : State} (k : Fin 16) (h : Still s0 s) : Still s0 (State.launchAbort s k) := by
  unfold State.launchAbort
  dsimp only
  split
  · split
    · assumption
    · apply State.raise_still
      apply State.setCatch_still
      refine Still.foldl ?_ ?_
      · intro s1 x1 h1
        apply State.dropLoading_still
        assumption
      · split
        · apply State.fault_still
          assumption
        · apply State.pushRec_still
          assumption
  · assumption

theorem State.commitCheck_still {s0 s : State} (k : Fin 16) (h : Still s0 s) : Still s0 (State.commitCheck s k) := by
  unfold State.commitCheck
  dsimp only
  split
  · assumption
  · split
    · apply State.setCatch_still
      assumption
    · split
      · apply State.raise_still
        apply State.pageError_still
        apply State.setCatch_still
        assumption
      · split
        · apply State.raise_still
          apply State.pageError_still
          apply State.setCatch_still
          assumption
        · apply State.raise_still
          apply State.setCatch_still
          assumption

theorem State.releaseCheck_still {s0 s : State} (k : Fin 16) (h : Still s0 s) : Still s0 (State.releaseCheck s k) := by
  unfold State.releaseCheck
  dsimp only
  split
  · assumption
  · split
    · apply State.pageError_still
      apply State.setCatch_still
      assumption
    · split
      · apply State.raise_still
        apply State.setCatch_still
        assumption
      · apply State.setCatch_still
        assumption

theorem State.writeCommit_still {s0 s : State} (k : Fin 16) (commit : Bool) (release : Bool) (priv : Nat) (h : Still s0 s) : Still s0 (State.writeCommit s k commit release priv) := by
  unfold State.writeCommit
  dsimp only
  apply State.setCatch_still
  assumption

end Sys2Proof.Machine
end

