-- ==== Sys2Proof/Laws/StillLoad.lean ====
section
/-! SUPPORT. The operations of Machine/Load.lean that leave the position in time alone (`Still`). -/

namespace Sys2Proof.Machine

theorem State.bindCatch_still {s0 s : State} (k : Fin 16) (e : Fin 16) (rota : Nat) (h : Still s0 s) : Still s0 (State.bindCatch s k e rota) := by
  unfold State.bindCatch
  dsimp only
  apply State.modCtx_still
  assumption

theorem State.loadRefused_still {s0 s : State} (k : Fin 16) (w : Waiting) (reason : Nat) (due : Nat) (h : Still s0 s) : Still s0 (State.loadRefused s k w reason due) := by
  unfold State.loadRefused
  dsimp only
  apply State.emptySlot_still
  apply State.clearKey_still
  apply State.requestsCancelled_still
  split
  · split
    · apply State.sendOthers_still
      apply State.log_still
      apply State.result_still
      assumption
    · apply State.log_still
      apply State.result_still
      assumption
  · split
    · apply State.sendOthers_still
      apply State.result_still
      assumption
    · apply State.result_still
      assumption

theorem State.takeLoad_still {s0 s : State} (h1 : SubHdr) (r : LoadReq) (due : Nat) (h : Still s0 s) : Still s0 (State.takeLoad s h1 r due) := by
  unfold State.takeLoad
  dsimp only
  split
  · apply State.result_still
    assumption
  · split
    · apply State.holdEnable_still
      assumption
    · apply State.result_still
      assumption
    · split
      · apply State.loadRefused_still
        apply State.setPhase_still
        apply State.modCtx_still
        assumption
      · split
        · split
          · apply State.loadRefused_still
            apply State.setPhase_still
            apply State.modCtx_still
            assumption
          · apply State.bindCatch_still
            apply State.setPhase_still
            apply State.modCtx_still
            assumption
        · split
          · apply State.loadRefused_still
            apply State.setPhase_still
            apply State.modCtx_still
            assumption
          · apply State.bindCatch_still
            apply State.setPhase_still
            apply State.modCtx_still
            assumption
        · split
          · apply State.loadRefused_still
            apply State.setPhase_still
            apply State.modCtx_still
            assumption
          · apply State.bindCatch_still
            apply State.setPhase_still
            apply State.modCtx_still
            assumption

theorem execLoad_still {s s9 : State} {h1 : SubHdr} {r : LoadReq} (eq : execLoad h1 r s = .next s9) : Still s s9 := by
  cases eq
  have h := Still.refl s
  split
  · assumption
  · split
    · apply State.fencedRefusal_still
      apply State.countTaken_still
      assumption
    · apply State.takeLoad_still
      apply State.countTaken_still
      assumption

theorem State.takeReleasedThaw_still {s0 s : State} (h1 : SubHdr) (r : ThawReq) (due : Nat) (h : Still s0 s) : Still s0 (State.takeReleasedThaw s h1 r due) := by
  unfold State.takeReleasedThaw
  dsimp only
  split
  · apply State.holdEnable_still
    assumption
  · apply State.result_still
    assumption
  · split
    · apply State.loadRefused_still
      apply State.setPhase_still
      apply State.modCtx_still
      assumption
    · split
      · apply State.loadRefused_still
        apply State.setPhase_still
        apply State.modCtx_still
        assumption
      · apply State.bindCatch_still
        apply State.setPhase_still
        apply State.modCtx_still
        assumption

theorem State.takeAnyThaw_still {s0 s : State} (h1 : SubHdr) (r : ThawReq) (taken : Nat) (due : Nat) (h : Still s0 s) : Still s0 (State.takeAnyThaw s h1 r taken due) := by
  unfold State.takeAnyThaw
  split
  · apply State.accept_still
    assumption
  · split
    · apply State.result_still
      assumption
    · apply State.takeReleasedThaw_still
      assumption

theorem execThaw_still {s s9 : State} {h1 : SubHdr} {r : ThawReq} (eq : execThaw h1 r s = .next s9) : Still s s9 := by
  cases eq
  have h := Still.refl s
  split
  · assumption
  · split
    · apply State.fencedRefusal_still
      apply State.countTaken_still
      assumption
    · apply State.takeAnyThaw_still
      apply State.countTaken_still
      assumption

theorem State.loadChecks_still {s0 s : State} (k : Fin 16) (w : Waiting) (blob image : Bytes) (named : Nat) (fast : Bool)
    (conflict : Image → Bool) (go : State → State) (hgo : ∀ s, Still s0 s → Still s0 (go s)) (h : Still s0 s) :
    Still s0 (State.loadChecks s k w blob image named fast conflict go) := by
  unfold State.loadChecks
  split
  · apply State.loadRefused_still
    assumption
  · dsimp only
    split
    · apply State.loadRefused_still
      with_reducible refine Still.upd ?_ rfl
      assumption
    · split
      · apply State.loadRefused_still
        with_reducible refine Still.upd ?_ rfl
        assumption
      · refine hgo _ ?_
        apply State.takeImage_still
        with_reducible refine Still.upd ?_ rfl
        assumption

theorem State.loadReady_still {s0 s : State} (k : Fin 16) (h : Still s0 s) : Still s0 (State.loadReady s k) := by
  unfold State.loadReady
  dsimp only
  split
  · apply State.setCatch_still
    apply State.sendLaunch_still
    apply State.modCtx_still
    assumption
  · apply State.modCtx_still
    assumption

theorem State.loadComplete_still {s0 s : State} (k : Fin 16) (cache : BitVec 64) (image : Bytes) (peerGraph : Option Bytes) (h : Still s0 s) : Still s0 (State.loadComplete s k cache image peerGraph) := by
  unfold State.loadComplete
  dsimp only
  split
  · assumption
  · split
    · split
      · split
        · assumption
        · refine State.loadChecks_still _ _ _ _ _ _ _ _ ?_ ?_
          · intro s1 h1
            apply State.loadReady_still
            assumption
          · assumption
      · assumption
    · split
      · split
        · assumption
        · refine State.loadChecks_still _ _ _ _ _ _ _ _ ?_ ?_
          · intro s1 h1
            split
            · apply State.sendAll_still
              apply State.modCtx_still
              assumption
            · apply State.modCtx_still
              assumption
          · assumption
      · assumption
    · assumption

theorem execLoadComplete_still {s s9 : State} {slot : Fin 16} {cache : BitVec 64} {input : LoadInput} (eq : execLoadComplete slot cache input s = .next s9) : Still s s9 := by
  cases eq
  have h := Still.refl s
  apply State.loadComplete_still
  assumption

theorem State.takePending_still {s0 s : State} (k : Fin 16) (h : Still s0 s) : Still s0 (State.takePending s k) := by
  unfold State.takePending
  dsimp only
  split
  · assumption
  · split
    · assumption
    · split
      · apply State.takeLoad_still
        apply State.setCtx_still
        assumption
      · apply State.takeAnyThaw_still
        apply State.setCtx_still
        assumption
      · apply State.setCtx_still
        assumption

theorem State.thawMessage_still {s0 s : State} (k : Fin 16) (h : Still s0 s) : Still s0 (State.thawMessage s k) := by
  unfold State.thawMessage
  dsimp only
  split
  · apply State.thawEffect_still
    apply State.setCtx_still
    assumption
  · assumption

theorem State.freezeScrubEnd_still {s0 s : State} (k : Fin 16) (h : Still s0 s) : Still s0 (State.freezeScrubEnd s k) := by
  unfold State.freezeScrubEnd
  dsimp only
  split
  · apply State.thawMessage_still
    apply State.takePending_still
    apply State.freezeEnd_still
    assumption
  · apply State.freezeEnd_still
    assumption

end Sys2Proof.Machine
end

