-- ==== Sys2Proof/Laws/StillSteward.lean ====
section
/-! SUPPORT. The operations of Machine/Steward.lean that leave the position in time alone (`Still`). -/

namespace Sys2Proof.Machine

theorem State.accessError_still {s0 s : State} (page : Fin 64) (code : Nat) (p : Priv) (offset : Nat) (h : Still s0 s) : Still s0 (State.accessError s page code p offset) := by
  unfold State.accessError
  apply State.pageError_still
  assumption

theorem State.heartbeat_still {s0 s : State} (p : Priv) (value : Word) (h : Still s0 s) : Still s0 (State.heartbeat s p value) := by
  unfold State.heartbeat
  split
  · apply State.accessError_still
    assumption
  · dsimp only
    with_reducible refine Still.upd ?_ rfl
    assumption

theorem State.heartbeatLate_still {s0 s : State} (h : Still s0 s) : Still s0 (State.heartbeatLate s) := by
  unfold State.heartbeatLate
  split
  · apply State.raise_still
    with_reducible refine Still.upd ?_ rfl
    assumption
  · assumption

theorem execHeartbeatLate_still {s s9 : State} (eq : execHeartbeatLate s = .next s9) : Still s s9 := by
  cases eq
  have h := Still.refl s
  apply State.heartbeatLate_still
  assumption

theorem State.stewardWatchdog_still {s0 s : State} (h : Still s0 s) : Still s0 (State.stewardWatchdog s) := by
  unfold State.stewardWatchdog
  split
  · apply State.fence_still
    assumption
  · assumption

theorem execStewardWatchdog_still {s s9 : State} (eq : execStewardWatchdog s = .next s9) : Still s s9 := by
  cases eq
  have h := Still.refl s
  apply State.stewardWatchdog_still
  assumption

theorem State.takeFirmware_still {s0 s : State} (h1 : SubHdr) (b : Bytes) (due : Nat) (h : Still s0 s) : Still s0 (State.takeFirmware s h1 b due) := by
  unfold State.takeFirmware
  dsimp only
  split
  · apply State.result_still
    apply State.log_still
    assumption
  · apply State.result_still
    apply State.log_still
    apply State.raise_still
    with_reducible refine Still.upd ?_ rfl
    assumption

theorem execFwUpdate_still {s s9 : State} {h1 : SubHdr} {image : Bytes} (eq : execFwUpdate h1 image s = .next s9) : Still s s9 := by
  cases eq
  have h := Still.refl s
  split
  · apply State.takeFirmware_still
    apply State.countTaken_still
    assumption
  · assumption

theorem State.fwActivate_still {s0 s : State} (h : Still s0 s) : Still s0 (State.fwActivate s) := by
  unfold State.fwActivate
  split
  · assumption
  · dsimp only
    split
    · assumption
    · apply State.pushRec_still
      with_reducible refine Still.upd ?_ rfl
      apply State.raise_still
      apply State.log_still
      assumption

theorem execFwActivate_still {s s9 : State} (eq : execFwActivate s = .next s9) : Still s s9 := by
  cases eq
  have h := Still.refl s
  apply State.fwActivate_still
  assumption

theorem State.fwReverted_still {s0 s : State} (h : Still s0 s) : Still s0 (State.fwReverted s) := by
  unfold State.fwReverted
  split
  · dsimp only
    apply State.pushRec_still
    with_reducible refine Still.upd ?_ rfl
    apply State.raise_still
    apply State.log_still
    assumption
  · assumption

theorem execFwReverted_still {s s9 : State} (eq : execFwReverted s = .next s9) : Still s s9 := by
  cases eq
  have h := Still.refl s
  apply State.fwReverted_still
  assumption

theorem State.logicFault_still {s0 s : State} (a__internal_hyg0 : LogicFault) (h : Still s0 s) : Still s0 (State.logicFault s a__internal_hyg0) := by
  unfold State.logicFault
  split
  · apply State.fence_still
    assumption
  · apply State.fence_still
    with_reducible refine Still.upd ?_ rfl
    assumption
  · apply State.modCtx_still
    assumption

theorem State.memoryError_still {s0 s : State} (e : SramError) (h : Still s0 s) : Still s0 (State.memoryError s e) := by
  unfold State.memoryError
  dsimp only
  split
  · split
    · assumption
    · split
      · apply State.raise_still
        with_reducible refine Still.upd ?_ rfl
        apply State.raise_still
        with_reducible refine Still.upd ?_ rfl
        assumption
      · apply State.raise_still
        with_reducible refine Still.upd ?_ rfl
        assumption
  · split
    · apply State.fence_still
      split
      · assumption
      · with_reducible refine Still.upd ?_ rfl
        assumption
    · split
      · split
        · assumption
        · with_reducible refine Still.upd ?_ rfl
          assumption
      · split
        · apply State.fault_still
          split
          · assumption
          · with_reducible refine Still.upd ?_ rfl
            assumption
        · split
          · assumption
          · apply State.fence_still
            with_reducible refine Still.upd ?_ rfl
            assumption

theorem State.sramError_still {s0 s : State} (e : SramError) (h : Still s0 s) : Still s0 (State.sramError s e) := by
  unfold State.sramError
  split
  · apply State.logicFault_still
    assumption
  · apply State.memoryError_still
    assumption

theorem execSramError_still {s s9 : State} {e : SramError} (eq : execSramError e s = .next s9) : Still s s9 := by
  cases eq
  have h := Still.refl s
  apply State.sramError_still
  assumption

end Sys2Proof.Machine
end

