-- ==== Sys2Proof/Laws/StillBoundary.lean ====
section
/-! SUPPORT. The operations of Machine/Boundary.lean that leave the position in time alone (`Still`). -/

namespace Sys2Proof.Machine

theorem State.countPorts_still {s0 s : State} (b : BoundaryIn) (h : Still s0 s) : Still s0 (State.countPorts s b) := by
  unfold State.countPorts
  split
  · dsimp only
    with_reducible refine Still.upd ?_ rfl
    assumption
  · assumption

theorem State.regionFault_still {s0 s : State} (x : Nat × Nat × Bytes) (h : Still s0 s) : Still s0 (State.regionFault s x) := by
  unfold State.regionFault
  dsimp only
  apply State.modCore_still
  assumption

theorem State.countBusy_still {s0 s : State} (h : Still s0 s) : Still s0 (State.countBusy s) := by
  unfold State.countBusy
  split
  · dsimp only
    with_reducible refine Still.upd ?_ rfl
    assumption
  · assumption

theorem State.slotPassed_still {s0 s : State} (h : Still s0 s) : Still s0 (State.slotPassed s) := by
  unfold State.slotPassed
  dsimp only
  with_reducible refine Still.upd ?_ rfl
  apply State.countBusy_still
  apply State.threadSlot_still
  assumption

theorem State.pageDisables_still {s0 s : State} (h : Still s0 s) : Still s0 (State.pageDisables s) := by
  unfold State.pageDisables
  with_reducible refine Still.upd ?_ rfl
  assumption

theorem State.pageBoundary_still {s0 s : State} (h : Still s0 s) : Still s0 (State.pageBoundary s) := by
  unfold State.pageBoundary
  with_reducible refine Still.upd ?_ rfl
  assumption

theorem State.extActions_still {s0 s : State} (h : Still s0 s) : Still s0 (State.extActions s) := by
  unfold State.extActions
  dsimp only
  split
  · refine Still.foldl ?_ ?_
    · intro s1 x1 h1
      apply State.trigger_still
      assumption
    · split
      · refine Still.foldl ?_ ?_
        · intro s1 x1 h1
          split
          · apply State.haltContext_still
            apply State.modCtx_still
            assumption
          · assumption
        · with_reducible refine Still.upd ?_ rfl
          assumption
      · with_reducible refine Still.upd ?_ rfl
        assumption
  · split
    · refine Still.foldl ?_ ?_
      · intro s1 x1 h1
        split
        · apply State.haltContext_still
          apply State.modCtx_still
          assumption
        · assumption
      · with_reducible refine Still.upd ?_ rfl
        assumption
    · with_reducible refine Still.upd ?_ rfl
      assumption

theorem State.beforeSwitch_still {s0 s : State} (k : Fin 16) (h : Still s0 s) : Still s0 (State.beforeSwitch s k) := by
  unfold State.beforeSwitch
  split
  · dsimp only
    split
    · apply State.compareCopies_still
      apply State.stagingBoundary_still
      apply State.routingBoundary_still
      apply State.cancelBoundary_still
      assumption
    · apply State.releaseThreads_still
      apply State.modCtx_still
      apply State.compareCopies_still
      apply State.stagingBoundary_still
      apply State.routingBoundary_still
      apply State.cancelBoundary_still
      assumption
  · assumption

theorem State.afterSwitch_still {s0 s : State} (k : Fin 16) (h : Still s0 s) : Still s0 (State.afterSwitch s k) := by
  unfold State.afterSwitch
  apply State.sweep_still
  apply State.completeSteps_still
  apply State.resolve_still
  assumption

theorem State.dispatch_still {s0 s : State} (h : Still s0 s) : Still s0 (State.dispatch s) := by
  unfold State.dispatch
  dsimp only
  refine Still.foldl ?_ ?_
  · intro s1 x1 h1
    apply State.afterSwitch_still
    assumption
  · refine Still.foldl ?_ ?_
    · intro s1 x1 h1
      apply State.threadSwitch_still
      assumption
    · refine Still.foldl ?_ ?_
      · intro s1 x1 h1
        apply State.beforeSwitch_still
        assumption
      · assumption

theorem State.startSlot_still {s0 s : State} (h : Still s0 s) : Still s0 (State.startSlot s) := by
  unfold State.startSlot
  dsimp only
  apply State.dispatch_still
  refine Still.foldl ?_ ?_
  · intro s1 x1 h1
    apply State.sealCheck_still
    assumption
  · apply State.work_still
    apply State.startAll_still
    refine Still.foldl ?_ ?_
    · intro s1 x1 h1
      split
      · apply State.scrubDue_still
        assumption
      · assumption
    · assumption

theorem State.closeSteps_still {s0 s : State} (h : Still s0 s) : Still s0 (State.closeSteps s) := by
  unfold State.closeSteps
  refine Still.foldl ?_ ?_
  · intro s1 x1 h1
    dsimp only
    split
    · apply State.freeCancelled_still
      apply State.completeSteps_still
      assumption
    · apply State.completeSteps_still
      assumption
  · assumption

theorem State.endAll_still {s0 s : State} (h : Still s0 s) : Still s0 (State.endAll s) := by
  unfold State.endAll
  apply State.closeSteps_still
  apply State.ends_still
  assumption

theorem State.threadEnds_still {s0 s : State} (h : Still s0 s) : Still s0 (State.threadEnds s) := by
  unfold State.threadEnds
  apply State.closeSteps_still
  apply State.framesLoaded_still
  apply State.threadCommands_still
  assumption

theorem State.resumeHere_still {s0 s : State} (k : Fin 16) (h : Still s0 s) : Still s0 (State.resumeHere s k) := by
  unfold State.resumeHere
  split
  · apply State.resumeHalt_still
    assumption
  · assumption

end Sys2Proof.Machine
end

