-- ==== Sys2Proof/Laws/StillRotation.lean ====
section
/-! SUPPORT. The operations of Machine/Rotation.lean that leave the position in time alone (`Still`). -/

namespace Sys2Proof.Machine

theorem State.autoFreeze_still {s0 s : State} (k : Fin 16) (h : Still s0 s) : Still s0 (State.autoFreeze s k) := by
  unfold State.autoFreeze
  dsimp only
  apply State.setCtx_still
  assumption

theorem State.rotate_still {s0 s : State} (e : Fin 16) (k : Fin 16) (j : Fin 16) (h : Still s0 s) : Still s0 (State.rotate s e k j) := by
  unfold State.rotate
  dsimp only
  split
  · apply State.sendAll_still
    apply State.autoFreeze_still
    apply State.modCtx_still
    apply State.modCtx_still
    apply State.setCatch_still
    assumption
  · apply State.freezeEffect_still
    apply State.autoFreeze_still
    apply State.modCtx_still
    apply State.modCtx_still
    apply State.setCatch_still
    assumption

theorem State.stagnate_still {s0 s : State} (e : Fin 16) (h : Still s0 s) : Still s0 (State.stagnate s e) := by
  unfold State.stagnate
  dsimp only
  split
  · assumption
  · apply State.log_still
    apply State.raise_still
    apply State.setCatch_still
    assumption

theorem State.rotation_still {s0 s : State} (cmid : Nat) (h : Still s0 s) : Still s0 (State.rotation s cmid) := by
  unfold State.rotation
  split
  · assumption
  · split
    · assumption
    · dsimp only
      split
      · assumption
      · split
        · apply State.rotate_still
          assumption
        · apply State.stagnate_still
          assumption

theorem execRotation_still {s s9 : State} {cmid : Nat} (eq : execRotation cmid s = .next s9) : Still s s9 := by
  cases eq
  have h := Still.refl s
  apply State.rotation_still
  assumption

theorem State.rotateThaw_still {s0 s : State} (k : Fin 16) (h : Still s0 s) : Still s0 (State.rotateThaw s k) := by
  unfold State.rotateThaw
  dsimp only
  split
  · assumption
  · split
    · apply State.takeThaw_still
      apply State.setCatch_still
      assumption
    · apply State.setCatch_still
      assumption

theorem State.scrubEnd_still {s0 s : State} (k : Fin 16) (h : Still s0 s) : Still s0 (State.scrubEnd s k) := by
  unfold State.scrubEnd
  dsimp only
  split
  · apply State.rotateThaw_still
    apply State.freezeScrubEnd_still
    assumption
  · apply State.freezeScrubEnd_still
    assumption

theorem execFreezeScrubEnd_still {s s9 : State} {slot : Fin 16} (eq : execFreezeScrubEnd slot s = .next s9) : Still s s9 := by
  cases eq
  have h := Still.refl s
  apply State.scrubEnd_still
  assumption

theorem execRestoreEnd_still {s s9 : State} {slot : Fin 16} {image : FreezeImageRef} (eq : execRestoreEnd slot image s = .next s9) : Still s s9 := by
  cases eq
  have h := Still.refl s
  apply State.restoreEnd_still
  assumption

end Sys2Proof.Machine
end

