-- ==== Sys2Proof/Laws/StillPoll.lean ====
section
/-! SUPPORT. The operations of Machine/Poll.lean that leave the position in time alone (`Still`). -/

namespace Sys2Proof.Machine

theorem State.giveBack_still {s0 s : State} (q : SlotImage) (h : Still s0 s) : Still s0 (State.giveBack s q) := by
  unfold State.giveBack
  with_reducible refine Still.upd ?_ rfl
  assumption

theorem State.refuseSlot_still {s0 s : State} (q : SlotImage) (reason : Nat) (h : Still s0 s) : Still s0 (State.refuseSlot s q reason) := by
  unfold State.refuseSlot
  apply State.pushRec_still
  assumption

theorem State.pollSlot_still {s0 s : State} (q : SlotImage) (h : Still s0 s) : Still s0 (State.pollSlot s q) := by
  unfold State.pollSlot
  split
  · assumption
  · dsimp only
    split
    · apply State.refuseSlot_still
      apply State.giveBack_still
      assumption
    · split
      · split
        · with_reducible refine Still.upd ?_ rfl
          with_reducible refine Still.upd ?_ rfl
          assumption
        · split
          · apply State.refuseSlot_still
            apply State.giveBack_still
            with_reducible refine Still.upd ?_ rfl
            assumption
          · split
            · apply State.refuseSlot_still
              apply State.giveBack_still
              with_reducible refine Still.upd ?_ rfl
              assumption
            · split
              · apply State.refuseSlot_still
                apply State.giveBack_still
                with_reducible refine Still.upd ?_ rfl
                assumption
              · split
                · apply State.refuseSlot_still
                  apply State.giveBack_still
                  with_reducible refine Still.upd ?_ rfl
                  assumption
                · with_reducible refine Still.upd ?_ rfl
                  apply State.giveBack_still
                  with_reducible refine Still.upd ?_ rfl
                  assumption
      · split
        · with_reducible refine Still.upd ?_ rfl
          assumption
        · split
          · apply State.refuseSlot_still
            apply State.giveBack_still
            assumption
          · split
            · apply State.refuseSlot_still
              apply State.giveBack_still
              assumption
            · split
              · apply State.refuseSlot_still
                apply State.giveBack_still
                assumption
              · split
                · apply State.refuseSlot_still
                  apply State.giveBack_still
                  assumption
                · with_reducible refine Still.upd ?_ rfl
                  apply State.giveBack_still
                  assumption

theorem State.poll_still {s0 s : State} (slots : List SlotImage) (h : Still s0 s) : Still s0 (State.poll s slots) := by
  unfold State.poll
  split
  · assumption
  · dsimp only
    refine Still.foldl ?_ ?_
    · intro s1 x1 h1
      apply State.pollSlot_still
      assumption
    · with_reducible refine Still.upd ?_ rfl
      assumption

theorem State.act_still {s0 s : State} (blobs : List (Nat × Bytes)) (x : Taken) (h : Still s0 s) : Still s0 (State.act s blobs x) := by
  unfold State.act
  dsimp only
  split
  · split
    · apply State.fencedRefusal_still
      assumption
    · apply State.takeLoad_still
      assumption
  · split
    · apply State.fencedRefusal_still
      assumption
    · apply State.takeManifest_still
      assumption
  · split
    · apply State.fencedRefusal_still
      assumption
    · apply State.takeAnyThaw_still
      assumption
  · apply State.takeFirmware_still
    assumption
  · apply State.accept_still
    assumption

theorem State.acts_still {s0 s : State} (blobs : List (Nat × Bytes)) (h : Still s0 s) : Still s0 (State.acts s blobs) := by
  unfold State.acts
  refine Still.foldl ?_ ?_
  · intro s1 x1 h1
    apply State.act_still
    assumption
  · with_reducible refine Still.upd ?_ rfl
    assumption

end Sys2Proof.Machine
end

