-- ==== Sys2Proof/Laws/StillGovernor.lean ====
section
/-! SUPPORT. The operations of Machine/Governor.lean that leave the position in time alone (`Still`). -/

namespace Sys2Proof.Machine

theorem State.thermalCheck_still {s0 s : State} (tenths : Nat) (h : Still s0 s) : Still s0 (State.thermalCheck s tenths) := by
  unfold State.thermalCheck
  dsimp only
  split
  · split
    · split
      · refine Still.foldl ?_ ?_
        · intro s1 x1 h1
          apply State.modCtx_still
          assumption
        · split
          · apply State.raise_still
            with_reducible refine Still.upd ?_ rfl
            assumption
          · with_reducible refine Still.upd ?_ rfl
            assumption
      · split
        · apply State.raise_still
          with_reducible refine Still.upd ?_ rfl
          assumption
        · with_reducible refine Still.upd ?_ rfl
          assumption
    · split
      · refine Still.foldl ?_ ?_
        · intro s1 x1 h1
          apply State.modCtx_still
          assumption
        · split
          · apply State.raise_still
            with_reducible refine Still.upd ?_ rfl
            assumption
          · with_reducible refine Still.upd ?_ rfl
            assumption
      · split
        · apply State.raise_still
          with_reducible refine Still.upd ?_ rfl
          assumption
        · with_reducible refine Still.upd ?_ rfl
          assumption
  · split
    · split
      · refine Still.foldl ?_ ?_
        · intro s1 x1 h1
          apply State.modCtx_still
          assumption
        · split
          · apply State.raise_still
            with_reducible refine Still.upd ?_ rfl
            assumption
          · with_reducible refine Still.upd ?_ rfl
            assumption
      · split
        · apply State.raise_still
          with_reducible refine Still.upd ?_ rfl
          assumption
        · with_reducible refine Still.upd ?_ rfl
          assumption
    · split
      · refine Still.foldl ?_ ?_
        · intro s1 x1 h1
          apply State.modCtx_still
          assumption
        · split
          · apply State.raise_still
            with_reducible refine Still.upd ?_ rfl
            assumption
          · with_reducible refine Still.upd ?_ rfl
            assumption
      · split
        · apply State.raise_still
          with_reducible refine Still.upd ?_ rfl
          assumption
        · with_reducible refine Still.upd ?_ rfl
          assumption

theorem State.fractionRise_still {s0 s : State} (h : Still s0 s) : Still s0 (State.fractionRise s) := by
  unfold State.fractionRise
  dsimp only
  split
  · assumption
  · split
    · apply State.raise_still
      with_reducible refine Still.upd ?_ rfl
      assumption
    · with_reducible refine Still.upd ?_ rfl
      assumption

theorem execThermalFractionRise_still {s s9 : State} (eq : execThermalFractionRise s = .next s9) : Still s s9 := by
  cases eq
  have h := Still.refl s
  apply State.fractionRise_still
  assumption

theorem State.thermalExcursion_still {s0 s : State} (tenths : Nat) (h : Still s0 s) : Still s0 (State.thermalExcursion s tenths) := by
  unfold State.thermalExcursion
  split
  · apply State.fence_still
    assumption
  · assumption

theorem execThermalExcursion_still {s s9 : State} {tenths : Nat} (eq : execThermalExcursion tenths s = .next s9) : Still s s9 := by
  cases eq
  have h := Still.refl s
  apply State.thermalExcursion_still
  assumption

theorem State.currentLimitPersist_still {s0 s : State} (h : Still s0 s) : Still s0 (State.currentLimitPersist s) := by
  unfold State.currentLimitPersist
  split
  · apply State.fence_still
    assumption
  · assumption

theorem execCurrentLimitPersist_still {s s9 : State} (eq : execCurrentLimitPersist s = .next s9) : Still s s9 := by
  cases eq
  have h := Still.refl s
  apply State.currentLimitPersist_still
  assumption

theorem State.selfTest_still {s0 s : State} (ok : Bool) (h : Still s0 s) : Still s0 (State.selfTest s ok) := by
  unfold State.selfTest
  split
  · dsimp only
    split
    · with_reducible refine Still.upd ?_ rfl
      assumption
    · apply State.fence_still
      with_reducible refine Still.upd ?_ rfl
      assumption
  · assumption

theorem State.laneChange_still {s0 s : State} (p : Nat) (n : Nat) (h : Still s0 s) : Still s0 (State.laneChange s p n) := by
  unfold State.laneChange
  split
  · assumption
  · dsimp only
    apply State.raise_still
    refine Still.foldl ?_ ?_
    · intro s1 x1 h1
      apply State.modCtx_still
      assumption
    · refine Still.foldl ?_ ?_
      · intro s1 x1 h1
        apply State.modCtx_still
        assumption
      · with_reducible refine Still.upd ?_ rfl
        assumption

theorem State.laneChanges_still {s0 s : State} (h : Still s0 s) : Still s0 (State.laneChanges s) := by
  unfold State.laneChanges
  split
  · assumption
  · refine Still.foldl ?_ ?_
    · intro s1 x1 h1
      apply State.laneChange_still
      assumption
    · with_reducible refine Still.upd ?_ rfl
      assumption

theorem State.logHot_still {s0 s : State} (b : Nat × Nat) (h : Still s0 s) : Still s0 (State.logHot s b) := by
  unfold State.logHot
  dsimp only
  split
  · assumption
  · split
    · assumption
    · apply State.log_still
      with_reducible refine Still.upd ?_ rfl
      assumption

theorem State.sensorLog_still {s0 s : State} (blocks : List (Nat × Nat)) (lagging : List (Nat × Nat)) (h : Still s0 s) : Still s0 (State.sensorLog s blocks lagging) := by
  unfold State.sensorLog
  split
  · assumption
  · dsimp only
    split
    · apply State.log_still
      with_reducible refine Still.upd ?_ rfl
      refine Still.foldl ?_ ?_
      · intro s1 x1 h1
        apply State.log_still
        assumption
      · refine Still.foldl ?_ ?_
        · intro s1 x1 h1
          apply State.logHot_still
          assumption
        · assumption
    · refine Still.foldl ?_ ?_
      · intro s1 x1 h1
        apply State.log_still
        assumption
      · refine Still.foldl ?_ ?_
        · intro s1 x1 h1
          apply State.logHot_still
          assumption
        · assumption

end Sys2Proof.Machine
end

