-- ==== Sys2Proof/Laws/StillWaitGraph.lean ====
section
/-! SUPPORT. The operations of Machine/WaitGraph.lean that leave the position in time alone (`Still`). -/

namespace Sys2Proof.Machine

theorem State.noteWaits_still {s0 s : State} (k : Fin 16) (h : Still s0 s) : Still s0 (State.noteWaits s k) := by
  unfold State.noteWaits
  dsimp only
  split
  · apply State.setCtx_still
    assumption
  · assumption

theorem State.stillWater_still {s0 s : State} (k : Fin 16) (h : Still s0 s) : Still s0 (State.stillWater s k) := by
  unfold State.stillWater
  dsimp only
  split
  · assumption
  · apply State.signalOut_still
    apply State.trigger_still
    apply State.raise_still
    with_reducible refine Still.upd ?_ rfl
    apply State.setCtx_still
    assumption

theorem execStillWater_still {s s9 : State} {slot : Fin 16} (eq : execStillWater slot s = .next s9) : Still s s9 := by
  cases eq
  have h := Still.refl s
  apply State.stillWater_still
  assumption

theorem State.stillFault_still {s0 s : State} (k : Fin 16) (seq : Nat) (h : Still s0 s) : Still s0 (State.stillFault s k seq) := by
  unfold State.stillFault
  apply State.faultCode_still
  assumption

theorem State.waitForGraph_still {s0 s : State} (k : Fin 16) (h : Still s0 s) : Still s0 (State.waitForGraph s k) := by
  unfold State.waitForGraph
  dsimp only
  split
  · assumption
  · split
    · apply State.stillFault_still
      apply State.modCtx_still
      refine Still.foldl ?_ ?_
      · intro s1 x1 h1
        apply State.log_still
        assumption
      · assumption
    · apply State.modCtx_still
      refine Still.foldl ?_ ?_
      · intro s1 x1 h1
        apply State.log_still
        assumption
      · assumption

theorem execWaitForGraph_still {s s9 : State} {slot : Fin 16} (eq : execWaitForGraph slot s = .next s9) : Still s s9 := by
  cases eq
  have h := Still.refl s
  apply State.waitForGraph_still
  assumption

theorem State.watchdogLimit_still {s0 s : State} (k : Fin 16) (h : Still s0 s) : Still s0 (State.watchdogLimit s k) := by
  unfold State.watchdogLimit
  dsimp only
  split
  · split
    · apply State.stillFault_still
      assumption
    · assumption
  · assumption

theorem execWatchdogTeardownLimit_still {s s9 : State} {slot : Fin 16} (eq : execWatchdogTeardownLimit slot s = .next s9) : Still s s9 := by
  cases eq
  have h := Still.refl s
  apply State.watchdogLimit_still
  assumption

end Sys2Proof.Machine
end

