-- ==== Sys2Proof/Laws/StillTick.lean ====
section
/-! SUPPORT. The operations of Machine/Tick.lean that leave the position in time alone (`Still`). -/

namespace Sys2Proof.Machine

theorem State.tickCounts_still {s0 s : State} (h : Still s0 s) : Still s0 (State.tickCounts s) := by
  unfold State.tickCounts
  dsimp only
  refine Still.foldl ?_ ?_
  · intro s1 x1 h1
    split
    · split
      · apply State.setCatch_still
        assumption
      · assumption
    · assumption
  · with_reducible refine Still.upd ?_ rfl
    refine Still.foldl ?_ ?_
    · intro s1 x1 h1
      apply State.modCtx_still
      assumption
    · with_reducible refine Still.upd ?_ rfl
      refine Still.foldl ?_ ?_
      · intro s1 x1 h1
        apply State.setCatch_still
        assumption
      · assumption

theorem State.calibrationEnd_still {s0 s : State} (was : Bool) (h : Still s0 s) : Still s0 (State.calibrationEnd s was) := by
  unfold State.calibrationEnd
  split
  · apply State.raise_still
    with_reducible refine Still.upd ?_ rfl
    assumption
  · assumption

theorem State.dieChecks_still {s0 s : State} (t : TickIn) (h : Still s0 s) : Still s0 (State.dieChecks s t) := by
  unfold State.dieChecks
  dsimp only
  apply State.sensorLog_still
  apply State.selfTest_still
  with_reducible refine Still.upd ?_ rfl
  apply State.thermalCheck_still
  apply State.laneChanges_still
  assumption

theorem State.formFinal_still {s0 s : State} (k : Fin 16) (h : Still s0 s) : Still s0 (State.formFinal s k) := by
  unfold State.formFinal
  dsimp only
  with_reducible refine Still.upd ?_ rfl
  assumption

theorem State.finishTeardown_still {s0 s : State} (k : Fin 16) (h : Still s0 s) : Still s0 (State.finishTeardown s k) := by
  unfold State.finishTeardown
  dsimp only
  split
  · assumption
  · split
    · assumption
    · apply State.emptySlot_still
      apply State.pushRec_still
      apply State.pushRec_still
      apply State.formRec_still
      apply State.formFinal_still
      split
      · assumption
      · apply State.release_still
        assumption

theorem State.enableNow_still {s0 s : State} (k : Fin 16) (h : Still s0 s) : Still s0 (State.enableNow s k) := by
  unfold State.enableNow
  dsimp only
  split
  · assumption
  · split
    · assumption
    · split
      · apply State.fencedRefusal_still
        apply State.setCtx_still
        assumption
      · apply State.takePending_still
        assumption

theorem State.lives_still {s0 s : State} (h : Still s0 s) : Still s0 (State.lives s) := by
  unfold State.lives
  dsimp only
  refine Still.foldl ?_ ?_
  · intro s1 x1 h1
    split
    · apply State.launch_still
      assumption
    · assumption
  · refine Still.foldl ?_ ?_
    · intro s1 x1 h1
      apply State.rotaLaunch_still
      assumption
    · apply State.teardowns_still
      refine Still.foldl ?_ ?_
      · intro s1 x1 h1
        apply State.finishTeardown_still
        assumption
      · refine Still.foldl ?_ ?_
        · intro s1 x1 h1
          apply State.launchAbort_still
          apply State.launchDecision_still
          apply State.launchEffects_still
          assumption
        · assumption

theorem State.thawBegins_still {s0 s : State} (k : Fin 16) (h : Still s0 s) : Still s0 (State.thawBegins s k) := by
  unfold State.thawBegins
  dsimp only
  split
  · apply State.restoreBegin_still
    assumption
  · assumption

theorem State.takeResume_still {s0 s : State} (k : Fin 16) (h : Still s0 s) : Still s0 (State.takeResume s k) := by
  unfold State.takeResume
  dsimp only
  split
  · assumption
  · split
    · apply State.sendAll_still
      apply State.setCtx_still
      assumption
    · apply State.modCtx_still
      apply State.setCtx_still
      assumption

theorem State.beginTicks_still {s0 s : State} (h : Still s0 s) : Still s0 (State.beginTicks s).1 := by
  unfold State.beginTicks
  dsimp only
  refine Still.foldl ?_ ?_
  · intro s1 x1 h1
    apply State.lockCompare_still
    assumption
  · refine Still.foldl ?_ ?_
    · intro s1 x1 h1
      apply State.thawBegins_still
      apply State.freezePending_still
      assumption
    · refine Still.foldl_fst ?_ ?_
      · intro a1 x1 h1
        split
        · dsimp only
          apply State.advanceCtx_still
          assumption
        · dsimp only
          apply State.advanceCtx_still
          assumption
      · dsimp only
        refine Still.foldl ?_ ?_
        · intro s1 x1 h1
          apply State.takeResume_still
          apply State.resumeThaw_still
          assumption
        · assumption

theorem State.beginTicks_still' {s0 s s9 : State} {r9 : _} (eq : State.beginTicks s = (s9, r9)) (h : Still s0 s) : Still s0 s9 := by
  have := State.beginTicks_still h
  rwa [eq] at this

theorem State.sluiceWork_still {s0 s : State} (t : TickIn) (h : Still s0 s) : Still s0 (State.sluiceWork s t) := by
  unfold State.sluiceWork
  dsimp only
  refine Still.foldl ?_ ?_
  · intro s1 x1 h1
    apply State.deferSteps_still
    assumption
  · refine Still.foldl ?_ ?_
    · intro s1 x1 h1
      apply State.enableNow_still
      assumption
    · split
      · apply State.writeRecords_still
        with_reducible refine Still.upd ?_ rfl
        apply State.poll_still
        assumption
      · split
        · apply State.writeWindow_still
          with_reducible refine Still.upd ?_ rfl
          apply State.poll_still
          assumption
        · with_reducible refine Still.upd ?_ rfl
          apply State.poll_still
          assumption

theorem State.notices_still {s0 s : State} (begun : List (Fin 16)) (h : Still s0 s) : Still s0 (State.notices s begun) := by
  unfold State.notices
  refine Still.foldl ?_ ?_
  · intro s1 x1 h1
    split
    · apply State.applyNotices_still
      assumption
    · assumption
  · assumption

theorem State.stepWork_still {s0 s : State} (k : Fin 16) (h : Still s0 s) : Still s0 (State.stepWork s k) := by
  unfold State.stepWork
  split
  · apply State.leaveOutcomes_still
    apply State.importsDue_still
    apply State.pace_still
    apply State.submissionsDue_still
    apply State.exhaust_still
    assumption
  · assumption

end Sys2Proof.Machine
end

