-- ==== Sys2Proof/Laws/StillMovers.lean ====
section
/-! SUPPORT. The operations of Machine/Movers.lean that leave the position in time alone (`Still`). -/

namespace Sys2Proof.Machine

theorem State.moverNotify_still {s0 s : State} (l : Fin 64) (t : Task) (vid : Nat) (n : Nat) (h : Still s0 s) : Still s0 (State.moverNotify s l t vid n) := by
  unfold State.moverNotify
  with_reducible refine Still.upd ?_ rfl
  assumption

theorem State.entryDone_still {s0 s : State} (l : Fin 64) (t : Task) (i : Nat) (crc : BitVec 16) (b : Bytes) (h : Still s0 s) : Still s0 (State.entryDone s l t i crc b) := by
  unfold State.entryDone
  dsimp only
  split
  · apply State.engineFault_still
    assumption
  · split
    · split
      · apply State.engineFault_still
        assumption
      · split
        · apply State.moverNotify_still
          apply State.modCore_still
          assumption
        · apply State.modCore_still
          assumption
    · split
      · apply State.engineFault_still
        assumption
      · split
        · apply State.moverNotify_still
          apply State.modCore_still
          assumption
        · apply State.modCore_still
          assumption

theorem State.moverEntryComplete_still {s0 s : State} (l : Fin 64) (i : Nat) (crc : BitVec 16) (block : Bytes) (h : Still s0 s) : Still s0 (State.moverEntryComplete s l i crc block) := by
  unfold State.moverEntryComplete
  split
  · assumption
  · split
    · assumption
    · dsimp only
      split
      · apply State.engineFault_still
        assumption
      · split
        · apply State.entryDone_still
          apply State.modCore_still
          assumption
        · assumption

theorem execMoverEntryComplete_still {s s9 : State} {lcid : Fin 64} {index : Nat} {crc : BitVec 16} {block : Bytes} (eq : execMoverEntryComplete lcid index crc block s = .next s9) : Still s s9 := by
  cases eq
  have h := Still.refl s
  apply State.moverEntryComplete_still
  assumption

theorem State.idleBeatSend_still {s0 s : State} (k : Fin 16) (member : Nat) (h : Still s0 s) : Still s0 (State.idleBeatSend s k member) := by
  unfold State.idleBeatSend
  dsimp only
  split
  · assumption
  · split
    · apply State.modCtx_still
      apply State.sendCtrl_still
      assumption
    · assumption

theorem execIdleBeatSend_still {s s9 : State} {slot : Fin 16} {member : Nat} (eq : execIdleBeatSend slot member s = .next s9) : Still s s9 := by
  cases eq
  have h := Still.refl s
  apply State.idleBeatSend_still
  assumption

theorem State.headwaterLoss_still {s0 s : State} (k : Fin 16) (h : Still s0 s) : Still s0 (State.headwaterLoss s k) := by
  unfold State.headwaterLoss
  dsimp only
  split
  · apply State.faultCode_still
    assumption
  · assumption

theorem execHeadwaterLoss_still {s s9 : State} {slot : Fin 16} (eq : execHeadwaterLoss slot s = .next s9) : Still s s9 := by
  cases eq
  have h := Still.refl s
  apply State.headwaterLoss_still
  assumption

end Sys2Proof.Machine
end

