-- ==== Sys2Proof/Laws/StillObserve.lean ====
section
/-! SUPPORT. The operations of Machine/Observe.lean that leave the position in time alone (`Still`). -/

namespace Sys2Proof.Machine

theorem State.traceMark_still {s0 s : State} (l : Fin 64) (value : Nat) (trigger : Bool) (h : Still s0 s) : Still s0 (State.traceMark s l value trigger) := by
  unfold State.traceMark
  split
  · assumption
  · split
    · apply State.laneWaits_still
      assumption
    · apply State.performMark_still
      assumption

theorem execTraceMark_still {s s9 : State} {lcid : Fin 64} {value : BitVec 32} {trigger : Bool} (eq : execTraceMark lcid value trigger s = .next s9) : Still s s9 := by
  cases eq
  have h := Still.refl s
  apply State.traceMark_still
  assumption

theorem execInvalidCommand_still {s s9 : State} {lcid : Fin 64} {code : BitVec 4} (eq : execInvalidCommand lcid code s = .next s9) : Still s s9 := by
  cases eq
  have h := Still.refl s
  split
  · apply State.engineFault_still
    assumption
  · assumption

theorem State.pcSample_still {s0 s : State} (k : Fin 16) (xs : List CoreSample) (h : Still s0 s) : Still s0 (State.pcSample s k xs) := by
  unfold State.pcSample
  dsimp only
  split
  · refine Still.foldl ?_ ?_
    · intro s1 x1 h1
      apply State.modCtx_still
      assumption
    · assumption
  · assumption

theorem execPcSample_still {s s9 : State} {slot : Fin 16} {samples : List CoreSample} (eq : execPcSample slot samples s = .next s9) : Still s s9 := by
  cases eq
  have h := Still.refl s
  apply State.pcSample_still
  assumption

theorem State.commandRecord_still {s0 s : State} (l : Fin 64) (p : PondEntry) (type : Nat) (number : Nat) (opcode : Nat) (e : Engine) (latched : List Nat) (h : Still s0 s) : Still s0 (State.commandRecord s l p type number opcode e latched) := by
  unfold State.commandRecord
  dsimp only
  split
  · apply State.modCtx_still
    apply State.compareCopies_still
    assumption
  · assumption

theorem State.cmdBegin_still {s0 s : State} (l : Fin 64) (e : Engine) (opcode : Nat) (latched : List Nat) (h : Still s0 s) : Still s0 (State.cmdBegin s l e opcode latched) := by
  unfold State.cmdBegin
  split
  · assumption
  · split
    · assumption
    · dsimp only
      apply State.modCore_still
      apply State.commandRecord_still
      assumption

theorem State.cmdEnd_still {s0 s : State} (l : Fin 64) (e : Engine) (opcode : Nat) (latched : List Nat) (h : Still s0 s) : Still s0 (State.cmdEnd s l e opcode latched) := by
  unfold State.cmdEnd
  split
  · dsimp only
    apply State.modCore_still
    apply State.commandRecord_still
    assumption
  · assumption

theorem execCmdBegin_still {s s9 : State} {lcid : Fin 64} {engine : Engine} {opcode : BitVec 32} {latched : List Nat} (eq : execCmdBegin lcid engine opcode latched s = .next s9) : Still s s9 := by
  cases eq
  have h := Still.refl s
  apply State.cmdBegin_still
  assumption

theorem execCmdEnd_still {s s9 : State} {lcid : Fin 64} {engine : Engine} {opcode : BitVec 32} {latched : List Nat} (eq : execCmdEnd lcid engine opcode latched s = .next s9) : Still s s9 := by
  cases eq
  have h := Still.refl s
  apply State.cmdEnd_still
  assumption

end Sys2Proof.Machine
end

