-- ==== Sys2Proof/Laws/StillStartup.lean ====
section
/-! SUPPORT. The operations of Machine/Startup.lean that leave the position in time alone (`Still`). -/

namespace Sys2Proof.Machine

theorem State.refuseImage_still {s0 s : State} (code : Nat) (detail : Nat) (h : Still s0 s) : Still s0 (State.refuseImage s code detail) := by
  unfold State.refuseImage
  apply State.pageError_still
  with_reducible refine Still.upd ?_ rfl
  assumption

theorem State.initWindow_still {s0 s : State} (h : Still s0 s) : Still s0 (State.initWindow s) := by
  unfold State.initWindow
  dsimp only
  apply State.writeWindow_still
  with_reducible refine Still.upd ?_ rfl
  assumption

theorem State.startSteward_still {s0 s : State} (h : Still s0 s) : Still s0 (State.startSteward s) := by
  unfold State.startSteward
  with_reducible refine Still.upd ?_ rfl
  assumption

theorem State.selfTestDone_still {s0 s : State} (railsOk : Bool) (comparatorsOk : Bool) (secdedBad : Option (Nat × Nat)) (h : Still s0 s) : Still s0 (State.selfTestDone s railsOk comparatorsOk secdedBad) := by
  unfold State.selfTestDone
  split
  · assumption
  · split
    · with_reducible refine Still.upd ?_ rfl
      assumption
    · apply State.writeWindow_still
      apply State.fence_still
      assumption

theorem execSelfTestDone_still {s s9 : State} {railsOk : Bool} {comparatorsOk : Bool} {secdedBad : Option (Nat × Nat)} (eq : execSelfTestDone railsOk comparatorsOk secdedBad s = .next s9) : Still s s9 := by
  cases eq
  have h := Still.refl s
  apply State.selfTestDone_still
  assumption

theorem State.sramScrubDone_still {s0 s : State} (bad : Option (Nat × Nat)) (h : Still s0 s) : Still s0 (State.sramScrubDone s bad) := by
  unfold State.sramScrubDone
  split
  · assumption
  · split
    · with_reducible refine Still.upd ?_ rfl
      assumption
    · apply State.writeWindow_still
      apply State.fence_still
      assumption

theorem execSramScrubDone_still {s s9 : State} {bad : Option (Nat × Nat)} (eq : execSramScrubDone bad s = .next s9) : Still s s9 := by
  cases eq
  have h := Still.refl s
  apply State.sramScrubDone_still
  assumption

theorem State.keyFailure_still {s0 s : State} (h : Still s0 s) : Still s0 (State.keyFailure s) := by
  unfold State.keyFailure
  dsimp only
  apply State.writeWindow_still
  apply State.raise_still
  apply State.log_still
  with_reducible refine Still.upd ?_ rfl
  assumption

theorem State.takeKey_still {s0 s : State} (d : Nat) (public_ : Option (Nat × Nat)) (h : Still s0 s) : Still s0 (State.takeKey s d public_) := by
  unfold State.takeKey
  split
  · apply State.keyFailure_still
    assumption
  · split
    · apply State.keyFailure_still
      assumption
    · with_reducible refine Still.upd ?_ rfl
      assumption

theorem State.keyDerivation_still {s0 s : State} (puf : Option (BitVec 256)) (h : Still s0 s) : Still s0 (State.keyDerivation s puf) := by
  unfold State.keyDerivation
  split
  · assumption
  · split
    · apply State.keyFailure_still
      assumption
    · apply State.takeKey_still
      assumption

theorem execKeyDerivation_still {s s9 : State} {puf : Option (BitVec 256)} (eq : execKeyDerivation puf s = .next s9) : Still s s9 := by
  cases eq
  have h := Still.refl s
  apply State.keyDerivation_still
  assumption

theorem State.goReady_still {s0 s : State} (h : Still s0 s) : Still s0 (State.goReady s) := by
  unfold State.goReady
  split
  · dsimp only
    apply State.writeWindow_still
    apply State.raise_still
    with_reducible refine Still.upd ?_ rfl
    assumption
  · assumption

theorem execReady_still {s s9 : State} (eq : execReady s = .next s9) : Still s s9 := by
  cases eq
  have h := Still.refl s
  apply State.goReady_still
  assumption

theorem State.clearFence_still {s0 s : State} (p : Priv) (h : Still s0 s) : Still s0 (State.clearFence s p) := by
  unfold State.clearFence
  split
  · apply State.accessError_still
    assumption
  · split
    · apply State.accessError_still
      assumption
    · split
      · assumption
      · with_reducible refine Still.upd ?_ rfl
        assumption

theorem State.stayFenced_still {s0 s : State} (powerOnly : Bool) (h : Still s0 s) : Still s0 (State.stayFenced s powerOnly) := by
  unfold State.stayFenced
  dsimp only
  apply State.pushRec_still
  with_reducible refine Still.upd ?_ rfl
  assumption

end Sys2Proof.Machine
end

