-- ==== Sys2Proof/Laws/StillTiming.lean ====
section
/-! SUPPORT. The operations of Machine/Timing.lean that leave the position in time alone (`Still`). -/

namespace Sys2Proof.Machine

theorem State.xtrigEdge_still {s0 s : State} (h : Still s0 s) : Still s0 (State.xtrigEdge s) := by
  unfold State.xtrigEdge
  split
  · assumption
  · split
    · apply State.raise_still
      with_reducible refine Still.upd ?_ rfl
      assumption
    · dsimp only
      apply State.signalOut_still
      apply State.raise_still
      with_reducible refine Still.upd ?_ rfl
      assumption

theorem execXtrigEdge_still {s s9 : State} (eq : execXtrigEdge s = .next s9) : Still s s9 := by
  cases eq
  have h := Still.refl s
  apply State.xtrigEdge_still
  assumption

theorem State.inputStuck_still {s0 s : State} (i : ExtInput) (h : Still s0 s) : Still s0 (State.inputStuck s i) := by
  unfold State.inputStuck
  dsimp only
  split
  · apply State.raise_still
    with_reducible refine Still.upd ?_ rfl
    assumption
  · assumption

theorem execInputStuck_still {s s9 : State} {i : ExtInput} (eq : execInputStuck i s = .next s9) : Still s s9 := by
  cases eq
  have h := Still.refl s
  apply State.inputStuck_still
  assumption

theorem State.inputStuckClear_still {s0 s : State} (i : ExtInput) (h : Still s0 s) : Still s0 (State.inputStuckClear s i) := by
  unfold State.inputStuckClear
  dsimp only
  split
  · split
    · apply State.raise_still
      with_reducible refine Still.upd ?_ rfl
      assumption
    · with_reducible refine Still.upd ?_ rfl
      assumption
  · assumption

theorem execInputStuckClear_still {s s9 : State} {i : ExtInput} (eq : execInputStuckClear i s = .next s9) : Still s s9 := by
  cases eq
  have h := Still.refl s
  apply State.inputStuckClear_still
  assumption

theorem State.xtrigOutEnd_still {s0 s : State} (h : Still s0 s) : Still s0 (State.xtrigOutEnd s) := by
  unfold State.xtrigOutEnd
  split
  · split
    · with_reducible refine Still.upd ?_ rfl
      assumption
    · assumption
  · assumption

theorem execXtrigOutEnd_still {s s9 : State} (eq : execXtrigOutEnd s = .next s9) : Still s s9 := by
  cases eq
  have h := Still.refl s
  apply State.xtrigOutEnd_still
  assumption

theorem State.portReport_still {s0 s : State} (port : Nat) (far : Nat) (lanes : Nat) (h : Still s0 s) : Still s0 (State.portReport s port far lanes) := by
  unfold State.portReport
  refine Still.foldl ?_ ?_
  · intro s1 x1 h1
    dsimp only
    split
    · apply State.faultCode_still
      assumption
    · assumption
  · assumption

theorem State.calibrationResult_still {s0 s : State} (lanes : List Nat) (delays : List Nat) (h : Still s0 s) : Still s0 (State.calibrationResult s lanes delays) := by
  unfold State.calibrationResult
  split
  · dsimp only
    refine Still.foldl ?_ ?_
    · intro s1 x1 h1
      apply State.portReport_still
      assumption
    · with_reducible refine Still.upd ?_ rfl
      assumption
  · assumption

theorem execCalibrationResult_still {s s9 : State} {lanes : List Nat} {delays : List Nat} (eq : execCalibrationResult lanes delays s = .next s9) : Still s s9 := by
  cases eq
  have h := Still.refl s
  apply State.calibrationResult_still
  assumption

end Sys2Proof.Machine
end

