-- ==== Sys2Proof/Laws/StillRegisters.lean ====
section
/-! SUPPORT. The operations of Machine/Registers.lean that leave the position in time alone (`Still`). -/

namespace Sys2Proof.Machine

theorem State.readErr_still {s0 s : State} (p : Fin 64) (h : Still s0 s) : Still s0 (State.readErr s p) := by
  unfold State.readErr
  split
  · dsimp only
    with_reducible refine Still.upd ?_ rfl
    apply State.setPage_still
    assumption

theorem State.enablePage_still {s0 s : State} (p : Nat) (h : Still s0 s) : Still s0 (State.enablePage s p) := by
  unfold State.enablePage
  dsimp only
  split
  · with_reducible refine Still.upd ?_ rfl
    assumption
  · with_reducible refine Still.upd ?_ rfl
    assumption
  · assumption

theorem State.disablePage_still {s0 s : State} (p : Nat) (h : Still s0 s) : Still s0 (State.disablePage s p) := by
  unfold State.disablePage
  split
  · with_reducible refine Still.upd ?_ rfl
    assumption
  · with_reducible refine Still.upd ?_ rfl
    assumption
  · assumption

theorem State.writeHeader_still {s0 s : State} (p : Fin 64) (off : Nat) (v : Word) (h : Still s0 s) : Still s0 (State.writeHeader s p off v) := by
  unfold State.writeHeader
  dsimp only
  split
  · split
    · apply State.enablePage_still
      assumption
    · apply State.disablePage_still
      assumption
  · apply State.setPage_still
    assumption
  · apply State.setPage_still
    assumption
  · apply State.setPage_still
    assumption
  · assumption

theorem State.submitDump_still {s0 s : State} (k : Fin 16) (h : Still s0 s) : Still s0 (State.submitDump s k) := by
  unfold State.submitDump
  dsimp only
  split
  · apply State.pushRec_still
    assumption
  · apply State.setCtx_still
    assumption

theorem State.writeDump_still {s0 s : State} (k : Fin 16) (p : Priv) (v : Nat) (h : Still s0 s) : Still s0 (State.writeDump s k p v) := by
  unfold State.writeDump
  dsimp only
  split
  · apply State.accessError_still
    assumption
  · split
    · apply State.submitDump_still
      apply State.setCtx_still
      assumption
    · apply State.setCtx_still
      assumption

theorem State.writeDebug_still {s0 s : State} (k : Fin 16) (p : Priv) (v : Nat) (h : Still s0 s) : Still s0 (State.writeDebug s k p v) := by
  unfold State.writeDebug
  dsimp only
  split
  · assumption
  · split
    · apply State.accessError_still
      assumption
    · apply State.setCtx_still
      assumption

theorem State.writeCtxReg_still {s0 s : State} (k : Fin 16) (p : Priv) (off : Nat) (v : Word) (h : Still s0 s) : Still s0 (State.writeCtxReg s k p off v) := by
  unfold State.writeCtxReg
  split
  · assumption
  · split
    · apply State.accessError_still
      assumption
    · split
      · apply State.writeDump_still
        assumption
      · split
        · apply State.writeDebug_still
          assumption
        · split
          · apply State.accessError_still
            assumption
          · apply State.setCtx_still
            assumption

theorem State.writeCatchCfg_still {s0 s : State} (k : Fin 16) (p : Priv) (v : Nat) (h : Still s0 s) : Still s0 (State.writeCatchCfg s k p v) := by
  unfold State.writeCatchCfg
  dsimp only
  split
  · split
    · apply State.accessError_still
      assumption
    · apply State.writeCommit_still
      assumption
  · split
    · split
      · assumption
      · apply State.accessError_still
        assumption
    · apply State.writeCommit_still
      apply State.setCatch_still
      assumption

theorem State.writeCatch_still {s0 s : State} (k : Fin 16) (r : Nat) (p : Priv) (v : Word) (h : Still s0 s) : Still s0 (State.writeCatch s k r p v) := by
  unfold State.writeCatch
  dsimp only
  split
  · apply State.writeCatchCfg_still
    assumption
  · split
    · split
      · apply State.accessError_still
        assumption
      · apply State.setCatch_still
        assumption
    · split
      · assumption
      · split
        · apply State.accessError_still
          assumption
        · apply State.setCatch_still
          assumption

theorem State.writeExt_still {s0 s : State} (p : Priv) (off : Nat) (v : Nat) (h : Still s0 s) : Still s0 (State.writeExt s p off v) := by
  unfold State.writeExt
  split
  · split
    · apply State.accessError_still
      assumption
    · with_reducible refine Still.upd ?_ rfl
      assumption
  · split
    · with_reducible refine Still.upd ?_ rfl
      assumption
    · assumption

theorem State.readPeak_still {s0 s : State} (h : Still s0 s) : Still s0 (State.readPeak s) := by
  unfold State.readPeak
  dsimp only
  with_reducible refine Still.upd ?_ rfl
  assumption

theorem State.read_still {s0 s : State} (p : Fin 64) (off : Nat) (h : Still s0 s) : Still s0 (State.read s p off) := by
  unfold State.read
  split
  · apply State.readErr_still
    assumption
  · split
    · apply State.readPeak_still
      assumption
    · dsimp only
      with_reducible refine Still.upd ?_ rfl
      assumption

theorem State.pageDrainEnd_still {s0 s : State} (p : Nat) (h : Still s0 s) : Still s0 (State.pageDrainEnd s p) := by
  unfold State.pageDrainEnd
  split
  · split
    · split
      · with_reducible refine Still.upd ?_ rfl
        assumption
      · assumption
    · assumption
  · split
    · split
      · with_reducible refine Still.upd ?_ rfl
        assumption
      · assumption
    · assumption
  · assumption

theorem execPageDrainEnd_still {s s9 : State} {page : Fin 64} (eq : execPageDrainEnd page s = .next s9) : Still s s9 := by
  cases eq
  have h := Still.refl s
  apply State.pageDrainEnd_still
  assumption

end Sys2Proof.Machine
end

