-- ==== Sys2Proof/Laws/Time.lean ====
section
/-! SUPPORT. How far the operations of the clock move time: `pass`, `advance`, `runOut` and the GTC boundaries they meet. -/

namespace Sys2Proof.Machine

/-- The stretched cycles among the next n, which set the tick's stretch bit. -/
def TimeUnit.marks (t : TimeUnit) (n : Nat) : Bool := t.stretchNow.any fun o => decide (t.offset < o ∧ o ≤ t.offset + n)

/-- The time unit after n ac of the clocks. -/
def TimeUnit.after (t : TimeUnit) (n : Nat) : TimeUnit :=
  { t with
    ac := t.ac + n, ref := t.ref + n + t.longer n, offset := if t.tickRunning then t.offset + n else t.offset
    stretchedTick := t.stretchedTick || t.marks n }

theorem State.countWeirs_time (s : State) (n : Nat) : (s.countWeirs n).time = s.time := by unfold State.countWeirs; split <;> rfl
theorem State.countWeirs_config (s : State) (n : Nat) : (s.countWeirs n).config = s.config := by unfold State.countWeirs; split <;> rfl

theorem State.pass_time (s : State) (n : Nat) : (s.pass n).time = s.time.after n := by
  simp [State.pass, State.countWeirs_time, TimeUnit.after, TimeUnit.marks]
theorem State.pass_config (s : State) (n : Nat) : (s.pass n).config = s.config := by simp [State.pass, State.countWeirs_config]

@[simp] theorem TimeUnit.stretchNow_after (t : TimeUnit) (n : Nat) : (t.after n).stretchNow = t.stretchNow := rfl

theorem TimeUnit.stretchNow_stopped {t : TimeUnit} (h : t.tickRunning = false) : t.stretchNow = [] := by simp [TimeUnit.stretchNow, h]

theorem TimeUnit.longer_after (t : TimeUnit) (m n : Nat) : t.longer m + (t.after m).longer n = t.longer (m + n) := by
  cases h : t.tickRunning with
  | false => simp [TimeUnit.longer, TimeUnit.stretchNow_stopped h]
  | true =>
    have o : (t.after m).offset = t.offset + m := by simp [TimeUnit.after, h]
    simp only [TimeUnit.longer, List.range_add, List.countP_append, List.countP_map, TimeUnit.stretchNow_after, o]
    simp only [Function.comp_def, Nat.add_assoc]

theorem TimeUnit.marks_after (t : TimeUnit) (m n : Nat) : (t.marks m || (t.after m).marks n) = t.marks (m + n) := by
  cases h : t.tickRunning with
  | false => simp [TimeUnit.marks, TimeUnit.stretchNow_stopped h]
  | true =>
    have o : (t.after m).offset = t.offset + m := by simp [TimeUnit.after, h]
    rw [Bool.eq_iff_iff]
    simp only [TimeUnit.marks, TimeUnit.stretchNow_after, o, Bool.or_eq_true, List.any_eq_true, decide_eq_true_eq]
    constructor
    · rintro (⟨x, hx, h1, h2⟩ | ⟨x, hx, h1, h2⟩)
      · exact ⟨x, hx, h1, by omega⟩
      · exact ⟨x, hx, by omega, by omega⟩
    · rintro ⟨x, hx, h1, h2⟩
      by_cases q : x ≤ t.offset + m
      · exact .inl ⟨x, hx, h1, q⟩
      · exact .inr ⟨x, hx, by omega, by omega⟩

theorem TimeUnit.after_after (t : TimeUnit) (m n : Nat) : (t.after m).after n = t.after (m + n) := by
  have l := t.longer_after m n
  have k := t.marks_after m n
  have a : (t.after m).ac = t.ac + m := rfl
  have r : (t.after m).ref = t.ref + m + t.longer m := rfl
  have b : (t.after m).stretchedTick = (t.stretchedTick || t.marks m) := rfl
  have q : (t.after m).tickRunning = t.tickRunning := rfl
  have o : (t.after m).offset = if t.tickRunning then t.offset + m else t.offset := rfl
  unfold TimeUnit.after
  simp only [TimeUnit.mk.injEq]
  change _ ∧ _
  have e1 : t.ref + m + t.longer m + n + (t.after m).longer n = t.ref + (m + n) + t.longer (m + n) := by omega
  have e2 : ((t.stretchedTick || t.marks m) || (t.after m).marks n) = (t.stretchedTick || t.marks (m + n)) := by rw [Bool.or_assoc, k]
  cases h : t.tickRunning <;> simp_all [TimeUnit.after, Nat.add_assoc]

theorem TimeUnit.after_zero (t : TimeUnit) : t.after 0 = t := by
  have m : t.marks 0 = false := by
    simp only [TimeUnit.marks, List.any_eq_false, decide_eq_true_eq]
    omega
  simp [TimeUnit.after, TimeUnit.longer, m]

/-- Time units of one grid move alike. -/
theorem TimeUnit.grid_after {t u : TimeUnit} (h : t.grid = u.grid) (n : Nat) : (t.after n).grid = (u.after n).grid := by
  simp only [TimeUnit.grid, TimeUnit.mk.injEq] at h
  simp only [TimeUnit.grid, TimeUnit.after, TimeUnit.marks, TimeUnit.longer, TimeUnit.stretchNow, TimeUnit.mk.injEq]
  simp [h]

/-- n ac of advance move the clocks by n and leave the rest of the time unit's grid alone. -/
theorem State.advance_time (s : State) (n : Nat) : (s.advance n).time.grid = (s.time.after n).grid ∧ (s.advance n).config = s.config := by
  induction n generalizing s with
  | zero => simp [State.advance, TimeUnit.after_zero]
  | succ n ih =>
    unfold State.advance
    split
    · exact ⟨by rw [State.pass_time], State.pass_config s _⟩
    · have w := State.work_still (Still.refl (s.pass 1))
      have i := ih (s.pass 1).work
      refine ⟨?_, i.2.trans (w.config.trans (State.pass_config s 1))⟩
      rw [i.1, TimeUnit.grid_after w.grid, State.pass_time, TimeUnit.after_after, Nat.add_comm]

theorem State.tickLength_congr {s t : State} (h : t.config = s.config) : t.tickLength = s.tickLength := by
  simp [State.tickLength, State.cfg, h]

/-- No GTC boundary passes before the next one's position. -/
theorem State.gtcUp_none {s : State} (h : s.time.nextRef < s.nextBoundary) : s.gtcUp = s := by
  unfold State.gtcUp State.catchUp
  have : ¬ s.nextBoundary ≤ s.time.nextRef := by omega
  simp [this]

/-- Exactly one GTC boundary passes where the next one falls on the ac that comes. -/
theorem State.gtcUp_one {s : State} (r : s.time.running = true) (h : s.nextBoundary = s.time.nextRef) (l : 16 < s.tickLength) :
    s.gtcUp = { s with time := s.time.nextGtc s.tickLength } := by
  unfold State.gtcUp
  generalize (s.time.nextRef - s.time.boundaryRef) / 512 = n
  rw [State.catchUp]
  simp only [r, h, Nat.le_refl, decide_true, Bool.and_self, if_true]
  cases n with
  | zero => rfl
  | succ n =>
    rw [State.catchUp]
    have k : ¬ ({ s with time := s.time.nextGtc s.tickLength } : State).nextBoundary ≤ s.time.nextRef := by
      have e : ((s.time.boundaryRef : Int) + s.tickLength + s.time.nextTrim).toNat = s.time.nextRef := h
      have tl : ({ s with time := s.time.nextGtc s.tickLength } : State).tickLength = s.tickLength := rfl
      have b : (s.time.nextGtc s.tickLength).boundaryRef = ((s.time.boundaryRef : Int) + s.tickLength + s.time.nextTrim).toNat := rfl
      simp only [State.nextBoundary, tl, b, e]
      have : (-8 : Int) ≤ (s.time.nextGtc s.tickLength).nextTrim := by unfold TimeUnit.nextTrim; omega
      omega
    simp [k]

end Sys2Proof.Machine
end

