-- ==== Sys2Proof/WellFormed.lean ====
section
/-! DEFINITION. Which commands a sender can put on Puska's ports: the widths and ranges the spec gives their operands. Values that Puska
itself tests, and answers with an error, a refusal code or a fault record, are well-formed. -/

namespace Sys2Proof

/-- Bytes of one scratchpad (56 MiB). -/
def spadBytes : Nat := 56 * 2 ^ 20

/-- A number of a given width. -/
def fits (w v : Nat) : Bool := decide (v < 2 ^ w)

/-- An SRAM identifier (R505) and an entry. -/
def sramPlace (b : Option (Nat × Nat)) : Bool := match b with | none => true | some x => decide (1 ≤ x.1 ∧ x.1 ≤ 18)

/-- Five values, one for each port. -/
def fivePorts (xs : List Nat) : Bool := xs.length == 5

/-- Trained lanes of a port (R509). -/
def laneCount (n : Nat) : Bool := [0, 1, 2, 4, 8].contains n

/-- What a slot boundary brings: offsets of stretched cycles within a slot or margin (STRETCH), bytes within a scratchpad, at most five ports. -/
def BoundaryIn.wf (b : BoundaryIn) : Bool :=
  b.stretched.all (fun o => decide (o < 20480)) && b.stores.all (fun x => decide (x.1 < 64 ∧ x.2.1 + x.2.2.length ≤ spadBytes))
    && b.windows.all (fun w => decide (w.1 < 64 ∧ w.2.2.1 ≤ w.2.2.2 ∧ w.2.2.2 ≤ spadBytes)) && decide (b.sent.length ≤ 5 ∧ b.received.length ≤ 5)
    && b.regions.all (fun r => decide (r.lcid < 64 ∧ r.base + r.bytes ≤ spadBytes) && fits 48 r.tail)

/-- What a tick start brings: each submission slot at most once, payloads of a slot's size, 32-bit tails. -/
def TickIn.wf (t : TickIn) : Bool :=
  t.boundary.wf && decide ((t.slots.map (·.slot)).Nodup) && t.slots.all (fun q => decide (q.payload.length ≤ 960))
    && fits 32 t.completionTail && fits 32 t.logTail

/-- What a link message carries (R7, R35, R36, R59, R311). -/
def MsgHdr.wf (h : MsgHdr) : Bool :=
  fits 32 h.sender && fits 12 h.cmid && fits 16 h.cxid && fits 48 h.tick && fits 16 h.epoch && decide (h.vc < 4)

/-- The words every submission carries (R446). -/
def SubHdr.wf (h : SubHdr) : Bool := fits 16 h.cxid

def EndReport.wf (r : EndReport) : Bool := fits 8 r.code && fits 64 r.detail

def CoreSample.wf (x : CoreSample) : Bool := decide (x.core < (if x.control then 8 else 64)) && fits 3 x.stall && fits 20 x.pc

def SramError.wf (e : SramError) : Bool :=
  match e.logic with
  | some (.counterCopy _ v x) => fits 20 v && fits 48 x
  | some _ => true
  | none => e.free == false || e.owner.isNone

/-- A register access covers 1 to 8 bytes; a page is 4 KiB, and an aperture may be larger (R13, R468). -/
def RegAccess.wf (a : RegAccess) : Bool := decide (1 ≤ a.bytes ∧ a.bytes ≤ 8) && (a.aperture.isSome || decide (a.offset < 0x1000))

/-- Whether a command is one a sender can send. -/
def Instr.wf : Instr → Bool
  | .dieReset => true
  | .configImage c _ _ _ _ r => fits 32 c.instanceAddr && (match r with | some n => [0x60, 0x61, 0x62].contains n | none => true)
  | .selfTestDone _ _ b => sramPlace b
  | .sramScrubDone b => sramPlace b
  | .keyDerivation _ => true
  | .topologyReport far delays lanes => fivePorts far && fivePorts delays && fivePorts lanes && lanes.all laneCount
  | .ready => true
  | .fenceClear _ => true
  | .fenceClearDone _ _ x b _ => sramPlace x && sramPlace b
  | .syncEdge => true
  | .gtcStart => true
  | .xtrigEdge => true
  | .inputStuck _ => true
  | .inputStuckClear _ => true
  | .xtrigOutEnd => true
  | .clockRestart n => fits 48 n
  | .gtcBoundary => true
  | .lagLimitTest => true
  | .marginStart b => b.wf
  | .tickStart t => t.wf
  | .thermalFractionRise => true
  | .thermalExcursion n => fits 16 n
  | .currentLimitPersist => true
  | .rotation cmid => fits 12 cmid
  | .idleBeatSend _ m => fits 16 m
  | .headwaterLoss _ => true
  | .slotBoundary b => b.wf
  | .teardownScrubEnd _ => true
  | .startDecision _ _ => true
  | .pondCrcResult _ _ _ _ => true
  | .taskEnd _ r => r.wf
  | .windowClose _ => true
  | .coreHalted _ _ => true
  | .cntInc _ _ _ => true
  | .cntTake _ _ => true
  | .cntRead _ _ => true
  | .cntWait _ _ _ => true
  | .cntWaitRelease _ => true
  | .ripple _ _ _ _ _ => true
  | .ringOpen _ _ _ => true
  | .ringClose _ _ => true
  | .send _ _ units _ _ _ payload => payload.length == 64 * units
  | .sendAccept _ => true
  | .messageWritten _ => true
  | .recv _ rings _ _ => rings.all (fits 10)
  | .recvRelease _ => true
  | .release _ _ => true
  | .cflDrain _ _ _ _ _ _ => true
  | .cflExport _ _ _ _ _ _ _ => true
  | .cflClear _ _ _ => true
  | .cflCommandBegin _ => true
  | .fetchHandoff _ => true
  | .traceMark _ _ _ => true
  | .invalidCommand _ _ => true
  | .pairRecord _ ps => decide (1 ≤ ps.length ∧ ps.length ≤ 32)
  | .confluenceScrub _ => true
  | .moverEntryComplete _ _ _ _ => true
  | .setFlags _ _ n _ => fits 16 n
  | .waitFlags _ _ _ => true
  | .waitCounter _ _ _ => true
  | .yield _ => true
  | .endThread _ _ => true
  | .breakThread _ _ => true
  | .reservedThreadCommand _ _ => true
  | .openRecord _ _ => true
  | .choiceRecord _ _ => true
  | .closeRecord _ _ => true
  | .jobPublish _ => true
  | .stagingIssue _ n => fits 16 n
  | .rippleReceived h _ _ => h.wf
  | .landingNotice h _ => h.wf
  | .wideLanding h c i _ => h.wf && decide (c < 8) && fits 24 i
  | .forwardedPair h c _ => h.wf && decide (c < 8)
  | .tickSeal h => h.wf
  | .controlSeal h => h.wf
  | .beaconSend => true
  | .beacon _ _ off _ => fits 32 off
  | .beaconLoss => true
  | .calibrationResult lanes delays => fivePorts lanes && fivePorts delays && lanes.all laneCount
  | .portChange _ _ n => laneCount n
  | .fetchRequest h _ => h.wf
  | .stepStart h st _ _ => h.wf && fits 40 st
  | .stepReport h st _ _ _ _ => h.wf && fits 40 st
  | .blockedReport h _ => h.wf
  | .cancelMessage h st => h.wf && fits 40 st
  | .freezeMessage h _ => h.wf
  | .thawMessage h => h.wf
  | .resumeMessage h g => h.wf && fits 48 g
  | .restoreReport h _ _ => h.wf
  | .teardownMessage h c _ => h.wf && fits 16 c
  | .idleBeat h => h.wf
  | .joinMessage h _ x _ => h.wf && fits 64 x
  | .refuse h _ _ => h.wf
  | .confirm m => m.hdr.wf
  | .abort h => h.wf
  | .lockstepHello h _ _ _ => h.wf
  | .digestMessage h _ _ => h.wf
  | .lockstepList h _ _ => h.wf
  | .lockstepHalt h => h.wf
  | .haltRelay h c _ => h.wf && decide (c < 3)
  | .load h _ => h.wf
  | .manifest h _ => h.wf
  | .freeze h _ _ _ => h.wf
  | .freezeSaveBegin _ => true
  | .freezeSaveEnd _ => true
  | .freezeScrubEnd _ => true
  | .thaw h _ => h.wf
  | .restoreEnd _ _ => true
  | .teardown h => h.wf
  | .cancel h st => h.wf && fits 40 st
  | .join h _ => h.wf
  | .leave h _ => h.wf
  | .importSeq h _ => h.wf
  | .appendCount h _ n => h.wf && fits 16 n
  | .setFlag h st n _ => h.wf && fits 40 st && fits 16 n
  | .runRecord h => h.wf
  | .fwUpdate h _ => h.wf
  | .step h _ n => h.wf && fits 32 n
  | .stillWater _ => true
  | .waitForGraph _ => true
  | .watchdogTeardownLimit _ => true
  | .stewardHeartbeat _ _ => true
  | .heartbeatLate => true
  | .stewardWatchdog => true
  | .fwActivate => true
  | .fwReverted => true
  | .sramError e => e.wf
  | .pcSample _ xs => xs.all (·.wf)
  | .cmdBegin _ _ _ xs => decide (xs.length ≤ 8)
  | .cmdEnd _ _ _ xs => decide (xs.length ≤ 8)
  | .chunkDrain _ => true
  | .chunkWritten _ => true
  | .traceArm _ _ _ => true
  | .traceFlush _ _ _ => true
  | .dumpSubmit _ _ _ => true
  | .debugResume _ _ _ => true
  | .syncArm _ => true
  | .pageEnable _ p => p == 0x30 || p == 0x38
  | .pageDisable _ p => p == 0x30 || p == 0x38
  | .pageDrainEnd p => p == 0x30 || p == 0x38
  | .evtRawClear _ _ _ => true
  | .evtForce _ _ _ => true
  | .pageErrRead _ _ => true
  | .obsPeakRead _ => true
  | .catchCommit _ _ _ => true
  | .catchRelease _ _ _ => true
  | .registerWrite a _ => a.wf
  | .loadComplete _ _ _ => true
  | .registerRead a => a.wf

end Sys2Proof
end

