-- ==== Sys2Proof/Tests/Slice0.lean ====
section
/-! SUPPORT. The model's own tests: ill-formed commands, states that meet the hypotheses of each statement, and one step of commands on small
states. Expected values come from the rules of the spec each test names. -/

open Sys2Proof Sys2Proof.Machine

namespace Sys2Proof.Tests

set_option Elab.async false

/-! ### Ill-formed commands, one for each check -/

/-- A message header whose sender is no 32-bit address. -/
def longSender : MsgHdr := { sender := 2 ^ 32 }

theorem test_wf_header : ([{ sender := 2 ^ 32 }, { cmid := 4096 }, { cxid := 65536 }, { tick := 2 ^ 48 }, { epoch := 65536 }, { vc := 4 }] : List MsgHdr).all
    (fun h => !h.wf) = true := by decide
theorem test_wf_submission_header : ({ cxid := 65536 } : SubHdr).wf = false := by decide

theorem test_wf_messages : ([.rippleReceived longSender 0 0, .landingNotice longSender default, .wideLanding longSender 0 0 0, .wideLanding {} 8 0 0,
    .wideLanding {} 0 (2 ^ 24) 0, .forwardedPair longSender 0 0, .forwardedPair {} 8 0, .tickSeal longSender, .controlSeal longSender,
    .fetchRequest longSender default, .stepStart longSender 0 none [], .stepStart {} (2 ^ 40) none [], .stepReport longSender 0 false 0 0 0,
    .stepReport {} (2 ^ 40) false 0 0 0, .blockedReport longSender true, .cancelMessage longSender 0, .cancelMessage {} (2 ^ 40),
    .freezeMessage longSender 0, .thawMessage longSender, .resumeMessage longSender 0, .resumeMessage {} (2 ^ 48), .restoreReport longSender 0 true,
    .teardownMessage longSender 0 0, .teardownMessage {} 65536 0, .idleBeat longSender, .joinMessage longSender 0 0 default,
    .joinMessage {} 0 (2 ^ 64) default, .refuse longSender 0 0, .confirm { hdr := longSender }, .abort longSender, .lockstepHello longSender 0 0 0,
    .digestMessage longSender 0 0, .lockstepList longSender 0 [], .lockstepHalt longSender, .haltRelay longSender 0 0, .haltRelay {} 3 0]
      : List Instr).all (fun c => !c.wf) = true := by decide

theorem test_wf_submissions : ([.load { cxid := 65536 } default, .manifest { cxid := 65536 } [], .freeze { cxid := 65536 } 0 0 false,
    .thaw { cxid := 65536 } default, .teardown { cxid := 65536 }, .cancel { cxid := 65536 } 0, .cancel {} (2 ^ 40), .join { cxid := 65536 } default,
    .leave { cxid := 65536 } default, .importSeq { cxid := 65536 } default, .appendCount { cxid := 65536 } 0 0, .appendCount {} 0 65536,
    .setFlag { cxid := 65536 } 0 0 0, .setFlag {} (2 ^ 40) 0 0, .setFlag {} 0 65536 0, .runRecord { cxid := 65536 }, .fwUpdate { cxid := 65536 } [],
    .step { cxid := 65536 } 0 1, .step {} 0 (2 ^ 32)] : List Instr).all (fun c => !c.wf) = true := by decide

theorem test_wf_start_up : ([.configImage { instanceAddr := 2 ^ 32 } none true true 0 none, .configImage {} none true true 0 (some 0x63),
    .selfTestDone true true (some (0, 0)), .sramScrubDone (some (19, 0)), .topologyReport [] [0, 0, 0, 0, 0] [0, 0, 0, 0, 0],
    .topologyReport [0, 0, 0, 0, 0] [] [0, 0, 0, 0, 0], .topologyReport [0, 0, 0, 0, 0] [0, 0, 0, 0, 0] [],
    .topologyReport [0, 0, 0, 0, 0] [0, 0, 0, 0, 0] [3, 0, 0, 0, 0], .fenceClearDone true true (some (0, 0)) none true,
    .fenceClearDone true true none (some (19, 0)) true, .calibrationResult [3, 0, 0, 0, 0] [0, 0, 0, 0, 0], .calibrationResult [] [0, 0, 0, 0, 0],
    .calibrationResult [0, 0, 0, 0, 0] [], .portChange 0 0 3] : List Instr).all (fun c => !c.wf) = true := by decide

theorem test_wf_time : ([.clockRestart (2 ^ 48), .slotBoundary { stretched := [20480] }, .marginStart { stretched := [20480] },
    .slotBoundary { stores := [(64, 0, [])] }, .slotBoundary { stores := [(0, spadBytes, [0])] }, .slotBoundary { windows := [(64, 0, 0, 0)] },
    .slotBoundary { windows := [(0, 0, 1, 0)] }, .slotBoundary { windows := [(0, 0, 0, spadBytes + 1)] },
    .slotBoundary { sent := [0, 0, 0, 0, 0, 0] }, .slotBoundary { received := [0, 0, 0, 0, 0, 0] }, .tickStart { boundary := { stretched := [20480] } },
    .tickStart { slots := [{ slot := 1 }, { slot := 1 }] }, .tickStart { slots := [{ payload := List.replicate 961 0 }] },
    .tickStart { completionTail := 2 ^ 32 }, .tickStart { logTail := 2 ^ 32 }, .thermalExcursion 65536, .rotation 4096, .idleBeatSend 0 65536,
    .beacon 0 0 (2 ^ 32) 0] : List Instr).all (fun c => !c.wf) = true := by decide +kernel

theorem test_wf_core_commands : ([.taskEnd 0 { code := 256 }, .taskEnd 0 { detail := 2 ^ 64 }, .send 0 0 1 0 false 0 [], .recv 0 [1024] false false,
    .pairRecord 0 [], .pairRecord 0 (List.replicate 33 0), .setFlags 0 false 65536 0, .stagingIssue 0 65536, .pcSample 0 [{ core := 64 }],
    .pcSample 0 [{ control := true, core := 8 }], .pcSample 0 [{ stall := 8 }], .pcSample 0 [{ pc := 2 ^ 20 }], .cmdBegin 0 .mxe 0 (List.replicate 9 0),
    .cmdEnd 0 .mxe 0 (List.replicate 9 0), .sramError { free := true, owner := some 0 }] : List Instr).all (fun c => !c.wf) = true := by decide

theorem test_wf_registers : ([.pageEnable .operator 0x31, .pageDisable .operator 0x31, .pageDrainEnd 0x31, .registerWrite { bytes := 0 } 0,
    .registerRead { bytes := 9 }, .registerRead { offset := 0x1000 }] : List Instr).all (fun c => !c.wf) = true := by decide

theorem test_wf_accepts : ([.dieReset, .rippleReceived {} 0 1, .load {} default, .slotBoundary { stretched := [0, 255] }, .send 0 0 1 0 false 0 (List.replicate 64 0),
    .registerRead { aperture := some 0, offset := 0x1000 }, .sramError { sram := 7, owner := some 1 }] : List Instr).all (fun c => c.wf) = true := by decide

/-- The table gives no row any bits. -/
theorem test_no_word_spells_a_command (n w : Nat) : decodeTableWord n w = none := rfl

/-! ### States to test on -/

/-- A die past start-up, in slot 2 of local tick 100. -/
def die : State := { State.reset with
  config := some { instanceAddr := 0x100, window := 0x100000, logAddr := 0x200000, operatorKeyHash := [] }
  boot := { configured := true, selfTest := true, scrub := true, key := some true, topology := true, ready := true }
  time := { running := true, aligned := true, tickRunning := true, gtc := 100, localTick := 100, slot := 2, offset := 10, ac := 5000, ref := 5000
            boundaryRef := 4478, slotCount := 40, lanes := [8, 8, 8, 8, 8], far := [0x200, 0x200, 0x200, 0x200, 0x200] }
  extRun := .on, ext := { cfg := 0x0000_0000_1000_1000, cfgEffective := 0x0000_0000_1000_1000 }
  steward := { State.reset.steward with state := 1, running := 3, lastHeartbeat := 90 }
  obs := { run := .on }
  sluice := { windowState := 1 } }

/-- A running single-member context on its headwater: cores 0 and 1, control core 0, cluster 0. -/
def someCtx : Ctx :=
  { phase := .running, cxid := 7, cmid := 5, headwater := true, lcids := 0b11, ctids := 1, clusters := 1, share := 100, memSlots := 8, outSlots := 4
    launched := true, launchGtc := 50, tick := 50
    image := { stepsInFlight := 2, templates := [{ stepTemplate := true, nodes := [{}, {}] }] }
    counters := [{ decl := { vid := 1 }, value := 9, copy := 9 }], rings := [{ decl := { ring := 2, sizeLog2 := 9 }, isOpen := true }] }

/-- A task of it in service on core 0. -/
def inService : PondEntry := { state := .inService, task := { step := 3, epoch := 3 }, slotsLeft := 1, startAc := 4900 }

/-- The die with that context, its catchment entry and its task. -/
def busy : State :=
  ((die.setCtx 0 someCtx).setCatch 0 { valid := true, cmid := 5, isLocal := true, headwater := true, lcids := 0b11, share := 100, inletQuota := 1024, horizonQuota := 512 }).setCore 0
    { e0 := inService }
/-! ### States that meet the hypotheses of the statements

Each theorem names its statement and gives, for each clause with hypotheses, a state and operands that meet them together. -/

theorem wit_StepTakesFront : ({ die with pending := [.ready, .dieReset] } : State).pending = .ready :: [.dieReset] := rfl

theorem wit_IdleStep : (({ die with time := { die.time with offset := 255 } } : State).pending = [] ∧
      ({ die with time := { die.time with offset := 255 } } : State).acLeft = some 0) ∧ (die.pending = [] ∧ die.acLeft ≠ some 0) := by decide +kernel

/-- The die fenced by a power disagreement, with a clear under way. -/
def fenced : State := { die with
  safety := { die.safety with fenced := true, fenceCode := 0x80 }, boot := { die.boot with clearing := true }, sluice := { windowState := 2 } }

theorem wit_CommandsKeep : exec .syncEdge die = .next die.syncEdge ∧ Instr.syncEdge ≠ .dieReset ∧
    ∀ a b d e f, Instr.syncEdge ≠ .fenceClearDone a b d e f := ⟨rfl, by decide, by intro a b d e f h; cases h⟩

theorem wit_StepKeepsSound : die.Sound ∧ step { die with pending := [.syncEdge] } = .next die.syncEdge := ⟨⟨by decide, by decide⟩, rfl⟩

theorem wit_FenceEndsOnlyByClear : fenced.safety.fenced = true ∧
    ∃ t, exec (.fenceClearDone true true none none true) fenced = .next t ∧ t.safety.fenced = false :=
  ⟨rfl, _, rfl, by decide +kernel⟩

theorem wit_KeyNeverChanges : (∀ c ∈ die.pending, c ≠ .dieReset) ∧ die.boot.key.isSome = true ∧ (runs 1 die).isSome = true := by decide +kernel

/-- An image whose package holds the window, the completion ring, the log area and the log ring; LCIDs 0 to 63 on the lowest PCIDs. -/
def image : ConfigImage := { instanceAddr := 0x100, tray := [{ package := 0x20, base := 0, size := 2 ^ 24 }], window := 0x100000, logAddr := 0x900000 }

theorem wit_StageOne : (State.reset.config = none ∧ State.reset.boot.failed = false ∧ image.inRange = true) ∧
    ({ slotsPerTick := 3 } : ConfigImage).inRange = false := by decide +kernel

theorem wit_ConfigImageCompletes : (State.reset.config = none ∧ State.reset.boot.failed = false ∧ image.inRange = true ∧
      ({ image with window := 0x8000 } : ConfigImage).inRange = false) ∧ (State.keepImage State.reset image).config.isSome = true ∧
    (State.refuseImage State.reset 0x10 0).boot.failed = true := by decide +kernel

/-- The die as stage 3 of start-up leaves it. -/
def starting : State := { State.reset with config := some { instanceAddr := 0x100, window := 0x100000 }, boot := { configured := true }, extRun := .on }

theorem wit_StartupStages : starting.safety.fenced = false ∧ starting.boot.configured = true ∧ starting.boot.selfTest = false ∧
    starting.boot.topology = false ∧ starting.time.tickRunning = false ∧ die.time.tickRunning = true ∧ ({ starting with boot := { starting.boot with selfTest := true } } : State).boot.scrub = false := by decide

theorem wit_StartupStages_key : ({ starting with boot := { starting.boot with selfTest := true, scrub := true } } : State).boot.scrub = true ∧
    starting.boot.key = none ∧ starting.safety.fenced = false := by decide

/-- The die with everything that READY asks for. -/
def almost : State := { die with boot := { die.boot with ready := false } }

theorem wit_Ready : (almost.boot.configured = true ∧ almost.boot.selfTest = true ∧ almost.boot.scrub = true ∧ almost.boot.key = some true ∧
    almost.boot.topology = true ∧ almost.time.aligned = true ∧ almost.boot.ready = false ∧ almost.safety.fenced = false ∧ almost.ext.sync.stuck = false) ∧
    die.boot.ready = true ∧ (let s : State := { almost with ext := { almost.ext with sync := { stuck := true } } }; s.ext.sync.stuck = true) := by decide

theorem wit_FenceCauses : die.safety.fenced = false ∧ (starting.boot.configured = true ∧ starting.boot.selfTest = false) ∧
    (({ starting with boot := { starting.boot with selfTest := true } } : State).boot.scrub = false) ∧
    (let s : State := { die with time := { die.time with offset := 224 } };
      s.time.tickRunning = true ∧ s.time.inMargin = false ∧ s.time.resync = false ∧ s.time.offset = 224) ∧
    (({ logic := some (.comparators 7) } : SramError).logic = some (.comparators 7) ∧ ({ logic := some .timeUnit } : SramError).logic = some .timeUnit) ∧
    die.cfg.tempCritical * 10 ≤ 1150 ∧ (let s : State := { die with gov := { die.gov with hotAtFloor := 256 } }; s.cfg.hotTicks ≤ s.gov.hotAtFloor) ∧
    (let s : State := { die with gov := { die.gov with ilimitRun := 1024 } }; s.cfg.ilimitTicks ≤ s.gov.ilimitRun) ∧
    (let s : State := { die with time := { die.time with localTick := 1114 } };
      s.time.tickRunning = true ∧ s.steward.state = 1 ∧ s.steward.lastHeartbeat + 1024 ≤ s.time.localTick) ∧
    (let e : SramError := { sram := 5, correctable := false }; e.logic = none ∧ e.correctable = false ∧ sramShared e.sram.val = true) := by decide +kernel

theorem wit_FenceClear : ((fenced.page 0x34).served ≠ some fenced.time.ac ∧ fenced.safety.fenced = true ∧ fenced.safety.powerOnly = false ∧
      fenced.boot.key ≠ some false) ∧ (die.page 0x34).served ≠ some die.time.ac ∧ die.safety.fenced = false ∧ fenced.boot.clearing = true := by decide

/-- The die before its GTC has started, with the start input armed. -/
def armed : State := { starting with time := { syncArm := true, armedAc := 3, ac := 9, ref := 9 } }

theorem wit_GtcStart_after : die.extRun = .on ∧ die.ext.sync.stuck = false ∧ die.time.running = true ∧ die.ext.sync.lastEdge = none := by decide

theorem wit_GtcStart_spacing : let s : State := { die with ext := { die.ext with sync := { lastEdge := some 0 }, cfgEffective := 19 } };
    s.ext.sync.lastEdge = some 0 ∧ 0 + bits s.ext.cfgEffective.toNat 15 0 * 256 ≤ s.time.ac ∧
    s.time.ac < 0 + (bits s.ext.cfgEffective.toNat 15 0 + 1) * 256 := by decide +kernel

theorem wit_GtcStart : (armed.extRun = .on ∧ armed.ext.sync.stuck = false ∧ armed.boot.configured = true ∧ armed.time.running = false ∧
      armed.time.startAt = none ∧ armed.ext.sync.lastEdge = none) ∧
    (let s : State := { armed with time := { armed.time with startAt := some 1033 } };
      s.time.startAt = some 1033 ∧ s.time.running = false ∧ s.time.tickRunning = false) := by decide +kernel

theorem wit_InputFilters : (let s : State := { die with ext := { die.ext with sync := { lastEdge := some 4999 }, xtrig := { lastEdge := some 4999 } } };
      s.extRun = .on ∧ s.ext.sync.stuck = false ∧ s.ext.xtrig.stuck = false ∧
      s.time.ac < 4999 + bits s.ext.cfgEffective.toNat 15 0 * 256 ∧ s.time.ac < 4999 + bits s.ext.cfgEffective.toNat 31 16 * 256) ∧
    (die.ext.xtrig.stuck = false ∧ die.ext.xtrig.lastEdge = none ∧ bits die.ext.cfgEffective.toNat 33 32 = 0 ∧
      bits (0x1_1000_1000 : Word).toNat 33 32 = 1 ∧ bits (0x2_1000_1000 : Word).toNat 33 32 = 2) ∧
    (let s : State := { die with time := { die.time with ref := 16 * 2176 + 1 } };
      (s.ext.input .syncPulse).stuck = false ∧ (s.ext.input .syncPulse).seen = false ∧
      (s.ext.input .syncPulse).since + 16 * s.tickLength < s.time.ref) ∧
    (let s : State := { die with ext := { die.ext with sync := { level := false, seen := true } } };
      (s.ext.input .syncPulse).level = false ∧ (s.ext.input .syncPulse).seen = true) ∧
    (let s : State := { die with ext := { die.ext with xtrig := { stuck := true } } }; (s.ext.input .xtrig).stuck = true) := by decide +kernel

theorem wit_XtrigOut : (let s : State := { die with ext := { die.ext with outCfgEffective := 0x20 } };
      s.extRun = .on ∧ s.ext.xtrig.stuck = false ∧ s.ext.xtrig.lastEdge = none ∧ s.ext.outCfgEffective.getLsbD 5 = true) ∧
    (let s : State := { die with ext := { die.ext with outUntil := some 5000 } }; s.ext.outUntil = some 5000 ∧ 5000 ≤ s.time.ac) ∧
    (let s : State := { die with ext := { die.ext with outUntil := some 5001 } }; s.ext.outUntil = some 5001 ∧ s.time.ac < 5001) := by decide

/-- The die in the margin of tick 100, 100 reference cycles before its end. -/
def margin : State := { die with
  time := { die.time with slot := 7, inMargin := true, offset := 27, boundaryRef := 4478, ref := 4478 + 2075, ac := 4478 + 2075, slotCount := 45 } }

theorem wit_GtcRuns : (margin.time.running = true ∧ margin.time.inMargin = true ∧ margin.time.startAt = none ∧
      margin.time.boundaryRef ≤ margin.time.ref ∧ margin.time.gtc ≤ margin.time.localTick ∧ margin.time.ref < margin.nextBoundary ∧
      16 < margin.tickLength) ∧
    (let s : State := margin.setCtx 0 someCtx;
      s.time.tickRunning = true ∧ s.time.running = true ∧ s.live.isEmpty = false ∧ s.time.jumping = false ∧ s.time.resync = false ∧
      s.time.inMargin = true ∧ s.time.gtc = s.time.localTick ∧ s.time.ref + 7 + 2 < s.nextBoundary ∧ s.time.boundaryRef ≤ s.time.ref + 7) ∧
    (busy.live.isEmpty = false ∧ busy.time.inMargin = false ∧ busy.time.offset < 255 ∧ busy.time.tickRunning = true ∧ busy.time.resync = false) ∧
    (let s : State := { busy with time := { busy.time with offset := 255 } }; s.live.isEmpty = false ∧ s.time.offset = 255) := by decide +kernel

theorem wit_SlotGrid : (die.time.tickRunning = true ∧ die.time.inMargin = false ∧ die.time.resync = false ∧ die.time.slot + 1 < die.cfg.slotsPerTick) ∧
    (let s : State := { die with time := { die.time with slot := 7, ref := 4478 + 1802, stretch := [255] } };
      s.time.slot + 1 = s.cfg.slotsPerTick ∧ s.time.gtc = s.time.localTick ∧ s.time.longer 246 = 1 ∧ s.time.ref + 246 + s.time.longer 246 < s.nextBoundary) ∧
    (margin.time.tickRunning = true ∧ margin.time.running = true ∧ margin.time.jumping = false ∧ margin.time.resync = false ∧
      margin.time.gtc = margin.time.localTick ∧ margin.time.boundaryRef ≤ margin.time.ref ∧ margin.time.ref < margin.nextBoundary ∧
      16 < margin.tickLength ∧ margin.time.stretch = []) := by decide +kernel

theorem wit_LagLimit : (let s : State := { die with time := { die.time with slot := 7, gtc := 103, boundaryRef := 4478, boundaries := [2302, 126] , ref := 5000 } };
      s.time.tickRunning = true ∧ s.time.inMargin = false ∧ s.time.slot + 1 = s.cfg.slotsPerTick ∧ s.time.jumping = false ∧ s.time.resync = false ∧
      s.time.ref + 246 + s.time.longer 246 < s.nextBoundary ∧ s.time.localTick < s.time.gtc ∧
      s.time.boundaryOf s.tickLength (s.time.localTick + 1) + s.cfg.lagLimit * s.tickLength ≤ s.time.ref + 246 + s.time.longer 246) ∧
    (let s : State := { die with time := { die.time with slot := 7, gtc := 103, boundaryRef := 4478, boundaries := [2302, 126] , ref := 5000 } };
      let u := s.runOut.gtcUp; s.inLastSlot = true ∧ s.time.jumps = false ∧ u.time.localTick < u.time.gtc ∧
      u.time.boundaryOf u.tickLength (u.time.localTick + 1) + u.cfg.lagLimit * u.tickLength ≤ u.time.nextRef) ∧
    (let s : State := { die with time := { die.time with slot := 7, gtc := 101 } };
      let u := s.runOut.gtcUp; s.inLastSlot = true ∧ u.time.localTick < u.time.gtc ∧
      u.time.nextRef < u.time.boundaryOf u.tickLength (u.time.localTick + 1) + u.cfg.lagLimit * u.tickLength ∧
      s.time.localTick < s.time.gtc ∧ s.time.ref + 246 + s.time.longer 246 < s.nextBoundary ∧
      s.time.ref + 246 + s.time.longer 246 < s.time.boundaryOf s.tickLength (s.time.localTick + 1) + s.cfg.lagLimit * s.tickLength) ∧
    die.inLastSlot = false ∧
    (let s : State := { die with time := { die.time with slot := 7 } };
      s.time.gtc = s.time.localTick ∧ s.time.ref + 246 + s.time.longer 246 < s.nextBoundary) := by decide +kernel

theorem wit_Beacons : (let s : State := { die with time := { die.time with gtc := 112, ref := 4490 } };
      s.safety.timeFault = false ∧ s.time.running = true ∧ s.time.gtc % 2 ^ s.cfg.beaconExp = 0 ∧ s.time.lastSent ≠ some s.time.gtc ∧
      s.acLeft = some 245 ∧ s.time.acUntil (s.time.boundaryRef + 64) = 52 ∧ s.time.stretchNow = [] ∧ s.time.ref ≤ s.time.boundaryRef + 64) ∧
    (let s : State := { starting with config := some { instanceAddr := 0x100, beaconParent := some 1 } };
      s.cfg.beaconParent = some 1 ∧ s.boot.configured = true ∧ s.boot.ready = false ∧ s.time.running = false) ∧
    (let s : State := { die with config := some { instanceAddr := 0x100, beaconParent := some 1 } };
      s.cfg.beaconParent = some 1 ∧ s.boot.ready = true ∧ s.time.running = true ∧ 256 < (s.beaconError 99 0).natAbs ∧
      (s.beaconError 100 522).natAbs ≤ 8 ∧ s.time.beaconLost = false ∧ s.time.gtc < s.time.lastBeaconTick + 8 * 2 ^ s.cfg.beaconExp) ∧
    (let s : State := { die with config := some { instanceAddr := 0x100, beaconParent := some 1 }, time := { die.time with gtc := 128 } };
      s.time.lastBeaconTick + 8 * 2 ^ s.cfg.beaconExp ≤ s.time.gtc) := by decide +kernel

theorem wit_LinkChanges : (let s : State := { die with config := some { calLog2 := 0 } }; s.time.tickRunning = true ∧ s.calibrationTick = true) ∧
    (let s : State := die.setCtx 0 { someCtx with multiMember := true }; (s.ctx 0).phase ≠ .empty ∧ (s.ctx 0).multiMember = true) := by decide +kernel

/-- The die in the last ac before the start decisions, with two valid entries of the context. -/
def deciding : State :=
  ((({ die with time := { die.time with offset := 224 } }).setCtx 0 { someCtx with share := 100 }).setCore 0
    { e0 := { state := .valid, task := { energy := 60 } } }).setCore 1 { e0 := { state := .valid, task := { energy := 60, node := 1 }, order := 1 } }

theorem wit_GovernorUnit : (let s : State := { die with gov := { die.gov with coldRun := 64, fraction := 15 } }; 64 ≤ s.gov.coldRun ∧ s.gov.fraction = 15) ∧
    (let s : State := { die with gov := { die.gov with coldRun := 63 } }; s.gov.coldRun < 64) ∧ (1149 < die.cfg.tempCritical * 10 ∧
      die.gov.hotAtFloor < die.cfg.hotTicks ∧ die.gov.ilimitRun < die.cfg.ilimitTicks) ∧
    (deciding.safety.fenced = false ∧ deciding.time.tickRunning = true ∧ deciding.time.inMargin = false ∧ deciding.time.offset = 224 ∧
      deciding.works 0 = true ∧ (∀ j, j ≠ 0 → deciding.works j = false) ∧
      (∀ l, (deciding.core l).e0.state = .valid → (deciding.core l).e1.state = .valid → (deciding.core l).e0.order ≠ (deciding.core l).e1.order) ∧
      deciding.candidate 0 = some { state := .valid, task := { energy := 60 } } ∧ (deciding.candidate 1).isSome = true ∧
      deciding.effectiveShare 0 = 100) := by decide +kernel

/-- A catchment whose resident member is blocked, with a Frozen member that has work at rota position 2. -/
def rotating (on : Bool) : State :=
  (((die.setCtx 0 { someCtx with steps := [{ step := 3, insts := [{}] }], nextStep := 4, image := { stepsInFlight := 1, templates := [{ nodes := [{}] }] }
                                 stillCount := 2000 }).setCtx 1
    { phase := .frozen, cxid := 8, cmid := 5, rota := 2, setFlagsDue := [{ hdr := {}, taken := 0, sub := .teardown }] }).setCatch 0
    { valid := true, cmid := 5, autoNow := on, autoEn := on, rotateNow := 1024 })

theorem wit_Rotation : ((rotating true).catchOf 5 = some 0 ∧ (rotating true).residentOf 0 = some 0 ∧ ((rotating true).ctx 0).headwater = true ∧
      ((rotating true).ctx 0).multiMember = false ∧ ((rotating true).ctx 0).fault = none ∧ ((rotating true).ctx 0).halted = false ∧
      ((rotating true).ctx 0).freezeStage = .none ∧ ((rotating true).ctx 0).freezeSub = none ∧ ((rotating true).ctx 0).freezePending = false ∧
      (rotating true).catchBlocked 0 = true ∧ ((rotating true).catch_ 0).autoNow = true ∧
      (rotating true).nextRunnable 0 ((rotating true).ctx 0).rota = some 1) ∧
    ((rotating false).catchBlocked 0 = true ∧ ((rotating false).catch_ 0).autoNow = false ∧ ((rotating false).catch_ 0).stagnant = false) := by
  decide +kernel

/-- Two members: this die, and one at address 0x200, by port 2. -/
def pairManifest : Manifest := { entries := [{ instanceAddr := 0x100, role := 1, routes := [(0x200, 2)] }, { instanceAddr := 0x200 }] }

theorem wit_HeadwaterBeats : (let s : State := (({ die with time := { die.time with slot := 0, offset := 0 } }).setCtx 0
        { someCtx with multiMember := true, tick := 128 }).setCatch 0 { valid := true, cmid := 5, manifest := some pairManifest };
      (s.ctx 0).runs = true ∧ (s.ctx 0).multiMember = true ∧ (s.ctx 0).headwater = true ∧ s.atTickStart = true ∧
      (s.members 0).find? (fun p => p.1 == 1) = some (1, 0x200) ∧ 0x200 ≠ s.cfg.instanceAddr ∧ (s.ctx 0).hw.sentAt 1 + 128 ≤ (s.ctx 0).tick ∧
      s.safety.fenced = false ∧ s.routeTo (s.ctx 0).cmid 0x200 = some 2 ∧ s.routeTo 6 0x200 = none) ∧
    (let s : State := die.setCtx 0 { someCtx with multiMember := true, headwater := false, tick := 256 };
      (s.ctx 0).runs = true ∧ (s.ctx 0).headwater = false ∧ (s.ctx 0).lastControl + 256 ≤ (s.ctx 0).tick ∧ (s.ctx 0).fault = none) ∧
    (let s : State := die.setCtx 0 { someCtx with multiMember := true, headwater := false, tick := 255 };
      (s.ctx 0).tick < (s.ctx 0).lastControl + 256) := by decide +kernel

theorem wit_TeardownScrubEnd : (let s : State := (die.setCtx 0 { someCtx with phase := .tearingDown, scrubEnd := some 40 });
      Memory.wf s.mem ∧ Memory.wf s.spad ∧ (s.ctx 0).phase = .tearingDown ∧ (s.ctx 0).released = false ∧ (s.ctx 0).scrubEnd = some 40 ∧
      40 ≤ s.time.slotCount ∧ s.steward.keys[0] = none) ∧
    (let s : State := (die.setCtx 0 { someCtx with phase := .tearingDown, scrubEnd := some 41 });
      (s.ctx 0).scrubEnd = some 41 ∧ s.time.slotCount < 41) := by decide +kernel

theorem wit_PondCrc : (let s : State := busy.setCore 1 { e1 := { state := .loading } };
      (s.core 1).e1.state = .loading ∧ (s.ctx (s.core 1).e1.task.slot).phase ≠ .empty ∧ (s.ctx (s.core 1).e1.task.slot).fault = none) ∧
    (deciding.candidate 0).isSome = true := by decide +kernel

theorem wit_TaskEnds : ((busy.core 0).serving = some inService ∧ inService.windowClosed = false ∧ inService.report = none) ∧
    (let s : State := { busy with time := { busy.time with offset := 255 } };
      (s.core 0).serving = some inService ∧ inService.slotsLeft ≤ 1 ∧ s.time.inMargin = false ∧ 224 + s.stagger 0 ≤ s.time.offset ∧
      (s.ctx inService.task.slot).runs = true) ∧
    (let e := { inService with report := some { code := 1 } }; let s : State := busy.setCore 0 { e0 := e };
      (s.core 0).serving = some e ∧ e.report = some { code := 1 }) ∧
    (let e := { inService with windowClosed := true }; let s : State := busy.setCore 0 { e0 := e };
      (s.core 0).serving = some e ∧ e.windowClosed = true ∧ e.report = none) ∧
    (let s : State := busy.setCore 1 { halted := true }; (s.core 1).halted = true) := by decide +kernel

theorem wit_CounterCommands : ((busy.issues 0) = some inService.task ∧ (busy.core 0).laneStalled = false ∧ busy.cntOps = [] ∧ ((busy.ctx 0).counter? 1).isSome = true ∧ (1 : BitVec 20).toNat ≠ 0xFFFFF ∧
      busy.pairsOutstanding 0 (busy.core 0).offered = false ∧ (busy.ctx 0).counter? 2 = none ∧ (busy.ctx 0).counterValue 1 ≤ counterMax) ∧
    (let s : State := busy.setCore 0 { e0 := inService, offers := [0], offered := 1 }; s.pairsOutstanding 0 (s.core 0).offered = true) ∧
    (let s : State := { busy with cntOps := [{ lcid := 0, slot := 0, vid := 1, kind := .read, due := none }] };
      ∃ o ∈ s.cntOps, o.lcid = (0 : Fin 64).val ∧ o.due = none) ∧
    (let o : CntOp := { lcid := 0, slot := 0, vid := 1, kind := .read, due := some 5000 }; let s : State := { busy with cntOps := [o] };
      s.dueOps 0 = [o]) ∧
    (let o : CntOp := { lcid := 0, slot := 0, vid := 1, kind := .take, due := some 5000 }; let s : State := { busy with cntOps := [o, o] };
      s.dueOps 0 = [o, o]) := by
  refine ⟨?_, ?_, ⟨_, List.mem_singleton.2 rfl, ?_⟩, ?_, ?_⟩ <;> decide +kernel

/-- The overrun bound is met exactly at P − C = B, and the underrun bound at C = P. -/
theorem wit_CounterEffects_bounds :
    (let c (p q : Nat) : Ctx := { counters := [{ decl := { vid := 1, role := 1, partner := 2, buffers := 4 }, value := p }, { decl := { vid := 2 }, value := q }] };
      pairFaults (c 6 3) (c 7 3) = [] ∧ pairFaults (c 7 3) (c 8 3) = [(true, 1, 5)] ∧ pairFaults (c 3 2) (c 3 3) = [] ∧
      pairFaults (c 3 3) (c 3 4) = [(false, 1, 1)]) := by decide +kernel

theorem wit_CounterEffects : ((busy.ctx 0).phase ≠ .empty ∧ (busy.ctx 0).fault = none) ∧
    (let o : CntOp := { lcid := 0, slot := 0, vid := 1, kind := .wait 9, due := some 5000 }; let s : State := { busy with cntOps := [o] };
      s.dueOps 0 = [o] ∧ (s.ctx 0).fault = none ∧ 0 ∈ (s.ctx 0).cores ∧ (s.ctx 0).counters.Pairwise (fun a b => a.decl.vid ≠ b.decl.vid) ∧
      (∀ q ∈ (s.ctx 0).counters, q.value = q.copy) ∧ 9 ≤ (s.ctx 0).counterValue 1 ∧ (s.ctx 0).counterValue 1 < 10) ∧
    (let w : CntWait := { vid := 1, target := 9, reached := some 4996 }; let s : State := busy.setCore 0 { e0 := inService, cntWait := some w };
      (s.core 0).cntWait = some w ∧ 4996 + 4 ≤ s.time.ac) ∧
    (let w : CntWait := { vid := 1, target := 9, reached := some 4997 }; let s : State := busy.setCore 0 { e0 := inService, cntWait := some w };
      (s.core 0).cntWait = some w ∧ s.time.ac < 4997 + 4) ∧
    (∃ q, (busy.ctx 0).counter? 1 = some q ∧ q.value = q.copy) ∧
    (let s := busy.setCtx 0 { someCtx with counters := [{ decl := { vid := 1 }, value := 9, copy := 1 }] };
      ∃ q, (s.ctx 0).counter? 1 = some q ∧ q.value ≠ q.copy ∧ (s.ctx 0).phase ≠ .empty ∧ (s.ctx 0).fault = none) := by
  refine ⟨by decide +kernel, by decide +kernel, by decide +kernel, by decide +kernel, ⟨_, rfl, by decide⟩, ⟨_, rfl, by decide, by decide, by decide⟩⟩

/-- The context's ring, open, holding a written message of one unit. -/
def oneMsg : Ring := { decl := { ring := 2, sizeLog2 := 9 }, isOpen := true, reserve := 64, write := 64, seq := 1, msgs := [{ units := 1, header := 0, written := true, writtenAt := 4990 }] }

def withRing (r : Ring) : State := busy.setCtx 0 { someCtx with rings := [r] }

theorem wit_ChannelCommands : (busy.issues 0 = some inService.task ∧ (busy.core 0).laneStalled = false ∧ (busy.ctx 0).owns 0 2 = true ∧ (busy.ctx 0).owns 0 3 = false ∧ (busy.ctx 0).ring? 3 = none) ∧
    (let s := withRing { oneMsg with msgs := [{ units := 1, header := 0, written := true, delivered := true }] };
      ∃ q m, (s.ctx 0).ring? 2 = some q ∧ q.msgs = [m] ∧ m.delivered = true) ∧
    (let s := withRing { oneMsg with msgs := [{ units := 1, header := 0 }] };
      ∃ q m, (s.ctx 0).ring? 2 = some q ∧ q.msgs = [m] ∧ m.delivered = false ∧ m.written = false) ∧
    (let o : ChanOp := { lcid := 0, slot := 0, ring := 2, kind := .close, due := 5000 }; (busy.ctx o.slot).ring? o.ring = some { oneMsg with reserve := 0, write := 0, seq := 0, msgs := [] }) ∧
    (let w : SendWait := { ring := 2, units := 1, tag := 0, check := false, epoch := 0, payload := [] }; let s := busy.setCore 1 { e0 := inService, sendWait := some w };
      w.test = none ∧ 1 ∈ (s.ctx 0).cores ∧ (s.core (lcidOf 1)).sendWait = some w ∧ (s.core (lcidOf 1)).serving = some inService ∧ inService.task.slot = 0) :=
  ⟨by decide, ⟨_, _, rfl, rfl, rfl⟩, ⟨_, _, rfl, rfl, rfl, rfl⟩, by decide, by decide +kernel⟩

theorem wit_RingOpened : busy.issues 0 = some inService.task ∧ (busy.core 0).laneStalled = false ∧ (busy.ctx 0).owns 0 2 = true ∧
    (let o : ChanOp := { lcid := 0, slot := 0, ring := 2, kind := .open_ true, due := 5000 }; let s : State := { withRing oneMsg with chanOps := [o] };
      o.kind = .open_ true ∧ s.chanOps = [o] ∧ (s.ctx o.slot).ring? o.ring = some oneMsg ∧ o.due ≤ s.time.ac ∧ s.time.ac < o.due + 1) := by decide +kernel

/-- A SEND of seven units with the tag 1 and an epoch check, tested in ac 5000. -/
def sending (test : Option Nat) : SendWait := { ring := 2, units := 7, tag := 1, check := true, epoch := 0, payload := [1], test := test }

theorem sends_test : let s := (withRing oneMsg).setCore 0 { e0 := inService, sendWait := some (sending (some 5000)) };
    (s.core 0).sendWait = some (sending (some 5000)) ∧ (s.core 0).serving = some inService ∧ (s.ctx 0).ring? 2 = some oneMsg ∧ oneMsg.isOpen = true ∧
    oneMsg.epoch = 0 ∧ 7 * 64 ≤ oneMsg.room ∧ oneMsg.room < 8 * 64 ∧ s.writes = [] ∧ ({ oneMsg with isOpen := false } : Ring).isOpen = false := by
  decide +kernel

/-- A write job for three units, whose write pointer advance comes at ac 5002; and one of one unit due now. -/
def writing (units done : Nat) : WriteJob :=
  { cluster := 0, slot := 0, ring := 2, lcid := 1, units := units, pointer := 64, header := 0, payload := [], epoch := 0, accepted := 4998, done := done }

theorem sends_writing : let s : State := { withRing oneMsg with writes := [writing 3 5002] };
    s.writes = [writing 3 5002] ∧ s.time.ac + 3 = 5002 + 1 ∧ (let u : State := { s with time := { s.time with ac := 4998 } }; u.time.ac + 3 < 5002) ∧
    (let u : State := { s with time := { s.time with ac := 5002 } }; 5002 ≤ u.time.ac) := by decide +kernel

theorem sends_written : let s : State := { withRing oneMsg with writes := [writing 1 5000] };
    s.dueWrite 0 = some (writing 1 5000) ∧ (s.ctx 0).ring? 2 = some oneMsg ∧ oneMsg.epoch = (writing 1 5000).epoch ∧
    oneMsg.epoch + 1 ≠ (writing 1 5000).epoch ∧ s.dueWrite 1 = none := by decide +kernel

theorem sends_recv : let w : RecvWait := { rings := [2], rotation := true, since := 4000 };
    let s := (withRing oneMsg).setCore 0 { e0 := inService, recvWait := some w };
    (s.core 0).recvWait = some w ∧ (s.core 0).serving = some inService ∧ (s.core 0).halted = false ∧ 0 < w.rings.length ∧
    (s.ctx 0).choose w.rings 0 = some 0 ∧ (s.ctx 0).ring? (w.rings.getD 0 0) = some oneMsg ∧ s.time.ac = 5000 := by decide +kernel

theorem wit_Sends : (let s := withRing oneMsg; s.issues 0 = some inService.task ∧ inService.task.slot = 0 ∧ ((s.ctx 0).ring? 2).isSome = true ∧
      (s.core 0).laneStalled = false) ∧
    (let s := (withRing oneMsg).setCore 0 { e0 := inService, sendWait := some (sending none) };
      s.issues 0 = some inService.task ∧ (s.core 0).laneStalled = true ∧
      (s.core 0).sendWait = some (sending none) ∧ (s.core 0).halted = false ∧ (∀ j, j ≠ 0 → (s.core j).sendWait = none)) ∧
    (let s := (withRing oneMsg).setCore 0 { e0 := inService, halted := true, sendWait := some (sending none) };
      (s.core 0).halted = true ∧ (s.core 0).sendWait = some (sending none)) ∧
    (∃ m, oneMsg.ready = some m ∧ m.writtenAt < 5000) := by
  refine ⟨?_, ?_, ?_, _, rfl, ?_⟩ <;> decide +kernel

/-- A confluence region of 256 elements in cluster 0, with one element at the edge of the range and one poisoned. -/
def region : Region := { cluster := 0, cores := [0, 1], address := 0x10000, length := 4096, elements := 256
                         words := [(0, BitVec.ofInt 256 (2 ^ 255 - 1)), (1, poisonWord), (255, 5)] }

def withRegion : State := busy.setCtx 0 { someCtx with regions := [region], steps := [{ step := 3, insts := [{}] }] }

theorem wit_ConfluenceCommands : (withRegion.issues 0 = some inService.task ∧ (withRegion.core 0).offers = [] ∧ (withRegion.ctx 0).region? (withRegion.clusterOf 0) = some region ∧
      0 + 256 ≤ region.elements ∧ region.elements < 1 + 256 ∧ 0 % 64 = 0 ∧ 0 + 256 * drainBytes 2 ≤ spadSize ∧
      (withRegion.ctx 0).overlapsRegion 0 0 (0 + 256 * drainBytes 2) = false ∧ (withRegion.ctx 0).overlapsRegion 0 0x10FC0 (0x10FC0 + drainBytes 2) = true ∧
      withRegion.pairValid 0 0 (255 <<< 64) = true ∧ withRegion.pairValid 0 0 (256 <<< 64) = false) ∧
    ((withRegion.ctx 0).region? 0 = some region ∧ region.words.Pairwise (fun a b => a.1 < b.1) ∧ (withRegion.ctx 0).element 0 1 = poisonWord ∧
      (withRegion.ctx 0).element 0 0 ≠ poisonWord ∧ ((withRegion.ctx 0).element 0 0).toInt + 0 < 2 ^ 255 ∧ 2 ^ 255 ≤ ((withRegion.ctx 0).element 0 0).toInt + 1) := by
  decide +kernel

/-- A drain, a clear or an export that waits in cluster 0, effective at ac 5000 or at 5001. -/
def runsOn (op : CflOp) (effective : Nat) : State :=
  withRegion.setUnit 0 { waiting := [{ slot := 0, lcid := 0, first := 0, count := 65, op := op, epoch := 3, effective := effective }] }

/-- The unit of cluster 0 with such a command begun, of which `count` elements are left. -/
def drains (op : CflOp) (count : Nat) : State :=
  (withRegion.setUnit 0 { running := some 5001, current := some { slot := 0, lcid := 0, first := 0, count := count, op := op, epoch := 3, effective := 4990 } }).setCatch 0
    { valid := true, cmid := 5, manifest := some pairManifest }

theorem wit_ConfluenceRuns_begin : (∀ op ∈ [CflOp.clear, .drain 2 64 true, .exportTo 0x200 3 0 true],
      let s := runsOn op 5000;
      (s.unit 0).waiting.length = 1 ∧ (s.unit 0).begins s.time.ac = true ∧ (s.unit 0).busy s.time.ac = false ∧ (s.unit 0).scrubbing s.time.ac = false ∧
      (s.unit 0).localPart = []) ∧
    ((runsOn .clear 5001).acLeft = some 245 ∧ ((runsOn .clear 5001).setUnit 0 {}).quiet = true ∧ ((runsOn .clear 5001).unit 0).begins 5001 = true ∧
      ((runsOn .clear 5001).unit 0).begins 5000 = false ∧ ((runsOn .clear 5001).unit 0).scrubFor = none ∧ ((runsOn .clear 5001).unit 0).remotePart = [] ∧
      ((runsOn .clear 5001).unit 0).behind = [] ∧ ((runsOn .clear 5001).unit 0).current = none) ∧
    (let s := withRegion.setUnit 0 { running := some 5001 }; (s.unit 0).busy s.time.ac = true) ∧
    (let s := withRegion.setUnit 0 { scrubUntil := some 5001 }; (s.unit 0).scrubbing s.time.ac = true) := by
  refine ⟨?_, ?_, ?_, ?_⟩ <;> decide +kernel

theorem wit_ConfluenceRuns_run : ∀ op ∈ [CflOp.clear, .drain 2 64 true, .exportTo 0x200 3 0 true, .drain 2 64 false, .exportTo 0x200 3 0 false],
    ((drains op 64).unit 0).current.map (·.count) = some 64 ∧ ((drains op 65).unit 0).current.map (·.count) = some 65 ∧
    0x200 ≠ (drains op 64).cfg.instanceAddr ∧ (drains op 64).safety.fenced = false ∧
    (drains op 64).routeTo ((drains op 64).ctx 0).cmid 0x200 = some 2 := by decide +kernel

theorem wit_ConfluenceRuns_scrub : (let s := withRegion.setUnit 0 { scrubFor := some 0 };
      (s.unit 0).scrubFor = some 0 ∧ (s.unit 0).busy s.time.ac = false ∧ (s.unit 0).localPart = [] ∧ (s.ctx 0).region? 0 = some region ∧
      s.acLeft = some 245 ∧ (s.setUnit 0 {}).quiet = true ∧ (s.unit 0).waiting = [] ∧ (s.unit 0).scrubBegins (s.time.ac + 1) = true) ∧
    (let s := withRegion.setUnit 0 { scrubFor := some 0, scrubMark := 5000, localPart := [{ slot := 0, epoch := 3, index := 0, item := .pair 0, accepted := 4999 }] };
      ∃ e ∈ (s.unit 0).localPart, e.accepted < (s.unit 0).scrubMark) :=
  ⟨by decide +kernel, _, List.mem_singleton.2 rfl, by decide +kernel⟩

/-- A mover entry of 64 bytes; with a notification, of counter 1 by 1. -/
def moverEntry (notify : Bool) : Bytes :=
  zeros 16 ++ leBytes 4 64 ++ (if notify then leBytes 3 1 else zeros 3) ++ leBytes 1 (if notify then 2 else 0) ++ (if notify then leBytes 4 1 else zeros 4) ++ zeros 4

/-- A fetch routine in service on core 0: expert 4 of layer 0 lies on a die of another package. -/
def fetching : State :=
  (busy.setCtx 0 { someCtx with
    image := { stepsInFlight := 2, templates := [{ nodes := [{}, {}] }], experts := [{ layer := 0, expertId := 4, peer := 0x1_0000, size := 1 }] }
    jobs := [{ layer := 0, step := 3, tokens := 1, collected := 0, published := true, lists := [{ expertId := 4, entries := [] }], fetch := [4] }] }).setCore 0
    { e0 := { inService with task := { inService.task with kind := .fetch } } }

/-- An argument block of two entries for movers DMV0 and DMV1. -/
def moverBlock (notify : Bool) : Bytes := leBytes 2 2 ++ zeros 14 ++ moverEntry notify ++ moverEntry notify

/-- A mover task in service on core 0 whose routine has read a block and completed some entries. -/
def moving (block : Bytes) (moved : List Nat) : State :=
  busy.setCore 0 { e0 := { inService with task := { inService.task with kind := .mover } }, moverBlock := some block, moved := moved }

theorem wit_CoreCommands : (busy.issues 0 = some inService.task ∧ (busy.core 0).laneStalled = false ∧ inService.task.kind ≠ .fetch) ∧
    (let t : Task := { inService.task with kind := .fetch }; let s := fetching.setCatch 0 { valid := true, cmid := 5, manifest := some { pairManifest with
          entries := [{ instanceAddr := 0x100, routes := [(0x1_0000, 3)] }] } };
      fetching.issues 0 = some t ∧ s.issues 0 = some t ∧ s.safety.fenced = false ∧ s.routeTo (s.ctx 0).cmid 0x1_0000 = some 3 ∧
      fetching.routeTo (fetching.ctx 0).cmid 0x1_0000 = none ∧
      (match (fetching.ctx 0).fetchEntry ((fetching.ctx 0).node t.template t.node) t.step t.fanout with
        | some (y, _) => fetching.fetchOp y = 1 ∧ y.peer = 0x1_0000 ∧ y.peer ≠ fetching.cfg.instanceAddr | none => False)) ∧
    (let s := moving (moverBlock true) []; let t : Task := { inService.task with kind := .mover };
      s.issues 0 = some t ∧ t.service = .node ∧ moverBlockBad (moverBlock true) = none ∧ moverBlockBad (moverBlock false) = none ∧
      nextOfMover (moverBlock true) [] 0 = true ∧ nextOfMover (moverBlock true) [0] 0 = false ∧ nextOfMover (moverBlock true) [] 1 = true ∧
      (let e := moveEntryAt (moverBlock true) 1; bit (field e 23 1) 2 = false ∧ bit (field e 23 1) 1 = true ∧ field e 20 3 = 1 ∧
        ((s.ctx 0).counter? 1).isSome = true) ∧
      bit (field (moveEntryAt (moverBlock false) 0) 23 1) 1 = false ∧ moverBlockBad (zeros 16) = some headerName ∧
      moverBlockBad (leBytes 2 1 ++ zeros 46) = some 0) := by
  refine ⟨by decide +kernel, ⟨by decide +kernel, by decide +kernel, by decide +kernel, by decide +kernel, by decide +kernel, ?_⟩, by decide +kernel⟩
  exact ⟨by decide +kernel, by decide +kernel, by decide +kernel⟩

/-- A thread running in frame 0 of control core 0. -/
def threaded : State := busy.setFrame 0 0 { state := .running, task := { step := 3 } }

theorem wit_ThreadCommands : threaded.runningFrame 0 = some 0 ∧ (threaded.ctx (threaded.frame 0 0).task.slot).runs = true ∧ (threaded.frame 0 0).state ≠ .free ∧
    (threaded.ctx 0).phase ≠ .empty ∧ (threaded.ctx 0).fault = none ∧ ((threaded.ctx 0).counter? 1).isSome = true ∧ (threaded.ctx 0).counter? 2 = none ∧
    (0xFFFFFF : BitVec 32).toNat < 2 ^ 24 ∧ 2 ^ 24 ≤ (0x1000000 : BitVec 32).toNat ∧ (threaded.ctx 0).flagNodeCount (threaded.frame 0 0).task false = 2 := by
  decide +kernel

/-- Inlet records: an open record of layer 0 for tokens 4 to 5, a choice of token 4, 5 and 6, a close of one record, and one of no type. -/
def openRec : BitVec 64 := BitVec.ofNat 64 (4 + 2 * 2 ^ 40 + 1 * 2 ^ 56)
def choiceRec (token : Nat) : BitVec 64 := BitVec.ofNat 64 token
def closeRec (count : Nat) : BitVec 64 := BitVec.ofNat 64 (count + 2 * 2 ^ 56)

theorem wit_InletRecords : busy.issues 0 = some inService.task ∧ busy.inletWeirs.inletBlocked 0 = false ∧ (busy.core 0).inletWait = [] ∧
    openOk openRec = true ∧ busy.openPacket 0 = none ∧ choiceOk (choiceRec 4) = true ∧ closeOk (closeRec 1) = true ∧
    (let s := busy.setCore 0 { e0 := inService, inletWait := [openRec] }; (s.core 0).inletWait ≠ []) ∧
    (let p : Packet := { openRec := openRec, records := [choiceRec 4] }; let s : State := { busy with packets := [p] };
      s.openPacket 0 = some p ∧ p.dropped = false ∧ recToken p.openRec ≤ recToken (choiceRec 4) ∧ recToken (choiceRec 5) < recToken p.openRec + recTokens p.openRec ∧
      recToken p.openRec + recTokens p.openRec ≤ recToken (choiceRec 6) ∧ recToken (choiceRec 3) < recToken p.openRec ∧ recCount (closeRec 1) = p.records.length ∧
      recCount (closeRec 2) ≠ p.records.length ∧ s.inletWeirs.inletBlocked 0 = false) ∧
    (let p : Packet := { openRec := openRec, dropped := true }; let s : State := { busy with packets := [p] };
      s.openPacket 0 = some p ∧ p.dropped = true ∧ recType (choiceRec 4) ≠ 1 ∧ recType (closeRec 9) = 2) ∧
    (let s := busy.setCtx 0 { someCtx with steps := [{ step := 3, cancelled := true, insts := [{}] }] };
      ((s.ctx 0).steps.any fun q => q.cancelled && q.step == inService.task.step) = true) ∧
    (let r := BitVec.ofNat 64 (3 * 2 ^ 56); openOk r = false ∧ choiceOk r = false ∧ closeOk r = false) ∧
    (let s : State := { busy.setCatch 0 { valid := true, inletQuota := 1 } with packets := [{}] }; s.inletWeirs.inletBlocked 0 = true) := by
  decide +kernel

theorem wit_PublishAndStage : (let j : Job := { layer := 0, step := 3, tokens := 1, collected := 0, started := true, slotsLeft := 1 };
      let s : State := { busy.setCtx 0 { someCtx with jobs := [j] } with time := { busy.time with offset := 255 } };
      s.time.inMargin = false ∧ s.time.offset = 255 ∧ (s.ctx 0).runs = true ∧ j ∈ (s.ctx 0).jobs ∧ (s.ctx 0).jobs.find? (fun j => j.started && !j.published && decide (j.slotsLeft ≤ 1)) = some j) ∧
    (let g : Stage := { step := 3, node := 1, index := 0, seq := 0, block := 0, firstPage := 0, pages := 1, bytes := 64, tokens := 1, position := 0, issueIn := 1 };
      let run : StepRun := { step := 3, insts := [{}, {}] };
      let s : State := { busy.setCtx 0 { someCtx with steps := [run], ledger := { stages := [g] } } with
        time := { busy.time with offset := 255 }, stagingRegions := [{ lcid := 0, region := 0, bytes := 4096, head := some 0 }] };
      (s.ctx 0).ledger.stages = [g] ∧ g.issued = false ∧ g.issueIn = 1 ∧ (s.ctx 0).run? g.step = some run ∧
      Ctx.stageReady { s.ctx 0 with ledger := { (s.ctx 0).ledger with stages := [{ g with issueIn := 0 }] } }
        ((s.regionSize (bits ((s.ctx 0).node run.template 1).placement.toNat 5 0) (NodeP.region ((s.ctx 0).node run.template 1))).getD 0)
        { g with issueIn := 0 } = true) ∧
    busy.time.inMargin = false ∧ busy.time.offset ≠ 255 := by decide +kernel

/-! ### Signed objects, made here from the formats of the spec: the signing key has private key 1 and the nonce is 1 -/

def testKey : Bytes := leBytes 48 p384G.1 ++ leBytes 48 p384G.2

/-- Bytes with their signature block behind them; s is the second part of the signature. -/
def signedBytes (b : Bytes) (s : Nat) : Bytes := b ++ testKey ++ leBytes 48 (p384G.1 % p384N) ++ leBytes 48 s ++ zeros 64

/-- A firmware image of version 9, with 64 bytes of payload (R411). -/
def firmware : Bytes :=
  signedBytes (leBytes 8 0x445754534B535550 ++ leBytes 2 1 ++ zeros 2 ++ leBytes 4 9 ++ leBytes 4 64 ++ leBytes 4 0 ++ zeros 40 ++ zeros 64)
    0x55c9c3e10ed8948b917bbaa58e3679633021abee7ccdc83565a495f80254ef58e049f59e32e4ab698d05efac6450ee0c

/-- A manifest of two members, this die (address 0x100, headwater) and address 0x200, with one placement group (R339–R341). -/
def manifestBytes : Bytes :=
  let entry (addr role share lcids ctids clusters first : Nat) (other route : Nat) : Bytes :=
    leBytes 4 addr ++ leBytes 1 role ++ zeros 1 ++ leBytes 2 share ++ leBytes 8 lcids ++ leBytes 1 ctids ++ leBytes 1 clusters ++ leBytes 2 1
      ++ leBytes 4 first ++ zeros 24 ++ leBytes 2 64 ++ leBytes 2 16 ++ leBytes 4 route ++ leBytes 2 1 ++ zeros 2
      ++ (leBytes 4 other ++ leBytes 4 other ++ leBytes 4 other ++ leBytes 4 other ++ leBytes 4 other) ++ zeros 48
  signedBytes (leBytes 8 0x4D5441434B535550 ++ leBytes 2 1 ++ leBytes 2 6 ++ zeros 1 ++ leBytes 1 2 ++ leBytes 1 1 ++ zeros 1 ++ leBytes 4 2
    ++ leBytes 2 0 ++ zeros 2 ++ leBytes 8 200 ++ leBytes 2 9 ++ zeros 6 ++ leBytes 4 256 ++ leBytes 4 512 ++ leBytes 4 576 ++ leBytes 4 640
    ++ leBytes 2 1 ++ zeros 6 ++ leBytes 8 704 ++ zeros 184
    ++ entry 0x100 1 100 0xC 2 1 0 0x200 0 ++ entry 0x200 0 100 1 1 1 1 0x100 1
    ++ leBytes 4 0x200 ++ leBytes 4 0x100 ++ zeros 56 ++ leBytes 4 0x200 ++ leBytes 4 0 ++ leBytes 4 0x100 ++ leBytes 4 0 ++ zeros 48
    ++ leBytes 4 0 ++ leBytes 2 1 ++ zeros 2 ++ leBytes 2 0 ++ zeros 54)
    0x56efd621af9759902210146e49a731b9c31020044e7afee03ef0aebaaee897739d9ddb54cbdc4a47a9c8d05ec0fbef2a

/-- The SHA-384 of the test key. -/
def keyHash : Bytes := beBytes 48 0x6e8e2d204c43434ac2dbc8b6c24fe69e3127cef8847059c770d9b82e79dc57c66c30cafbca8dda39d3985e386ef4366b

/-- The die with the test key as operator key and firmware key. -/
def keyed : State := { die with
  config := some { instanceAddr := 0x100, window := 0x100000, logAddr := 0x200000, operatorKeyHash := keyHash, firmwareKeyHash := keyHash
                   coreMap := canonicalMap [], dieId := 5 }
  steward := { die.steward with privateKey := 1 } }

/-- A body with one step template of one compute node on LCID 0 (R82–R92). -/
def graphBody : Bytes :=
  let node := zeros 4 ++ leBytes 2 1 ++ zeros 40 ++ leBytes 1 1 ++ zeros 1 ++ leBytes 4 0xFFFFFFFF ++ zeros 72
  leBytes 2 1 ++ leBytes 2 1 ++ leBytes 4 1 ++ zeros 16 ++ leBytes 4 128 ++ leBytes 4 192 ++ zeros 12 ++ leBytes 4 320 ++ zeros 8 ++ leBytes 4 1
    ++ zeros 4 ++ leBytes 1 1 ++ zeros 3 ++ leBytes 4 384 ++ zeros 56
    ++ leBytes 4 0 ++ leBytes 2 1 ++ leBytes 2 1 ++ zeros 56
    ++ node ++ leBytes 4 (crc32c node).toNat
    ++ zeros 32 ++ leBytes 2 1 ++ zeros 30

/-- That body encrypted under a key of zeros with an IV of zeros. -/
def graphCipher : Bytes := beBytes 384
  0xcfa7413d4c606b6e074ec5d3baf39d18726003ca37a62a7451a2f58eb506358edd4ab1284d4ae17b41e85924070d36f74741cbe181bb7f30607c1de3ab0c3a1fd1c48f73a1a92d376095ace0419167a0bcaf49b0c0cea62de6bc1c66545e1dadabfa77cd6e85da245fb0bdc5e52cfc29ba0ae1ab2837e0f36387b70e931760124362c2bb67d8f5b137fce8342c9cd386a1144296e27268a8e50df537a805d579bb21ebbdf357ed34bf58b5837150ddcaf362225e620a6070ac5ef529fb522466768b78c04a54e51ef5fa07e506a35fc6b0b710249c8626e1a96ad57828d7be2e1490a05a7cee43bde98b56e309dc0026b129209182c1bfc72a59ad53a9c0e4347d6c5278507940a7def6ba93e8b6af1e46537276611bc766955c587d301ba847acc9dda78a438e2c0a69d514744c72d34f326b9b7ef34286ca0ef8a7a3624616669c537212402dcb5feae99d76c7f4a76abdb79c0dfaa038a0e2282c730ed48b879dac2f168ecf3ea610e61fac512c8e95fb8c06de62bc76695551358adb864c

/-- The graph image of that body under a context key of zeros, signed by the tenant (R78–R81). -/
def graphImage : Bytes :=
  let head := leBytes 8 0x485052474B535550 ++ leBytes 2 1 ++ leBytes 2 1 ++ zeros 4 ++ leBytes 8 896 ++ leBytes 8 256 ++ leBytes 8 384
    ++ leBytes 8 640 ++ zeros 12 ++ zeros 4
  signedBytes (head ++ beBytes 16 0x97a8ec53afac1ca80fb62e9ee03ecc78 ++ zeros 176 ++ graphCipher) 0x40409da7a6c413d39b7b0b0f55c28c3a3634feb2c23abc7543024182a14a2dcb757df77fbe1ac7a690f319f57c9bd77

/-- A wrapped context key for CXID 7, with the test key as ephemeral key and as tenant key (R402, R403). -/
def wrapped : Bytes :=
  let head := leBytes 8 0x504152574B535550 ++ leBytes 2 1 ++ leBytes 2 7 ++ zeros 4 ++ leBytes 16 5 ++ testKey ++ testKey ++ zeros 12
  head ++ zeros 4 ++ beBytes 32 0x49a8b952684644a0d03e175534b5cdb75a2cb66773ad182231eb3f434f20ce7 ++ beBytes 16 0x57ba034b945ace90246bbbd7933e31f6 ++ zeros 32

/-- The die while the context's image is read. -/
def loading : State := keyed.setCtx 0 { someCtx with
  phase := .loading, launched := false, image := {}, counters := [], rings := []
  loadSub := some { hdr := { cxid := 7 }, taken := 0, sub := .load { imageLength := 896, wrappedKey := wrapped } } }

def fromPeer : MsgHdr := { sender := 0x200, cmid := 5, cxid := 7, tick := 49, epoch := 3 }

/-- The context with a partner, a landing window of core 0, and a step in flight. -/
def linked : State := { busy.setCtx 0 { someCtx with partners := [0x200], horizon := 2, steps := [{ step := 3, insts := [{}] }], regions := [region] } with
  windows := [{ lcid := 0, id := 1, lo := 64, hi := 128, committed := 0 }] }

theorem wit_Notices : (busy.findCxid 9 = none ∧ busy.findCxid 7 = some 0 ∧ (busy.ctx 0).cmid ≠ 6 ∧ (busy.ctx 0).lock.active = false ∧
      (busy.ctx 0).phase ≠ .tearingDown ∧ busy.noSlotFor { cxid := 9, cmid := 6 } = false ∧ busy.noSlotFor { cxid := 9, cmid := 5 } = true) ∧
    (let s := busy.setCtx 0 { someCtx with phase := .tearingDown }; s.findCxid 7 = some 0 ∧ (s.ctx 0).phase = .tearingDown) ∧
    (linked.findCxid fromPeer.cxid = some 0 ∧ (linked.ctx 0).cmid = fromPeer.cmid ∧ (linked.ctx 0).epochCancelled fromPeer.epoch = false ∧
      (linked.ctx 0).afterSave = false) ∧
    (∃ w, linked.window? 0 1 = some w ∧ w.lo + 0 + 64 ≤ w.hi ∧ w.hi < w.lo + 1 + 64) ∧
    (linked.window? 0 2 = none ∧ linked.pastDue 0 fromPeer false = false ∧
      linked.pastDue 0 { fromPeer with tick := 48 } false = true ∧ (linked.ctx 0).partners.contains fromPeer.sender = true ∧
      fromPeer.sender ≠ linked.cfg.instanceAddr ∧ (linked.ctx 0).fault = none ∧ (linked.ctx 0).phase = .running) ∧
    (let s := busy.setCtx 0 { someCtx with mode := .relaxed, cancelled := [3] };
      (s.ctx 0).mode ≠ .scheduleExact ∧ (s.ctx 0).epochCancelled fromPeer.epoch = true) ∧
    (let s := busy.setCtx 0 { someCtx with phase := .frozen }; (s.ctx 0).afterSave = true) := by
  refine ⟨?_, ?_, ?_, ⟨_, rfl, ?_⟩, ?_, ?_, ?_⟩ <;> decide +kernel

theorem wit_ControlMessages : ((linked.ctx 0).epochLive 3 = true ∧ (linked.ctx 0).epochLive 4 = false ∧ (linked.ctx 0).fast = false ∧
      (linked.ctx 0).region? 0 = some region ∧ 255 < region.elements ∧ region.elements ≤ 256 ∧ (linked.ctx 0).region? 1 = none ∧ (linked.ctx 0).fault = none ∧
      linked.behindRemote fromPeer linked.arrivals = false) ∧
    (let s := { linked.setUnit 3 { (linked.unit 3) with remotePart := [{ slot := 0, sender := 0x200 }] } with arrivals := 1 };
      s.behindRemote fromPeer s.arrivals = true) ∧
    (let s := die.setCatch 2 { valid := true, cmid := 5, manifest := some { pairManifest with lockstep := true, lockstepCmid := 6, entries := [{ instanceAddr := 0x100, role := 1, lockstepPeer := 0x200 }] } };
      s.launchCatch fromPeer false = some 2 ∧ s.launchCatch fromPeer true = none ∧ s.launchCatch { fromPeer with cmid := 6 } true = some 2) := by decide +kernel

def submission : SubHdr := { slot := 3, cxid := 7, tag := 0x55 }

theorem wit_Submissions : (busy.boot.ready = true ∧ busy.findCxid submission.cxid = some 0 ∧ (busy.ctx 0).phase = .running ∧ (busy.ctx 0).headwater = true ∧
      (busy.ctx 0).multiMember = false ∧ (busy.ctx 0).fault = none ∧ (busy.ctx 0).freezeSub = none ∧ (busy.ctx 0).freezeStage = .none ∧
      busy.joinFields 0 { globalId := 1, maxTokens := 512 } = true ∧ busy.joinFields 0 { globalId := 1, maxTokens := 512, be := true, deadline := 1 } = false) ∧
    (∃ x, (busy.ctx 0).image.templates[0]? = some x ∧ x.stepTemplate = true) ∧
    (let s : State := { busy with config := some { instanceAddr := 0x100, tray := [{ package := 0x20, base := 0, size := 0x10000 }] } };
      s.inPackage 0 0x10000 = true ∧ s.inPackage 1 0x10000 = false) ∧
    (let l : Ledger := { blocks := 16, frameBytes := 4096, groups := [(1, 64)], pools := [{ tier := 0, address := 0, frames := 8 }] };
      l.joinRefusal { globalId := 1, maxTokens := 512 } = none ∧ l.global? 1 = none) ∧
    (almost.boot.ready = false ∧ die.findCxid 7 = none ∧ fenced.boot.ready = true ∧ fenced.safety.fenced = true) ∧
    (let s := busy.setCtx 0 { someCtx with headwater := false }; (s.ctx 0).headwater = false) ∧
    (let s := busy.setCtx 0 { someCtx with phase := .loading }; (s.ctx 0).phase = .loading) ∧
    (let s := busy.setCtx 0 { someCtx with phase := .frozen }; (s.ctx 0).phase = .frozen) ∧
    (let s := busy.setCtx 0 { someCtx with freezeSub := some { hdr := {}, taken := 0, sub := .freeze 0 0 false } }; (s.ctx 0).freezeSub ≠ none) := by
  refine ⟨?_, ⟨_, rfl, rfl⟩, ?_, ?_, ?_, ?_, ?_, ?_, ?_⟩ <;> decide +kernel

theorem wit_Loads : (let s := die.setCatch 0 { valid := true, cmid := 5, isLocal := true };
      s.boot.ready = true ∧ s.safety.fenced = false ∧ s.findCxid 7 = none ∧ s.emptyOne = some 0 ∧ s.loadCatch 7 { cmid := 5 } = some 0 ∧
      s.rotaHeld 0 0 0 = false) ∧
    (let s : State := { die with ctxs := Vector.replicate 16 { phase := .frozen } };
      ∀ j, (s.ctx j).phase ≠ .empty ∧ (s.ctx j).phase ≠ .tearingDown) ∧
    ((loading.ctx 0).phase = .loading ∧ (loading.ctx 0).fault = none ∧ (loading.ctx 0).loadDone = false ∧ (loading.ctx 0).multiMember = false ∧
      loading.unwrap [] 7 = .inl 0x30 ∧ (default : ThawReq).wrappedKey.length < 320 ∧ wrapped.length = 320) ∧
    (let s := busy.setCtx 0 { someCtx with phase := .frozen }; s.findCxid 7 = some 0 ∧ (s.ctx 0).phase = .frozen ∧ (s.ctx 0).thawSub = none ∧
      (s.ctx 0).multiMember = false) ∧
    (let s : State := { die.setCatch 0 { valid := true, cmid := 5 } with
        images := [{ address := 64, cxid := 7, cmid := 5, instanceAddr := 0x100, serial := 1, bytes := [], ctx := { someCtx with rota := 2 } }] };
      s.findCxid 7 = none ∧ s.emptyOne = some 0 ∧ s.thawCatch 7 64 = some (0, 2) ∧ s.rotaHeld 0 0 2 = false) := by decide +kernel

/-- A submission slot as the poll reads it: CXID 7, of an owner, kind and length, with a take tick or without. -/
def slotImage (owner kind len : Nat) (tick : Option Nat) : SlotImage :=
  { slot := 3, tag := 0x55, takeTick := tick.getD 0
    word0 := BitVec.ofNat 64 (owner + kind * 2 ^ 8 + len * 2 ^ 16 + 7 * 2 ^ 32 + (if tick.isSome then 2 ^ 48 else 0)) }

/-- The context with a remote counter, and a message of tick 48 that has arrived. -/
def rippled (x : MsgBody) : State := { linked.setCtx 0 { linked.ctx 0 with counters := [{ decl := { vid := 1, remote := true }, value := 9, copy := 9 }] } with
  horizon := [{ hdr := { fromPeer with tick := 48 }, body := x, slot := 0, order := 3, whileFrozen := false, late := false }] }

theorem wit_TickStartWork_poll : (margin.tickReady {}).isSome = true ∧ Memory.wf busy.mem ∧ (slotImage 0 12 0 none).owner = 0 ∧
    ((slotImage 1 12 0 (some 51)).owner = 1 ∧ busy.takeTime (slotImage 1 12 0 (some 51)) = .ahead) ∧
    (busy.takeTime (slotImage 1 12 0 none) = .now ∧ decodeSub 12 0 [] = some (some .runRecord) ∧ (slotImage 1 12 0 none).formatOk = true) ∧
    (slotImage 2 12 0 none).owner ≠ 1 ∧ decodeSub 99 0 [] = none ∧ (slotImage 1 12 961 none).formatOk = false ∧
    busy.takeTime (slotImage 1 12 0 (some 49)) = .passed ∧ decodeSub 6 0 [] = some none ∧ almost.boot.ready = false ∧ fenced.safety.fenced = true := by
  decide +kernel

/-- The message is due at context tick 50 and not at 49, alone, and is not late. -/
theorem wit_TickStartWork_notices : ∀ x ∈ [MsgBody.ripple 1 5, .landing { lcid := 0, window := 1, offset := 0, length := 32, vid := 0, increment := 0, opened := [] }],
    (∀ e ∈ (rippled x).horizon, 49 < e.hdr.tick + ((rippled x).ctx 0).horizon) ∧ (rippled x).dueOps 0 = [] ∧ (rippled x).lateBehind 0 50 = rippled x ∧
    (rippled x).dueAt 0 50 = (rippled x).horizon ∧ (rippled x).horizon.length = 1 ∧ ((rippled x).ctx 0).epochCancelled 3 = false ∧
    (∀ q ∈ ((rippled x).ctx 0).counters, q.value = q.copy) ∧ (((rippled x).ctx 0).counter? 1).map (·.decl.remote) = some true := by decide +kernel

theorem wit_TickStartWork_hold : ((busy.ctx 0).phase = .running ∧ (busy.ctx 0).launched = true ∧ (busy.ctx 0).fault = none ∧ (busy.ctx 0).halted = false ∧
      (busy.ctx 0).freezeStage = .none ∧ busy.sealsIn 0 (busy.dueTick 0) = true ∧ (busy.ctx 0).held = false) ∧
    linked.sealsIn 0 (linked.dueTick 0) = false ∧
    (let s := busy.setCtx 0 { someCtx with freezeStage := .scheduled 50 }; (s.ctx 0).freezeStage = .scheduled 50 ∧ s.dueTick 0 = 50) := by decide +kernel

theorem wit_TickStartWork_step : ((busy.ctx 0).image.templates[0]?.all (fun y => !y.stepTemplate) = false ∧
      (busy.ctx 0).image.templates[1]?.all (fun y => !y.stepTemplate) = true ∧ 3 < lastStep ∧
      ((busy.ctx 0).image.templates[0]?).map badNode = some none ∧ (busy.ctx 0).run? 3 = none ∧ (busy.ctx 0).ledger = {} ∧ (busy.ctx 0).dumps = [] ∧
      (busy.ctx 0).outcomes = [] ∧ (busy.ctx 0).steps.length < (busy.ctx 0).image.stepsInFlight) ∧
    (let s := busy.setCtx 0 { someCtx with steps := [{}, {}] }; (s.ctx 0).image.stepsInFlight ≤ (s.ctx 0).steps.length) ∧
    (busy.ringSize = 2 ^ 18 ∧ (let s : State := { busy with sluice := { busy.sluice with head := 2 ^ 18 - 64 } }; s.ringSize < 2 ^ 18 - 64 + 0 + 65)) := by
  decide +kernel

/-- The context with step 3 of two nodes in flight. -/
def stepping (run : StepRun) : State := busy.setCtx 0 { someCtx with steps := [run], nextStep := 4 }

theorem wit_BoundaryWork_time : (die.time.tickRunning = true ∧ die.time.inMargin = false ∧ die.time.resync = false ∧ die.time.slot + 1 < die.cfg.slotsPerTick) ∧
    (let s : State := { die with time := { die.time with slot := 7 } };
      s.time.slot + 1 = s.cfg.slotsPerTick ∧ s.time.gtc = s.time.localTick ∧ s.time.ref + 246 + s.time.longer 246 < s.nextBoundary) ∧
    ((busy.core 0).serving = some inService ∧ inService.report = none ∧ (busy.core 0).halted = false ∧ busy.openPacket 0 = none ∧
      (busy.ctx 0).phase ≠ .empty ∧ (busy.ctx 0).fault = none) := by decide +kernel

theorem wit_BoundaryWork_graph :
    (let i : NodeInst := { state := .inService, count := 2, placed := 2 }; let s := stepping { step := 3, insts := [i, {}] };
      (s.ctx 0).run? 3 = some { step := 3, insts := [i, {}] } ∧ i.ended + 1 < i.count ∧ i.count ≤ i.ended + 2 ∧ i.count ≤ i.placed ∧ i.returned = []) ∧
    (let c : Ctx := { (stepping { step := 3, insts := [{ deps := 1 }, { watch := some 9, armedAt := 39 }] }).ctx 0 with
        image := { stepsInFlight := 2, templates := [{ nodes := [{}, { watchCounter := 1 }] }] } };
      (c.run? 3).map (fun r => ((r.inst 0).state, (r.inst 1).watch, (r.inst 1).armedAt, r.template, r.cancelled)) = some (.waiting, some 9, 39, 0, false) ∧
      c.run? 4 = none ∧ c.nextStep = 3 + 1 ∧ c.counterValue (c.node 0 1).watchCounter = 9 ∧ c.counterValue (c.node 0 0).watchCounter = 0 ∧ 39 < 40) ∧
    (let c := (busy.setCtx 0 { someCtx with steps := [{ step := 3, insts := [{}] }, { step := 4, insts := [{}] }], nextStep := 5 }).ctx 0;
      (c.run? 4).map (fun r => (r.template, r.cancelled, (r.inst 0).state)) = some (0, false, .waiting)) := by decide +kernel

/-- Node 1 takes its count from its constant, 3, above its bound; node 0 is a single instance. -/
theorem wit_BoundaryWork_resolve : let s := busy.setCtx 0 { someCtx with
      image := { stepsInFlight := 2, templates := [{ nodes := [{}, { fanoutSource := 1, fanoutConst := 3, fanoutMax := 2 }] }] }
      steps := [{ step := 3, insts := [{}, {}] }] };
    (s.ctx 0).run? 3 = some { step := 3, insts := [{}, {}] } ∧
    s.fanoutCount 0 { step := 3, insts := [{}, {}] } ((s.ctx 0).node 0 0) = 1 ∧ ((s.ctx 0).node 0 0).fanoutSource = 0 ∧
    topFlow ((s.ctx 0).node 0 0) { step := 3, insts := [{}, {}] } 1 = none ∧ ((s.ctx 0).node 0 1).fanoutSource ≠ 0 ∧
    ((s.ctx 0).node 0 1).fanoutMax < s.fanoutCount 0 { step := 3, insts := [{}, {}] } ((s.ctx 0).node 0 1) ∧ (s.ctx 0).phase ≠ .empty ∧
    (s.ctx 0).fault = none := by decide +kernel

theorem wit_BoundaryWork_place : let t : Task := { step := 3, mask := 0b11, floating := true };
    (busy.chooseTarget t {} = some 0 ∧ busy.chooseTarget t { cores := [0] } = some 1 ∧ busy.chooseTarget t { cores := [0, 1] } = none ∧ t.kind ≠ .control ∧
      (busy.core 0).hasFree = true) ∧
    (let u : Task := { t with kind := .control, mask := 1 }; busy.chooseTarget u {} = some 0 ∧ busy.freeFrame 0 = some 0) := by decide +kernel

theorem wit_BoundaryWork_threads : (let s := busy.setFrame 0 2 { state := .ready, task := { step := 3, span := 2 } };
      s.runningFrame 0 = none ∧ s.nextThread 0 = some 2 ∧ s.works 0 = true) ∧
    (let s := busy.setFrame 0 2 { state := .running, slice := 1, task := { step := 3, span := 2 } }; s.runningFrame 0 = some 2 ∧ (s.frame 0 2).slice < (s.frame 0 2).task.span) ∧
    (let s := stepping { step := 3 }; (s.ctx 0).steps = [{ step := 3 }] ∧ (s.ctx 0).withheld = false ∧ (s.ctx 0).lock.active = false) := by decide +kernel

/-- The context freezing with a stage and a freeze submission of a given length. -/
def freezing (stage : FreezeStage) (length : Nat) : State := busy.setCtx 0 { someCtx with
  phase := .freezing, freezeStage := stage, freezeTick := 50
  freezeSub := some { hdr := submission, taken := 49, sub := .freeze 0x40000 length false } }

theorem wit_Freezes : ((freezing .draining 0).ctx 0).phase = .freezing ∧ ((freezing .draining 0).ctx 0).freezeStage = .draining ∧
    (let s : State := { freezing .draining 0 with time := { die.time with slot := 0, offset := 0 } };
      s.drainedIn 0 = true ∧ s.drainedHere 0 = true ∧ s.atTickStart = true) ∧ ((freezing .draining 0).ctx 0).fault = none ∧
    (freezing .draining 0).atTickStart = false ∧
    (let s := (freezing .draining 0).setCtx 0 { (freezing .draining 0).ctx 0 with partners := [0x200] }; s.drainedIn 0 = false) ∧
    (let s := (freezing .draining 0).setCtx 0 { (freezing .draining 0).ctx 0 with sealDue := true }; s.drainedHere 0 = false) ∧
    ((freezing (.saving 40) 0).ctx 0).freezeStage = .saving 40 ∧ 40 ≤ (freezing (.saving 40) 0).time.slotCount ∧
    (freezing (.saving 41) 0).time.slotCount < 41 ∧ ((freezing (.scrubbing 40) 0).ctx 0).freezeStage = .scrubbing 40 ∧
    Memory.wf (freezing (.scrubbing 40) 0).spad ∧ ((freezing (.scrubbing 40) 0).catch_ 0).thawNext = none ∧
    ((freezing (.scrubbing 40) 0).ctx 0).enablePending = none ∧ ((freezing (.scrubbing 40) 0).ctx 0).thawHeld = false ∧
    (∀ q ∈ ((freezing .draining 0).ctx 0).counters, q.value = q.copy) ∧ (((freezing .draining 0).ctx 0).freezeSub.map (·.auto)).getD false = false ∧
    (let s := (freezing .draining 0).setCtx 0 { (freezing .draining 0).ctx 0 with counters := [{ decl := { vid := 1 }, value := 9, copy := 1 }] };
      ∀ q ∈ (s.ctx 0).counters, (s.ctx 0).counters = [q] ∧ q.value ≠ q.copy) := by decide +kernel

/-- Room for the image, whatever its parts take; and a freeze without room: the header alone takes 256 bytes. -/
theorem wit_Freezes_room : (∃ n, (freezing .draining n).imageBytes 0 ≤ ((freezing .draining n).ctx 0).freezeArgs.2.1) ∧
    ((freezing .draining 0).ctx 0).freezeArgs.2.1 < (freezing .draining 0).imageBytes 0 := by
  have h (n : Nat) : (freezing .draining n).imageBytes 0 = (freezing .draining 0).imageBytes 0 := rfl
  refine ⟨⟨(freezing .draining 0).imageBytes 0, Nat.le_of_eq (h _)⟩, ?_⟩
  have f : 0 < firstParcel ((freezing .draining 0).parcels 0).length := by unfold firstParcel to64 ceilDiv; omega
  exact Nat.lt_of_lt_of_le f (Nat.le_add_right _ _)

/-- The cleartext header of a freeze image of the context without compute cores (R326), under freeze serial 1; and the image with its one parcel,
which is empty, under a freeze key of zeros. -/
def frozenHead : Bytes :=
  leBytes 8 0x4E5A52464B535550 ++ leBytes 2 1 ++ leBytes 2 7 ++ leBytes 2 5 ++ leBytes 2 1 ++ leBytes 4 0x100 ++ leBytes 6 1 ++ leBytes 6 50
    ++ leBytes 6 50 ++ zeros 6 ++ leBytes 5 3 ++ zeros 3 ++ leBytes 8 320 ++ zeros 196

def frozenImage : Bytes :=
  frozenHead ++ zeros 8 ++ leBytes 8 320 ++ zeros 8 ++ gcmTag (zeros 32) (ivOf 0x100 1 0) (frozenHead.take 128) [] ++ zeros 24

/-- The context thawing from that image, of a freeze that released its slot or not, since a slot. -/
def thawing (released : Bool) (began : Nat) : State :=
  { busy.setCtx 0 { someCtx with
      lcids := 0, phase := .thawing, freezeStage := .restoring began, freezeSerial := 2, thawReleased := released
      thawSub := some { hdr := submission, taken := 49, sub := .thaw { (default : ThawReq) with imageAddr := 0x40000 } } } with
    steward := { busy.steward with keys := busy.steward.keys.set 0 (some { (default : KeySlot) with freezeKey := zeros 32 }) } }

theorem wit_RestoreEnds_time : ∀ r : Bool, ((thawing r 38).ctx 0).phase = .thawing ∧ ((thawing r 38).ctx 0).freezeStage = .restoring 38 ∧
    ((thawing r 38).ctx 0).thawReleased = r ∧ ((thawing r 38).ctx 0).multiMember = false ∧ ((thawing r 38).ctx 0).thawAddr = 0x40000 ∧
    ((thawing r 38).ctx 0).thawSub.map (·.auto) = some false ∧ (thawing r 38).restoreDone 0 38 = true ∧ (thawing r 39).restoreDone 0 39 = false ∧
    (thawing r 38).imageOk 0 0x40000 = false := by decide +kernel

theorem wit_RestoreEnds_image : ∀ r : Bool, let u : State := { thawing r 38 with mem := (thawing r 38).mem.writeBytes 0x40000 frozenImage };
    u.imageOk 0 0x40000 = true ∧ u.restoreDone 0 38 = true := by decide +kernel

theorem wit_Watchdog : (let s : State := { busy.setCtx 0 { someCtx with stillCount := 4096 } with time := { die.time with slot := 0, offset := 0 } };
      s.atTickStart = true ∧ (s.ctx 0).phase = .running ∧ (s.ctx 0).launched = true ∧ (s.ctx 0).halted = false ∧ (s.ctx 0).fault = none ∧
      (s.ctx 0).firedTick = none ∧ (s.ctx 0).inForce.stillTicks ≤ (s.ctx 0).stillCount ∧ 4095 < (s.ctx 0).inForce.stillTicks) ∧
    (let s := busy.setCtx 0 { someCtx with graph := [zeros 20], firedTick := some 36 };
      (s.ctx 0).graph ≠ [] ∧ s.steward.state ≠ 0 ∧ (s.ctx 0).phase ≠ .empty ∧ (s.ctx 0).fault = none ∧ (s.ctx 0).firedTick = some 36 ∧
      36 + 64 ≤ s.time.localTick ∧ s.time.localTick < 37 + 64) := by decide +kernel

theorem wit_StewardLife : (die.page 0x04).served ≠ some die.time.ac ∧
    (let s : State := { die with time := { die.time with localTick := 602 } };
      s.time.tickRunning = true ∧ s.steward.state ≠ 0 ∧ s.steward.lateRaised = false ∧ s.steward.lastHeartbeat + 512 ≤ s.time.localTick ∧
      s.time.localTick < s.steward.lastHeartbeat + 1024) ∧
    (let s : State := { die with steward := { die.steward with staged := some 9 }, time := { die.time with slot := 0, offset := 0 } };
      s.steward.staged = some 9 ∧ s.time.tickRunning = true ∧ s.time.inMargin = false ∧ s.time.slot = 0 ∧ s.time.offset = 0 ∧ s.sluice.due = [] ∧
      ∀ k, (s.ctx k).blocksFirmware = false) ∧ (busy.ctx 0).blocksFirmware = true ∧
    (let s : State := { die with steward := { die.steward with state := 2, activatedTick := 100 }, time := { die.time with localTick := 4196 } };
      s.steward.state = 2 ∧ s.steward.activatedTick + 4096 ≤ s.time.localTick ∧ 4195 < s.steward.activatedTick + 4096) := by decide +kernel

theorem wit_SramErrors : (let e : SramError := { sram := 7 }; e.logic = none ∧ e.correctable = true ∧ e.sram.val ≠ 0) ∧
    (let e : SramError := { sram := 3, correctable := false, owner := some 0 };
      e.correctable = false ∧ sramShared e.sram.val = false ∧ e.free = false ∧ e.owner = some 0 ∧ (busy.ctx 0).phase ≠ .empty ∧ (busy.ctx 0).fault = none) ∧
    (let e : SramError := { sram := 3, correctable := false, free := true };
      e.correctable = false ∧ sramShared e.sram.val = false ∧ e.free = true ∧ e.sram.val ≠ 0) ∧
    (let e : SramError := { logic := some (.counterCopy 0 1 8) }; e.logic = some (.counterCopy 0 1 8) ∧ ((busy.ctx 0).counter? 1).isSome = true ∧
      ((busy.ctx 0).counter? 2) = none) := by decide +kernel

/-- The context with a trace area of two chunks and a number of 32-byte records in its ring. -/
def traced (records : Nat) (chunk : Option Chunk) : State := busy.setCtx 0 { someCtx with
  image := { someCtx.image with symbols := [{ nameId := 1, layer := 0xFFFF, operatorId := 0xFFD0, length := 65536 },
    { nameId := 2, layer := 0xFFFF, operatorId := 0xFFD1, external := true, address := 0x500000, length := 131072 }] }
  trace := { effective := 7, ctrl := 7, capture := .armed, ring := List.replicate records (false, zeros 32), chunk := chunk } }

theorem wit_TraceUnit : (∀ q ∈ (busy.ctx 0).counters, q.value = q.copy) ∧ ((busy.core 0).serving = some inService ∧ inService.windowClosed = false) ∧
    (let s := busy.setCore 0 { e0 := inService, engines := [(.vxe, 4), (.mxe, 5)] }; (s.core 0).engines.find? (fun x => x.1 == .mxe) = some (.mxe, 5)) ∧
    (let s := traced 0 none; let x : CoreSample := { core := 1 };
      (s.ctx 0).runs = true ∧ (s.ctx 0).trace.effective.getLsbD 0 = true ∧
      (s.ctx 0).trace.samples % 2 ^ bits (s.ctx 0).trace.effective.toNat 6 2 = 0 ∧ (s.ctx 0).hasCore x = true) ∧
    (let s := traced 2046 none; 65472 ≤ ((s.ctx 0).trace.ring.map fun r => r.2.length).sum ∧ (s.ctx 0).phase = .running ∧ (s.ctx 0).trace.chunk = none ∧ (s.ctx 0).drainChunks ≠ 0) ∧
    (let s := (traced 2046 none).setCtx 0 { (traced 2046 none).ctx 0 with phase := .frozen }; (s.ctx 0).phase ≠ .running) ∧
    (let s := traced 2045 none; ((s.ctx 0).trace.ring.map fun r => r.2.length).sum < 65472) ∧
    (let q : Chunk := { serial := 1, used := 0, trigger := false, final := true, padded := true, bytes := [], ends := 40 }; let s := traced 0 (some q);
      (s.ctx 0).trace.chunk = some q ∧ ((s.ctx 0).symbol? 0xFFFF 0xFFD1).isSome = true ∧ q.ends ≤ s.time.slotCount ∧ s.time.slotCount < q.ends + 1) := by
  decide +kernel

theorem wit_ContextPageRequests : (busy.page (ctxPage 0)).served ≠ some busy.time.ac ∧
    (let v : Word := 0x1018; 6 ≤ bits v.toNat 6 2 ∧ bits v.toNat 6 2 ≤ 16 ∧ bits v.toNat 8 7 ≠ 3 ∧ bits v.toNat 12 9 ≠ 0 ∧
      (bit v.toNat 0 || bit v.toNat 1) = false) ∧ ((traced 0 none).ctx 0).mayTrace = true ∧
    (busy.ctx 0).phase ≠ .empty ∧ (busy.ctx 0).phase ≠ .tearingDown ∧ (busy.ctx 0).dumps.length < 16 ∧
    (let s := busy.setCtx 0 { someCtx with dumps := List.replicate 16 ⟨0, 0, 0, 0, false⟩ }; 16 ≤ (s.ctx 0).dumps.length) ∧ (busy.ctx 1).phase = .empty ∧
    (let s := busy.setCtx 0 { someCtx with halted := true };
      (s.ctx 0).phase = .running ∧ (s.ctx 0).halted = true ∧ (s.ctx 0).lock.diverged = none ∧ (s.ctx 0).headwater = true) ∧
    (busy.ctx 0).halted = false := by decide +kernel

theorem wit_PageSwitch : Priv.operator ≠ .tenant ∧ (die.page 0x30).served ≠ some die.time.ac ∧ (die.page 0x38).served ≠ some die.time.ac ∧
    pageReserved 0x31 = false ∧ (die.page 0x31).served ≠ some die.time.ac ∧
    (let s : State := { die with obs := { run := .draining 5000 } }; s.obs.run = .draining 5000 ∧ 5000 ≤ s.time.ac ∧ s.time.ac < 5001) ∧
    (let s : State := { die with extRun := .draining 4000, ext := { die.ext with outUntil := some 5001 } };
      s.extRun = .draining 4000 ∧ s.time.ac < max 4000 (s.ext.outUntil.getD 0)) ∧
    (let s : State := { die with extRun := .draining 5000 }; max 5000 (s.ext.outUntil.getD 0) ≤ s.time.ac) := by decide +kernel

theorem wit_EventSetWins : Priv.steward ≠ .tenant ∧ pageReserved 0x38 = false ∧ (die.page 0x38).served ≠ some die.time.ac ∧
    (eventMask 0x38).getLsbD 6 = true ∧ (eventMask 0x38).getLsbD 7 = false := by decide +kernel

theorem wit_ReadClears : Priv.operator ≠ .tenant ∧ pageReserved 0x34 = false ∧ (die.page 0x34).served ≠ some die.time.ac ∧
    (die.page 0x34).errAc ≠ die.time.ac ∧ (die.page 0x32).served ≠ some die.time.ac ∧ die.obs.peakAc ≠ die.time.ac ∧ die.obs.run = .on ∧
    (let s : State := die.setPage 0x34 { errCode := 7, errCount := 0x10000 }; (s.page 0x34).errCount ≠ 0 ∧ (s.page 0x34).served ≠ some s.time.ac) := by
  decide +kernel

theorem wit_NarrowAccess : (let a : RegAccess := { page := 0x34, bytes := 7 }; a.bytes ≠ 8 ∧ (die.page a.reach.2).served ≠ some die.time.ac) ∧
    (let a : RegAccess := { page := 0x34, offset := 1 }; a.offset % 8 ≠ 0 ∧ (die.page a.reach.2).served ≠ some die.time.ac) ∧
    (let a : RegAccess := { aperture := some 15, offset := 0x1004 }; a.offset % 8 ≠ 0 ∧ a.reach.2 = 0x17 ∧ 0x1000 ≤ a.offset) := by decide +kernel

theorem wit_RegisterAccess : (let a : RegAccess := { priv := .operator, page := 0x18, offset := 0x028 };
      a.refusal = none ∧ (die.page a.reach.2).served ≠ some die.time.ac ∧ a.reach.1 ≠ .tenant ∧ pageReserved a.reach.2.val = false) ∧
    (let a : RegAccess := { aperture := some 0, offset := 0x038 }; a.refusal = none ∧ a.reach.1 = .tenant ∧ a.offset < 0x040) ∧
    (let a : RegAccess := { priv := .steward, page := 0x32, offset := 0x060 }; a.refusal = none ∧ a.offset ≠ 0x038 ∧
      regDefined a.reach.2.val a.offset = false ∧ regDefined a.reach.2.val 0x058 = true) ∧
    (let b : RegAccess := { priv := .tenant, page := 0x18, offset := 0x040 };
      b.aperture = none ∧ b.priv = .tenant ∧ b.bytes = 8 ∧ b.offset % 8 = 0 ∧ slotOfPage b.page.val = none) := by decide +kernel

theorem wit_RegisterWrites_ctx : ∀ off ∈ [0x098, 0x0A8, 0x190, 0x198, 0x0C8, 0x0E0, 0x0F8, 0x168, 0x180],
    (let a : RegAccess := { priv := .operator, page := ctxPage 0, offset := off };
      a.refusal = none ∧ (busy.page a.reach.2).served ≠ some busy.time.ac ∧ a.reach.2 = ctxPage 0 ∧ a.reach.1 ≠ .tenant) ∧
    (let a : RegAccess := { aperture := some 0, offset := off }; a.refusal = none ∧ a.reach.1 = .tenant ∧ a.reach.2 = ctxPage 0) := by decide +kernel

theorem wit_RegisterWrites_values : (bits (0x401 : Word).toNat 15 8 != 0) = true ∧ (bits (0x1 : Word).toNat 15 8 != 0) = false ∧
    16 ≤ bits (16 : Word).toNat 19 0 ∧ bits (15 : Word).toNat 19 0 < 16 ∧ bits (1024 : Word).toNat 10 0 ≤ 1024 ∧ 1024 < bits (1025 : Word).toNat 10 0 ∧
    (busy.ctx 1).phase = .empty ∧ (busy.ctx 0).phase ≠ .empty ∧
    (busy.ctx 0).selectorError 8 = none ∧ (busy.ctx 0).selectorError 0x19 = none ∧ (busy.ctx 0).selectorError 10 = some 0x08 ∧
    (busy.ctx 0).selectorError 0x18 = some 0x04 := by decide +kernel

theorem wit_RegisterWrites_pages : (∀ r, r < 7 → let a : RegAccess := { priv := .steward, page := 0x2C, offset := 0x100 + 8 * r };
      a.refusal = none ∧ a.reach.2 = 0x2C ∧ (busy.page 0x2C).served ≠ some busy.time.ac) ∧ (busy.catch_ 0).valid = true ∧ (busy.catch_ 1).valid = false ∧
    bits (0xFFFF : Word).toNat 31 16 = 0 ∧ bits (0x10000 : Word).toNat 31 16 ≠ 0 ∧
    (∀ off ∈ [0x040, 0x048], let a : RegAccess := { priv := .operator, page := 0x38, offset := off };
      a.refusal = none ∧ a.reach.2 = 0x38 ∧ (busy.page 0x38).served ≠ some busy.time.ac) ∧
    (let v : Word := 0x3_0001_0001; bits v.toNat 33 32 = 3) ∧ (let v : Word := 0x2_0001_0001; bits v.toNat 15 0 ≠ 0 ∧ bits v.toNat 31 16 ≠ 0 ∧ bits v.toNat 33 32 ≠ 3) := by
  decide +kernel

theorem wit_CommitReleaseArm : (die.page 0x2C).served ≠ some die.time.ac ∧ (die.page 0x02).served ≠ some die.time.ac ∧ (die.catch_ 3).valid = false ∧
    bit (0 : Word).toNat 54 = false ∧ (busy.catch_ 0).valid = true ∧ busy.catchHeld 0 = true ∧ busy.catchHeld 1 = false ∧ die.time.running = true ∧
    starting.time.running = false := by decide +kernel

theorem wit_RefusedAccesses : (die.page 0x31).served ≠ some die.time.ac ∧ slotOfPage (0x18 : Fin 64).val = none ∧ pageReserved (0x07 : Fin 64).val = true ∧
    (let v : Word := 0; bits v.toNat 6 2 < 6) ∧ (let v : Word := 17 * 4; 16 < bits v.toNat 6 2) ∧ (die.ctx 1).mayTrace = false := by decide +kernel

/-! ### Known answers: the spec's worked examples, and the published vectors of the algorithms it names -/

/-- The drain example after R254: 1.0 + 2^-24 + 2^-30 in each drain format. -/
theorem test_drain_example : (let a : BitVec 256 := BitVec.ofNat 256 (2 ^ 126 + 2 ^ 102 + 2 ^ 96);
    drainWord 0 a = 0x3F800001 ∧ drainWord 1 a = 0x3F80 ∧ drainWord 2 a = 0x3C00) := by decide +kernel

/-- The fast-mode example after R264: the sum depends on the order. -/
theorem test_fast_order : fastAdd (fastAdd 0x3F800000 0x33800000) 0x30800000 = 0x3F800000 ∧
    fastAdd (fastAdd 0x33800000 0x30800000) 0x3F800000 = 0x3F800001 := by decide +kernel

/-- The check value of CRC-32C over the digits 1 to 9. -/
theorem test_crc32c : crc32c (ascii "123456789") = 0xE3069283 := by decide +kernel

/-- SHA-384 of "abc" (FIPS 180-4). -/
theorem test_sha384 : beNat (sha384 (ascii "abc")) =
    0xcb00753f45a35e8bb5a03d699ac65007272c32ab0eded1631a8b605a43ff5bed8086072ba1e7cc2358baeca134c825a7 := by decide +kernel

/-- AES-256 of the example vectors of FIPS 197, appendix C.3. -/
theorem test_aes256 : beNat (aes256 ((List.range 32).map (BitVec.ofNat 8)) (beBytes 16 0x00112233445566778899aabbccddeeff)) =
    0x8ea2b7ca516745bfeafc49904b496089 := by decide +kernel

/-! ### Signatures and tags, checked part by part -/

theorem test_key_hash : sha384 testKey = keyHash := by decide +kernel

theorem wit_ManifestsAndFirmware_staged : keyed.boot.ready = true ∧ keyed.safety.fenced = false ∧ keyed.firmwareRefusal firmware = none := by decide +kernel
theorem wit_ManifestsAndFirmware_refused : keyed.firmwareRefusal [] = some 0x60 ∧ (keyed.checkManifest []).isLeft = true := by decide +kernel
theorem wit_ManifestsAndFirmware_accepted :
    (match keyed.checkManifest manifestBytes with | .inr (k, c) => k == 0 && c.cmid == 6 && c.headwater | .inl _ => false) = true := by decide +kernel

/-- The key that wraps: HKDF over the shared x coordinate, which is the base point's with private key 1. -/
theorem wit_Loads_kek : hkdf32 (slice wrapped 16 16) (beBytes 48 (ecdhX loading.steward.privateKey (field wrapped 32 48) (field wrapped 80 48)))
    (ascii "PUSKA wrap" ++ leBytes 2 7) = beBytes 32 0xa28df5f3bd0c5b10c6855306b23ffedc54dacad26e75b8100aa05feca8dc021b := by decide +kernel
theorem wit_Loads_unwrapped : gcmDecrypt (beBytes 32 0xa28df5f3bd0c5b10c6855306b23ffedc54dacad26e75b8100aa05feca8dc021b) (slice wrapped 224 12) (wrapped.take 236) (slice wrapped 240 32) (slice wrapped 272 16)
    = some (zeros 32) := by decide +kernel

/-- The wrapped key unwraps in the slot that loads it. -/
theorem wit_Loads_key : (match loading.unwrap wrapped 7 with | .inr key => key.contextKey == zeros 32 && key.tenantX == p384G.1 | .inl _ => false) = true := by
  have a : ¬ (field wrapped 0 8 ≠ 0x504152574B535550 ∨ field wrapped 8 2 ≠ 1 ∨ field wrapped 10 2 ≠ 7
      ∨ (!(zeroField wrapped 12 4 && zeroField wrapped 236 4 && zeroField wrapped 288 32)) = true) := by decide +kernel
  have b : ¬ field wrapped 16 16 ≠ loading.cfg.dieId := by decide +kernel
  have c : ¬ (!(onCurve (field wrapped 32 48) (field wrapped 80 48) && onCurve (field wrapped 128 48) (field wrapped 176 48))) = true := by decide +kernel
  have d : field wrapped 128 48 = p384G.1 := by decide +kernel
  simp only [State.unwrap, if_neg a, if_neg b, if_neg c, wit_Loads_kek, wit_Loads_unwrapped]
  rw [d, beq_self_eq_true, beq_self_eq_true]
  rfl

/-- An image that fails its first check, and a mode conflict: a cache portion is on. -/
theorem wit_Loads_refused : loading.checkImage 0 false 896 [] (zeros 32) p384G.1 p384G.2 = .inl 0x20 ∧
    modeConflict (loading.ctx 0) {} 0b11 none {} = true ∧ (loading.setCtx 0 { loading.ctx 0 with multiMember := true }).unwrap [] 7 = .inl 0x30 := by
  decide +kernel

theorem wit_Loads_envelope : envelopeOk graphImage 896 = true := by decide +kernel
theorem wit_Loads_digest : sha384 (graphImage.take 640) = beBytes 48 0x597c3fb7bbe13c05ab05e992023b7b4f35461488a07c102ec19c2fb99bf7a683ba6efacc853d2a891ba6ecd1b218dc33 := by decide +kernel
theorem wit_Loads_signature :
    ecdsaVerify p384G.1 p384G.2 (beBytes 48 0x597c3fb7bbe13c05ab05e992023b7b4f35461488a07c102ec19c2fb99bf7a683ba6efacc853d2a891ba6ecd1b218dc33) (field (graphImage.drop 640) 96 48) (field (graphImage.drop 640) 144 48) = true := by
  decide +kernel
theorem wit_Loads_signed : imageSigned graphImage p384G.1 p384G.2 = true := by
  have o : field graphImage 40 8 = 640 := by decide +kernel
  have k : (field (graphImage.drop 640) 0 48 == p384G.1 && field (graphImage.drop 640) 48 48 == p384G.2) = true := by decide +kernel
  simp only [imageSigned, o, wit_Loads_digest, wit_Loads_signature, k, Bool.and_true]
theorem wit_Loads_tag : gcmTag (zeros 32) (slice graphImage 48 12) (graphImage.take 64) (slice graphImage 256 (field graphImage 32 8))
    = slice graphImage 64 16 := by decide +kernel
theorem wit_Loads_plain : gctr (zeros 32) (slice graphImage 48 12) 2 (slice graphImage 256 (field graphImage 32 8)) = graphBody := by decide +kernel
theorem wit_Loads_body : imageBody graphImage (zeros 32) = some graphBody := by
  simp only [imageBody, gcmDecrypt, wit_Loads_tag, wit_Loads_plain, if_true]
theorem wit_Loads_reserved : signatureReserved graphImage = true := by decide +kernel
theorem wit_Loads_checks : (match loading.checkBody 0 false true graphBody with
    | .inr i => i.templates.length == 1 && !modeConflict (loading.ctx 0) {} 0 none i | .inl _ => false) = true := by decide +kernel

/-- The image passes every check of R78 to R125 in the slot that loads it, and no mode conflicts with it. -/
theorem wit_Loads_image :
    (match loading.checkImage 0 false 896 graphImage (zeros 32) p384G.1 p384G.2 with
      | .inr i => i.templates.length == 1 && !modeConflict (loading.ctx 0) {} 0 none i | .inl _ => false) = true := by
  simp only [State.checkImage, wit_Loads_envelope, wit_Loads_signed, wit_Loads_body, wit_Loads_reserved, Bool.true_eq_false, if_false]
  exact wit_Loads_checks
end Sys2Proof.Tests
end

section
/-! SUPPORT. Register accesses: which are refused before a register is looked at, what a refused access leaves (R13, R14, R468, R476),
and what a write that passes those checks comes to, one equation per case of `State.write`. -/

namespace Sys2Proof.Machine

/-! ### A page served once -/

/-- A page's header once an access to it has been served in an ac (R465). -/
def PageHdr.servedAt (h : PageHdr) (ac : Nat) : PageHdr := { h with served := some ac }

@[simp] theorem PageHdr.servedAt_raw (h : PageHdr) (ac : Nat) : (h.servedAt ac).raw = h.raw := rfl
@[simp] theorem PageHdr.servedAt_rawAc (h : PageHdr) (ac : Nat) : (h.servedAt ac).rawAc = h.rawAc := rfl
@[simp] theorem PageHdr.servedAt_fresh (h : PageHdr) (ac : Nat) : (h.servedAt ac).fresh = h.fresh := rfl

@[simp] theorem State.accessed_page_same (s : State) (p : Fin 64) : (s.accessed p).page p = (s.page p).servedAt s.time.ac :=
  State.page_setPage_same s p _

@[simp] theorem State.accessed_time (s : State) (p : Fin 64) : (s.accessed p).time = s.time := rfl
@[simp] theorem State.accessed_obs (s : State) (p : Fin 64) : (s.accessed p).obs = s.obs := rfl

theorem State.accessed_page_other (s : State) {p q : Fin 64} (h : q ≠ p) : (s.accessed p).page q = s.page q :=
  State.page_setPage_other s _ h

/-- The first access to a page in an ac is served in that ac (R465). -/
theorem State.serve_of_free {s : State} {p : Fin 64} (h : (s.page p).served ≠ some s.time.ac) : s.serve p = s.accessed p := by
  simp only [State.serve, if_neg h, State.accessed]

/-! ### What a refused access leaves -/

/-- A page after an access to it was refused: the access is served and one error recorded (R465, R476). -/
theorem State.accessError_accessed_page_same (s : State) (p : Fin 64) (code : Nat) (pr : Priv) (off : Nat) :
    ((s.accessed p).accessError p code pr off).page p =
      ((s.page p).servedAt s.time.ac).error s.time.ac code (off % 2 ^ 12 + Priv.detail pr) := by
  rw [State.accessError, State.pageError, State.page_setPage_same, State.accessed_page_same]
  rfl

theorem State.accessError_accessed_page_other (s : State) {p q : Fin 64} (h : q ≠ p) (code : Nat) (pr : Priv) (off : Nat) :
    ((s.accessed p).accessError p code pr off).page q = s.page q := by
  rw [State.accessError, State.pageError, State.page_setPage_other _ _ h, State.accessed_page_other s h]

/-- The page a refused access reaches counts one more error and keeps its events and its mask; no other page changes. -/
theorem State.accessError_accessed_onlyError (s : State) (p : Fin 64) (code : Nat) (pr : Priv) (off : Nat) :
    OnlyError p s ((s.accessed p).accessError p code pr off) :=
  ⟨fun _ h => State.accessError_accessed_page_other s h code pr off, by simp only [accessError_accessed_page_same]; exact ⟨rfl, rfl, rfl⟩⟩

/-- The first error since the last read gives PAGE_ERR its code (R476). -/
theorem State.accessError_accessed_code {s : State} {p : Fin 64} (h : (s.page p).errCount = 0) (code : Nat) (pr : Priv) (off : Nat) :
    (((s.accessed p).accessError p code pr off).page p).errCode = code := by
  rw [State.accessError_accessed_page_same]
  exact if_pos h

/-! ### The checks of an access -/

/-- A reserved page is no context page (R469, R470). -/
theorem slotOfPage_of_reserved {q : Fin 64} : pageReserved q.val = true → slotOfPage q.val = none := by revert q; decide

theorem not_reserved_of_slotOfPage {q : Fin 64} : (slotOfPage q.val).isSome = true → pageReserved q.val = false := by revert q; decide

@[simp] theorem slotOfPage_ctxPage (k : Fin 16) : slotOfPage (ctxPage k).val = some k := by revert k; decide

@[simp] theorem pageReserved_ctxPage (k : Fin 16) : pageReserved (ctxPage k).val = false :=
  not_reserved_of_slotOfPage (by simp)

/-- A narrow or misaligned access is refused, an access beyond its aperture first (R13, R468; log entry 41). -/
theorem refusal_of_narrow {a : RegAccess} (h : a.bytes ≠ 8 ∨ a.offset % 8 ≠ 0) :
    a.refusal = some (if a.aperture.isSome ∧ 0x1000 ≤ a.offset then 0x02 else 0x01) := by
  simp only [RegAccess.refusal, if_pos h]
  exact (apply_ite some _ _ _).symm

/-- A whole-word access by the steward or the operator, or by the tenant to a context page, is not refused (R14). -/
theorem refusal_access_of_allowed {p : Priv} {q : Fin 64} {off : Nat} (ho : off % 8 = 0) (h : p ≠ .tenant ∨ (slotOfPage q.val).isSome = true) :
    (access p q off).refusal = none := by
  have hp : p = .tenant → slotOfPage q.val ≠ none := by
    rintro rfl hn
    rcases h with h | h
    · exact h rfl
    · simp [hn] at h
  simpa [RegAccess.refusal, access, RegAccess.reach, ho] using hp

/-- A tenant's whole-word access outside the context pages is a privilege error (R14). -/
theorem refusal_of_tenant {a : RegAccess} (ha : a.aperture = none) (hp : a.priv = .tenant) (hb : a.bytes = 8) (ho : a.offset % 8 = 0)
    (h : slotOfPage a.page.val = none) : a.refusal = some 0x02 := by
  simp [RegAccess.refusal, RegAccess.reach, ha, hp, hb, ho, h]

/-- Where a tenant's access is not refused it reaches a context page. -/
theorem slotOfPage_of_tenant_allowed {a : RegAccess} (h : a.refusal = none) (ht : a.reach.1 = .tenant) : (slotOfPage a.reach.2.val).isSome = true := by
  cases hk : slotOfPage a.reach.2.val with
  | some k => rfl
  | none =>
    have hn : a.reach.1 = .tenant ∧ (slotOfPage a.reach.2.val).isNone = true := ⟨ht, by rw [hk]; rfl⟩
    rw [RegAccess.refusal, if_pos hn] at h
    split at h
    · cases h
    · split at h
      · cases h
      · cases h

/-! ### Writes and reads by the outcome of the checks -/

theorem State.registerWrite_of_refused {a : RegAccess} {s : State} {code : Nat} (hr : a.refusal = some code)
    (hs : (s.page a.reach.2).served ≠ some s.time.ac) (v : Word) :
    s.registerWrite a v = (s.accessed a.reach.2).accessError a.reach.2 code a.reach.1 a.offset := by
  simp only [State.registerWrite, hr, State.serve_of_free hs]

theorem State.registerWrite_of_allowed {a : RegAccess} {s : State} (hr : a.refusal = none)
    (hs : (s.page a.reach.2).served ≠ some s.time.ac) (v : Word) :
    s.registerWrite a v = (s.accessed a.reach.2).write a.reach.2 a.reach.1 a.offset v := by
  simp only [State.registerWrite, hr, State.serve_of_free hs]

theorem State.registerRead_of_refused {a : RegAccess} {s : State} {code : Nat} (hr : a.refusal = some code)
    (hs : (s.page a.reach.2).served ≠ some s.time.ac) :
    s.registerRead a = { (s.accessed a.reach.2).accessError a.reach.2 code a.reach.1 a.offset with readData := 0 } := by
  simp only [State.registerRead, hr, State.serve_of_free hs]

theorem State.registerRead_of_allowed {a : RegAccess} {s : State} (hr : a.refusal = none)
    (hs : (s.page a.reach.2).served ≠ some s.time.ac) : s.registerRead a = (s.accessed a.reach.2).read a.reach.2 a.offset := by
  simp only [State.registerRead, hr, State.serve_of_free hs]

/-- A write to a reserved page reaches no register (R470). -/
theorem State.write_reserved {q : Fin 64} (h : pageReserved q.val = true) (s : State) (p : Priv) (off : Nat) (v : Word) :
    s.write q p off v = s.accessError q 0x03 p off := if_pos h

/-- The tenant may not write a page's header (R14). -/
theorem State.write_header_tenant {q : Fin 64} {off : Nat} (h : pageReserved q.val = false) (ho : off < 0x040) (s : State) (v : Word) :
    s.write q .tenant off v = s.accessError q 0x02 .tenant off := by
  simp [State.write, h, ho]

theorem State.write_header {q : Fin 64} {off : Nat} {p : Priv} (h : pageReserved q.val = false) (ho : off < 0x040) (hp : p ≠ .tenant)
    (s : State) (v : Word) : s.write q p off v = s.writeHeader q off v := by
  simp [State.write, h, ho, hp]

/-- A tenant's write of a header register is a privilege error, on a context page as on any other (R14). -/
theorem State.registerWrite_header_tenant {s : State} {q : Fin 64} {off : Nat} (ha : off % 8 = 0) (ho : off < 0x040)
    (hs : (s.page q).served ≠ some s.time.ac) (v : Word) :
    s.registerWrite (access .tenant q off) v = (s.accessed q).accessError q 0x02 .tenant off := by
  cases hk : slotOfPage q.val with
  | none => exact State.registerWrite_of_refused (a := access .tenant q off) (refusal_of_tenant rfl rfl rfl ha hk) hs v
  | some k =>
    have hk : (slotOfPage q.val).isSome = true := by rw [hk]; rfl
    rw [State.registerWrite_of_allowed (a := access .tenant q off) (refusal_access_of_allowed ha (.inr hk)) hs v]
    exact State.write_header_tenant (not_reserved_of_slotOfPage hk) ho _ v

/-- Any write to a reserved page by another privilege has code 0x03 (R470). -/
theorem State.registerWrite_reserved {s : State} {p : Priv} {q : Fin 64} {off : Nat} (ha : off % 8 = 0) (hp : p ≠ .tenant)
    (hq : pageReserved q.val = true) (hs : (s.page q).served ≠ some s.time.ac) (v : Word) :
    s.registerWrite (access p q off) v = (s.accessed q).accessError q 0x03 p off := by
  rw [State.registerWrite_of_allowed (a := access p q off) (refusal_access_of_allowed ha (.inl hp)) hs v]
  exact State.write_reserved hq _ p off v

/-- A header register is written by another privilege. -/
theorem State.registerWrite_header {s : State} {p : Priv} {q : Fin 64} {off : Nat} (ha : off % 8 = 0) (ho : off < 0x040) (hp : p ≠ .tenant)
    (hq : pageReserved q.val = false) (hs : (s.page q).served ≠ some s.time.ac) (v : Word) :
    s.registerWrite (access p q off) v = (s.accessed q).writeHeader q off v := by
  rw [State.registerWrite_of_allowed (a := access p q off) (refusal_access_of_allowed ha (.inl hp)) hs v]
  exact State.write_header hq ho hp _ v

/-! ### The rows that write a page's header -/

/-- The rows that write a header register are whole-word writes of one (R472, R474, R475). -/
theorem exec_header_row {p : Priv} {q : Fin 64} {v : Word} {i : Instr}
    (hi : i ∈ [Instr.evtRawClear p q v, .evtForce p q v, .pageEnable p q, .pageDisable p q]) (s : State) :
    ∃ off w, off % 8 = 0 ∧ off < 0x040 ∧ exec i s = .next (s.registerWrite (access p q off) w) := by
  simp only [List.mem_cons, List.not_mem_nil, or_false] at hi
  rcases hi with rfl | rfl | rfl | rfl
  · exact ⟨0x020, v, rfl, by decide, rfl⟩
  · exact ⟨0x030, v, rfl, by decide, rfl⟩
  · exact ⟨0x010, 1, rfl, by decide, rfl⟩
  · exact ⟨0x010, 0, rfl, by decide, rfl⟩

/-! ### The accesses that are refused: NarrowAccess, RefusedAccesses -/

/-- Settles O56: such an access is refused before a register is looked at, and what a refused access leaves is the error alone. -/
theorem narrowAccess : Obligations.NarrowAccess := by
  intro a v s hn hs
  have hr := refusal_of_narrow hn
  have he := s.accessError_accessed_onlyError a.reach.2 (if a.aperture.isSome ∧ 0x1000 ≤ a.offset then 0x02 else 0x01) a.reach.1 a.offset
  obtain ⟨hpages, hmask, hraw, hcount⟩ := he
  exact ⟨⟨_, congrArg Host.Outcome.next (State.registerWrite_of_refused hr hs v), rfl, hpages, hcount, hraw, hmask,
      fun h => State.accessError_accessed_code h _ _ _⟩,
    ⟨_, congrArg Host.Outcome.next (State.registerRead_of_refused hr hs), rfl, rfl, hpages, hcount, fun h => State.accessError_accessed_code h _ _ _⟩⟩

/-- Command `i` is a refused access to page `q`: it records an error with its code there and does nothing else, but that a read gives zero (R476). -/
def RefusedStep (i : Instr) (q : Fin 64) (code : Nat) (s : State) : Prop :=
  ∃ t, exec i s = .next t ∧ t = { s with pages := t.pages, readData := t.readData } ∧ (t.readData = s.readData ∨ t.readData = 0) ∧
    (t.page q).errCount = (s.page q).errCount + 1 ∧ ((s.page q).errCount = 0 → (t.page q).errCode = code) ∧
    (t.page q).mask = (s.page q).mask ∧ (t.page q).raw = (s.page q).raw ∧ ∀ r, r ≠ q → t.page r = s.page r

theorem refusedStep_of_write {i : Instr} {q : Fin 64} {code off : Nat} {p : Priv} {s : State}
    (h : exec i s = .next ((s.accessed q).accessError q code p off)) : RefusedStep i q code s := by
  obtain ⟨hpages, hmask, hraw, hcount⟩ := s.accessError_accessed_onlyError q code p off
  exact ⟨_, h, rfl, .inl rfl, hcount, fun h => State.accessError_accessed_code h code p off, hmask, hraw, hpages⟩

theorem refusedStep_of_read {i : Instr} {q : Fin 64} {code off : Nat} {p : Priv} {s : State}
    (h : exec i s = .next { (s.accessed q).accessError q code p off with readData := 0 }) : RefusedStep i q code s := by
  obtain ⟨hpages, hmask, hraw, hcount⟩ := s.accessError_accessed_onlyError q code p off
  exact ⟨_, h, rfl, .inr rfl, hcount, fun h => State.accessError_accessed_code h code p off, hmask, hraw, hpages⟩

/-- A row that is a tenant's write of a register outside the context pages. -/
theorem refusedStep_tenant_write {i : Instr} {q : Fin 64} {off : Nat} {w : Word} {s : State} (hs : (s.page q).served ≠ some s.time.ac)
    (ha : off % 8 = 0) (hq : slotOfPage q.val = none) (h : exec i s = .next (s.registerWrite (access .tenant q off) w)) :
    RefusedStep i q 0x02 s := by
  rw [State.registerWrite_of_refused (a := access .tenant q off) (refusal_of_tenant rfl rfl rfl ha hq) hs] at h
  exact refusedStep_of_write h

/-- A row that is a tenant's read of a register outside the context pages. -/
theorem refusedStep_tenant_read {i : Instr} {q : Fin 64} {off : Nat} {s : State} (hs : (s.page q).served ≠ some s.time.ac)
    (ha : off % 8 = 0) (hq : slotOfPage q.val = none) (h : exec i s = .next (s.registerRead (access .tenant q off))) :
    RefusedStep i q 0x02 s := by
  rw [State.registerRead_of_refused (a := access .tenant q off) (refusal_of_tenant rfl rfl rfl ha hq) hs] at h
  exact refusedStep_of_read h

/-- A bit above a field leaves the field as it is. -/
theorem bits_or_two_pow {v n hi lo : Nat} (h : hi < n) : bits (v ||| 2 ^ n) hi lo = bits v hi lo := by
  refine Nat.eq_of_testBit_eq fun j => ?_
  simp only [bits, Nat.testBit_mod_two_pow, Nat.testBit_div_two_pow, Nat.testBit_or, Nat.testBit_two_pow]
  by_cases hj : j < hi + 1 - lo
  · have : ¬ n = j + lo := by omega
    simp [this]
  · simp [hj]

theorem bit_or_two_pow {v n k : Nat} (h : k ≠ n) : bit (v ||| 2 ^ n) k = bit v k := by
  simp [bit, Nat.testBit_or, h.symm]

theorem toNat_or_two_pow (v : Word) {n : Nat} (h : n < 64) : (v ||| BitVec.ofNat 64 (2 ^ n)).toNat = v.toNat ||| 2 ^ n := by
  rw [BitVec.toNat_or, BitVec.toNat_ofNat, Nat.mod_eq_of_lt (Nat.pow_lt_pow_right (by decide) h)]

/-- A write of `v` to CTX_TRACE_CTRL is refused with a code: a field out of range, or tracing that the context may not turn on (R416, R417, R492). -/
def TraceRefusal (c : Ctx) (v code : Nat) : Prop :=
  if bits v 6 2 < 6 ∨ 16 < bits v 6 2 ∨ bits v 8 7 = 3 ∨ bits v 12 9 = 0 then code = 0x04
  else (bit v 0 || bit v 1) = true ∧ c.mayTrace = false ∧ code = 0x08

theorem traceRefusal_or_two_pow {c : Ctx} {v n code : Nat} (hn : 12 < n) : TraceRefusal c (v ||| 2 ^ n) code ↔ TraceRefusal c v code := by
  simp only [TraceRefusal]
  rw [bits_or_two_pow (by omega), bits_or_two_pow (by omega), bits_or_two_pow (by omega), bit_or_two_pow (by omega), bit_or_two_pow (by omega)]

theorem Ctx.writeTrace_refused {c : Ctx} {v code : Nat} (h : TraceRefusal c v code) : c.writeTrace v = .inl code := by
  unfold TraceRefusal at h
  split at h
  · next hr => rw [Ctx.writeTrace, if_pos hr, h]
  · next hr =>
    obtain ⟨hb, hm, rfl⟩ := h
    rw [Ctx.writeTrace, if_neg hr, if_pos (by rw [hb, hm]; rfl)]

theorem regDefined_ctxPage_trace (k : Fin 16) : regDefined (ctxPage k).val 0x150 = true := by revert k; decide

/-- A write of CTX_TRACE_CTRL whose value is refused, by any privilege (R416, R417, R492). -/
theorem State.registerWrite_trace_refused {s : State} {p : Priv} {k : Fin 16} {w : Word} {code : Nat}
    (hs : (s.page (ctxPage k)).served ≠ some s.time.ac) (h : TraceRefusal (s.ctx k) w.toNat code) :
    s.registerWrite (access p (ctxPage k) 0x150) w = (s.accessed (ctxPage k)).accessError (ctxPage k) code p 0x150 := by
  have hw : ((s.accessed (ctxPage k)).ctx k).writeReg 0x150 w = .inl code := Ctx.writeTrace_refused h
  rw [State.registerWrite_of_allowed (a := access p (ctxPage k) 0x150) (refusal_access_of_allowed rfl (.inr (by simp))) hs w]
  simp [State.write, State.writeCtxReg, ctxWritable, access, RegAccess.reach, regDefined_ctxPage_trace, hw]

/-- TRACE_ARM and TRACE_FLUSH set a bit above every field that the checks look at. -/
theorem refusedStep_trace {i : Instr} {p : Priv} {k : Fin 16} {v : Word} {n code : Nat} {s : State}
    (hs : (s.page (ctxPage k)).served ≠ some s.time.ac) (h : TraceRefusal (s.ctx k) v.toNat code) (hn : 12 < n) (hm : n < 64)
    (hi : exec i s = .next (s.registerWrite (access p (ctxPage k) 0x150) (v ||| BitVec.ofNat 64 (2 ^ n)))) :
    RefusedStep i (ctxPage k) code s := by
  have hw : TraceRefusal (s.ctx k) (v ||| BitVec.ofNat 64 (2 ^ n)).toNat code := by
    rw [toNat_or_two_pow v hm]; exact (traceRefusal_or_two_pow hn).mpr h
  rw [State.registerWrite_trace_refused hs hw] at hi
  exact refusedStep_of_write hi

/-- Settles O60: each row is one whole-word access that the checks of its page or its register refuse. -/
theorem refusedAccesses : Obligations.RefusedAccesses := by
  intro q v s i code hs h
  change RefusedStep i q code s
  rcases h with ⟨hi, rfl⟩ | ⟨rfl, rfl, rfl⟩ | ⟨k, rfl, hi, rfl⟩ | ⟨hq, rfl, rfl⟩ | ⟨rfl, rfl, rfl⟩ | ⟨p, hp, hq, hi, rfl⟩ | ⟨p, k, rfl, hi, hc⟩
  · obtain ⟨off, w, ha, ho, he⟩ := exec_header_row hi s
    rw [State.registerWrite_header_tenant ha ho hs] at he
    exact refusedStep_of_write he
  · exact refusedStep_tenant_write hs (off := 0x048) (w := 1) rfl rfl rfl
  · have ha : (0x100 + 0x40 * k.val) % 8 = 0 := by omega
    simp only [List.mem_cons, List.not_mem_nil, or_false] at hi
    rcases hi with rfl | rfl
    · exact refusedStep_tenant_write hs ha rfl rfl
    · exact refusedStep_tenant_write hs ha rfl rfl
  · exact refusedStep_tenant_read hs (off := 0x038) rfl hq rfl
  · exact refusedStep_tenant_read hs (off := 0x058) rfl rfl rfl
  · obtain ⟨off, w, ha, -, he⟩ := exec_header_row hi s
    rw [State.registerWrite_reserved ha hp hq hs] at he
    exact refusedStep_of_write he
  · simp only [List.mem_cons, List.not_mem_nil, or_false] at hi
    rcases hi with rfl | rfl
    · exact refusedStep_trace hs hc (n := 20) (by decide) (by decide) rfl
    · exact refusedStep_trace hs hc (n := 21) (by decide) (by decide) rfl


/-! ### Whole-word accesses: RegisterAccess -/

/-- What a read of a register that no read clears returns (R12, R468). -/
def State.plainValue (s : State) (p : Fin 64) (off : Nat) : Nat :=
  if off < 0x040 then s.readHeader p off else if regDefined p.val off then s.readSpecific p.val off else 0

theorem State.plainValue_header {off : Nat} (h : off < 0x040) (s : State) (p : Fin 64) : s.plainValue p off = s.readHeader p off := if_pos h

theorem State.plainValue_specific {off : Nat} (h : 0x040 ≤ off) (s : State) (p : Fin 64) :
    s.plainValue p off = if regDefined p.val off then s.readSpecific p.val off else 0 := if_neg (by omega)

/-- No register but PAGE_ERR and OBS_PEAK changes when it is read. -/
theorem State.read_plain (s : State) (p : Fin 64) (off : Nat) (he : off ≠ 0x038) (hp : p ≠ 0x32 ∨ off ≠ 0x058) :
    s.read p off = { s with readData := BitVec.ofNat 64 (s.plainValue p off) } := by
  have h : ¬ (p = 0x32 ∧ off = 0x058) := fun ⟨a, b⟩ => hp.elim (· a) (· b)
  rw [State.read, if_neg he, if_neg h]
  rfl

/-- That a page has been served shows in no header register. -/
theorem State.readHeader_accessed (s : State) (p : Fin 64) (off : Nat) : (s.accessed p).readHeader p off = s.readHeader p off := by
  unfold State.readHeader
  simp only [State.accessed_page_same]
  rfl

/-- Nor does it show in a register of any page. -/
theorem State.readSpecific_accessed (s : State) (p : Fin 64) (n off : Nat) : (s.accessed p).readSpecific n off = s.readSpecific n off := rfl

theorem State.plainValue_accessed (s : State) (p : Fin 64) (off : Nat) : (s.accessed p).plainValue p off = s.plainValue p off := by
  rw [State.plainValue, State.readHeader_accessed, State.readSpecific_accessed, State.plainValue]

/-- A write of EVT_MASK keeps the bits of the events the page defines (R474). -/
theorem State.writeHeader_mask_page (s : State) (p : Fin 64) (v : Word) :
    ((s.accessed p).writeHeader p 0x028 v).page p =
      { (s.page p).servedAt s.time.ac with mask := v.setWidth 32 &&& eventMask p.val } := by
  simp only [State.writeHeader, State.page_setPage_same, State.accessed_page_same]

theorem exec_registerWrite_mask {a : RegAccess} {v : Word} {s : State} (hr : a.refusal = none) (hs : (s.page a.reach.2).served ≠ some s.time.ac)
    (hp : a.reach.1 ≠ .tenant) (hq : pageReserved a.reach.2.val = false) (ho : a.offset = 0x028) :
    exec (.registerWrite a v) s = .next ((s.accessed a.reach.2).writeHeader a.reach.2 0x028 v) := by
  have h := State.registerWrite_of_allowed hr hs v
  rw [ho, State.write_header hq (by decide) hp] at h
  exact congrArg Host.Outcome.next h

/-- A tenant's write of a header, of a page it may reach. -/
theorem exec_registerWrite_header_tenant {a : RegAccess} {v : Word} {s : State} (hr : a.refusal = none)
    (hs : (s.page a.reach.2).served ≠ some s.time.ac) (hp : a.reach.1 = .tenant) (ho : a.offset < 0x040) :
    exec (.registerWrite a v) s = .next ((s.accessed a.reach.2).accessError a.reach.2 0x02 .tenant a.offset) := by
  have h := State.registerWrite_of_allowed hr hs v
  rw [hp, State.write_header_tenant (not_reserved_of_slotOfPage (slotOfPage_of_tenant_allowed hr hp)) ho] at h
  exact congrArg Host.Outcome.next h

theorem exec_registerRead_plain {a : RegAccess} {s : State} (hr : a.refusal = none) (hs : (s.page a.reach.2).served ≠ some s.time.ac)
    (he : a.offset ≠ 0x038) (hp : a.reach.2 ≠ 0x32 ∨ a.offset ≠ 0x058) :
    exec (.registerRead a) s = .next { s.accessed a.reach.2 with readData := BitVec.ofNat 64 (s.plainValue a.reach.2 a.offset) } := by
  have h := State.registerRead_of_allowed hr hs
  rw [State.read_plain _ _ _ he hp, State.plainValue_accessed] at h
  exact congrArg Host.Outcome.next h

/-- Settles O57: what a write of EVT_MASK, a tenant's write and read, and a read of a plain register come to. -/
theorem registerAccess : Obligations.RegisterAccess := by
  intro a v s hr hs
  refine ⟨fun hp hq ho => ?_, fun hp ho => ?_, fun he hp => ?_, fun b hba hbp hbb hbo hq hsb => ?_⟩
  · refine ⟨_, exec_registerWrite_mask hr hs hp hq ho, rfl, fun q hne => ?_, ?_⟩
    · exact (State.page_setPage_other _ _ hne).trans (State.accessed_page_other s hne)
    · rw [State.writeHeader_mask_page]
      exact ⟨rfl, rfl, rfl⟩
  · exact ⟨_, exec_registerWrite_header_tenant hr hs hp ho, rfl, State.accessError_accessed_onlyError _ _ _ _ _,
      fun h => State.accessError_accessed_code h _ _ _⟩
  · refine ⟨_, exec_registerRead_plain hr hs he hp, rfl, fun ho => ?_, fun ho hd => ?_, fun ho hd => ?_⟩
    · exact congrArg (BitVec.ofNat 64) (State.plainValue_header ho _ _)
    · exact congrArg (BitVec.ofNat 64) ((State.plainValue_specific ho _ _).trans (if_pos hd))
    · exact congrArg (BitVec.ofNat 64) ((State.plainValue_specific ho _ _).trans (if_neg (by simp [hd])))
  · have hreach : b.reach = (.tenant, b.page) := by simp [RegAccess.reach, hba, hbp]
    have hw := State.registerWrite_of_refused (s := s) (refusal_of_tenant hba hbp hbb hbo hq) (by rw [hreach]; exact hsb) v
    have hd := State.registerRead_of_refused (s := s) (refusal_of_tenant hba hbp hbb hbo hq) (by rw [hreach]; exact hsb)
    rw [hreach] at hw hd
    have he := s.accessError_accessed_onlyError b.page 0x02 .tenant b.offset
    have hc : (s.page b.page).errCount = 0 → _ := fun h => State.accessError_accessed_code h 0x02 .tenant b.offset
    exact ⟨⟨_, congrArg Host.Outcome.next hw, rfl, he, hc⟩, ⟨_, congrArg Host.Outcome.next hd, rfl, he, hc⟩⟩

/-! ### The event bits: EventSetWins, and EVT_FORCE -/

/-- A write of ones to EVT_RAW clears a bit, unless the hardware set it in this ac (R16). -/
theorem PageHdr.clear_raw_getLsbD (h : PageHdr) (ac : Nat) (v : Word) {b : Nat} (hb : b < 32) :
    (h.clear ac (v.setWidth 32)).raw.getLsbD b = (h.raw.getLsbD b && (!v.getLsbD b || (h.rawAc == ac && h.fresh.getLsbD b))) := by
  by_cases hac : h.rawAc = ac
  · simp [PageHdr.clear, hac, hb]
  · simp only [PageHdr.clear, if_neg hac, BitVec.getLsbD_and, BitVec.getLsbD_not, BitVec.getLsbD_setWidth]
    simp [beq_eq_false_iff_ne.mpr hac, hb]

/-- What the hardware sets in an ac stands in EVT_RAW and is marked as set in that ac (R16). -/
theorem PageHdr.set_getLsbD (h : PageHdr) (ac : Nat) {x : BitVec 32} {b : Nat} (hx : x.getLsbD b = true) :
    (h.set ac x).raw.getLsbD b = true ∧ (h.set ac x).rawAc = ac ∧ (h.set ac x).fresh.getLsbD b = true := by
  by_cases hac : h.rawAc = ac
  · rw [PageHdr.set, if_pos hac]
    exact ⟨by rw [BitVec.getLsbD_or, hx, Bool.or_true], hac, by rw [BitVec.getLsbD_or, hx, Bool.or_true]⟩
  · rw [PageHdr.set, if_neg hac]
    exact ⟨by rw [BitVec.getLsbD_or, hx, Bool.or_true], rfl, hx⟩

/-- An event that its page defines has its own bit. -/
theorem event_getLsbD {m : BitVec 32} {b : Nat} (hb : b < 32) (hm : m.getLsbD b = true) :
    (BitVec.ofNat 32 (2 ^ b) &&& m).getLsbD b = true := by
  rw [BitVec.getLsbD_and, BitVec.getLsbD_ofNat, Nat.testBit_two_pow_self, hm]
  simp [hb]

@[simp] theorem State.raise_page_same (s : State) (p : Fin 64) (b : Nat) :
    (s.raise p b).page p = (s.page p).set s.time.ac (BitVec.ofNat 32 (2 ^ b) &&& eventMask p.val) := State.page_setPage_same s p _

theorem PageHdr.set_served (h : PageHdr) (ac : Nat) (x : BitVec 32) : (h.set ac x).served = h.served := by
  unfold PageHdr.set
  split
  · rfl
  · rfl

theorem State.registerWrite_raw {s : State} {p : Priv} {q : Fin 64} (hp : p ≠ .tenant) (hq : pageReserved q.val = false)
    (hs : (s.page q).served ≠ some s.time.ac) (v : Word) : exec (.evtRawClear p q v) s =
      .next ((s.accessed q).setPage q (((s.page q).servedAt s.time.ac).clear s.time.ac (v.setWidth 32))) := by
  have h := State.registerWrite_header (off := 0x020) rfl (by decide) hp hq hs v
  rw [State.writeHeader, State.accessed_page_same] at h
  exact congrArg Host.Outcome.next h

/-- Settles O54: a bit set in the ac of the clear, before it or after it, is one the clear leaves. -/
theorem eventSetWins : Obligations.EventSetWins := by
  intro p q v s hp hq hs
  refine ⟨⟨_, State.registerWrite_raw hp hq hs v, rfl, fun r hr => ?_, fun b hb => ?_⟩, fun b hb hm => ⟨?_, ?_⟩⟩
  · exact (State.page_setPage_other _ _ hr).trans (State.accessed_page_other s hr)
  · rw [State.page_setPage_same, PageHdr.clear_raw_getLsbD _ _ _ hb]
    rfl
  · have hs' : ((s.raise q b).page q).served ≠ some (s.raise q b).time.ac := by
      rw [State.raise_page_same, PageHdr.set_served]; exact hs
    refine ⟨_, State.registerWrite_raw hp hq hs' v, ?_⟩
    obtain ⟨hraw, hac, hfresh⟩ := PageHdr.set_getLsbD (s.page q) s.time.ac (event_getLsbD hb hm)
    rw [State.page_setPage_same, PageHdr.clear_raw_getLsbD _ _ _ hb, State.raise_page_same, State.raise_time, PageHdr.servedAt_raw,
      PageHdr.servedAt_rawAc, PageHdr.servedAt_fresh, hraw, hac, hfresh]
    simp
  · refine ⟨_, State.registerWrite_raw hp hq hs v, rfl, ?_⟩
    rw [State.raise_page_same]
    exact (PageHdr.set_getLsbD _ _ (event_getLsbD hb hm)).1

/-! ### The registers that a read clears: ReadClears -/

/-- PAGE_ERR with the first `n` of a page's errors counted (R476). -/
def PageHdr.errWord (h : PageHdr) (n : Nat) : Nat :=
  if n = 0 then 0 else h.errCode % 2 ^ 8 + min n 0xFFFF * 2 ^ 16 + h.errDetail % 2 ^ 32 * 2 ^ 32

theorem PageHdr.errWord_lt (h : PageHdr) (n : Nat) : h.errWord n < 2 ^ 64 := by
  unfold PageHdr.errWord
  split
  · omega
  · omega

theorem PageHdr.toNat_errWord (h : PageHdr) (n : Nat) : (BitVec.ofNat 64 (h.errWord n)).toNat = h.errWord n := by
  rw [BitVec.toNat_ofNat, Nat.mod_eq_of_lt (h.errWord_lt n)]

theorem errFields_eq (c n d : Nat) : at_ 0 8 c + at_ 16 16 (sat 16 n) + at_ 32 32 d = c % 2 ^ 8 + min n 0xFFFF * 2 ^ 16 + d % 2 ^ 32 * 2 ^ 32 := by
  simp only [at_, sat]
  omega

/-- A read in an ac without errors returns them all and leaves none. -/
theorem PageHdr.errRead_quiet {h : PageHdr} {ac : Nat} (hac : h.errAc ≠ ac) :
    h.errRead ac = (h.errWord h.errCount, { h with errCode := 0, errCount := 0, errDetail := 0, newCount := 0 }) := by
  simp only [PageHdr.errRead, if_neg hac, Nat.sub_zero, PageHdr.errWord, errFields_eq, if_true]

/-- A read in an ac with errors returns those before it and leaves the new ones (R17). -/
theorem PageHdr.errRead_fresh {h : PageHdr} {ac n : Nat} (hac : h.errAc = ac) (hn : h.newCount = n + 1) :
    h.errRead ac = (h.errWord (h.errCount - (n + 1)), { h with errCode := h.newCode, errCount := n + 1, errDetail := h.newDetail }) := by
  simp only [PageHdr.errRead, if_pos hac, hn, PageHdr.errWord, errFields_eq, Nat.add_one_ne_zero, if_false]

/-- That a page has been served in an ac changes nothing of a read of PAGE_ERR. -/
theorem PageHdr.errRead_servedAt (h : PageHdr) (ac n : Nat) : (h.servedAt n).errRead ac = ((h.errRead ac).1, (h.errRead ac).2.servedAt n) := by
  simp only [PageHdr.errRead]
  rw [apply_ite (PageHdr.servedAt · n)]
  rfl

/-- A header in which the errors of an ac stand apart: one with its code and detail, and `n` after it (R17). -/
def PageHdr.errors (h : PageHdr) (ac code detail n : Nat) : PageHdr :=
  { h.error ac code detail with newCount := n + 1, errCount := h.errCount + (n + 1) }

theorem PageHdr.error_eq_errors {h : PageHdr} {ac : Nat} (hac : h.errAc ≠ ac) (code detail : Nat) :
    h.error ac code detail = h.errors ac code detail 0 := by
  simp [PageHdr.errors, PageHdr.error, hac]

/-- The first error of an ac is the new one, and a further error of that ac only counts. -/
theorem PageHdr.errors_error (h : PageHdr) (ac code detail n code' detail' : Nat) :
    (h.errors ac code detail n).error ac code' detail' = h.errors ac code detail (n + 1) := by
  simp [PageHdr.errors, PageHdr.error, Nat.add_assoc]

theorem PageHdr.errors_foldl (h : PageHdr) (ac code detail n : Nat) (later : List (Nat × Nat)) :
    later.foldl (fun g e => g.error ac e.1 e.2) (h.errors ac code detail n) = h.errors ac code detail (n + later.length) := by
  induction later generalizing n with
  | nil => rfl
  | cons x xs ih => rw [List.foldl_cons, PageHdr.errors_error, ih, List.length_cons, Nat.add_assoc, Nat.add_comm 1]

/-- A read in an ac with errors returns those before it and leaves the new ones (R17). -/
theorem PageHdr.errRead_errors {h : PageHdr} {ac : Nat} (hac : h.errAc ≠ ac) (code detail n : Nat) :
    ((h.errors ac code detail n).errRead ac).1 = h.errWord h.errCount ∧ ((h.errors ac code detail n).errRead ac).2.errCount = n + 1 ∧
      ((h.errors ac code detail n).errRead ac).2.errCode = code ∧ ((h.errors ac code detail n).errRead ac).2.errDetail = detail % 2 ^ 32 := by
  have hword : (h.errors ac code detail n).errWord h.errCount = h.errWord h.errCount := by
    by_cases hz : h.errCount = 0 <;> simp [PageHdr.errWord, PageHdr.errors, PageHdr.error, hz]
  have hcount : (h.errors ac code detail n).errCount - (n + 1) = h.errCount := Nat.add_sub_cancel ..
  rw [PageHdr.errRead_fresh (ac := ac) (n := n) rfl rfl, hcount, hword]
  simp [PageHdr.errors, PageHdr.error, hac]

@[simp] theorem State.setPage_page_self (s : State) (p : Fin 64) : s.setPage p (s.page p) = s := by
  simp [State.setPage, State.page]

@[simp] theorem State.setPage_setPage (s : State) (p : Fin 64) (g h : PageHdr) : (s.setPage p g).setPage p h = s.setPage p h := by
  simp [State.setPage]

theorem State.pageError_foldl (s : State) (p : Fin 64) (es : List (Nat × Nat)) :
    es.foldl (fun u e => u.pageError p e.1 e.2) s = s.setPage p (es.foldl (fun g e => g.error s.time.ac e.1 e.2) (s.page p)) := by
  induction es generalizing s with
  | nil => exact (State.setPage_page_self s p).symm
  | cons x xs ih =>
    rw [List.foldl_cons, List.foldl_cons, ih, State.pageError, State.page_setPage_same, State.setPage_time, State.setPage_setPage]

theorem exec_pageErrRead {p : Priv} {q : Fin 64} {s : State} (hp : p ≠ .tenant ∨ (slotOfPage q.val).isSome = true)
    (hs : (s.page q).served ≠ some s.time.ac) : exec (.pageErrRead p q) s = .next ((s.accessed q).readErr q) :=
  congrArg Host.Outcome.next (State.registerRead_of_allowed (a := access p q 0x038) (refusal_access_of_allowed rfl hp) hs)

theorem State.readErr_accessed_page_same (s : State) (q : Fin 64) :
    ((s.accessed q).readErr q).page q = ((s.page q).errRead s.time.ac).2.servedAt s.time.ac := by
  refine (State.page_setPage_same _ q _).trans ?_
  rw [State.accessed_page_same]
  exact congrArg Prod.snd (PageHdr.errRead_servedAt _ _ _)

theorem State.readErr_accessed_readData (s : State) (q : Fin 64) :
    ((s.accessed q).readErr q).readData = BitVec.ofNat 64 ((s.page q).errRead s.time.ac).1 := by
  refine congrArg (BitVec.ofNat 64) ?_
  rw [State.accessed_page_same]
  exact congrArg Prod.fst (PageHdr.errRead_servedAt _ _ _)

/-- Where no error of this ac is recorded, PAGE_ERR_READ returns PAGE_ERR and clears it. -/
theorem pageErrRead_quiet {p : Priv} {q : Fin 64} {s : State} (hp : p ≠ .tenant ∨ (slotOfPage q.val).isSome = true)
    (hs : (s.page q).served ≠ some s.time.ac) (hac : (s.page q).errAc ≠ s.time.ac) :
    ∃ t, exec (.pageErrRead p q) s = .next t ∧ t.readData.toNat = (s.page q).errWord (s.page q).errCount ∧
      (t.page q).errCount = 0 ∧ (t.page q).errCode = 0 ∧ (t.page q).errDetail = 0 ∧ t = { s with pages := t.pages, readData := t.readData } := by
  refine ⟨_, exec_pageErrRead hp hs, ?_, ?_⟩
  · rw [State.readErr_accessed_readData, PageHdr.errRead_quiet hac, PageHdr.toNat_errWord]
  · rw [State.readErr_accessed_page_same, PageHdr.errRead_quiet hac]
    exact ⟨rfl, rfl, rfl, rfl⟩

/-- Errors of one ac on a page that had none in it. -/
theorem State.pageError_foldl_errors {s : State} {q : Fin 64} (hac : (s.page q).errAc ≠ s.time.ac) (code detail : Nat) (later : List (Nat × Nat)) :
    later.foldl (fun u e => u.pageError q e.1 e.2) (s.pageError q code detail) =
      s.setPage q ((s.page q).errors s.time.ac code detail later.length) := by
  rw [State.pageError_foldl]
  simp only [State.pageError, State.page_setPage_same, State.setPage_time, State.setPage_setPage, PageHdr.error_eq_errors hac,
    PageHdr.errors_foldl, Nat.zero_add]

/-- Where errors of this ac are recorded, PAGE_ERR_READ returns PAGE_ERR before them and keeps them (R17). -/
theorem pageErrRead_fresh {p : Priv} {q : Fin 64} {s : State} (hp : p ≠ .tenant ∨ (slotOfPage q.val).isSome = true)
    (hs : (s.page q).served ≠ some s.time.ac) (hac : (s.page q).errAc ≠ s.time.ac) (code detail : Nat) (later : List (Nat × Nat)) :
    ∃ t, exec (.pageErrRead p q) (later.foldl (fun u e => u.pageError q e.1 e.2) (s.pageError q code detail)) = .next t ∧
      t.readData.toNat = (s.page q).errWord (s.page q).errCount ∧
      (t.page q).errCount = later.length + 1 ∧ (t.page q).errCode = code ∧ (t.page q).errDetail = detail % 2 ^ 32 := by
  obtain ⟨hword, hcount, hcode, hdetail⟩ := PageHdr.errRead_errors hac code detail later.length
  rw [State.pageError_foldl_errors hac]
  refine ⟨_, exec_pageErrRead hp ?_, ?_, ?_⟩
  · rw [State.page_setPage_same]; exact hs
  · rw [State.readErr_accessed_readData, State.page_setPage_same, State.setPage_time, hword, PageHdr.toNat_errWord]
  · rw [State.readErr_accessed_page_same, State.page_setPage_same, State.setPage_time]
    exact ⟨hcount, hcode, hdetail⟩

/-- The larger peaks, place by place (R503). -/
def Peaks.top (a b : Peaks) : Peaks := ⟨max a.horizon b.horizon, max a.inlet b.inlet, max a.pool b.pool⟩

theorem Peaks.top_foldl (ps : List Peaks) (p : Peaks) :
    ps.foldl Peaks.top p = ⟨(ps.map (·.horizon)).foldl max p.horizon, (ps.map (·.inlet)).foldl max p.inlet, (ps.map (·.pool)).foldl max p.pool⟩ := by
  induction ps generalizing p with
  | nil => rfl
  | cons x xs ih => exact ih (p.top x)

theorem Peaks.word_lt (p : Peaks) : p.word < 2 ^ 64 := by
  simp only [Peaks.word, at_]
  omega

theorem Peaks.toNat_word (p : Peaks) : (BitVec.ofNat 64 p.word).toNat = p.word := by
  rw [BitVec.toNat_ofNat, Nat.mod_eq_of_lt p.word_lt]

/-- The observation unit in an ac with peaks of its own, apart from those before it (R17, R503). -/
def ObsUnit.withPeaks (o : ObsUnit) (ac : Nat) (p : Peaks) : ObsUnit := { o with peaks := o.peakRead ac, peakAc := ac, newPeaks := p }

theorem ObsUnit.peakRead_withPeaks (o : ObsUnit) (ac : Nat) (p : Peaks) : (o.withPeaks ac p).peakRead ac = o.peakRead ac := if_pos rfl

/-- The first peak of an ac settles those before it. -/
theorem State.peak_first {s : State} (hon : s.obs.run = .on) (hac : s.obs.peakAc ≠ s.time.ac) (p : Peaks) :
    s.peak p = { s with obs := s.obs.withPeaks s.time.ac p } := by
  rw [State.peak, if_pos hon]
  refine congrArg (fun o => ({ s with obs := o } : State)) ((if_neg hac).trans ?_)
  rw [ObsUnit.withPeaks, ObsUnit.peakRead, if_neg hac]

/-- A further peak of the ac is taken into those of the ac. -/
theorem State.peak_further {s : State} (hon : s.obs.run = .on) (p x : Peaks) :
    ({ s with obs := s.obs.withPeaks s.time.ac p } : State).peak x = { s with obs := s.obs.withPeaks s.time.ac (p.top x) } := by
  have hon' : (s.obs.withPeaks s.time.ac p).run = .on := hon
  rw [State.peak, if_pos hon']
  exact congrArg (fun o => ({ s with obs := o } : State)) (if_pos rfl)

theorem State.peak_foldl {s : State} (hon : s.obs.run = .on) (p : Peaks) (later : List Peaks) :
    later.foldl State.peak { s with obs := s.obs.withPeaks s.time.ac p } = { s with obs := s.obs.withPeaks s.time.ac (later.foldl Peaks.top p) } := by
  induction later generalizing p with
  | nil => rfl
  | cons x xs ih => rw [List.foldl_cons, State.peak_further hon, ih]; rfl

theorem State.readPeak_readData (s : State) : s.readPeak.readData = BitVec.ofNat 64 (s.obs.peakRead s.time.ac).word := rfl

/-- A read of OBS_PEAK in an ac with peaks returns those before it, and leaves the new ones (R17). -/
theorem State.readPeak_withPeaks {s : State} {o : ObsUnit} {p : Peaks} (h : s.obs = o.withPeaks s.time.ac p) :
    s.readPeak.readData = BitVec.ofNat 64 (o.peakRead s.time.ac).word ∧ s.readPeak.obs.peakRead (s.time.ac + 1) = p := by
  refine ⟨?_, ?_⟩
  · rw [State.readPeak_readData, h, ObsUnit.peakRead_withPeaks]
  · rw [State.readPeak, h]
    simp [ObsUnit.peakRead, ObsUnit.withPeaks]

theorem exec_obsPeakRead {p : Priv} {s : State} (hp : p ≠ .tenant) (hs : (s.page 0x32).served ≠ some s.time.ac) :
    exec (.obsPeakRead p) s = .next (s.accessed 0x32).readPeak :=
  congrArg Host.Outcome.next (State.registerRead_of_allowed (a := access p 0x32 0x058) (refusal_access_of_allowed rfl (.inl hp)) hs)

/-- Where no peak of this ac is recorded, OBS_PEAK_READ returns the peaks and clears them. -/
theorem obsPeakRead_quiet {p : Priv} {s : State} (hp : p ≠ .tenant) (hs : (s.page 0x32).served ≠ some s.time.ac)
    (hac : s.obs.peakAc ≠ s.time.ac) :
    ∃ t, exec (.obsPeakRead p) s = .next t ∧ t.readData.toNat = (s.obs.peakRead s.time.ac).word ∧ t.obs.peaks = {} ∧ t.obs.newPeaks = {} ∧
      t = { s with pages := t.pages, readData := t.readData, obs := t.obs } := by
  refine ⟨_, exec_obsPeakRead hp hs, ?_, rfl, if_neg hac, rfl⟩
  rw [State.readPeak_readData, State.accessed_obs, State.accessed_time, Peaks.toNat_word]

/-- Where peaks of this ac are recorded, OBS_PEAK_READ returns those before them and keeps the new ones (R17). -/
theorem obsPeakRead_fresh {p : Priv} {s : State} (hp : p ≠ .tenant) (hs : (s.page 0x32).served ≠ some s.time.ac)
    (hac : s.obs.peakAc ≠ s.time.ac) (hon : s.obs.run = .on) (first : Peaks) (later : List Peaks) :
    ∃ t, exec (.obsPeakRead p) (later.foldl State.peak (s.peak first)) = .next t ∧ t.readData.toNat = (s.obs.peakRead s.time.ac).word ∧
      t.obs.peakRead (s.time.ac + 1) = later.foldl Peaks.top first := by
  rw [State.peak_first hon hac, State.peak_foldl hon]
  obtain ⟨hdata, hpeak⟩ := State.readPeak_withPeaks (s := State.accessed { s with obs := s.obs.withPeaks s.time.ac (later.foldl Peaks.top first) } 0x32) rfl
  refine ⟨_, exec_obsPeakRead hp hs, ?_, hpeak⟩
  rw [hdata, State.accessed_time, Peaks.toNat_word]

/-- Settles O55: each of the two registers in an ac without updates and in one with any number of them. -/
theorem readClears : Obligations.ReadClears := by
  intro p s
  refine ⟨fun q hp hs hac => ⟨pageErrRead_quiet hp hs hac, fun code detail later => pageErrRead_fresh hp hs hac code detail later⟩,
    fun hp hs hac => ⟨obsPeakRead_quiet hp hs hac, fun first later hon => ?_⟩⟩
  obtain ⟨t, he, hd, hpeak⟩ := obsPeakRead_fresh hp hs hac hon first later
  rw [Peaks.top_foldl] at hpeak
  exact ⟨t, he, hd, congrArg Peaks.horizon hpeak, congrArg Peaks.inlet hpeak, congrArg Peaks.pool hpeak⟩

/-! ### Pages switched on and off: PageSwitch -/

/-- Enabling page 0x30 leaves the enable pending where the page is OFF or DRAINING (R473). -/
theorem State.enablePage_obs (s : State) : s.enablePage 0x30 =
    { s with obsEnable := true, obsEnablePending := s.obsEnablePending || (s.obs.run != .on && s.obs.run != .starting) } := by
  unfold State.enablePage
  cases s.obs.run <;> rfl

/-- Enabling page 0x38 does so once the image is in (R473, R507). -/
theorem State.enablePage_ext (s : State) : s.enablePage 0x38 =
    { s with extEnable := true, extEnablePending := s.extEnablePending || (s.config.isSome && (s.extRun != .on && s.extRun != .starting)) } := by
  unfold State.enablePage
  cases s.extRun <;> rfl

/-- No other page can be switched (R472). -/
theorem State.enablePage_other (s : State) {n : Nat} (ho : n ≠ 0x30) (he : n ≠ 0x38) : s.enablePage n = s := by
  unfold State.enablePage
  split
  · exact absurd rfl ho
  · exact absurd rfl he
  · rfl

theorem State.disablePage_other (s : State) {n : Nat} (ho : n ≠ 0x30) (he : n ≠ 0x38) : s.disablePage n = s := by
  unfold State.disablePage
  split
  · exact absurd rfl ho
  · exact absurd rfl he
  · rfl

section
variable {p : Priv} {q : Fin 64} {s : State} (hp : p ≠ .tenant) (hq : pageReserved q.val = false) (hs : (s.page q).served ≠ some s.time.ac)
include hp hq hs

theorem exec_pageEnable : exec (.pageEnable p q) s = .next ((s.accessed q).enablePage q.val) :=
  congrArg Host.Outcome.next (State.registerWrite_header (off := 0x010) rfl (by decide) hp hq hs 1)

theorem exec_pageDisable : exec (.pageDisable p q) s = .next ((s.accessed q).disablePage q.val) :=
  congrArg Host.Outcome.next (State.registerWrite_header (off := 0x010) rfl (by decide) hp hq hs 0)

/-- EVT_FORCE sets the events that its page defines (R475). -/
theorem exec_evtForce (v : Word) : exec (.evtForce p q v) s =
    .next ((s.accessed q).setPage q (((s.page q).servedAt s.time.ac).force q.val (v.setWidth 32))) := by
  have h := State.registerWrite_header (off := 0x030) rfl (by decide) hp hq hs v
  rw [State.writeHeader, State.accessed_page_same] at h
  exact congrArg Host.Outcome.next h

end

/-- A disable is taken at a tick start: the page drains if it is ON, and else stays as it is (R466, R473). -/
theorem pageDisables_run {enable : Bool} {r : PageRun} (ends : Nat) :
    (enable = false → r = .on → (if !enable && r == .on then PageRun.draining ends else r) = .draining ends) ∧
      (enable = true ∨ r ≠ .on → (if !enable && r == .on then PageRun.draining ends else r) = r) := by
  refine ⟨fun he hr => by simp [he, hr], ?_⟩
  rintro (he | hr)
  · simp [he]
  · simp [hr]

/-- A drain of page 0x30 ends at its time and not before (R473). -/
theorem pageDrainEnd_obs {s : State} {e : Nat} (h : s.obs.run = .draining e) : s.pageDrainEnd 0x30 =
    if e ≤ s.time.ac then { s with obs := { s.obs with run := .off } } else s := by
  simp only [State.pageDrainEnd, h]

/-- A drain of page 0x38 ends with the pulse on XTRIG_OUT and not before (R473, R508). -/
theorem pageDrainEnd_ext {s : State} {e : Nat} (h : s.extRun = .draining e) : s.pageDrainEnd 0x38 =
    if max e (s.ext.outUntil.getD 0) ≤ s.time.ac then { s with extRun := .off, ext := { s.ext with outUntil := none } } else s := by
  simp only [State.pageDrainEnd, h]

/-- A tenant's enable or disable is a privilege error on every page (R14). -/
theorem pageSwitch_tenant {q : Fin 64} {i : Instr} {s : State} (hi : i ∈ [Instr.pageEnable .tenant q, .pageDisable .tenant q])
    (hs : (s.page q).served ≠ some s.time.ac) :
    ∃ t, exec i s = .next t ∧ t = { s with pages := t.pages } ∧ OnlyError q s t ∧ ((s.page q).errCount = 0 → (t.page q).errCode = 0x02) := by
  have hrow : i ∈ [Instr.evtRawClear .tenant q 0, .evtForce .tenant q 0, .pageEnable .tenant q, .pageDisable .tenant q] :=
    List.mem_cons_of_mem _ (List.mem_cons_of_mem _ hi)
  obtain ⟨off, w, ha, ho, he⟩ := exec_header_row hrow s
  rw [State.registerWrite_header_tenant ha ho hs] at he
  exact ⟨_, he, rfl, s.accessError_accessed_onlyError q 0x02 .tenant off, fun h => State.accessError_accessed_code h _ _ _⟩

/-- Settles O53: an enable and a disable by page, the tick start, the drain's end, the tenant's error, and EVT_FORCE. -/
theorem pageSwitch : Obligations.PageSwitch := by
  refine ⟨fun s => ⟨fun p hp => ⟨fun hs => ⟨?_, ?_⟩, fun hs => ⟨?_, ?_⟩, fun q hq ho he hs => ⟨?_, ?_⟩⟩, ⟨_, rfl, rfl, ?_⟩,
    fun e h => ⟨fun hle => ?_, fun hlt => ?_⟩, fun e h => ⟨fun hle => ?_, fun hlt => ?_⟩,
    fun q i hi _ hs => pageSwitch_tenant hi hs⟩, fun p q v s hp hq hs => ⟨_, exec_evtForce hp hq hs v, rfl, fun r hr => ?_, ?_⟩⟩
  · exact (exec_pageEnable hp rfl hs).trans (congrArg Host.Outcome.next (State.enablePage_obs _))
  · exact exec_pageDisable hp rfl hs
  · exact (exec_pageEnable hp rfl hs).trans (congrArg Host.Outcome.next (State.enablePage_ext _))
  · exact exec_pageDisable hp rfl hs
  · rw [exec_pageEnable hp hq hs, State.enablePage_other _ (Fin.val_ne_of_ne ho) (Fin.val_ne_of_ne he)]
  · rw [exec_pageDisable hp hq hs, State.disablePage_other _ (Fin.val_ne_of_ne ho) (Fin.val_ne_of_ne he)]
  · obtain ⟨hod, hos⟩ := pageDisables_run (enable := s.obsEnable) (r := s.obs.run) (s.time.ac + 64)
    obtain ⟨hed, hes⟩ := pageDisables_run (enable := s.extEnable) (r := s.extRun) (s.ext.outUntil.getD s.time.ac)
    exact ⟨hod, hos, hed, hes⟩
  · exact congrArg Host.Outcome.next ((pageDrainEnd_obs h).trans (if_pos hle))
  · exact congrArg Host.Outcome.next ((pageDrainEnd_obs h).trans (if_neg (Nat.not_le.mpr hlt)))
  · exact congrArg Host.Outcome.next ((pageDrainEnd_ext h).trans (if_pos hle))
  · exact congrArg Host.Outcome.next ((pageDrainEnd_ext h).trans (if_neg (Nat.not_le.mpr hlt)))
  · exact (State.page_setPage_other _ _ hr).trans (State.accessed_page_other s hr)
  · rw [State.page_setPage_same]
    exact ⟨rfl, rfl, rfl⟩

end Sys2Proof.Machine
end

section
/-! SUPPORT. The clearing of a fence (R396, R464): what FENCE_CLEAR asks for, and what stands after FENCE_CLEAR_DONE. -/

namespace Sys2Proof.Machine

/-! ### What the weirs leave alone -/

/-- The parts of the die that the weirs of the inlet and the horizon queue never write: start-up, safety, the sluice, the steward and the time unit. -/
def State.standing (s : State) : Boot × Safety × Sluice × Steward × TimeUnit := (s.boot, s.safety, s.sluice, s.steward, s.time)

theorem State.peak_rest (s : State) (p : Peaks) : s.peak p = { s with obs := (s.peak p).obs } := by
  unfold State.peak
  split <;> rfl

@[simp] theorem State.peak_standing (s : State) (p : Peaks) : (s.peak p).standing = s.standing := by rw [State.peak_rest]; rfl
@[simp] theorem State.peak_ctxs (s : State) (p : Peaks) : (s.peak p).ctxs = s.ctxs := by rw [State.peak_rest]

/-- The weirs of the inlet raise an event at most, and else write flags and peaks. -/
theorem State.inletWeirs_part {α : Type} (f : State → α) (hr : ∀ s, f (s.raise 0x20 1) = f s) (hp : ∀ s p, f (State.peak s p) = f s)
    (hu : ∀ (s : State) a b c d, f { s with inletStalled := a, inletQuotaStalled := b, beInletStalled := c, beInletDelay := d } = f s) (s : State) :
    f s.inletWeirs = f s := by
  unfold State.inletWeirs
  extract_lets total pool be quota beNow die s1
  have h1 : f s1 = f s := by
    unfold s1
    split
    · exact hr s
    · rfl
  exact (hp _ _).trans ((hu _ _ _ _ _).trans h1)

@[simp] theorem State.inletWeirs_standing (s : State) : s.inletWeirs.standing = s.standing :=
  State.inletWeirs_part State.standing (fun _ => rfl) State.peak_standing (fun _ _ _ _ _ => rfl) s

@[simp] theorem State.inletWeirs_ctxs (s : State) : s.inletWeirs.ctxs = s.ctxs :=
  State.inletWeirs_part State.ctxs (fun _ => rfl) State.peak_ctxs (fun _ _ _ _ _ => rfl) s

/-- The contexts of `t` are those of `s`, but for the ac at which a wait for horizon credits began (R440). -/
def CreditsSince (s t : State) : Prop := ∀ k, ∃ n, t.ctx k = (s.ctx k).creditsSince n

theorem CreditsSince.of_ctxs {s t : State} (h : t.ctxs = s.ctxs) : CreditsSince s t := fun k => ⟨(s.ctx k).began.credits, State.ctx_congr h k⟩

theorem CreditsSince.trans {s t u : State} (h : CreditsSince s t) (g : CreditsSince t u) : CreditsSince s u := fun k => by
  obtain ⟨m, hm⟩ := h k
  obtain ⟨n, hn⟩ := g k
  exact ⟨n, by rw [hn, hm]; rfl⟩

theorem CreditsSince.foldl {α : Type} {f : State → α → State} (hf : ∀ s x, CreditsSince s (f s x)) (l : List α) (s : State) :
    CreditsSince s (l.foldl f s) := by
  induction l generalizing s with
  | nil => exact .of_ctxs rfl
  | cons x xs ih => exact (hf s x).trans (ih _)

theorem State.markCredits_creditsSince (s old : State) : CreditsSince s (s.markCredits old) := by
  refine CreditsSince.foldl (fun u k j => ?_) _ s
  by_cases hj : j = k
  · subst hj
    exact ⟨u.time.ac, State.ctx_modCtx_same _ _ _⟩
  · exact ⟨(u.ctx j).began.credits, State.ctx_modCtx_other _ _ hj⟩

theorem State.markCredits_standing (s old : State) : (s.markCredits old).standing = s.standing := by
  refine foldl_part State.standing ?_ _ s
  exact fun _ _ => rfl

@[simp] theorem State.horizonWeirs_standing (s : State) : s.horizonWeirs.standing = s.standing := by
  unfold State.horizonWeirs
  extract_lets
  exact (State.peak_standing _ _).trans (State.markCredits_standing _ _)

theorem State.horizonWeirs_creditsSince (s : State) : CreditsSince s s.horizonWeirs := by
  unfold State.horizonWeirs
  extract_lets total pool be quota beNow full now
  have hnow : CreditsSince s now := .of_ctxs rfl
  exact (hnow.trans (State.markCredits_creditsSince now s)).trans (.of_ctxs (State.peak_ctxs _ _))

/-! ### FENCE_CLEAR_DONE -/

theorem foldl_modCore_part {α : Type} (p : State → α) (hp : ∀ s l f, p (State.modCore s l f) = p s) (f : Core → Core) (ls : List (Fin 64)) (s : State) :
    p (ls.foldl (fun s l => s.modCore l f) s) = p s :=
  foldl_part p (fun s l => hp s l f) ls s

/-- What stands after a clear whose checks all passed: the fence has ended, stages 4 and 5 have passed, and the time of READY is anew (R464). -/
theorem State.unfence_standing (s : State) : ∃ gtc, s.unfence.standing =
    ({ s.boot with clearing := false, selfTest := true, scrub := true, readyGtc := gtc }, { s.safety with fenced := false, timeFault := false },
      { s.sluice with windowState := if s.boot.ready then 1 else 0 }, s.steward, s.time) := by
  unfold State.unfence
  extract_lets free _ _ _ s1 s2 s3
  have h2 : s2.standing = s1.standing := foldl_modCore_part State.standing (fun _ _ _ => rfl) _ free s1
  have h3 : s3.standing = s1.standing :=
    ((State.horizonWeirs_standing _).trans (State.inletWeirs_standing _)).trans h2
  obtain ⟨hboot, hrest⟩ := Prod.ext_iff.mp h3
  clear_value s3
  split
  · exact ⟨s3.tickGtc, Prod.ext (congrArg (fun b : Boot => { b with readyGtc := s3.tickGtc }) hboot) hrest⟩
  · exact ⟨s.boot.readyGtc, h3⟩

/-- No context changes, but for the ac at which a wait for horizon credits began. -/
theorem State.unfence_creditsSince (s : State) : CreditsSince s s.unfence := by
  unfold State.unfence
  extract_lets free _ _ _ s1 s2 s3
  have h2 : s2.ctxs = s.ctxs := foldl_modCore_part State.ctxs (fun _ _ _ => rfl) _ free s1
  have h3 : CreditsSince s s3 := (CreditsSince.of_ctxs ((State.inletWeirs_ctxs _).trans h2)).trans (State.horizonWeirs_creditsSince _)
  clear_value s3
  refine h3.trans (.of_ctxs ?_)
  split <;> rfl

/-- A clear ends: the fence where every check passed, and else only the clear. -/
theorem State.fenceClearDone_cases {s : State} (hc : s.boot.clearing = true) (rails comps : Bool) (secded bad : Option (Nat × Nat)) (store : Bool) :
    s.fenceClearDone rails comps secded bad store =
      if (rails && comps && secded.isNone && bad.isNone && store) = true then s.unfence else s.stayFenced !store := by
  rw [State.fenceClearDone, if_neg (by simp [hc])]

/-- Where every check passed the fence ends, and the stages of start-up stand as passed (R464). -/
theorem fenceClearDone_passed {s : State} (hc : s.boot.clearing = true) :
    ∃ t, exec (.fenceClearDone true true none none true) s = .next t ∧ t.safety.fenced = false ∧ t.boot.clearing = false ∧
      t.boot.selfTest = true ∧ t.boot.scrub = true ∧ t.boot.configured = s.boot.configured ∧ t.boot.topology = s.boot.topology ∧
      t.boot.ready = s.boot.ready ∧ t.boot.key = s.boot.key ∧ t.steward.privateKey = s.steward.privateKey ∧
      t.sluice.windowState = (if s.boot.ready then 1 else 0) ∧ (∀ k, ∃ n, t.ctx k = (s.ctx k).creditsSince n) ∧ t.time = s.time := by
  have he := State.fenceClearDone_cases hc true true none none true
  obtain ⟨gtc, hs⟩ := s.unfence_standing
  simp only [State.standing, Prod.mk.injEq] at hs
  obtain ⟨hboot, hsafety, hsluice, hsteward, htime⟩ := hs
  refine ⟨s.unfence, congrArg Host.Outcome.next (he.trans (if_pos rfl)), ?_⟩
  rw [hboot, hsafety, hsluice, hsteward, htime]
  exact ⟨rfl, rfl, rfl, rfl, rfl, rfl, rfl, rfl, rfl, rfl, s.unfence_creditsSince, rfl⟩

/-- Where a check failed the die stays fenced, and a further die fault record with the fence's code is filed (R396). -/
theorem fenceClearDone_failed {s : State} (hc : s.boot.clearing = true) (hf : s.safety.fenced = true) {rails comps : Bool}
    {secded bad : Option (Nat × Nat)} {store : Bool} (h : (rails && comps && secded.isNone && bad.isNone && store) = false) :
    ∃ t r f, exec (.fenceClearDone rails comps secded bad store) s = .next t ∧ t.safety.fenced = true ∧ t.boot.clearing = false ∧
      t.safety.powerOnly = (s.safety.powerOnly || !store) ∧ t.sluice.due = s.sluice.due ++ [r] ∧ r.kind = 8 ∧ r.ctx = none ∧
      r.fault = some f ∧ f.code = s.safety.fenceCode ∧ f.scope = 2 := by
  have he := (State.fenceClearDone_cases hc rails comps secded bad store).trans (if_neg (by simp [h]))
  exact ⟨_, _, _, congrArg Host.Outcome.next he, hf, rfl, rfl, rfl, rfl, rfl, rfl, rfl, rfl⟩

/-! ### FENCE_CLEAR -/

/-- FENCE_CLEAR that may run notes that stages 4 and 5 run again (R464). -/
theorem State.clearFence_runs {s : State} {p : Priv} (hp : p ≠ .tenant) (hf : s.safety.fenced = true) (ho : s.safety.powerOnly = false)
    (hk : s.boot.key ≠ some false) : s.clearFence p = { s with boot := { s.boot with clearing := true } } := by
  simp [State.clearFence, hp, hf, ho, hk]

/-- FENCE_CLEAR by the tenant, or on a die that is not fenced, is an error of the access (R14, R476). -/
theorem State.clearFence_refused {s : State} {p : Priv} (h : p = .tenant ∨ s.safety.fenced = false) :
    s.clearFence p = s.accessError 0x34 (if p = .tenant then 0x02 else 0x05) p 0x040 := by
  rcases h with rfl | hf
  · rfl
  · by_cases hp : p = .tenant
    · simp [State.clearFence, hp]
    · simp [State.clearFence, hp, hf]

theorem exec_fenceClear {s : State} (hs : (s.page 0x34).served ≠ some s.time.ac) (p : Priv) :
    exec (.fenceClear p) s = .next ((s.accessed 0x34).clearFence p) :=
  congrArg (fun u : State => Host.Outcome.next (u.clearFence p)) (State.serve_of_free hs)

/-- Settles O13: FENCE_CLEAR by who asks and on which die, and FENCE_CLEAR_DONE by whether every check passed. -/
theorem fenceClear : Obligations.FenceClear := by
  refine ⟨fun p s hs => ⟨fun hp hf ho hk => ?_, fun h => ?_⟩,
    fun s hc hf => ⟨fenceClearDone_passed hc, fun _ _ _ _ _ h => fenceClearDone_failed hc hf h⟩⟩
  · refine ⟨_, (exec_fenceClear hs p).trans (congrArg Host.Outcome.next (State.clearFence_runs (s := s.accessed 0x34) hp hf ho hk)), rfl, rfl, ?_⟩
    exact (congrArg PageHdr.errCount (s.accessed_page_same 0x34)).trans rfl
  · obtain ⟨-, -, -, hcount⟩ := s.accessError_accessed_onlyError 0x34 (if p = .tenant then 0x02 else 0x05) p 0x040
    exact ⟨_, (exec_fenceClear hs p).trans (congrArg Host.Outcome.next (State.clearFence_refused (s := s.accessed 0x34) h)), rfl, hcount,
      fun h => State.accessError_accessed_code h _ _ _⟩

end Sys2Proof.Machine
end

section
/-! SUPPORT. The ends of tasks (R4, R21, R25, R26, R140, R253, R320): a die on which the acknowledgement of a halted core changes more than that core. -/

namespace Sys2Proof.Machine

/-- A freezing context whose seals wait for its last core (R320): core 0 stands halted at its instruction boundary with a task in service,
its engines have not drained yet, and the context has one partner. -/
def sealingState : State :=
  { State.reset with
    ctxs := State.reset.ctxs.set 0
      { phase := .freezing, launched := true, lcids := 1, partners := [0x200], freezeStage := .draining, freezeTick := 8, sealDue := true }
    cores := State.reset.cores.set 0 { e0 := { state := .inService }, halted := true, boundaryReached := true } }

/-- The seals have not gone yet: the core's engines have not drained. -/
theorem sealingState_waits : sealingState.handedOver 0 = false ∧ (sealingState.ctx 0).sealDue = true := by decide +kernel

/-- The acknowledgement that its engines have drained lets the seals go (R320). -/
theorem sealingState_coreAck : ((sealingState.coreAck 0 true).ctx 0).sealDue = false := by decide +kernel

/-- A change of one core leaves the contexts alone. -/
theorem OnlyCore.ctx {l : Fin 64} {s t : State} (h : OnlyCore l s t) (k : Fin 16) : t.ctx k = s.ctx k :=
  State.ctx_congr (congrArg State.ctxs h.rest) k

/-- Refutes O29: the acknowledgement of a halted core lets the seals of a freezing context go, so it changes more than that core. -/
theorem not_taskEnds : ¬ Obligations.TaskEnds := by
  intro h
  obtain ⟨-, -, -, -, hack⟩ := h 0 sealingState
  obtain ⟨t, he, honly, -⟩ := hack rfl true
  obtain rfl : sealingState.coreAck 0 true = t := Host.Outcome.next.inj he
  have hctx := honly.ctx 0
  have hsent := sealingState_coreAck
  rw [hctx, sealingState_waits.2] at hsent
  exact Bool.noConfusion hsent

end Sys2Proof.Machine
end

section
/-! SUPPORT. Stages 1 to 3 of start-up (R444, R460, R461): the bytes of the window that CONFIG_IMAGE writes, and what each refusal of an image leaves. -/

namespace Sys2Proof.Machine

/-! ### Lengths -/

@[simp] theorem leBytes_length (n v : Nat) : (leBytes n v).length = n := by
  induction n generalizing v with
  | zero => rfl
  | succ n ih => simp [leBytes, ih]

@[simp] theorem slice_length (b : Bytes) (off len : Nat) : (slice b off len).length = len := by
  simp only [slice, List.length_append, List.length_replicate, List.length_take]
  omega

@[simp] theorem zeros_length (n : Nat) : (zeros n).length = n := List.length_replicate

@[simp] theorem State.windowHead_length (s : State) : s.windowHead.length = 40 := by
  simp [State.windowHead]

/-! ### Writes within a range -/

/-- `m'` is `m` with bytes written at addresses from `lo` up to `hi`, that address left out, alone. -/
structure Memory.WrittenIn (lo hi : Nat) (m m' : Memory) : Prop where
  wf : Memory.wf m'
  same : ∀ a, a < lo ∨ hi ≤ a → m'.read a = m.read a

theorem Memory.WrittenIn.trans {lo hi : Nat} {m n p : Memory} (h : WrittenIn lo hi m n) (g : WrittenIn lo hi n p) : WrittenIn lo hi m p :=
  ⟨g.wf, fun a ha => (g.same a ha).trans (h.same a ha)⟩

theorem Memory.WrittenIn.mono {lo hi lo' hi' : Nat} {m m' : Memory} (h : WrittenIn lo hi m m') (hl : lo' ≤ lo) (hh : hi ≤ hi') :
    WrittenIn lo' hi' m m' :=
  ⟨h.wf, fun a ha => h.same a (by omega)⟩

theorem Memory.writeBytes_writtenIn {m : Memory} (h : m.wf) {lo hi : Nat} (a : Nat) (x : Bytes) (hl : lo ≤ a) (hh : a + x.length ≤ hi) :
    WrittenIn lo hi m (m.writeBytes a x) :=
  ⟨Memory.wf_writeBytes h a x, fun b hb => Memory.read_writeBytes_other m h a b x (by omega)⟩

theorem Memory.foldl_writtenIn {α : Type} {f : Memory → α → Memory} {lo hi : Nat} {l : List α}
    (hf : ∀ x ∈ l, ∀ m, Memory.wf m → WrittenIn lo hi m (f m x)) {m : Memory} (h : m.wf) : WrittenIn lo hi m (l.foldl f m) := by
  induction l generalizing m with
  | nil => exact ⟨h, fun _ _ => rfl⟩
  | cons x xs ih =>
    have hx := hf x List.mem_cons_self m h
    exact hx.trans (ih (fun y hy => hf y (List.mem_cons_of_mem _ hy)) hx.wf)

/-- Zeros written make their bytes zero and turn no zero byte into another. -/
theorem Memory.read_writeBytes_zeros {m : Memory} (h : m.wf) {a b n : Nat} (hb : m.read b = 0 ∨ (a ≤ b ∧ b < a + n)) :
    (m.writeBytes a (zeros n)).read b = 0 := by
  by_cases hin : a ≤ b ∧ b < a + n
  · obtain ⟨i, rfl⟩ := Nat.exists_eq_add_of_le hin.1
    rw [Memory.read_writeBytes_same m h a i (zeros n) (by rw [zeros_length]; omega)]
    exact List.getElem_replicate _
  · rw [Memory.read_writeBytes_other m h a b (zeros n) (by rw [zeros_length]; omega)]
    exact hb.resolve_right hin

/-- Runs of zeros written at several places. -/
theorem Memory.read_foldl_zeros {place : Nat → Nat} {n b : Nat} (ks : List Nat) {m : Memory} (h : m.wf)
    (hb : m.read b = 0 ∨ ∃ k ∈ ks, place k ≤ b ∧ b < place k + n) :
    (ks.foldl (fun (m : Memory) k => m.writeBytes (place k) (zeros n)) m).read b = 0 := by
  induction ks generalizing m with
  | nil => simpa using hb
  | cons x xs ih =>
    refine ih (Memory.wf_writeBytes h _ _) ?_
    rcases hb with hz | ⟨k, hk, hin⟩
    · exact .inl (Memory.read_writeBytes_zeros h (.inl hz))
    · rcases List.mem_cons.mp hk with rfl | hk
      · exact .inl (Memory.read_writeBytes_zeros h (.inr hin))
      · exact .inr ⟨k, hk, hin⟩

/-! ### The window -/

/-- The fields of the window header lie in its first 112 bytes (R444). -/
theorem State.writeWindow_writtenIn {s : State} (h : s.mem.wf) : Memory.WrittenIn s.cfg.window (s.cfg.window + 112) s.mem s.writeWindow.mem := by
  have h1 := Memory.writeBytes_writtenIn (lo := s.cfg.window) (hi := s.cfg.window + 112) h s.cfg.window s.windowHead (by omega) (by simp)
  have h2 := Memory.writeBytes_writtenIn (lo := s.cfg.window) (hi := s.cfg.window + 112) h1.wf (s.cfg.window + 40) (leBytes 4 s.sluice.head)
    (by omega) (by simp)
  have h3 := Memory.writeBytes_writtenIn (lo := s.cfg.window) (hi := s.cfg.window + 112) h2.wf (s.cfg.window + 48) (leBytes 4 s.steward.areaHead)
    (by omega) (by simp)
  have h4 := Memory.writeBytes_writtenIn (lo := s.cfg.window) (hi := s.cfg.window + 112) h3.wf (s.cfg.window + 56)
    (zeros 8 ++ slice s.cfg.configHash 0 48) (by omega) (by simp)
  unfold State.writeWindow
  dsimp only
  exact ((h1.trans h2).trans h3).trans h4

/-- External memory after the zeros of stage 3: the header's reserved bytes and word 0 of every submission slot (R10, R444).
Sealed, so that no proof runs the writes. -/
@[irreducible] def State.windowZeros (s : State) : Memory :=
  (List.range 16).foldl (fun (m : Memory) k => m.writeBytes (s.cfg.window + 0x1000 + k * 1024) (zeros 8))
    (s.mem.writeBytes (s.cfg.window + 112) (zeros 3984))

theorem State.windowZeros_writtenIn {s : State} (h : s.mem.wf) : Memory.WrittenIn s.cfg.window (s.cfg.window + 0x8000) s.mem s.windowZeros := by
  unfold State.windowZeros
  have h1 := Memory.writeBytes_writtenIn (lo := s.cfg.window) (hi := s.cfg.window + 0x8000) h (s.cfg.window + 112) (zeros 3984) (by omega) (by simp)
  refine h1.trans (Memory.foldl_writtenIn (fun k hk m hm => Memory.writeBytes_writtenIn hm _ _ (by omega) ?_) h1.wf)
  have := List.mem_range.mp hk
  rw [zeros_length]
  omega

theorem State.windowZeros_slot {s : State} (h : s.mem.wf) (k : Fin 16) {i : Nat} (hi : i < 8) :
    s.windowZeros.read (s.cfg.window + 0x1000 + k.val * 1024 + i) = 0 := by
  unfold State.windowZeros
  exact Memory.read_foldl_zeros (place := fun k => s.cfg.window + 0x1000 + k * 1024) _ (Memory.wf_writeBytes h _ _)
    (.inr ⟨k.val, List.mem_range.mpr k.isLt, by omega, by omega⟩)

theorem State.windowZeros_header {s : State} (h : s.mem.wf) {i : Nat} (hl : 112 ≤ i) (hh : i < 4096) : s.windowZeros.read (s.cfg.window + i) = 0 := by
  unfold State.windowZeros
  exact Memory.read_foldl_zeros (place := fun k => s.cfg.window + 0x1000 + k * 1024) _ (Memory.wf_writeBytes h _ _)
    (.inl (Memory.read_writeBytes_zeros h (.inr ⟨by omega, by omega⟩)))

/-- The state of stage 3 before the header's fields are written. -/
def State.windowCleared (s : State) : State :=
  { s with mem := s.windowZeros, sluice := { s.sluice with head := 0, windowState := 0 }, steward := { s.steward with areaHead := 0 } }

theorem State.windowCleared_mem (s : State) : s.windowCleared.mem = s.windowZeros := rfl
theorem State.windowCleared_cfg (s : State) : s.windowCleared.cfg = s.cfg := rfl
theorem State.initWindow_eq (s : State) : s.initWindow = s.windowCleared.writeWindow := by
  unfold State.initWindow State.windowCleared State.windowZeros
  dsimp only

/-- The header's fields go to memory alone. -/
theorem State.writeWindow_mem_only (s : State) : ∃ m, s.writeWindow = { s with mem := m } := ⟨_, rfl⟩

/-- Stage 3 writes the window, its state and the two heads alone. -/
theorem State.initWindow_rest (s : State) : s.initWindow =
    { s with mem := s.initWindow.mem, sluice := { s.sluice with head := 0, windowState := 0 }, steward := { s.steward with areaHead := 0 } } := by
  obtain ⟨m, h⟩ := s.windowCleared.writeWindow_mem_only
  rw [State.initWindow_eq, h]
  rfl

/-- The header is written over the zeros, and reaches none of them. -/
theorem State.initWindow_writtenIn {s : State} (h : s.mem.wf) :
    Memory.WrittenIn s.cfg.window (s.cfg.window + 112) s.windowZeros s.initWindow.mem := by
  have hz : s.windowCleared.mem.wf := by
    rw [State.windowCleared_mem]
    exact (State.windowZeros_writtenIn h).wf
  have hw := State.writeWindow_writtenIn hz
  rwa [State.windowCleared_mem, State.windowCleared_cfg, ← State.initWindow_eq] at hw

/-- Stage 3: word 0 of every slot and the reserved bytes of the header are zero, and nothing outside the window's first 0x8000 bytes changes (R10, R444). -/
theorem State.initWindow_mem {s : State} (h : s.mem.wf) :
    (∀ (k : Fin 16) (i : Nat), i < 8 → s.initWindow.mem.read (s.cfg.window + 0x1000 + k.val * 1024 + i) = 0) ∧
      (∀ i, 112 ≤ i → i < 4096 → s.initWindow.mem.read (s.cfg.window + i) = 0) ∧
      ∀ a, (a < s.cfg.window ∨ s.cfg.window + 0x8000 ≤ a) → s.initWindow.mem.read a = s.mem.read a := by
  have hw := State.initWindow_writtenIn h
  refine ⟨fun k i hi => ?_, fun i hl hh => ?_, fun a ha => ?_⟩
  · rw [hw.same _ (by omega), State.windowZeros_slot h k hi]
  · rw [hw.same _ (by omega), State.windowZeros_header h hl hh]
  · rw [hw.same a (by omega), (State.windowZeros_writtenIn h).same a ha]

/-! ### The image kept or refused -/

section
variable {s : State} (hc : s.config = none) (hf : s.boot.failed = false)
include hc hf

theorem State.configImage_malformed (c : ConfigImage) (o : Nat) (sig chain : Bool) (off : Nat) (fw : Option Nat) :
    s.configImage c (some o) sig chain off fw = s.refuseImage 0x10 o := by
  simp [State.configImage, hc, hf]

theorem State.configImage_signature (c : ConfigImage) (chain : Bool) (off : Nat) (fw : Option Nat) :
    s.configImage c none false chain off fw = s.refuseImage 0x11 0 := by
  simp [State.configImage, hc, hf]

theorem State.configImage_chain (c : ConfigImage) (off : Nat) (fw : Option Nat) :
    s.configImage c none true false off fw = s.refuseImage 0x12 0 := by
  simp [State.configImage, hc, hf]

theorem State.configImage_range {c : ConfigImage} (hr : c.inRange = false) (off : Nat) (fw : Option Nat) :
    s.configImage c none true true off fw = s.refuseImage 0x13 off := by
  simp [State.configImage, hc, hf, hr]

theorem State.configImage_firmware {c : ConfigImage} (hr : c.inRange = true) (off r : Nat) :
    s.configImage c none true true off (some r) = (s.keepImage c).refuseImage 0x14 r := by
  simp [State.configImage, hc, hf, hr]

theorem State.configImage_passed {c : ConfigImage} (hr : c.inRange = true) (off : Nat) :
    s.configImage c none true true off none = (s.keepImage c).startSteward.initWindow := by
  simp [State.configImage, hc, hf, hr]

end

/-- What a refused image leaves: the die stays OFF with the code and the detail in PAGE_ERR of page 0x01, and no window is written (R461, R476). -/
structure ImageRefused (code detail : Nat) (s t : State) : Prop where
  boot : t.boot = { s.boot with failed := true }
  count : (t.page 0x01).errCount = (s.page 0x01).errCount + 1
  first : (s.page 0x01).errCount = 0 → (t.page 0x01).errCode = code ∧ (t.page 0x01).errDetail = detail % 2 ^ 32
  pages : ∀ p, p ≠ 0x01 → t.page p = s.page p
  rest : t.mem = s.mem ∧ t.ctxs = s.ctxs ∧ t.sluice = s.sluice ∧ t.steward = s.steward

theorem State.refuseImage_refused (s : State) (code detail : Nat) : ImageRefused code detail s (s.refuseImage code detail) where
  boot := rfl
  count := by
    rw [State.refuseImage, State.pageError, State.page_setPage_same]
    rfl
  first := fun h => by
    rw [State.refuseImage, State.pageError, State.page_setPage_same]
    exact ⟨if_pos h, if_pos h⟩
  pages := fun p hp => State.page_setPage_other _ _ hp
  rest := ⟨rfl, rfl, rfl, rfl⟩

/-- The outcome of an image whose first failing check has a code: refused as it is, or, for the firmware's, once kept. -/
theorem State.configImage_refused {s : State} (hc : s.config = none) {c : ConfigImage} {malformed : Option Nat}
    {sig chain : Bool} {off : Nat} {fw : Option Nat} {code detail : Nat}
    (h : s.configImage c malformed sig chain off fw = s.refuseImage code detail ∨
      (code = 0x14 ∧ s.configImage c malformed sig chain off fw = (s.keepImage c).refuseImage code detail)) :
    ImageRefused code detail s (s.configImage c malformed sig chain off fw) ∧
      (code ≠ 0x14 → (s.configImage c malformed sig chain off fw).config = none) := by
  rcases h with h | ⟨hcode, h⟩
  · rw [h]
    exact ⟨s.refuseImage_refused code detail, fun _ => hc⟩
  · rw [h]
    exact ⟨⟨rfl, (State.refuseImage_refused _ code detail).count, (State.refuseImage_refused _ code detail).first,
      (State.refuseImage_refused _ code detail).pages, rfl, rfl, rfl, rfl⟩, fun hne => absurd hcode hne⟩

/-- Settles O8: the parts of the state an image that passes writes, and the refusal by the first check that fails. -/
theorem stageOne : Obligations.StageOne := by
  refine ⟨fun c off s hc hf hr => ?_, fun c malformed sig chain off fw s code detail hc hf h => ?_⟩
  · have hrest := ((s.keepImage c).startSteward).initWindow_rest
    have hmem := fun hm => State.initWindow_mem (s := (s.keepImage c).startSteward) hm
    refine ⟨_, congrArg Host.Outcome.next (State.configImage_passed hc hf hr off), ?_⟩
    generalize ((s.keepImage c).startSteward).initWindow = t at hrest hmem ⊢
    rw [hrest]
    exact ⟨rfl, rfl, rfl, rfl, rfl, rfl, rfl, rfl, hmem, rfl⟩
  · have hcase : s.configImage c malformed sig chain off fw = s.refuseImage code detail ∨
        (code = 0x14 ∧ s.configImage c malformed sig chain off fw = (s.keepImage c).refuseImage code detail) := by
      cases malformed with
      | some o =>
        obtain ⟨rfl, rfl⟩ := h
        exact .inl (State.configImage_malformed hc hf c _ sig chain off fw)
      | none =>
        cases sig with
        | false =>
          obtain ⟨rfl, rfl⟩ := h
          exact .inl (State.configImage_signature hc hf c chain off fw)
        | true =>
          cases chain with
          | false =>
            obtain ⟨rfl, rfl⟩ := h
            exact .inl (State.configImage_chain hc hf c off fw)
          | true =>
            cases hr : c.inRange with
            | false =>
              obtain ⟨rfl, rfl⟩ : code = 0x13 ∧ detail = off := by simpa [hr] using h
              exact .inl (State.configImage_range hc hf hr _ fw)
            | true =>
              obtain ⟨rfl, rfl⟩ : code = 0x14 ∧ fw = some detail := by simpa [hr] using h
              exact .inr ⟨rfl, State.configImage_firmware hc hf hr off detail⟩
    obtain ⟨⟨hboot, hcount, hfirst, hpages, hmem, hctxs, hsluice, hsteward⟩, hconfig⟩ := State.configImage_refused hc hcase
    exact ⟨_, rfl, hboot, hcount, hfirst, hpages, hmem, hctxs, hsluice, hsteward, hconfig⟩

end Sys2Proof.Machine
end

section
/-! SUPPORT. Loads and thaws (R303, R329, R403, R451, R452, R514): what sending and the steward's log leave alone, the slot a load takes, and what follows each check. -/

namespace Sys2Proof.Machine

/-! ### Messages of a context: what sending leaves alone -/

section
variable {α : Type} (f : State → α) (k : Fin 16)

/-- Of a part of the state that neither the link fabric nor the due list of a context belongs to: a control message leaves it alone. -/
theorem State.sendCtrl_part (hd : ∀ s d, f (s.modCtx k fun c => { c with due := d }) = f s)
    (hl : ∀ s p d h b, f (State.linkSend s p d h b) = f s) (hs : ∀ s n, f (State.stray s n) = f s) (s : State) (dest : Nat) (body : Ctrl) :
    f (s.sendCtrl k dest body) = f s := by
  unfold State.sendCtrl
  split
  · exact hd s _
  · exact State.sendMsg_eq f s _ _ _ (fun p => hl s p _ _ _) (hs s _)

theorem State.sendOthers_part (hd : ∀ s d, f (s.modCtx k fun c => { c with due := d }) = f s)
    (hl : ∀ s p d h b, f (State.linkSend s p d h b) = f s) (hs : ∀ s n, f (State.stray s n) = f s) (s : State) (body : Ctrl) :
    f (s.sendOthers k body) = f s := by
  unfold State.sendOthers
  exact foldl_part f (fun s (p : Nat × Nat) => State.sendCtrl_part f k hd hl hs s p.2 body) _ s

theorem State.sendAll_part (hd : ∀ s d, f (s.modCtx k fun c => { c with due := d }) = f s)
    (hl : ∀ s p d h b, f (State.linkSend s p d h b) = f s) (hs : ∀ s n, f (State.stray s n) = f s)
    (hw : ∀ s i, f (State.modCtx s k (·.sentTo i)) = f s) (s : State) (body : Ctrl) : f (s.sendAll k body) = f s := by
  unfold State.sendAll
  exact foldl_part f (fun s (p : Nat × Nat) => (hw _ p.1).trans (State.sendCtrl_part f k hd hl hs s p.2 body)) _ s

end

/-! ### The steward's log -/

/-- `t` is `s` with other contents of the memory, of the page headers and of the steward's registers, its key slots among them unchanged. -/
def LogOnly (s t : State) : Prop := ∃ m ps w, t = { s with mem := m, pages := ps, steward := w } ∧ w.keys = s.steward.keys

theorem LogOnly.trans {s t u : State} (h : LogOnly s t) (g : LogOnly t u) : LogOnly s u := by
  obtain ⟨m, ps, w, rfl, hk⟩ := h
  obtain ⟨m', ps', w', rfl, hk'⟩ := g
  exact ⟨m', ps', w', rfl, hk'.trans hk⟩

theorem State.mirror_logOnly (s : State) (e : LogEntry) : LogOnly s (s.mirror e).1 := by
  unfold State.mirror
  extract_lets size b pos gap base
  split
  · exact ⟨_, _, _, rfl, rfl⟩
  · exact ⟨_, _, _, rfl, rfl⟩

theorem State.mirror_logOnly_of {s t : State} {e : LogEntry} {ok : Bool} (h : s.mirror e = (t, ok)) : LogOnly s t := by
  have hm := s.mirror_logOnly e
  rwa [h] at hm

/-- The log writes memory, its own registers and, where entries are lost, an event (R409, R410). -/
theorem State.log_logOnly (s : State) (kind severity : Nat) (payload : Bytes) : LogOnly s (s.log kind severity payload) := by
  unfold State.log
  extract_lets w e size skip
  have hskip : ∀ t, LogOnly t (skip t) := fun t => ⟨_, _, _, rfl, rfl⟩
  split
  next kept lost hk =>
  clear hk
  extract_lets s1 s2
  have h1 : LogOnly s s1 := ⟨_, _, _, rfl, rfl⟩
  have h2 : LogOnly s s2 := by
    unfold s2
    split
    · exact h1
    · exact h1.trans ⟨_, _, _, rfl, rfl⟩
  split
  · split
    next hm =>
    split
    · exact h2.trans (State.mirror_logOnly_of hm)
    · exact h2.trans (hskip _)
  · extract_lets loss
    split
    next t ok hm =>
    split
    · extract_lets w1 t1
      have h3 : LogOnly s t1 := (h2.trans (State.mirror_logOnly_of hm)).trans ⟨_, _, _, rfl, rfl⟩
      split
      next hm1 =>
      split
      · exact h3.trans (State.mirror_logOnly_of hm1)
      · exact h3.trans (hskip _)
    · exact h2.trans (hskip _)

@[simp] theorem State.setPhase_ctx_same (s : State) (k : Fin 16) (p : Phase) : (s.setPhase k p).ctx k = { s.ctx k with phase := p } := by
  unfold State.setPhase
  exact State.ctx_modCtx_same s k fun c => { c with phase := p }

theorem State.setPhase_ctx_other (s : State) {j k : Fin 16} (h : j ≠ k) (p : Phase) : (s.setPhase k p).ctx j = s.ctx j := by
  unfold State.setPhase
  exact State.ctx_modCtx_other s (fun c => { c with phase := p }) h

/-- A phase change raises its events: one of the die's page, one of the context's (R477). -/
theorem State.setPhase_events (s : State) (k : Fin 16) (p : Phase) :
    ((s.setPhase k p).page 0x01).raw.getLsbD 2 = true ∧ ((s.setPhase k p).page (ctxPage k)).raw.getLsbD 0 = true := by
  have hp : (0x01 : Fin 64) ≠ ctxPage k := by revert k; decide
  have hm : (eventMask (ctxPage k).val).getLsbD 0 = true := by revert k; decide
  unfold State.setPhase
  constructor
  · have h : ∀ s : State, ((s.raise 0x01 2).raise (ctxPage k) 0).page 0x01 = (s.raise 0x01 2).page 0x01 :=
      fun s => State.page_setPage_other _ _ hp
    rw [h, State.raise_page_same]
    exact (PageHdr.set_getLsbD _ _ (event_getLsbD (by decide) (by decide))).1
  · rw [State.raise_page_same]
    exact (PageHdr.set_getLsbD _ _ (event_getLsbD (by decide) hm)).1

theorem State.setPhase_rest (s : State) (k : Fin 16) (p : Phase) : ∃ cs ps, s.setPhase k p = { s with ctxs := cs, pages := ps } := ⟨_, _, rfl⟩

/-! ### The slot that a load or a released thaw takes (R303, R329) -/

theorem State.pickSlot_empty {s : State} {cxid : Nat} {k : Fin 16} (hf : s.findCxid cxid = none) (he : s.emptyOne = some k) :
    s.pickSlot cxid = .inl (some k) := by
  simp only [State.pickSlot, hf, he]

theorem State.pickSlot_full {s : State} (h : ∀ j, (s.ctx j).phase ≠ .empty ∧ (s.ctx j).phase ≠ .tearingDown) (cxid : Nat) :
    s.pickSlot cxid = .inl none := by
  have he : s.emptyOne = none := by simp [State.emptyOne, h]
  have ht : (allSlots.find? fun j => (s.ctx j).phase == .tearingDown) = none := by simp [h]
  unfold State.pickSlot
  split
  · exact if_neg (h _).2
  · simp only [he, ht]

/-- Which other slots hold a rota position does not depend on the slot itself. -/
theorem State.rotaHeld_congr {s t : State} {k : Fin 16} (h : ∀ j, j ≠ k → t.ctx j = s.ctx j) (e : Fin 16) (rota : Nat) :
    t.rotaHeld k e rota = s.rotaHeld k e rota := by
  unfold State.rotaHeld
  congr 1
  funext j
  by_cases hj : j = k
  · simp [hj]
  · rw [h j hj]

theorem State.bindCatch_ctx_other (s : State) {j k : Fin 16} (h : j ≠ k) (e : Fin 16) (rota : Nat) : (s.bindCatch k e rota).ctx j = s.ctx j := by
  unfold State.bindCatch
  exact State.ctx_modCtx_other s _ h

/-- A slot taken by a load or a released thaw: its page fresh but for `f`, its phase and its catchment. -/
def State.entered (s : State) (k e : Fin 16) (rota : Nat) (p : Phase) (f : Ctx → Ctx) : State := ((s.modCtx k f).setPhase k p).bindCatch k e rota

section
variable (s : State) (k e : Fin 16) (rota : Nat) (p : Phase) (f : Ctx → Ctx)

theorem State.entered_rest : ∃ cs ps, s.entered k e rota p f = { s with ctxs := cs, pages := ps } := by
  obtain ⟨cs, ps, h⟩ := (s.modCtx k f).setPhase_rest k p
  unfold State.entered
  rw [h]
  exact ⟨_, _, rfl⟩

theorem State.entered_ctx_other {j : Fin 16} (h : j ≠ k) : (s.entered k e rota p f).ctx j = s.ctx j :=
  (State.bindCatch_ctx_other _ h e rota).trans ((State.setPhase_ctx_other _ h p).trans (State.ctx_modCtx_other s f h))

/-- The slot is bound to its catchment; what tells the load from the thaw stays as `f` set it. -/
theorem State.entered_ctx :
    let c := (s.entered k e rota p f).ctx k
    let d := f (s.ctx k)
    c.phase = p ∧ c.catchment = e ∧ c.rota = rota ∧ c.lcids = (s.catch_ e).lcids ∧ c.share = (s.catch_ e).share ∧ c.cxid = d.cxid ∧ c.mode = d.mode ∧
      c.loadSub = d.loadSub ∧ c.loadDone = d.loadDone ∧ c.thawSub = d.thawSub ∧ c.thawReleased = d.thawReleased := by
  intro c d
  have hc : (((s.modCtx k f).setPhase k p).ctx k) = { d with phase := p } := by
    rw [State.setPhase_ctx_same, State.ctx_modCtx_same]
  refine ⟨?_, ?_, ?_, ?_, ?_, ?_, ?_, ?_, ?_, ?_, ?_⟩ <;>
    simp only [c, State.entered, State.bindCatch, State.ctx_modCtx_same, hc] <;> rfl

theorem State.entered_events :
    ((s.entered k e rota p f).page 0x01).raw.getLsbD 2 = true ∧ ((s.entered k e rota p f).page (ctxPage k)).raw.getLsbD 0 = true :=
  (s.modCtx k f).setPhase_events k p

end


/-! ### LOAD and THAW (R303, R329, R451, R452) -/

/-- A submission is counted in the sluice's registers alone (R485). -/
theorem State.countTaken_ctx (s : State) (j : Fin 16) : s.countTaken.ctx j = s.ctx j := rfl

section
variable {s : State} (hr : s.boot.ready = true) (hf : s.safety.fenced = false)
include hr hf

theorem exec_load (h : SubHdr) (r : LoadReq) : exec (.load h r) s = .next (s.countTaken.takeLoad h r s.nextTick) := by
  have e : exec (.load h r) s = execLoad h r s := rfl
  simp only [e, execLoad, hr, hf, Bool.not_true, Bool.false_eq_true, if_false]

theorem exec_thaw (h : SubHdr) (r : ThawReq) : exec (.thaw h r) s = .next (s.countTaken.takeAnyThaw h r (s.takenTick h.cxid) s.nextTick) := by
  have e : exec (.thaw h r) s = execThaw h r s := rfl
  simp only [e, execThaw, hr, hf, Bool.not_true, Bool.false_eq_true, if_false]

end

/-- The mode a LOAD's field names (R452). -/
def loadMode (n : Nat) : Mode := match n with | 0 => .scheduleExact | 1 => .resultExact | _ => .relaxed

theorem loadMode_code {n : Nat} (h : n ≤ 2) : Mode.code (loadMode n) = n := by
  obtain rfl | rfl | rfl : n = 0 ∨ n = 1 ∨ n = 2 := by omega
  · rfl
  · rfl
  · rfl

theorem State.loadCatch_congr {s t : State} (h : t.catches = s.catches) : t.loadCatch = s.loadCatch := by
  unfold State.loadCatch State.catch_
  rw [h]

theorem State.thawCatch_congr {s t : State} (h : t.catches = s.catches) (hi : t.images = s.images) : t.thawCatch = s.thawCatch := by
  unfold State.thawCatch State.catch_
  rw [h, hi]

/-- A slot's context as a LOAD leaves it but for its phase and its catchment (R303, R479). -/
def Ctx.loadingFor (h : SubHdr) (r : LoadReq) (c : Ctx) : Ctx :=
  { c.fresh with cxid := h.cxid, mode := loadMode r.mode, loadSub := some { hdr := h, taken := 0, sub := .load r } }

/-- A slot's context as the THAW of a released freeze leaves it but for its phase and its catchment (R329). -/
def Ctx.thawingFor (h : SubHdr) (r : ThawReq) (c : Ctx) : Ctx :=
  { c.fresh with cxid := h.cxid, thawSub := some { hdr := h, taken := 0, sub := .thaw r }, thawReleased := true }

theorem State.takeLoad_accepted {s : State} {h : SubHdr} {r : LoadReq} {k e : Fin 16} (hm : r.mode ≤ 2) (ho : r.rota ≤ 3) (hc : r.cmid ≤ 4095)
    (hn : s.findCxid h.cxid = none) (hk : s.emptyOne = some k) (he : s.loadCatch h.cxid r = some e) (hh : s.rotaHeld k e r.rota = false) (due : Nat) :
    s.takeLoad h r due = s.entered k e r.rota .loading (Ctx.loadingFor h r) := by
  have hfields : ¬ (r.mode > 2 ∨ r.rota > 3 ∨ r.cmid > 4095) := by omega
  simp only [State.takeLoad, if_neg hfields, State.pickSlot_empty hn hk]
  have hq : ∀ f, ((s.modCtx k f).setPhase k .loading).loadCatch h.cxid r = some e := fun f =>
    (congrFun (congrFun (State.loadCatch_congr rfl) _) _).trans he
  have hx : ∀ f, ((s.modCtx k f).setPhase k .loading).rotaHeld k e r.rota = false := fun f =>
    (State.rotaHeld_congr (fun j hj => (State.setPhase_ctx_other _ hj _).trans (State.ctx_modCtx_other s f hj)) e r.rota).trans hh
  simp only [hq, hx]
  rfl

theorem State.takeReleasedThaw_accepted {s : State} {h : SubHdr} {r : ThawReq} {k e : Fin 16} {rota : Nat} (hn : s.findCxid h.cxid = none)
    (hk : s.emptyOne = some k) (he : s.thawCatch h.cxid r.imageAddr = some (e, rota)) (hh : s.rotaHeld k e rota = false) (due : Nat) :
    s.takeReleasedThaw h r due = s.entered k e rota .thawing (Ctx.thawingFor h r) := by
  simp only [State.takeReleasedThaw, State.pickSlot_empty hn hk]
  have hq : ∀ f, ((s.modCtx k f).setPhase k .thawing).thawCatch h.cxid r.imageAddr = some (e, rota) := fun f =>
    (congrFun (congrFun (State.thawCatch_congr rfl rfl) _) _).trans he
  have hx : ∀ f, ((s.modCtx k f).setPhase k .thawing).rotaHeld k e rota = false := fun f =>
    (State.rotaHeld_congr (fun j hj => (State.setPhase_ctx_other _ hj _).trans (State.ctx_modCtx_other s f hj)) e rota).trans hh
  simp only [hq, hx]
  rfl

theorem State.takeAnyThaw_short {s : State} {h : SubHdr} {r : ThawReq} (hn : s.findCxid h.cxid = none) (hl : r.wrappedKey.length < 320)
    (taken due : Nat) : s.takeAnyThaw h r taken due = s.result h 4 0 2 none due := by
  simp only [State.takeAnyThaw, hn, if_pos hl]

theorem State.takeAnyThaw_released {s : State} {h : SubHdr} {r : ThawReq} (hn : s.findCxid h.cxid = none) (hl : 320 ≤ r.wrappedKey.length)
    (taken due : Nat) : s.takeAnyThaw h r taken due = s.takeReleasedThaw h r due := by
  simp only [State.takeAnyThaw, hn, if_neg (Nat.not_lt.mpr hl)]

theorem State.takeAnyThaw_frozen {s : State} {h : SubHdr} {r : ThawReq} {k : Fin 16} (hk : s.findCxid h.cxid = some k)
    (hp : (s.ctx k).phase = .frozen) (ht : (s.ctx k).thawSub = none) (hm : (s.ctx k).multiMember = false) (taken due : Nat) :
    s.takeAnyThaw h r taken due =
      (s.setCtx k { s.ctx k with thawSub := some { hdr := h, taken := taken, sub := .thaw r } }).setPhase k .thawing := by
  have hw : Sub.forHeadwater (.thaw r) = false := rfl
  have ha : phaseAllows .frozen (.thaw r) = true := rfl
  simp only [State.takeAnyThaw, State.accept, hk, hp, hw, ha, State.takeThaw, ht, hm]
  rfl

theorem State.takenTick_of {s : State} {cxid : Nat} {k : Fin 16} (hk : s.findCxid cxid = some k) : s.takenTick cxid = (s.ctx k).tick := by
  simp only [State.takenTick, hk]

/-! ### LOAD_COMPLETE (R60, R90, R331, R403, R452, R514) -/

/-- The state once a key slot holds what the wrapped blob gave (R403). -/
def State.withKey (s : State) (k : Fin 16) (y : KeySlot) : State := { s with steward := { s.steward with keys := s.steward.keys.set k.val (some y) } }

section
variable {s : State} {k : Fin 16} {w : Waiting} {key b : Bytes} {named : Nat} {fast : Bool} {conflict : Image → Bool}

theorem State.loadChecks_passed {y : KeySlot} {i : Image} (hy : s.unwrap key w.hdr.cxid = .inr y)
    (hi : (s.withKey k y).checkImage k fast named b y.contextKey y.tenantX y.tenantY = .inr i) (hc : conflict i = false) (go : State → State) :
    s.loadChecks k w key b named fast conflict go = go ((s.withKey k y).takeImage k fast i) := by
  unfold State.withKey at hi ⊢
  simp only [State.loadChecks, hy, hi, hc, Bool.false_eq_true, if_false]

/-- Whatever check refuses a load, the refusal starts from the contexts as they stood. -/
theorem State.loadChecks_refused {code : Nat} (h : s.unwrap key w.hdr.cxid = .inl code ∨
      ∃ y, s.unwrap key w.hdr.cxid = .inr y ∧
        ((s.withKey k y).checkImage k fast named b y.contextKey y.tenantX y.tenantY = .inl code ∨
          ∃ i, (s.withKey k y).checkImage k fast named b y.contextKey y.tenantX y.tenantY = .inr i ∧ conflict i = true ∧ code = 0x0A))
    (go : State → State) : ∃ u : State, s.loadChecks k w key b named fast conflict go = u.loadRefused k w code s.nextTick ∧ u.ctxs = s.ctxs := by
  obtain h | ⟨y, hy, h | ⟨i, hi, hc, rfl⟩⟩ := h
  · exact ⟨s, by simp only [State.loadChecks, h], rfl⟩
  · unfold State.withKey at h
    exact ⟨s.withKey k y, by simp only [State.loadChecks, hy, h]; rfl, rfl⟩
  · unfold State.withKey at hi
    exact ⟨s.withKey k y, by simp only [State.loadChecks, hy, hi, hc]; rfl, rfl⟩

end

theorem State.takeImage_ctx_same (s : State) (k : Fin 16) (fast : Bool) (i : Image) :
    ∃ n cs rs es gs l, (s.takeImage k fast i).ctx k = { s.ctx k with
      image := i, fast := fast, graphStoreEntries := n, counters := cs, rings := rs, residency := es, regions := gs, ledger := l } := by
  unfold State.takeImage
  exact ⟨_, _, _, _, _, _, State.ctx_setCtx_same s k _⟩

theorem State.takeImage_ctx_other (s : State) {j k : Fin 16} (h : j ≠ k) (fast : Bool) (i : Image) : (s.takeImage k fast i).ctx j = s.ctx j := by
  unfold State.takeImage
  exact State.ctx_setCtx_other s _ h

theorem State.takeImage_steward (s : State) (k : Fin 16) (fast : Bool) (i : Image) : (s.takeImage k fast i).steward = s.steward := rfl

/-! ### What follows the checks -/

/-- A message that a launch sends, or keeps where it is addressed to its own die, leaves the contexts and the steward alone. -/
theorem State.sendLaunch_part {α : Type} (f : State → α) (hc : ∀ s k c, f (State.setCatch s k c) = f s)
    (hl : ∀ s p d h b, f (State.linkSend s p d h b) = f s) (hs : ∀ s n, f (State.stray s n) = f s)
    (s : State) (k : Fin 16) (dest : Nat) (x : Ctrl) : f (s.sendLaunch k dest x) = f s := by
  unfold State.sendLaunch
  split
  · exact hc s k _
  · exact State.sendMsg_eq f s _ _ _ (fun p => hl s p _ _ _) (hs s _)

/-- A load that is ready: marked so, and its launch message sent where its context is the first of a catchment of several members (R347). -/
theorem State.loadReady_cases (s : State) (k : Fin 16) :
    (∀ j, (s.loadReady k).ctx j = if j = k then { s.ctx k with loadDone := true } else s.ctx j) ∧ (s.loadReady k).steward = s.steward ∧
      ((s.ctx k).multiMember = true → (s.ctx k).rota = 0 → ((s.loadReady k).catch_ (s.ctx k).catchment).joinSent = true) ∧
      ((s.ctx k).multiMember = false ∨ (s.ctx k).rota ≠ 0 → (s.loadReady k).catches = s.catches) := by
  have hsame : ∀ f, (s.modCtx k f).ctx k = f (s.ctx k) := fun f => State.ctx_modCtx_same s k f
  have hctx : ∀ j, (s.modCtx k fun c => { c with loadDone := true }).ctx j = if j = k then { s.ctx k with loadDone := true } else s.ctx j := by
    intro j
    split
    next hj => rw [hj]; exact hsame _
    next hj => exact State.ctx_modCtx_other s _ hj
  unfold State.loadReady
  simp only [hsame]
  split
  next hfirst =>
    obtain ⟨hm, h0⟩ := hfirst
    refine ⟨fun j => ?_, ?_, fun _ _ => ?_, fun h => ?_⟩
    · exact (State.sendLaunch_part (·.ctx j) (fun _ _ _ => rfl) (fun _ _ _ _ _ => rfl) (fun _ _ => rfl) _ _ _ _).trans (hctx j)
    · exact State.sendLaunch_part (·.steward) (fun _ _ _ => rfl) (fun _ _ _ _ _ => rfl) (fun _ _ => rfl) _ _ _ _
    · rw [State.catch_setCatch_same]
    · rw [hm, h0] at h
      simp at h
  next hlater => exact ⟨hctx, rfl, fun h h0 => absurd ⟨h, h0⟩ hlater, fun _ => rfl⟩

/-! ### A load refused after it was accepted (R331, R434, R514) -/

theorem State.clearKey_cases (s : State) (k : Fin 16) :
    ∃ m ps w, s.clearKey k = { s with mem := m, pages := ps, steward := w } ∧ w.keys[k.val] = none := by
  unfold State.clearKey
  split
  next h => exact ⟨s.mem, s.pages, s.steward, rfl, Option.isNone_iff_eq_none.mp h⟩
  next =>
    obtain ⟨m, ps, w, h, hk⟩ := State.log_logOnly ({ s with steward := { s.steward with keys := s.steward.keys.set k.val none } }) 0x07 0
      (Config.logPayload 0x07 [2, k.val])
    exact ⟨m, ps, w, h, by rw [hk]; simp⟩

theorem State.requestsCancelled_ctx_other (s : State) {j k : Fin 16} (h : j ≠ k) : (s.requestsCancelled k).ctx j = s.ctx j := by
  unfold State.requestsCancelled
  have hpush : ∀ (u : State) (d : DumpReq), (u.dumpRecord k 0x75 d.nameId d.step d.dest).ctx j = u.ctx j := fun _ _ => rfl
  exact (foldl_part (·.ctx j) hpush _ _).trans (State.ctx_modCtx_other s _ h)

/-- The answers to the requests come behind the records that are due already. -/
theorem State.requestsCancelled_due (s : State) (k : Fin 16) {q : Rec} (h : q ∈ s.sluice.due) : q ∈ (s.requestsCancelled k).sluice.due := by
  unfold State.requestsCancelled
  generalize (s.ctx k).dumps = ds
  have hstart : q ∈ (s.modCtx k fun c => { c with dumps := [] }).sluice.due := h
  generalize (s.modCtx k fun c => { c with dumps := [] }) = u at hstart
  induction ds generalizing u with
  | nil => exact hstart
  | cons d ds ih => exact ih _ (List.mem_append_left _ hstart)

theorem State.emptySlot_ctx_same (s : State) (k : Fin 16) : ((s.emptySlot k).ctx k).phase = .empty := by
  unfold State.emptySlot
  rw [State.setPhase_ctx_same]

theorem State.emptySlot_ctx_other (s : State) {j k : Fin 16} (h : j ≠ k) : (s.emptySlot k).ctx j = s.ctx j := by
  unfold State.emptySlot
  exact (State.setPhase_ctx_other _ h _).trans (State.ctx_setCtx_other _ _ h)

theorem State.emptySlot_steward (s : State) (k : Fin 16) : (s.emptySlot k).steward = s.steward := rfl

/-- A result record is not withheld with the records of steps (R387). -/
theorem State.mayWrite_of_result (s : State) {q : Rec} (h : q.kind = 1) : s.mayWrite q = true := by
  unfold State.mayWrite Rec.ofStep
  split <;> simp [h]

theorem State.emptySlot_due (s : State) (k : Fin 16) {q : Rec} (h : q ∈ s.sluice.due) (hq : q.kind = 1) : q ∈ (s.emptySlot k).sluice.due :=
  List.mem_filter.mpr ⟨h, s.mayWrite_of_result hq⟩

/-- The slot is Empty again and without a key, no other context changes, and the refusal has its record. -/
theorem State.loadRefused_spec (s : State) (k : Fin 16) (w : Waiting) (reason due : Nat) :
    ((s.loadRefused k w reason due).ctx k).phase = .empty ∧ (s.loadRefused k w reason due).steward.keys[k.val] = none ∧
      (∀ j, j ≠ k → (s.loadRefused k w reason due).ctx j = s.ctx j) ∧
      ∃ q ∈ (s.loadRefused k w reason due).sluice.due, q.kind = 1 ∧ q.reason = reason ∧ q.tag = w.hdr.tag ∧ q.subKind = w.sub.kind ∧ q.due = due := by
  unfold State.loadRefused
  extract_lets s1 s2 c s3
  have h1 : ∃ q ∈ s1.sluice.due, q.kind = 1 ∧ q.reason = reason ∧ q.tag = w.hdr.tag ∧ q.subKind = w.sub.kind ∧ q.due = due :=
    ⟨_, List.mem_append_right _ (List.mem_singleton_self _), rfl, rfl, rfl, rfl, rfl⟩
  have h2 : s2.ctxs = s1.ctxs ∧ s2.sluice = s1.sluice := by
    unfold s2
    split
    · obtain ⟨m, ps, w', h, -⟩ := s1.log_logOnly 0x07 1 (Config.logPayload 0x07 [1, reason])
      rw [h]
      exact ⟨rfl, rfl⟩
    · exact ⟨rfl, rfl⟩
  have h3 : (∀ j, j ≠ k → s3.ctx j = s2.ctx j) ∧ s3.sluice = s2.sluice := by
    unfold s3
    split
    · exact ⟨fun j hj => State.sendOthers_part (·.ctx j) k (fun _ _ => State.ctx_modCtx_other _ _ hj) (fun _ _ _ _ _ => rfl) (fun _ _ => rfl) s2 _,
        State.sendOthers_part (·.sluice) k (fun _ _ => rfl) (fun _ _ _ _ _ => rfl) (fun _ _ => rfl) s2 _⟩
    · exact ⟨fun _ _ => rfl, rfl⟩
  obtain ⟨m, ps, w', hkey, hnone⟩ := (s3.requestsCancelled k).clearKey_cases k
  have hctx : ∀ j, j ≠ k → ((s3.requestsCancelled k).clearKey k).ctx j = s.ctx j := fun j hj => by
    rw [hkey]
    exact (s3.requestsCancelled_ctx_other hj).trans ((h3.1 j hj).trans (State.ctx_congr h2.1 j))
  obtain ⟨q, hq, hkind, hrest⟩ := h1
  have hdue : q ∈ ((s3.requestsCancelled k).clearKey k).sluice.due := by
    rw [hkey]
    exact s3.requestsCancelled_due k (by rw [h3.2, h2.2]; exact hq)
  refine ⟨State.emptySlot_ctx_same _ k, ?_, fun j hj => (State.emptySlot_ctx_other _ hj).trans (hctx j hj), q, State.emptySlot_due _ k hdue hkind, hkind, hrest⟩
  rw [State.emptySlot_steward, hkey]
  exact hnone

/-! ### LOAD_COMPLETE by the outcome of its checks -/

/-- What follows the checks of a thaw of a released freeze: marked ready, and the thaw message where the context is its catchment's
headwater (R329). -/
def State.thawReady (s : State) (k : Fin 16) (send : Bool) : State :=
  let s := s.modCtx k fun c => { c with loadDone := true }
  if send then s.sendAll k .thaw else s

/-- `t` is `u` with the context of slot `k` marked ready, neither its phase nor its image touched. -/
structure ReadyIn (k : Fin 16) (u t : State) : Prop where
  done : (t.ctx k).loadDone = true
  phase : (t.ctx k).phase = (u.ctx k).phase
  image : (t.ctx k).image = (u.ctx k).image
  fast : (t.ctx k).fast = (u.ctx k).fast
  others : ∀ j, j ≠ k → t.ctx j = u.ctx j
  steward : t.steward = u.steward

theorem State.loadReady_readyIn (s : State) (k : Fin 16) : ReadyIn k s (s.loadReady k) := by
  obtain ⟨hctx, hst, -⟩ := s.loadReady_cases k
  have hk := hctx k
  rw [if_pos rfl] at hk
  exact ⟨by rw [hk], by rw [hk], by rw [hk], by rw [hk], fun j hj => (hctx j).trans (if_neg hj), hst⟩

/-- What `ReadyIn` tells of a context. -/
def Ctx.ready (c : Ctx) : Bool × Phase × Image × Bool := (c.loadDone, c.phase, c.image, c.fast)

theorem State.thawReady_readyIn (s : State) (k : Fin 16) (send : Bool) : ReadyIn k s (s.thawReady k send) ∧ (s.thawReady k send).catches = s.catches := by
  unfold State.thawReady
  extract_lets u
  have hu : u.ctx k = { s.ctx k with loadDone := true } := State.ctx_modCtx_same s k _
  have ho : ∀ j, j ≠ k → u.ctx j = s.ctx j := fun j hj => State.ctx_modCtx_other s _ hj
  split
  · have hc : ((u.sendAll k .thaw).ctx k).ready = (u.ctx k).ready :=
      State.sendAll_part (fun t => (t.ctx k).ready) k (fun t d => by simp only [State.ctx_modCtx_same]; rfl) (fun _ _ _ _ _ => rfl) (fun _ _ => rfl)
        (fun t i => by simp only [State.ctx_modCtx_same]; rfl) u _
    rw [hu] at hc
    obtain ⟨hd, hc⟩ := Prod.mk.inj hc
    obtain ⟨hp, hc⟩ := Prod.mk.inj hc
    obtain ⟨hi, hf⟩ := Prod.mk.inj hc
    refine ⟨⟨hd, hp, hi, hf, fun j hj => Eq.trans ?_ (ho j hj), ?_⟩, ?_⟩
    · exact State.sendAll_part (·.ctx j) k (fun _ _ => State.ctx_modCtx_other _ _ hj) (fun _ _ _ _ _ => rfl) (fun _ _ => rfl)
        (fun _ _ => State.ctx_modCtx_other _ _ hj) u _
    · exact State.sendAll_part (·.steward) k (fun _ _ => rfl) (fun _ _ _ _ _ => rfl) (fun _ _ => rfl) (fun _ _ => rfl) u _
    · exact State.sendAll_part (·.catches) k (fun _ _ => rfl) (fun _ _ _ _ _ => rfl) (fun _ _ => rfl) (fun _ _ => rfl) u _
  · exact ⟨⟨by rw [hu], by rw [hu], by rw [hu], by rw [hu], ho, rfl⟩, rfl⟩

section
variable {s : State} {k : Fin 16} {w : Waiting} (hfault : (s.ctx k).fault = none) (hdone : (s.ctx k).loadDone = false)
include hfault hdone

theorem exec_loadComplete_load {r : LoadReq} (hp : (s.ctx k).phase = .loading) (hw : (s.ctx k).loadSub = some w) (hs : w.sub = .load r)
    (x : BitVec 64) (b : Bytes) (g : Option Bytes) : exec (.loadComplete k x { image := b, peerGraph := g }) s =
      .next (s.loadChecks k w r.wrappedKey b r.imageLength (r.mode == 2 && (s.ctx k).controls.fastEn) (modeConflict (s.ctx k) r x g) (·.loadReady k)) := by
  have e : exec (.loadComplete k x { image := b, peerGraph := g }) s = .next (s.loadComplete k x b g) := rfl
  simp only [e, State.loadComplete, hfault, hdone, hp, hw, hs]
  rfl

theorem exec_loadComplete_thaw {r : ThawReq} (hp : (s.ctx k).phase = .thawing) (hr : (s.ctx k).thawReleased = true)
    (hw : (s.ctx k).thawSub = some w) (hs : w.sub = .thaw r) (x : BitVec 64) (b : Bytes) (g : Option Bytes) :
    exec (.loadComplete k x { image := b, peerGraph := g }) s =
      .next (s.loadChecks k w r.wrappedKey b r.graphLength false (fun _ => false)
        (·.thawReady k ((s.ctx k).multiMember && (s.ctx k).headwater))) := by
  have e : exec (.loadComplete k x { image := b, peerGraph := g }) s = .next (s.loadComplete k x b g) := rfl
  simp only [e, State.loadComplete, hfault, hdone, hp, hr, hw, hs]
  rfl

end

section
variable {s : State} {k : Fin 16} {w : Waiting} {key b : Bytes} {named : Nat} {fast : Bool} {conflict : Image → Bool} {go : State → State} {c : Instr}

/-- The checks have passed: the key slot is filled, the image taken in, the context ready; no other context changes. -/
theorem exec_loadChecks_passed (hgo : ∀ u, ReadyIn k u (go u)) (hc : exec c s = .next (s.loadChecks k w key b named fast conflict go))
    {y : KeySlot} {i : Image} (hy : s.unwrap key w.hdr.cxid = .inr y)
    (hi : (s.withKey k y).checkImage k fast named b y.contextKey y.tenantX y.tenantY = .inr i) (hx : conflict i = false) :
    ∃ t, exec c s = .next t ∧ t = go ((s.withKey k y).takeImage k fast i) ∧ (t.ctx k).loadDone = true ∧ (t.ctx k).phase = (s.ctx k).phase ∧
      t.steward.keys[k.val] = some y ∧ (t.ctx k).image = i ∧ (t.ctx k).fast = fast ∧ ∀ j, j ≠ k → t.ctx j = s.ctx j := by
  obtain ⟨hd, hp, him, hf, ho, hs⟩ := hgo ((s.withKey k y).takeImage k fast i)
  obtain ⟨_, _, _, _, _, _, hk⟩ := (s.withKey k y).takeImage_ctx_same k fast i
  rw [hk] at hp him hf
  refine ⟨_, hc.trans (congrArg _ (State.loadChecks_passed hy hi hx go)), rfl, hd, hp, ?_, him, hf,
    fun j hj => (ho j hj).trans (State.takeImage_ctx_other _ hj fast i)⟩
  rw [hs, State.takeImage_steward, State.withKey]
  simp

/-- A check has failed: the slot is Empty again and without a key, no other context changes, and the refusal has its record. -/
theorem exec_loadChecks_refused (hc : exec c s = .next (s.loadChecks k w key b named fast conflict go)) {code : Nat}
    (h : s.unwrap key w.hdr.cxid = .inl code ∨
      ∃ y, s.unwrap key w.hdr.cxid = .inr y ∧
        ((s.withKey k y).checkImage k fast named b y.contextKey y.tenantX y.tenantY = .inl code ∨
          ∃ i, (s.withKey k y).checkImage k fast named b y.contextKey y.tenantX y.tenantY = .inr i ∧ conflict i = true ∧ code = 0x0A)) :
    ∃ t, exec c s = .next t ∧ (t.ctx k).phase = .empty ∧ t.steward.keys[k.val] = none ∧ (∀ j, j ≠ k → t.ctx j = s.ctx j) ∧
      ∃ q ∈ t.sluice.due, q.kind = 1 ∧ q.reason = code ∧ q.tag = w.hdr.tag ∧ q.subKind = w.sub.kind ∧ q.due = s.time.localTick + 1 := by
  obtain ⟨u, hu, hctxs⟩ := State.loadChecks_refused h go
  obtain ⟨hp, hkey, ho, hq⟩ := u.loadRefused_spec k w code s.nextTick
  exact ⟨_, hc.trans (congrArg _ hu), hp, hkey, fun j hj => (ho j hj).trans (State.ctx_congr hctxs j), hq⟩

end

/-- Settles O44: each command is brought to its accepted form, and LOAD_COMPLETE to what its checks give. -/
theorem loads : Obligations.Loads := by
  intro h k e s hready hfence
  refine ⟨fun r hm ho hc hn hk he hh => ?_, fun r hm ho hc hfull => ?_, ?_, fun r hk hp ht hm => ?_, fun r hn hl => ?_, fun r rota hn hl hk he hh => ?_⟩
  · obtain ⟨hp, hce, hrota, hl, hsh, hx, hmode, hsub, hdone, -⟩ := s.countTaken.entered_ctx k e r.rota .loading (Ctx.loadingFor h r)
    obtain ⟨hev, hevk⟩ := s.countTaken.entered_events k e r.rota .loading (Ctx.loadingFor h r)
    obtain ⟨cs, ps, hrest⟩ := s.countTaken.entered_rest k e r.rota .loading (Ctx.loadingFor h r)
    rw [exec_load hready hfence, State.takeLoad_accepted (s := s.countTaken) hm ho hc hn hk he hh]
    exact ⟨_, rfl, hp, hx, hmode ▸ loadMode_code hm, hrota, hce, hl, hsh, hsub, hdone, hev, hevk,
      fun j hj => State.entered_ctx_other _ _ _ _ _ _ hj, by rw [hrest]⟩
  · have hfields : ¬ (r.mode > 2 ∨ r.rota > 3 ∨ r.cmid > 4095) := by omega
    rw [exec_load hready hfence]
    simp only [State.takeLoad, if_neg hfields, State.pickSlot_full (s := s.countTaken) hfull]
    rfl
  · rintro w x b key g named fast conflict c rfl hfault hdone (⟨r, hp, hw, hs, rfl, rfl, rfl, rfl⟩ | ⟨r, hp, hrel, hw, hs, rfl, rfl, rfl, rfl⟩)
    · have hx := exec_loadComplete_load hfault hdone hp hw hs x b g
      refine ⟨?_, ?_⟩
      · rintro y u i hy rfl hi hno
        obtain ⟨t, ht, rfl, hd, hph, hkey, him, hf, ho⟩ := exec_loadChecks_passed (State.loadReady_readyIn · k) hx hy hi hno
        obtain ⟨-, -, hjoin, hlater⟩ := ((s.withKey k y).takeImage k _ i).loadReady_cases k
        obtain ⟨_, _, _, _, _, _, hctx⟩ := (s.withKey k y).takeImage_ctx_same k (r.mode == 2 && (s.ctx k).controls.fastEn) i
        rw [hctx] at hjoin hlater
        exact ⟨_, ht, hd, hph, hkey, him, hf, ho, fun hmm h0 _ => hjoin hmm h0, hlater⟩
      · rintro code (hcode | ⟨y, u, hy, rfl, hcode⟩)
        · exact exec_loadChecks_refused hx (.inl hcode)
        · exact exec_loadChecks_refused hx (.inr ⟨y, hy, hcode⟩)
    · have hx := exec_loadComplete_thaw hfault hdone hp hrel hw hs x b g
      refine ⟨?_, ?_⟩
      · rintro y u i hy rfl hi hno
        obtain ⟨t, ht, rfl, hd, hph, hkey, him, hf, ho⟩ := exec_loadChecks_passed (fun u => (State.thawReady_readyIn u k _).1) hx hy hi hno
        exact ⟨_, ht, hd, hph, hkey, him, hf, ho, fun _ _ hl => absurd (hp.symm.trans hl) (by decide), fun _ => (State.thawReady_readyIn _ k _).2⟩
      · rintro code (hcode | ⟨y, u, hy, rfl, hcode⟩)
        · exact exec_loadChecks_refused hx (.inl hcode)
        · exact exec_loadChecks_refused hx (.inr ⟨y, hy, hcode⟩)
  · obtain ⟨cs, ps, hrest⟩ := State.setPhase_rest (s.countTaken.setCtx k { s.ctx k with thawSub := some { hdr := h, taken := (s.ctx k).tick, sub := .thaw r } }) k .thawing
    rw [exec_thaw hready hfence, State.takeAnyThaw_frozen (s := s.countTaken) hk hp ht hm, State.takenTick_of hk, State.countTaken_ctx]
    refine ⟨_, rfl, ?_, (State.setPhase_events _ k _).1, fun j hj => (State.setPhase_ctx_other _ hj _).trans (State.ctx_setCtx_other _ _ hj), ?_⟩
    · rw [State.setPhase_ctx_same, State.ctx_setCtx_same]
    · rw [hrest]
      rfl
  · rw [exec_thaw hready hfence, State.takeAnyThaw_short (s := s.countTaken) hn hl]
    rfl
  · obtain ⟨hp, hce, hrota, -, -, hx, -, -, -, hsub, hrel⟩ := s.countTaken.entered_ctx k e rota .thawing (Ctx.thawingFor h r)
    obtain ⟨cs, ps, hrest⟩ := s.countTaken.entered_rest k e rota .thawing (Ctx.thawingFor h r)
    rw [exec_thaw hready hfence, State.takeAnyThaw_released (s := s.countTaken) hn hl, State.takeReleasedThaw_accepted (s := s.countTaken) hn hk he hh]
    exact ⟨_, rfl, hp, hx, hrel, hce, hrota, hsub, fun j hj => State.entered_ctx_other _ _ _ _ _ _ hj, by rw [hrest]⟩
end Sys2Proof.Machine
end

section
/-! SUPPORT. The work of a slot boundary (R100, R105, R108, R113, R115, R116): the nodes of a step under ends, lists and watches; faults; resolution,
placement and thread switches; the completion of a step; and the position in time at which a boundary's work begins. -/

namespace Sys2Proof.Machine

/-! ### A change of one context -/

theorem OnlyCtx.modCtx (s : State) (k : Fin 16) (f : Ctx → Ctx) : OnlyCtx k s (s.modCtx k f) :=
  ⟨rfl, fun _ hj => State.ctx_modCtx_other s f hj⟩

theorem OnlyCtx.trans {k : Fin 16} {s t u : State} (h : OnlyCtx k s t) (g : OnlyCtx k t u) : OnlyCtx k s u := by
  refine ⟨?_, fun j hj => (g.others j hj).trans (h.others j hj)⟩
  have ht := h.rest
  have hu := g.rest
  rw [ht] at hu
  exact hu

/-! ### The runs of a context and the nodes of a run (R98, R99) -/

theorem Ctx.run?_modRun_same {c : Ctx} {step : Nat} {r : StepRun} (h : c.run? step = some r) {f : StepRun → StepRun} (hf : ∀ q, (f q).step = q.step) :
    (c.modRun step f).run? step = some (f r) := by
  have hs : (r.step == step) = true := List.find?_some (p := fun q : StepRun => q.step == step) h
  have hp : ((fun q : StepRun => q.step == step) ∘ fun q => if q.step == step then f q else q) = fun q => q.step == step := by
    funext q
    simp only [Function.comp]
    split
    · rw [hf]
    · rfl
  simp only [Ctx.run?, Ctx.modRun, List.find?_map, hp]
  unfold Ctx.run? at h
  simp only [h, Option.map_some, hs, if_true]

theorem Ctx.run?_modRun_other (c : Ctx) {step st : Nat} (h : st ≠ step) {f : StepRun → StepRun} (hf : ∀ q, (f q).step = q.step) :
    (c.modRun step f).run? st = c.run? st := by
  have hp : ((fun q : StepRun => q.step == st) ∘ fun q => if q.step == step then f q else q) = fun q => q.step == st := by
    funext q
    simp only [Function.comp]
    split
    · rw [hf]
    · rfl
  simp only [Ctx.run?, Ctx.modRun, List.find?_map, hp]
  cases hq : c.steps.find? fun q => q.step == st with
  | none => rfl
  | some q =>
    have hs : q.step = st := by simpa using List.find?_some hq
    simp [hs, h]

theorem StepRun.inst_modInst_same {r : StepRun} {n : Nat} (h : n < r.insts.length) (f : NodeInst → NodeInst) : (r.modInst n f).inst n = f (r.inst n) := by
  simp [StepRun.inst, StepRun.modInst, List.getD_eq_getElem?_getD, h]

theorem StepRun.inst_modInst_other (r : StepRun) {m n : Nat} (h : m ≠ n) (f : NodeInst → NodeInst) : (r.modInst n f).inst m = r.inst m := by
  simp [StepRun.inst, StepRun.modInst, List.getD_eq_getElem?_getD, Ne.symm h]

theorem StepRun.length_modInst (r : StepRun) (n : Nat) (f : NodeInst → NodeInst) : (r.modInst n f).insts.length = r.insts.length := by
  simp [StepRun.modInst]

/-- In `c'` node `n` of step `st`, whose run in `c` is `r`, stands as `i` says; every other node of that run, every other run and the
tallies are those of `c`. -/
structure InstSet (st n : Nat) (r : StepRun) (i : NodeInst) (c c' : Ctx) : Prop where
  run : ∃ r', c'.run? st = some r' ∧ r'.inst n = i ∧ (∀ m, m ≠ n → r'.inst m = r.inst m) ∧ r'.insts.length = r.insts.length ∧
    r'.template = r.template ∧ r'.cancelled = r.cancelled
  others : ∀ st', st' ≠ st → c'.run? st' = c.run? st'
  tallies : c'.tallies = c.tallies

theorem InstSet.refl {st n : Nat} {r : StepRun} {c : Ctx} (h : c.run? st = some r) : InstSet st n r (r.inst n) c c :=
  ⟨⟨r, h, rfl, fun _ _ => rfl, rfl, rfl, rfl⟩, fun _ _ => rfl, rfl⟩

/-- A change of a node after a change of the same node. -/
theorem InstSet.next {st n : Nat} {r : StepRun} {i j : NodeInst} {c d e : Ctx} (h : InstSet st n r i c d)
    (g : ∀ q, d.run? st = some q → q.insts.length = r.insts.length → q.template = r.template → q.inst n = i → InstSet st n q j d e) :
    InstSet st n r j c e := by
  obtain ⟨⟨q, hq, hi, ho, hl, ht, hc⟩, hr, hta⟩ := h
  obtain ⟨⟨p, hp, hpi, hpo, hpl, hpt, hpc⟩, hpr, hpta⟩ := g q hq hl ht hi
  exact ⟨⟨p, hp, hpi, fun m hm => (hpo m hm).trans (ho m hm), hpl.trans hl, hpt.trans ht, hpc.trans hc⟩, fun st' hs => (hpr st' hs).trans (hr st' hs),
    hpta.trans hta⟩

theorem InstSet.modInst {st n : Nat} {r : StepRun} {c : Ctx} (h : c.run? st = some r) (hn : n < r.insts.length) (f : NodeInst → NodeInst) :
    InstSet st n r (f (r.inst n)) c (c.modRun st (·.modInst n f)) :=
  ⟨⟨r.modInst n f, Ctx.run?_modRun_same h fun _ => rfl, StepRun.inst_modInst_same hn f, fun _ hm => r.inst_modInst_other hm f, r.length_modInst n f, rfl, rfl⟩,
    fun _ hs => c.run?_modRun_other hs fun _ => rfl, rfl⟩

/-- Setting flags changes the flag word of the node or nothing, and else counts at most a late flag (R111). -/
theorem InstSet.flagNode {st n : Nat} {r : StepRun} {c : Ctx} (h : c.run? st = some r) (hn : n < r.insts.length) (f : BitVec 32) :
    InstSet st n r ((r.inst n).flagged (c.node r.template n).kind f).1 c (c.flagNode st n f) := by
  have hm := InstSet.modInst h hn fun _ => ((r.inst n).flagged (c.node r.template n).kind f).1
  unfold Ctx.flagNode
  simp only [h, if_pos hn]
  split
  · exact ⟨hm.run, hm.others, hm.tallies⟩
  · exact hm

/-! ### Successor entries (R100, R105, R108) -/

/-- What an entry does to the step it names: its decrement, then its flags. -/
def Ctx.applyTo (c : Ctx) (st : Nat) (e : SuccEntry) : Ctx :=
  let c := if e.decrement then c.modRun st (·.modInst e.target (·.dec)) else c
  if e.setFlags = 0 then c else c.flagNode st e.target e.setFlags

theorem Ctx.applyEntry_here (c : Ctx) (step tpl : Nat) {e : SuccEntry} (h : e.nextStep = false) : c.applyEntry step tpl e = c.applyTo step e := by
  unfold Ctx.applyEntry
  rw [h]
  rfl

theorem Ctx.applyEntry_next {c : Ctx} {step tpl : Nat} {e : SuccEntry} {r : StepRun} (h : e.nextStep = true) (hr : c.run? (step + 1) = some r)
    (ht : r.template = tpl ∧ r.cancelled = false) : c.applyEntry step tpl e = c.applyTo (step + 1) e := by
  simp only [Ctx.applyEntry, h, hr, if_pos ht]
  rfl

/-- A next-step entry whose step is in flight with another template, or cancelled, has no effect. -/
theorem Ctx.applyEntry_foreign {c : Ctx} {step tpl : Nat} {e : SuccEntry} {r : StepRun} (h : e.nextStep = true) (hr : c.run? (step + 1) = some r)
    (ht : ¬ (r.template = tpl ∧ r.cancelled = false)) : c.applyEntry step tpl e = c := by
  simp only [Ctx.applyEntry, h, hr, if_neg ht]
  rfl

/-- Before the next step starts its entries go to the tally. -/
theorem Ctx.applyEntry_tally {c : Ctx} {step tpl : Nat} {e : SuccEntry} (h : e.nextStep = true) (hr : c.run? (step + 1) = none) :
    c.applyEntry step tpl e = if c.nextStep = step + 1 then c.addTally tpl e.target (b2n e.decrement) e.setFlags else c := by
  simp only [Ctx.applyEntry, h, hr]
  rfl

theorem NodeInst.flagged_waiting {i : NodeInst} (h : i.state = .waiting) (kind : NodeKind) (f : BitVec 32) :
    (i.flagged kind f).1 = { i with flags := i.flags ||| f } := by
  simp only [NodeInst.flagged, h]

/-- An entry at a node that waits: one off its dependency count, and its flags added. -/
theorem InstSet.applyTo {st : Nat} {r : StepRun} {c : Ctx} {e : SuccEntry} {i : NodeInst} (h : c.run? st = some r) (hn : e.target < r.insts.length)
    (hi : r.inst e.target = i) (hw : i.state = .waiting) :
    InstSet st e.target r { i with deps := i.deps - (if e.decrement then 1 else 0), flags := i.flags ||| e.setFlags } c (c.applyTo st e) := by
  have hdec : InstSet st e.target r { i with deps := i.deps - (if e.decrement then 1 else 0) } c
      (if e.decrement then c.modRun st (·.modInst e.target (·.dec)) else c) := by
    subst hi
    split
    · exact InstSet.modInst h hn (·.dec)
    · exact InstSet.refl h
  unfold Ctx.applyTo
  generalize (if e.decrement then c.modRun st (·.modInst e.target (·.dec)) else c) = d at hdec
  by_cases h0 : e.setFlags = 0
  · have hz : i.flags ||| e.setFlags = i.flags := by rw [h0]; exact BitVec.or_zero
    simp only [hz, if_pos h0]
    exact hdec
  · simp only [h0, if_false]
    refine hdec.next fun q hq hl _ hqi => ?_
    have hqw : (q.inst e.target).state = .waiting := by rw [hqi]; exact hw
    have hf := InstSet.flagNode hq (hl ▸ hn) e.setFlags
    rw [NodeInst.flagged_waiting hqw, hqi] at hf
    exact hf

theorem Ctx.tally_addTally (c : Ctx) (t n dec : Nat) (f : BitVec 32) : (c.addTally t n dec f).tally t n = ((c.tally t n).1 + dec, (c.tally t n).2 ||| f) := by
  simp [Ctx.tally, Ctx.addTally]

/-! ### What is left alone in a node when lists are applied and watches armed -/

/-- A property of a node in a step that its dependency count, its flag word and its watch have no part in. -/
structure Steady (P : NodeInst → Prop) : Prop where
  deps : ∀ i d, P i → P { i with deps := d }
  flags : ∀ i f, P i → P { i with flags := f }
  watch : ∀ i w n, P i → P { i with watch := w, armedAt := n }

/-- Node `n` of step `st`, which is in flight and not cancelled, has the property. -/
def Ctx.HasInst (c : Ctx) (st n : Nat) (P : NodeInst → Prop) : Prop :=
  ∃ r, c.run? st = some r ∧ r.cancelled = false ∧ n < r.insts.length ∧ P (r.inst n)

theorem Ctx.HasInst.of_modInst {c : Ctx} {st n : Nat} {r : StepRun} {P : NodeInst → Prop} (hr : c.run? st = some r) (hc : r.cancelled = false)
    (hn : n < r.insts.length) {f : NodeInst → NodeInst} (hf : P (f (r.inst n))) : (c.modRun st (·.modInst n f)).HasInst st n P := by
  refine ⟨r.modInst n f, Ctx.run?_modRun_same hr fun _ => rfl, hc, by rw [StepRun.length_modInst]; exact hn, ?_⟩
  rw [StepRun.inst_modInst_same hn]
  exact hf

theorem Ctx.HasInst.modInst {c : Ctx} {st n : Nat} {P : NodeInst → Prop} (h : c.HasInst st n P) (st' m : Nat) {f : NodeInst → NodeInst}
    (hf : ∀ i, P i → P (f i)) : (c.modRun st' (·.modInst m f)).HasInst st n P := by
  obtain ⟨r, hr, hc, hn, hp⟩ := h
  by_cases hs : st = st'
  · subst hs
    refine ⟨r.modInst m f, Ctx.run?_modRun_same hr fun _ => rfl, hc, by rw [StepRun.length_modInst]; exact hn, ?_⟩
    by_cases hm : n = m
    · subst hm
      rw [StepRun.inst_modInst_same hn]
      exact hf _ hp
    · rw [StepRun.inst_modInst_other _ hm]
      exact hp
  · exact ⟨r, (c.run?_modRun_other hs (f := (·.modInst m f)) fun _ => rfl).trans hr, hc, hn, hp⟩

theorem Ctx.HasInst.of_instSet {c d : Ctx} {st n st' m : Nat} {q : StepRun} {i : NodeInst} {P : NodeInst → Prop} (h : c.HasInst st n P)
    (hq : c.run? st' = some q) (hi : InstSet st' m q i c d) (hp : P (q.inst m) → P i) : d.HasInst st n P := by
  obtain ⟨r, hr, hc, hn, hri⟩ := h
  obtain ⟨⟨p, hpr, hpi, hpo, hpl, -, hpc⟩, ho, -⟩ := hi
  by_cases hs : st = st'
  · subst hs
    obtain rfl : r = q := Option.some.inj (hr.symm.trans hq)
    refine ⟨p, hpr, hpc.trans hc, hpl ▸ hn, ?_⟩
    by_cases hm : n = m
    · subst hm
      rw [hpi]
      exact hp hri
    · rw [hpo n hm]
      exact hri
  · exact ⟨r, (ho st hs).trans hr, hc, hn, hri⟩

theorem Ctx.HasInst.congr {c d : Ctx} (h : d.steps = c.steps) {st n : Nat} {P : NodeInst → Prop} (hc : c.HasInst st n P) : d.HasInst st n P := by
  unfold Ctx.HasInst Ctx.run? at hc ⊢
  rwa [h]

theorem Ctx.HasInst.foldl {α : Type} {c : Ctx} {st n : Nat} {P : NodeInst → Prop} (h : c.HasInst st n P) {f : Ctx → α → Ctx}
    (hf : ∀ c x, Ctx.HasInst c st n P → (f c x).HasInst st n P) (l : List α) : (l.foldl f c).HasInst st n P := by
  induction l generalizing c with
  | nil => exact h
  | cons x xs ih => exact ih (hf c x h)

section
variable {P : NodeInst → Prop} (hP : Steady P)
include hP

theorem NodeInst.flagged_steady {i : NodeInst} (h : P i) (kind : NodeKind) (f : BitVec 32) : P (i.flagged kind f).1 := by
  unfold NodeInst.flagged
  split
  · exact hP.flags _ _ h
  · split
    · exact hP.flags _ _ h
    · exact h
  · exact h
  · exact h
  · exact h

theorem Ctx.HasInst.flagNode {c : Ctx} {st n : Nat} (h : c.HasInst st n P) (st' m : Nat) (f : BitVec 32) : (c.flagNode st' m f).HasInst st n P := by
  cases hq : c.run? st' with
  | none => simpa only [Ctx.flagNode, hq] using h
  | some q =>
    by_cases hm : m < q.insts.length
    · exact h.of_instSet hq (InstSet.flagNode hq hm f) fun hp => NodeInst.flagged_steady hP hp _ _
    · simpa only [Ctx.flagNode, hq, if_neg hm] using h

theorem Ctx.HasInst.applyTo {c : Ctx} {st n : Nat} (h : c.HasInst st n P) (st' : Nat) (e : SuccEntry) : (c.applyTo st' e).HasInst st n P := by
  have hdec : (if e.decrement then c.modRun st' (·.modInst e.target (·.dec)) else c).HasInst st n P := by
    split
    · exact h.modInst st' e.target fun i => hP.deps i _
    · exact h
  unfold Ctx.applyTo
  extract_lets d
  split
  · exact hdec
  · exact hdec.flagNode hP st' e.target _

theorem Ctx.HasInst.applyEntry {c : Ctx} {st n : Nat} (h : c.HasInst st n P) (step tpl : Nat) (e : SuccEntry) :
    (c.applyEntry step tpl e).HasInst st n P := by
  cases hx : e.nextStep with
  | false =>
    rw [c.applyEntry_here step tpl hx]
    exact h.applyTo hP step e
  | true =>
    cases hr : c.run? (step + 1) with
    | none =>
      rw [Ctx.applyEntry_tally hx hr]
      split
      · exact h.congr rfl
      · exact h
    | some r =>
      by_cases ht : r.template = tpl ∧ r.cancelled = false
      · rw [Ctx.applyEntry_next hx hr ht]
        exact h.applyTo hP _ e
      · rw [Ctx.applyEntry_foreign hx hr ht]
        exact h

theorem Ctx.HasInst.arm {c : Ctx} {st n : Nat} (h : c.HasInst st n P) (st' m delta now : Nat) : (c.arm st' m delta now).HasInst st n P := by
  unfold Ctx.arm
  split
  · exact h
  · split
    · exact h
    · extract_lets v
      exact Ctx.HasInst.modInst (h.congr rfl) st' m fun i => hP.watch i _ _

theorem Ctx.HasInst.armFollowers {c : Ctx} {st n : Nat} (h : c.HasInst st n P) (st' t m count now : Nat) :
    (c.armFollowers st' t m count now).HasInst st n P := by
  unfold Ctx.armFollowers
  extract_lets nodes ns
  exact h.foldl (fun c _ hc => hc.arm hP st' _ _ now) ns

end

/-- A completed node is still complete when its list has been applied: no entry takes that back. -/
theorem Ctx.HasInst.completeNode {c : Ctx} {st n : Nat} {P : NodeInst → Prop} (hP : Steady P) (h : c.HasInst st n P)
    (hs : ∀ i, P i → P { i with state := .complete }) : (c.completeNode st n).HasInst st n fun i => P i ∧ i.state = .complete := by
  have hQ : Steady fun i => P i ∧ i.state = .complete :=
    ⟨fun i d h => ⟨hP.deps i d h.1, h.2⟩, fun i f h => ⟨hP.flags i f h.1, h.2⟩, fun i w m h => ⟨hP.watch i w m h.1, h.2⟩⟩
  obtain ⟨r, hr, hc, hn, hp⟩ := h
  simp only [Ctx.completeNode, hr, hc, Bool.false_eq_true, if_false]
  have hd : (c.modRun st (·.modInst n fun i => { i with state := .complete })).HasInst st n fun i => P i ∧ i.state = .complete :=
    Ctx.HasInst.of_modInst hr hc hn ⟨hs _ hp, rfl⟩
  unfold Ctx.applyList
  exact hd.foldl (fun c e h => h.applyEntry hQ st r.template e) _

/-! ### Ends that count for a node, and its completion (R108, R120) -/

theorem State.completeNode_onlyCtx (s : State) (k : Fin 16) (step n : Nat) : OnlyCtx k s (s.completeNode k step n) := OnlyCtx.modCtx s k _

/-- The dumps that a completed node frees are no part of its step's nodes. -/
theorem State.completeNode_hasInst {s : State} {k : Fin 16} {step n : Nat} {P : NodeInst → Prop} (hP : Steady P) (h : (s.ctx k).HasInst step n P)
    (hs : ∀ i, P i → P { i with state := .complete }) : ((s.completeNode k step n).ctx k).HasInst step n fun i => P i ∧ i.state = .complete := by
  unfold State.completeNode
  rw [State.ctx_modCtx_same]
  exact (h.completeNode hP hs).congr rfl

section
variable {s : State} {k : Fin 16} {t : Task} {r : StepRun} {i : NodeInst} (hr : (s.ctx k).run? t.step = some r) (hc : r.cancelled = false)
  (hi : i = r.inst t.node) (hn : t.node < r.insts.length)
include hr hc hi

/-- One more end counts for its node, and the last one completes it. -/
theorem State.instanceEnded_eq : s.instanceEnded k t =
    if i.ended + 1 ≥ i.count ∧ i.count ≤ i.placed ∧ i.returned = [] then
      (s.modCtx k (·.modRun t.step (·.modInst t.node fun i => { i with ended := i.ended + 1 }))).completeNode k t.step t.node
    else s.modCtx k (·.modRun t.step (·.modInst t.node fun i => { i with ended := i.ended + 1 })) := by
  subst hi
  unfold State.instanceEnded
  simp only [hr, hc, Bool.false_eq_true, if_false]

include hn

/-- An end that is not the last counts, and changes nothing else. -/
theorem State.instanceEnded_counts (h : i.ended + 1 < i.count) : OnlyCtx k s (s.instanceEnded k t) ∧
    ∃ r', ((s.instanceEnded k t).ctx k).run? t.step = some r' ∧ r'.inst t.node = { i with ended := i.ended + 1 } ∧
      ∀ n, n ≠ t.node → r'.inst n = r.inst n := by
  rw [State.instanceEnded_eq hr hc hi, if_neg (by omega), State.ctx_modCtx_same]
  obtain ⟨r', hrun, hinst, ho, -⟩ := (InstSet.modInst hr hn fun i => { i with ended := i.ended + 1 }).run
  exact ⟨OnlyCtx.modCtx s k _, r', hrun, hi ▸ hinst, ho⟩

/-- The last end completes the node. -/
theorem State.instanceEnded_last (h : i.count ≤ i.ended + 1) (hp : i.count ≤ i.placed) (hb : i.returned = []) : OnlyCtx k s (s.instanceEnded k t) ∧
    ∃ r', ((s.instanceEnded k t).ctx k).run? t.step = some r' ∧ (r'.inst t.node).state = .complete ∧ (r'.inst t.node).ended = i.ended + 1 := by
  rw [State.instanceEnded_eq hr hc hi, if_pos ⟨h, hp, hb⟩]
  have hP : Steady fun j => j.ended = i.ended + 1 := ⟨fun _ _ h => h, fun _ _ h => h, fun _ _ _ h => h⟩
  have hd : ((s.modCtx k (·.modRun t.step (·.modInst t.node fun i => { i with ended := i.ended + 1 }))).ctx k).HasInst t.step t.node
      fun j => j.ended = i.ended + 1 := by
    rw [State.ctx_modCtx_same]
    exact Ctx.HasInst.of_modInst hr hc hn (by rw [hi])
  obtain ⟨r', hrun, -, -, hend, hst⟩ := State.completeNode_hasInst hP hd fun _ h => h
  exact ⟨(OnlyCtx.modCtx s k _).trans (State.completeNode_onlyCtx _ k _ _), r', hrun, hst, hend⟩

end

/-! ### Watches (R113) -/

section
variable {c : Ctx} {step n now v : Nat} {r : StepRun} (hr : c.run? step = some r) (hw : (r.inst n).watch = some v)
include hr hw

theorem Ctx.compareWatch_stands (h : now ≤ (r.inst n).armedAt ∨ c.counterValue (c.node r.template n).watchCounter < v) :
    c.compareWatch step n now = c := by
  have hno : ¬ ((r.inst n).armedAt < now ∧ r.cancelled = false ∧ c.counterValue (c.node r.template n).watchCounter ≥ v) := by omega
  simp only [Ctx.compareWatch, hr, hw, if_neg hno]

theorem Ctx.compareWatch_reached (hc : r.cancelled = false) (hn : n < r.insts.length) (hs : (r.inst n).state = .waiting) (ha : (r.inst n).armedAt < now)
    (hv : v ≤ c.counterValue (c.node r.template n).watchCounter) :
    InstSet step n r { r.inst n with watch := none, flags := (r.inst n).flags ||| BitVec.ofNat 32 (2 ^ (c.node r.template n).watchFlag) } c
      (c.compareWatch step n now) := by
  simp only [Ctx.compareWatch, hr, hw, if_pos (⟨ha, hc, hv⟩ : _ ∧ _ ∧ _)]
  refine (InstSet.modInst hr hn fun i => { i with watch := none }).next fun q hq hl _ hi => ?_
  have hqs : (q.inst n).state = .waiting := by rw [hi]; exact hs
  have hf := InstSet.flagNode hq (hl ▸ hn) (BitVec.ofNat 32 (2 ^ (c.node r.template n).watchFlag))
  rw [NodeInst.flagged_waiting hqs, hi] at hf
  exact hf

end

/-! ### Faults (R387, R390, R513) -/

theorem Ctx.traceTrigger_trace (c : Ctx) (stamp source detail layer op : Nat) : ∃ tr, c.traceTrigger stamp source detail layer op = { c with trace := tr } := by
  unfold Ctx.traceTrigger
  extract_lets t first b d
  split
  · split
    · exact ⟨_, rfl⟩
    · exact ⟨_, rfl⟩
  · exact ⟨c.trace, rfl⟩

section
variable (s : State) (k : Fin 16) (source detail layer op : Nat)

/-- A trigger writes into the trace of its own context, and raises and signals beside. -/
theorem State.trigger_ctx_same : ∃ tr, (s.trigger k source detail layer op).ctx k = { s.ctx k with trace := tr } := by
  unfold State.trigger
  extract_lets c c' u
  obtain ⟨tr, htr⟩ := Ctx.traceTrigger_trace c s.stamp source detail layer op
  have hu : u.ctx k = { s.ctx k with trace := tr } := (State.ctx_setCtx_same s k _).trans htr
  have hsig : ∀ n, (u.signalOut n).ctx k = u.ctx k := fun n => by unfold State.signalOut; split <;> rfl
  split
  · split
    · exact ⟨tr, (hsig 0).trans hu⟩
    · exact ⟨tr, hu⟩
  · exact ⟨(s.ctx k).trace, rfl⟩

theorem State.trigger_cores : (s.trigger k source detail layer op).cores = s.cores := by
  unfold State.trigger
  extract_lets c c' u
  have hsig : ∀ n, (u.signalOut n).cores = u.cores := fun n => by unfold State.signalOut; split <;> rfl
  split
  · split
    · exact hsig 0
    · rfl
  · rfl

theorem State.trigger_sluice : (s.trigger k source detail layer op).sluice = s.sluice := by
  unfold State.trigger
  extract_lets c c' u
  have hsig : ∀ n, (u.signalOut n).sluice = u.sluice := fun n => by unfold State.signalOut; split <;> rfl
  split
  · split
    · exact hsig 0
    · rfl
  · rfl

end

theorem State.haltCores_ctxs (s : State) (k : Fin 16) : (s.haltCores k).ctxs = s.ctxs := by
  unfold State.haltCores
  have hm : ∀ (t : State) (l : Nat), (t.modCore (lcidOf l) fun c => { c with halted := true }).ctxs = t.ctxs := fun _ _ => rfl
  exact foldl_part State.ctxs hm _ s

/-- A halt of a core leaves the task in service where it is. -/
theorem State.modCore_serving (s : State) (l m : Fin 64) (f : Core → Core) (hf : ∀ c, (f c).serving = c.serving) :
    ((s.modCore m f).core l).serving = (s.core l).serving := by
  by_cases h : l = m
  · rw [h, State.core_modCore_same, hf]
  · rw [State.core_modCore_other _ _ h]

theorem State.haltCores_serving (s : State) (k : Fin 16) (l : Fin 64) : ((s.haltCores k).core l).serving = (s.core l).serving := by
  unfold State.haltCores
  have hm : ∀ (t : State) (m : Nat), ((t.modCore (lcidOf m) fun c => { c with halted := true }).core l).serving = (t.core l).serving :=
    fun t m => t.modCore_serving l (lcidOf m) (fun c => { c with halted := true }) fun _ => rfl
  exact foldl_part (fun t => (State.core t l).serving) hm _ s

/-- The first fault of a context that tears it down: kept with its code and details; of the steps in flight only the causes change. -/
theorem State.fault_first {s : State} {k : Fin 16} {f : FaultInfo} (hp : (s.ctx k).phase ≠ .empty) (hn : (s.ctx k).fault = none)
    (hs : faultScope f.code ≠ 1) : (∃ g, ((s.fault k f).ctx k).fault = some g ∧ g.code = f.code ∧ g.detail1 = f.detail1 ∧ g.detail2 = f.detail2 ∧
        g.core = f.core) ∧ ((s.fault k f).ctx k).steps.map (·.insts) = (s.ctx k).steps.map (·.insts) := by
  unfold State.fault
  extract_lets c f1 f2 u
  have h2 : f2.code = f.code ∧ f2.detail1 = f.detail1 ∧ f2.detail2 = f.detail2 ∧ f2.core = f.core ∧ f2.scope = faultScope f.code := by
    unfold f2
    split
    · exact ⟨rfl, rfl, rfl, rfl, rfl⟩
    · exact ⟨rfl, rfl, rfl, rfl, rfl⟩
  obtain ⟨hcode, hd1, hd2, hcore, hscope⟩ := h2
  rw [if_neg hp, if_neg (by rw [hscope]; exact hs)]
  split
  next =>
    have hu : u.ctx k = { (s.ctx k).cause 8 with fault := some f2, withheld := true } := by
      unfold u
      rw [State.ctx_congr (State.haltCores_ctxs _ k) k]
      exact State.ctx_modCtx_same s k _
    obtain ⟨tr, htr⟩ := (u.raise (ctxPage k) 1).trigger_ctx_same k 2 f2.code f2.ids.1 f2.ids.2
    have hr : (u.raise (ctxPage k) 1).ctx k = u.ctx k := rfl
    rw [hr, hu] at htr
    rw [htr]
    refine ⟨⟨f2, rfl, hcode, hd1, hd2, hcore⟩, ?_⟩
    simp [Ctx.cause]
  next g hg => exact absurd (hn.symm.trans hg) (by simp)

theorem State.taskFault_first {s : State} {t : Task} {core code d1 d2 : Nat} {status : EndStatus} (hp : (s.ctx t.slot).phase ≠ .empty)
    (hn : (s.ctx t.slot).fault = none) (hs : faultScope code ≠ 1) :
    (∃ g, ((s.taskFault t core code d1 d2 status).ctx t.slot).fault = some g ∧ g.code = code ∧ g.detail1 = d1 ∧ g.detail2 = d2 ∧ g.core = core) ∧
      ((s.taskFault t core code d1 d2 status).ctx t.slot).steps.map (·.insts) = (s.ctx t.slot).steps.map (·.insts) := State.fault_first hp hn hs

/-- A fault takes no task out of service and puts none into it. -/
theorem State.fault_serving (s : State) (k : Fin 16) (f : FaultInfo) (l : Fin 64) : ((s.fault k f).core l).serving = (s.core l).serving := by
  have htrig : ∀ (u : State) a b c d, (((u.raise (ctxPage k) 1).trigger k a b c d).core l).serving = (u.core l).serving := fun u a b c d => by
    rw [State.core_congr (State.trigger_cores _ k a b c d) l]
    rfl
  unfold State.fault
  extract_lets c f1 f2 u
  split
  · rfl
  · split
    · exact htrig _ _ _ _ _
    · split
      · exact (htrig _ _ _ _ _).trans (State.haltCores_serving _ k l)
      · extract_lets g'
        exact htrig _ _ _ _ _

/-! ### Resolution (R118, R120) -/

section
variable {s : State} {k : Fin 16} {step n : Nat} {r : StepRun} (hr : (s.ctx k).run? step = some r)
include hr

/-- A count above the node's bound is a fault of the context, with the count and the bound. -/
theorem State.resolveNode_over (h0 : ((s.ctx k).node r.template n).fanoutSource ≠ 0)
    (hb : ((s.ctx k).node r.template n).fanoutMax < s.fanoutCount k r ((s.ctx k).node r.template n)) :
    s.resolveNode k step n = s.taskFault ((s.ctx k).nodeTask k r n (s.fanoutCount k r ((s.ctx k).node r.template n)) 0) 0xFF 0x07
      (s.fanoutCount k r ((s.ctx k).node r.template n)) ((s.ctx k).node r.template n).fanoutMax .normal := by
  simp only [State.resolveNode, hr, if_pos (⟨h0, hb⟩ : _ ∧ _ < _)]

theorem State.resolveNode_within (hb : ((s.ctx k).node r.template n).fanoutSource = 0 ∨
      s.fanoutCount k r ((s.ctx k).node r.template n) ≤ ((s.ctx k).node r.template n).fanoutMax)
    (hf : topFlow ((s.ctx k).node r.template n) r (s.fanoutCount k r ((s.ctx k).node r.template n)) = none) :
    s.resolveNode k step n = State.resolveNode.finish k step n s r (s.fanoutCount k r ((s.ctx k).node r.template n)) := by
  have hno : ¬ (((s.ctx k).node r.template n).fanoutSource ≠ 0 ∧
      s.fanoutCount k r ((s.ctx k).node r.template n) > ((s.ctx k).node r.template n).fanoutMax) := by omega
  simp only [State.resolveNode, hr, if_neg hno, hf]

theorem State.resolveNode_finish (hc : r.cancelled = false) (hn : n < r.insts.length) (count : Nat) :
    OnlyCtx k s (State.resolveNode.finish k step n s r count) ∧
      ∃ r', ((State.resolveNode.finish k step n s r count).ctx k).run? step = some r' ∧ (r'.inst n).count = count ∧
        (r'.inst n).state = if count = 0 then .complete else .resolved := by
  unfold State.resolveNode.finish
  extract_lets u
  have hu : OnlyCtx k s u := OnlyCtx.modCtx s k _
  have hP : Steady fun i => i.count = count ∧ i.state = .resolved := ⟨fun _ _ h => h, fun _ _ h => h, fun _ _ _ h => h⟩
  have hQ : Steady fun i => i.count = count := ⟨fun _ _ h => h, fun _ _ h => h, fun _ _ _ h => h⟩
  have hres : (u.ctx k).HasInst step n fun i => i.count = count ∧ i.state = .resolved := by
    unfold u
    rw [State.ctx_modCtx_same]
    exact (Ctx.HasInst.of_modInst hr hc hn ⟨rfl, rfl⟩).armFollowers hP _ _ _ _ _
  obtain ⟨q, hq, hqc, hqn, hqi, hqs⟩ := hres
  split
  · obtain ⟨p, hp, -, -, hpi, hps⟩ := State.completeNode_hasInst hQ ⟨q, hq, hqc, hqn, hqi⟩ fun _ h => h
    exact ⟨hu.trans (u.completeNode_onlyCtx k step n), p, hp, hpi, hps⟩
  · exact ⟨hu, q, hq, hqi, hqs⟩

end

/-! ### What the ends of tasks leave on the cores (R25, R140) -/

theorem State.setLedger_cores (s : State) (k : Fin 16) (l : Ledger) : (s.setLedger k l).cores = s.cores := rfl

theorem State.horizonWeirs_cores (s : State) : s.horizonWeirs.cores = s.cores := by
  have hp : ∀ (t : State) p, (t.peak p).cores = t.cores := fun t p => by rw [State.peak_rest]
  have hm : ∀ t u : State, (t.markCredits u).cores = t.cores := fun t u => by
    have hc : ∀ (v : State) (k : Fin 16), (v.modCtx k fun c => { c with began := { c.began with credits := v.time.ac } }).cores = v.cores := fun _ _ => rfl
    unfold State.markCredits
    extract_lets rise
    exact foldl_part State.cores hc _ t
  unfold State.horizonWeirs
  extract_lets
  exact (hp _ _).trans (hm _ _)

theorem State.sendNotice_cores (s : State) (k : Fin 16) (dest vc epoch : Nat) (body : MsgBody) : (s.sendNotice k dest vc epoch body).cores = s.cores := by
  unfold State.sendNotice
  extract_lets h
  split
  · split
    · exact State.horizonWeirs_cores _
    · rfl
  · exact State.sendMsg_cores _ _ _ _

theorem State.fetchEnd_cores (s : State) (t : Task) : (s.fetchEnd t).cores = s.cores := by
  unfold State.fetchEnd
  extract_lets c
  split
  · rfl
  · split
    · rfl
    · rfl
    · exact State.sendNotice_cores _ _ _ _ _ _

theorem State.serveEnd_cores (s : State) (t : Task) (length : Nat) (members : List (Nat × Nat × Nat × Nat)) : (s.serveEnd t length members).cores = s.cores := by
  have hm : ∀ (u : State) (m : Nat × Nat × Nat × Nat), (u.sendNotice t.slot m.1 0 t.epoch (.landing
      { lcid := m.2.1, window := m.2.2.1, offset := m.2.2.2, length := length, vid := 0, increment := 0 })).cores = u.cores :=
    fun u m => State.sendNotice_cores u _ _ _ _ _
  unfold State.serveEnd
  exact foldl_part State.cores hm _ s

theorem State.instanceEnded_cores (s : State) (k : Fin 16) (t : Task) : (s.instanceEnded k t).cores = s.cores := by
  unfold State.instanceEnded
  extract_lets c
  split
  · rfl
  · split
    · rfl
    · extract_lets u
      split
      · rfl
      · rfl

theorem State.moveEnd_cores (s : State) (k : Fin 16) (q gen g y p tier frame : Nat) : (s.moveEnd k q gen g y p tier frame).cores = s.cores := by
  unfold State.moveEnd
  extract_lets
  split
  · rfl
  · rfl

theorem State.importEnd_cores (s : State) (k : Fin 16) (q : Nat) : (s.importEnd k q).cores = s.cores := by
  have hd : ∀ (u : State) x, (u.importDone k x).cores = u.cores := fun u x => by unfold State.importDone; split <;> rfl
  unfold State.importEnd
  extract_lets u
  split
  · split
    · exact hd _ _
    · rfl
  · rfl

theorem State.exportDone_cores (s : State) (k : Fin 16) (q : Seq) : (s.exportDone k q).cores = s.cores := by
  unfold State.exportDone
  extract_lets c
  split
  extract_lets first u
  have hf : ∀ v : State, (v.freeSeq k q.id).cores = v.cores := fun v => v.setLedger_cores k _
  exact (hf _).trans ((State.pushRec_cores u _).trans (State.setLedger_cores _ _ _))

theorem State.exportEnd_cores (s : State) (k : Fin 16) (q : Nat) : (s.exportEnd k q).cores = s.cores := by
  unfold State.exportEnd
  extract_lets u
  split
  · split
    · exact State.exportDone_cores _ _ _
    · rfl
  · rfl

theorem State.dumpEnd_cores (s : State) (t : Task) (nameId dest : Nat) : (s.dumpEnd t nameId dest).cores = s.cores := by
  unfold State.dumpEnd
  extract_lets
  split
  · rfl
  · split
    · rfl
    · rfl

/-- What follows a normal end is about contexts, links and memory. -/
theorem State.normalEnd_cores (s : State) (t : Task) : (s.normalEnd t).cores = s.cores := by
  unfold State.normalEnd
  extract_lets k live u
  split
  · refine (State.instanceEnded_cores _ _ _).trans ?_
    unfold u
    split
    · exact State.fetchEnd_cores _ _
    · rfl
  · exact State.serveEnd_cores _ _ _ _
  · split
    · rfl
    · rfl
  · exact State.moveEnd_cores _ _ _ _ _ _ _ _ _
  · split
    · exact State.importEnd_cores _ _ _
    · rfl
  · exact State.exportEnd_cores _ _ _
  · exact State.dumpEnd_cores _ _ _ _

theorem State.statusEnd_serving (s : State) (l m : Fin 64) (t : Task) (r : EndReport) : ((s.statusEnd m t r).core l).serving = (s.core l).serving := by
  unfold State.statusEnd
  split
  · rw [State.core_congr (State.normalEnd_cores _ t) l]
    rfl
  · exact State.fault_serving _ _ _ _
  · split
    · exact State.fault_serving _ _ _ _
    · exact State.fault_serving _ _ _ _
  · rfl

theorem State.packetEnd_serving (s : State) (l m : Fin 64) (t : Task) : ((s.packetEnd m t).core l).serving = (s.core l).serving := by
  unfold State.packetEnd
  split
  · rfl
  · extract_lets u
    split
    · rfl
    · exact State.fault_serving _ _ _ _

theorem State.packetEnd_none {s : State} {l : Fin 64} (h : s.openPacket l.val = none) (t : Task) : s.packetEnd l t = s := by
  unfold State.packetEnd
  rw [h]

theorem State.reportedCrc_cores (s : State) (t : Task) (live : Bool) (crc : BitVec 16) : (s.reportedCrc t live crc).cores = s.cores := by
  unfold State.reportedCrc
  split
  · split
    · rfl
    · rfl
  · rfl
  · split
    · rfl
    · rfl
  · rfl

/-- A discarded SEND changes its core's wait and gives the core a result: no context, no packet, no task. -/
theorem State.discardStalled_part {α : Type} (f : State → α) (hf : ∀ s l, f (State.modCore s l fun q => { q with sendWait := none }) = f s)
    (hg : ∀ s l n r, f (State.giveResult s l n r) = f s) (s : State) (k : Fin 16) (closing : Nat → Bool) : f (s.discardStalled k closing) = f s := by
  unfold State.discardStalled
  refine foldl_part f (fun (t : State) (l : Nat) => ?_) _ s
  split
  · split
    · exact (hg _ _ _ _).trans (hf _ _)
    · rfl
  · rfl

/-- A core from which the task in service is taken. -/
def Core.ended (c : Core) : Core := (c.mapEntries fun x => if x.state = .inService then {} else x).clearTask

theorem Core.ended_serving (c : Core) : c.ended.serving = none := by
  have h : ∀ x : PondEntry, (if x.state = .inService then ({} : PondEntry) else x).state ≠ .inService := fun x => by
    split
    · decide
    · assumption
  have h0 : c.ended.e0.state ≠ .inService := h c.e0
  have h1 : c.ended.e1.state ≠ .inService := h c.e1
  simp only [Core.serving, if_neg h0, if_neg h1]

/-- What an end does to the context of its task before its status is looked at (R191, R295, R298, R356). -/
def Ctx.taskEnded (c : Ctx) (slotCode lcid : Nat) (t : Task) (r : EndReport) : Ctx :=
  let c := match t.flow with | some f => { c with flowsHeld := c.flowsHeld.erase f } | none => c
  let c := if c.mode = .scheduleExact ∧ r.cache then c.count 4 else c
  ((c.closeRings lcid).blockEnd t).digestTask slotCode 0 2 lcid t r.status.code r.checksum

/-- The phase of a context and its fault, if it has one. -/
def Ctx.health (c : Ctx) : Phase × Option FaultInfo := (c.phase, c.fault)

theorem Ctx.taskEnded_health (c : Ctx) (slotCode lcid : Nat) (t : Task) (r : EndReport) : (c.taskEnded slotCode lcid t r).health = c.health := by
  have hdigest : ∀ (d : Ctx) a b x y z w v, (d.digestTask a b x y z w v).health = d.health := fun d a b x y z w v => by
    unfold Ctx.digestTask
    split
    · rfl
    · rfl
  have hblock : ∀ d : Ctx, (d.blockEnd t).health = d.health := fun d => by
    unfold Ctx.blockEnd
    split
    · split
      · rfl
      · rfl
    · rfl
    · rfl
  unfold Ctx.taskEnded
  extract_lets d e
  have hd : d.health = c.health := by
    unfold d
    split
    · rfl
    · rfl
  have he : e.health = d.health := by
    unfold e
    split
    · rfl
    · rfl
  rw [hdigest, hblock]
  exact he.trans hd

/-- What the end of a task has done before its status is looked at: the core is clear, waiting SENDs are discarded, the context has noted
the end, an open packet is gone and a reported CRC filed. -/
def State.beforeStatus (s : State) (l : Fin 64) (e : PondEntry) (r : EndReport) : State :=
  let t := e.task
  let u := (s.modCore l Core.ended).discardStalled t.slot fun n => match ((s.modCore l Core.ended).ctx t.slot).ring? n with | some q => q.closesWith l.val | none => false
  let v := (u.modCtx t.slot fun c => c.taskEnded u.slotCode l.val t r).packetEnd l t
  match (s.core l).crc with
  | some x => if r.status = .normal then v.reportedCrc t ((((v.ctx t.slot).run? t.step).map fun r => !r.cancelled).getD true) x else v
  | none => v

theorem State.endTask_eq (s : State) (l : Fin 64) (e : PondEntry) :
    s.endTask l e = (s.beforeStatus l e (endReport (s.core l).halted e)).statusEnd l e.task (endReport (s.core l).halted e) := rfl

theorem State.beforeStatus_serving (s : State) (l : Fin 64) (e : PondEntry) (r : EndReport) : ((s.beforeStatus l e r).core l).serving = none := by
  have h0 : ((s.modCore l Core.ended).core l).serving = none := by rw [State.core_modCore_same, Core.ended_serving]
  unfold State.beforeStatus
  extract_lets t u v
  have hu : (u.core l).serving = none :=
    (State.discardStalled_part (fun s => (State.core s l).serving) (fun s m => s.modCore_serving l m _ fun _ => rfl) (fun _ _ _ _ => rfl) _ _ _).trans h0
  have hv : (v.core l).serving = none := (State.packetEnd_serving _ l l t).trans hu
  split
  · split
    · rw [State.core_congr (State.reportedCrc_cores v t _ _) l]
      exact hv
    · exact hv
  · exact hv

/-- A task that ends leaves its core (R25). -/
theorem State.endTask_serving (s : State) (l : Fin 64) (e : PondEntry) : ((s.endTask l e).core l).serving = none := by
  rw [State.endTask_eq, State.statusEnd_serving, State.beforeStatus_serving]

/-- A task that has reported nothing by the end of its span, on a core that is not halted, is a span overrun (R25, R140). -/
theorem State.endTask_overrun {s : State} {l : Fin 64} {e : PondEntry} (hr : e.report = none) (hh : (s.core l).halted = false)
    (ho : s.openPacket l.val = none) (hp : (s.ctx e.task.slot).phase ≠ .empty) (hf : (s.ctx e.task.slot).fault = none) :
    ∃ f, ((s.endTask l e).ctx e.task.slot).fault = some f ∧ f.code = 0x03 ∧ f.detail1 = e.task.span ∧ f.core = l.val := by
  have hend : endReport (s.core l).halted e = { status := .spanOverrun } := by
    rw [hh, endReport, hr]
    rfl
  rw [State.endTask_eq, hend]
  have hbefore : ((s.beforeStatus l e { status := .spanOverrun }).ctx e.task.slot).health = (s.ctx e.task.slot).health := by
    unfold State.beforeStatus
    extract_lets t u v
    have hctxs : u.ctxs = s.ctxs := State.discardStalled_part State.ctxs (fun _ _ => rfl) (fun _ _ _ _ => rfl) _ _ _
    have hpackets : u.packets = s.packets := State.discardStalled_part State.packets (fun _ _ => rfl) (fun _ _ _ _ => rfl) _ _ _
    have hopen : (u.modCtx t.slot fun c => c.taskEnded u.slotCode l.val t { status := .spanOverrun }).openPacket l.val = none := by
      have hw : (u.modCtx t.slot fun c => c.taskEnded u.slotCode l.val t { status := .spanOverrun }).packets = s.packets := hpackets
      unfold State.openPacket at ho ⊢
      rw [hw, ho]
    have hv : (v.ctx t.slot).health = (s.ctx t.slot).health := by
      unfold v
      rw [State.packetEnd_none hopen, State.ctx_modCtx_same, Ctx.taskEnded_health, State.ctx_congr hctxs]
    split
    · exact hv
    · exact hv
  obtain ⟨hphase, hfault⟩ := Prod.mk.inj hbefore
  obtain ⟨⟨f, hfs, hcode, hd, -, hcore⟩, -⟩ := State.taskFault_first (core := l.val) (d1 := e.task.span) (d2 := 0) (status := .spanOverrun)
    (by rw [hphase]; exact hp) (hfault.trans hf) (show faultScope 0x03 ≠ 1 by decide)
  exact ⟨f, hfs, hcode, hd, hcore⟩

/-! ### The choice of a target and the placement (R131–R134, R153) -/

section
variable {s : State} {t : Task} {taken : Placed}

theorem Core.hasFree_iff (c : Core) : c.hasFree = true ↔ c.e0.state = .free ∨ c.e1.state = .free := by
  simp [Core.hasFree]

theorem State.chooseTarget_core {g : Nat} (h : s.chooseTarget t taken = some g) (hk : t.kind ≠ .control) :
    g < 64 ∧ g ∉ taken.cores ∧ (s.core (lcidOf g)).hasFree = true := by
  have hg := List.find?_some h
  simp only [if_neg hk, Bool.and_eq_true, Bool.not_eq_true', List.contains_eq_mem, decide_eq_false_iff_not, decide_eq_true_eq] at hg
  obtain ⟨⟨hfresh, hlt⟩, hfree⟩ := hg
  exact ⟨hlt, hfresh, hfree⟩

theorem State.chooseTarget_ctrl {g : Nat} (h : s.chooseTarget t taken = some g) (hk : t.kind = .control) :
    g < 8 ∧ g ∉ taken.ctrls ∧ ∃ f, (s.frame (Fin.ofNat 8 g) f).state = .free := by
  have hg := List.find?_some h
  simp only [if_pos hk, Bool.and_eq_true, Bool.not_eq_true', List.contains_eq_mem, decide_eq_false_iff_not, decide_eq_true_eq] at hg
  obtain ⟨⟨hfresh, hlt⟩, hfree⟩ := hg
  obtain ⟨f, hf⟩ := Option.isSome_iff_exists.mp hfree
  exact ⟨hlt, hfresh, f, by simpa using List.find?_some hf⟩

theorem State.chooseTarget_mem {g : Nat} (h : s.chooseTarget t taken = some g) : g ∈ (s.ctx t.slot).preference t := List.mem_of_find?_eq_some h

theorem State.chooseTarget_none (h : s.chooseTarget t taken = none) (hk : t.kind ≠ .control) {g : Nat} (hg : g ∈ (s.ctx t.slot).preference t)
    (hlt : g < 64) (hfresh : g ∉ taken.cores) : (s.core (lcidOf g)).e0.state ≠ .free ∧ (s.core (lcidOf g)).e1.state ≠ .free := by
  have hno := List.find?_eq_none.mp h g hg
  simp only [if_neg hk, Bool.and_eq_true, Bool.not_eq_true', List.contains_eq_mem, decide_eq_false_iff_not, decide_eq_true_eq, not_and] at hno
  have hfull := hno ⟨hfresh, hlt⟩
  rw [Core.hasFree_iff] at hfull
  exact not_or.mp hfull

end

theorem lcidOf_val (g : Fin 64) : lcidOf g.val = g := by simp [lcidOf]

/-- A task placed on a compute core: loading in its lowest free entry, in the order of placement (R131, R134). -/
theorem State.place_core {s : State} {t : Task} (g : Fin 64) (hk : t.kind ≠ .control) : ∃ e, e.state = .loading ∧ e.task = t ∧ e.order = s.placeOrder ∧
    (s.place t g.val).placeOrder = s.placeOrder + 1 ∧ (∀ l, l ≠ g → (s.place t g.val).core l = s.core l) ∧
    (∀ j, j ≠ t.slot → (s.place t g.val).ctx j = s.ctx j) ∧ (s.place t g.val).core g = (s.core g).load e ∧ (s.place t g.val).ctrl = s.ctrl := by
  unfold State.place
  extract_lets k e u v on
  have hu : u = s.modCore g (·.load e) := by
    unfold u
    rw [if_neg hk, lcidOf_val]
  have hcores : ∀ l, v.core l = u.core l := fun _ => rfl
  have hctx : ∀ j, j ≠ t.slot → v.ctx j = u.ctx j := fun j hj => State.ctx_modCtx_other u _ hj
  refine ⟨e, rfl, rfl, rfl, ?_, fun l hl => ?_, fun j hj => ?_, ?_, ?_⟩
  · show v.placeOrder + 1 = _
    have : v.placeOrder = u.placeOrder := rfl
    rw [this, hu]
    rfl
  · exact (hcores l).trans (by rw [hu, State.core_modCore_other _ _ hl])
  · exact (hctx j hj).trans (by rw [hu]; rfl)
  · exact (hcores g).trans (by rw [hu, State.core_modCore_same])
  · show u.ctrl = _
    rw [hu]
    rfl

theorem State.frame_setFrame_same (s : State) (c f : Fin 8) (v : Frame) : (s.setFrame c f v).frame c f = v := by
  simp [State.frame, State.setFrame]

theorem State.frame_setFrame_other (s : State) {c f d g : Fin 8} (h : (d, g) ≠ (c, f)) (v : Frame) : (s.setFrame c f v).frame d g = s.frame d g := by
  by_cases hd : c = d
  · subst hd
    have hg : f.val ≠ g.val := fun e => h (by rw [Fin.ext e])
    simp [State.frame, State.setFrame, hg]
  · have hd' : c.val ≠ d.val := fun e => hd (Fin.ext e)
    simp [State.frame, State.setFrame, hd']

/-- A control task placed: loading in the lowest free frame of its control core (R153). -/
theorem State.place_ctrl {s : State} {t : Task} {g f : Fin 8} (hk : t.kind = .control) (hf : s.freeFrame g = some f) :
    (s.place t g.val).frame g f = { state := .loading, task := t } ∧ (∀ d h, (d, h) ≠ (g, f) → (s.place t g.val).frame d h = s.frame d h) ∧
      (s.place t g.val).cores = s.cores ∧ ∀ j, j ≠ t.slot → (s.place t g.val).ctx j = s.ctx j := by
  unfold State.place
  extract_lets k e u v on
  have hg : Fin.ofNat 8 g.val = g := by simp
  have hu : u = s.setFrame g f { state := .loading, task := t } := by
    unfold u
    rw [if_pos hk, hg]
    simp only [hf]
  have hframe : ∀ d h, v.frame d h = u.frame d h := fun _ _ => rfl
  have hctx : ∀ j, j ≠ t.slot → v.ctx j = u.ctx j := fun j hj => State.ctx_modCtx_other u _ hj
  refine ⟨?_, fun d h hne => ?_, ?_, fun j hj => ?_⟩
  · exact (hframe g f).trans (by rw [hu, State.frame_setFrame_same])
  · exact (hframe d h).trans (by rw [hu, State.frame_setFrame_other _ hne])
  · show u.cores = _
    rw [hu]
    rfl
  · exact (hctx j hj).trans (by rw [hu]; rfl)

/-! ### The thread switch (R157) -/

/-- The frame that a control core switches in is ready, of a context at work, and no such frame has a lower key. -/
theorem State.nextThread_spec {s : State} {c f : Fin 8} (h : s.nextThread c = some f) :
    (s.frame c f).state = .ready ∧ s.works (s.frame c f).task.slot = true ∧
      ∀ g, (s.frame c g).state = .ready → s.works (s.frame c g).task.slot = true → (s.frame c f).task.key ≤ (s.frame c g).task.key := by
  unfold State.nextThread at h
  generalize hl : (allCtrl.filter fun f => (s.frame c f).state == .ready && s.works (s.frame c f).task.slot) = ready at h
  have hready : ∀ g, g ∈ ready ↔ (s.frame c g).state = .ready ∧ s.works (s.frame c g).task.slot = true := fun g => by
    rw [← hl]
    simp [allCtrl]
  have hsorted := List.pairwise_mergeSort (le := fun a b => decide ((s.frame c a).task.key ≤ (s.frame c b).task.key))
    (fun a b d hab hbd => by simp only [decide_eq_true_eq] at *; omega) (fun a b => by simp only [Bool.or_eq_true, decide_eq_true_eq]; omega) ready
  have hmem : ∀ g, g ∈ ready.mergeSort (fun a b => decide ((s.frame c a).task.key ≤ (s.frame c b).task.key)) ↔ g ∈ ready := fun g => List.mem_mergeSort
  generalize ready.mergeSort (fun a b => decide ((s.frame c a).task.key ≤ (s.frame c b).task.key)) = sorted at h hsorted hmem
  cases sorted with
  | nil => exact absurd h (by simp)
  | cons x xs =>
    obtain rfl : x = f := Option.some.inj h
    obtain ⟨hfirst, -⟩ := List.pairwise_cons.mp hsorted
    obtain ⟨hs, hw⟩ := (hready x).mp ((hmem x).mp (List.mem_cons_self ..))
    refine ⟨hs, hw, fun g hgs hgw => ?_⟩
    obtain rfl | hg := List.mem_cons.mp ((hmem g).mpr ((hready g).mpr ⟨hgs, hgw⟩))
    · exact Nat.le_refl _
    · exact of_decide_eq_true (hfirst g hg)

theorem State.threadSwitch_in {s : State} {c f : Fin 8} (hr : s.runningFrame c = none) (hn : s.nextThread c = some f) :
    s.threadSwitch c = s.switchIn c f := by
  simp only [State.threadSwitch, hr, hn]

theorem State.threadSwitch_stays {s : State} {c f : Fin 8} (hr : s.runningFrame c = some f) (hs : (s.frame c f).slice < (s.frame c f).task.span) :
    s.threadSwitch c = s := by
  have hno : ¬ ((s.frame c f).slice ≥ (s.frame c f).task.span ∧
      (allCtrl.any fun f => (s.frame c f).state == .ready && s.works (s.frame c f).task.slot) = true ∧ s.works (s.frame c f).task.slot = true) := by omega
  simp only [State.threadSwitch, hr, if_neg hno]

theorem State.switchIn_spec (s : State) (c f : Fin 8) :
    (s.switchIn c f).frame c f = { s.frame c f with state := .running, slice := 0, started := true } ∧
      (∀ d g, (d, g) ≠ (c, f) → (s.switchIn c f).frame d g = s.frame d g) ∧
      s.switchIn c f = { s with ctrl := (s.switchIn c f).ctrl, ctxs := (s.switchIn c f).ctxs } := by
  unfold State.switchIn
  extract_lets v u
  have hu : ∀ (w : State), w.ctrl = u.ctrl → w.frame c f = { s.frame c f with state := .running, slice := 0, started := true } ∧
      ∀ d g, (d, g) ≠ (c, f) → w.frame d g = s.frame d g := fun w hw => by
    have hf : ∀ d g, w.frame d g = u.frame d g := fun d g => by simp only [State.frame, hw]
    exact ⟨(hf c f).trans (State.frame_setFrame_same s c f _), fun d g h => (hf d g).trans (State.frame_setFrame_other s h _)⟩
  split
  · obtain ⟨h1, h2⟩ := hu u rfl
    exact ⟨h1, h2, rfl⟩
  · obtain ⟨h1, h2⟩ := hu (u.modCtx v.task.slot (·.digestTask u.slotCode 3 1 (0x80 + c.val) v.task 0 0)) rfl
    exact ⟨h1, h2, rfl⟩

/-! ### The completion of a step (R102, R456) -/

/-- The numbers of a context's steps in flight, the last step completed, its progress mark, and whether its records are withheld or wait. -/
def Ctx.stepView (c : Ctx) : List Nat × Option Nat × Bool × Bool × Bool :=
  (c.steps.map (·.step), c.lastCompleted, c.progress, c.withheld, c.lock.active)

/-- From `s` to `t` the steps of context `k` stand as they stood, and no record that was due is gone. -/
structure StepsStand (k : Fin 16) (s t : State) : Prop where
  view : (t.ctx k).stepView = (s.ctx k).stepView
  due : ∀ q ∈ s.sluice.due, q ∈ t.sluice.due

theorem StepsStand.refl (k : Fin 16) (s : State) : StepsStand k s s := ⟨rfl, fun _ h => h⟩

theorem StepsStand.trans {k : Fin 16} {s t u : State} (h : StepsStand k s t) (g : StepsStand k t u) : StepsStand k s u :=
  ⟨g.view.trans h.view, fun q hq => g.due q (h.due q hq)⟩

theorem StepsStand.foldl {k : Fin 16} {α : Type} {f : State → α → State} (hf : ∀ s x, StepsStand k s (f s x)) (l : List α) (s : State) :
    StepsStand k s (l.foldl f s) := by
  induction l generalizing s with
  | nil => exact .refl k s
  | cons x xs ih => exact (hf s x).trans (ih _)

section
variable (s : State) (k : Fin 16)

theorem StepsStand.modCtx (f : Ctx → Ctx) (hf : (f (s.ctx k)).stepView = (s.ctx k).stepView) : StepsStand k s (s.modCtx k f) :=
  ⟨by rw [State.ctx_modCtx_same, hf], fun _ h => h⟩

theorem StepsStand.pushRec (q : Rec) : StepsStand k s (s.pushRec q) := ⟨rfl, fun _ h => List.mem_append_left _ h⟩

theorem StepsStand.trigger (a b c d : Nat) : StepsStand k s (s.trigger k a b c d) := by
  obtain ⟨tr, htr⟩ := s.trigger_ctx_same k a b c d
  exact ⟨by rw [htr]; rfl, fun q h => by rw [State.trigger_sluice]; exact h⟩

theorem StepsStand.setLedger (l : Ledger) : StepsStand k s (s.setLedger k l) := by
  have h := StepsStand.modCtx s k (fun c => { c with ledger := l }) rfl
  exact ⟨h.view, h.due⟩

theorem StepsStand.stepRecord (q : Rec) : StepsStand k s (s.stepRecord k q) := by
  unfold State.stepRecord
  extract_lets c
  split
  · exact .refl k s
  · split
    · exact .modCtx s k _ rfl
    · exact .pushRec s k q

/-- A record-only fault is filed as a record and noted on the steps in flight (R398, R457). -/
theorem StepsStand.fault {f : FaultInfo} (hs : faultScope f.code = 1) : StepsStand k s (s.fault k f) := by
  unfold State.fault
  extract_lets c f1 f2 u
  have hscope : f2.scope = 1 := by
    unfold f2
    split
    · exact hs
    · exact hs
  by_cases hp : c.phase = .empty
  · rw [if_pos hp]
    exact .refl k s
  · rw [if_neg hp, if_pos hscope]
    have hcause : StepsStand k s (s.modCtx k (·.cause 8)) := .modCtx s k _ (by simp [Ctx.stepView, Ctx.cause])
    have hraise : ∀ v : State, StepsStand k v (v.raise (ctxPage k) 1) := fun v => ⟨rfl, fun _ h => h⟩
    exact ((hcause.trans (.pushRec _ k _)).trans (hraise _)).trans (.trigger _ k _ _ _ _)

theorem StepsStand.deadlines (r : StepRun) : StepsStand k s (s.deadlines k r) := by
  unfold State.deadlines
  extract_lets c due ticks causes missed
  refine StepsStand.foldl (fun u m => ?_) missed s
  extract_lets v
  have hv : StepsStand k u v := (StepsStand.stepRecord u k _).trans (.trigger _ k _ _ _ _)
  split
  · exact (hv.trans (.modCtx v k _ rfl)).trans (.fault _ k (show faultScope 0x1F = 1 by decide))
  · exact hv

theorem StepsStand.freeSeq (q : Nat) : StepsStand k s (s.freeSeq k q) := .setLedger s k _

theorem StepsStand.exportDone (q : Seq) : StepsStand k s (s.exportDone k q) := by
  unfold State.exportDone
  extract_lets c
  split
  extract_lets first u
  exact ((StepsStand.setLedger s k _).trans (.pushRec _ k _)).trans (.freeSeq _ k q.id)

theorem Ctx.pageTask_stepView (c : Ctx) (r : Rates) (node : Nat) (p : Page) (service : Service) : (c.pageTask k r node p service).stepView = c.stepView := rfl

theorem StepsStand.beginExport (q : Seq) : StepsStand k s (s.beginExport k q) := by
  have hfold : ∀ (r : Rates) (ps : List Page) (c : Ctx),
      (ps.foldl (fun c p => c.pageTask k r 0xFFFD p (.exportPage q.id p.group p.layer p.page)) c).stepView = c.stepView := fun r ps => by
    induction ps with
    | nil => exact fun _ => rfl
    | cons p ps ih => exact fun c => (ih _).trans (c.pageTask_stepView k r _ p _)
  unfold State.beginExport
  extract_lets r c u
  exact (StepsStand.modCtx s k (fun _ => c) (hfold r _ _)).trans (.setLedger _ k _)

theorem StepsStand.finishLeaves : StepsStand k s (s.finishLeaves k) := by
  unfold State.finishLeaves
  extract_lets c isOver
  refine StepsStand.foldl (fun u q => ?_) isOver s
  split
  · exact .freeSeq u k q.id
  · split
    · exact .exportDone u k q
    · exact .beginExport u k q

theorem StepsStand.sendStepReport (step : Nat) (cancelled : Bool) : StepsStand k s (s.sendStepReport k step cancelled) := by
  unfold State.sendStepReport
  split
  · extract_lets r
    have hview := State.sendCtrl_part (fun t => (t.ctx k).stepView) k (fun t d => by simp only [State.ctx_modCtx_same]; rfl) (fun _ _ _ _ _ => rfl)
      (fun _ _ => rfl) s (s.headwaterAddr k) (.stepReport step cancelled (s.linkShare k) r.r1 r.r2)
    have hdue := State.sendCtrl_part State.sluice k (fun _ _ => rfl) (fun _ _ _ _ _ => rfl) (fun _ _ => rfl) s (s.headwaterAddr k)
      (.stepReport step cancelled (s.linkShare k) r.r1 r.r2)
    exact ⟨hview, fun q hq => by rw [hdue]; exact hq⟩
  · exact .refl k s

end

theorem Ctx.digestStep_inactive {c : Ctx} (h : c.lock.active = false) (slot rank kind step : Nat) : c.digestStep slot rank kind step = c := by
  simp only [Ctx.digestStep, h, Bool.false_eq_true, if_false]

/-- A completed step has left the steps in flight, and its record is due (R102, R456). -/
theorem State.completeStep_spec {s : State} {k : Fin 16} {r : StepRun} (hw : (s.ctx k).withheld = false) (hl : (s.ctx k).lock.active = false) :
    ((s.completeStep k r).ctx k).steps.map (·.step) = ((s.ctx k).steps.map (·.step)).filter (· != r.step) ∧
      ((s.completeStep k r).ctx k).lastCompleted = some r.step ∧ ((s.completeStep k r).ctx k).progress = true ∧
      stepRec (s.ctx k) k r 0 (s.recordDue k) ∈ (s.completeStep k r).sluice.due := by
  unfold State.completeStep
  extract_lets c s1 s2 s3 s4 s5 s6
  have h1 : s1 = s.pushRec (stepRec c k r 0 (s.recordDue k)) := by
    unfold s1 State.stepRecord
    simp only [hw, hl, Bool.false_eq_true, if_false]
  have hmem : stepRec c k r 0 (s.recordDue k) ∈ s1.sluice.due := by
    rw [h1]
    exact List.mem_append_right _ (List.mem_singleton_self _)
  have h3 : StepsStand k s1 s3 := by
    refine (StepsStand.deadlines s1 k r).trans ?_
    unfold s3
    split
    · exact .refl k _
    · exact .setLedger _ k _
  have hview : (s3.ctx k).stepView = c.stepView := by
    rw [h3.view, h1]
    rfl
  obtain ⟨hsteps, hview⟩ := Prod.mk.inj hview
  obtain ⟨-, hview⟩ := Prod.mk.inj hview
  obtain ⟨-, hview⟩ := Prod.mk.inj hview
  obtain ⟨-, hlock⟩ := Prod.mk.inj hview
  have h4 : (s4.ctx k).stepView = (((s3.ctx k).steps.filter fun x => x.step != r.step).map (·.step), some r.step, true, (s4.ctx k).withheld,
      (s4.ctx k).lock.active) := by
    unfold s4
    simp only [State.ctx_modCtx_same, Ctx.digestStep_inactive (hlock.trans hl)]
    rfl
  have h6 : StepsStand k s4 (s6.sendStepReport k r.step false) := by
    have h5 : StepsStand k s4 s5 := .modCtx s4 k _ rfl
    have h56 : StepsStand k s5 s6 := by
      unfold s6
      split
      · exact .refl k _
      · exact .finishLeaves s5 k
    exact (h5.trans h56).trans (.sendStepReport s6 k _ _)
  obtain ⟨hfinal, hview⟩ := Prod.mk.inj (h6.view.trans h4)
  obtain ⟨hlast, hview⟩ := Prod.mk.inj hview
  obtain ⟨hprogress, -⟩ := Prod.mk.inj hview
  refine ⟨?_, hlast, hprogress, h6.due _ (h3.due _ hmem)⟩
  rw [hfinal, ← hsteps, List.filter_map]
  rfl

/-! ### The position in time at a slot boundary (R38–R41) -/

/-- Where a time unit stands in the slot grid: slot, offset, count of slot boundaries, local tick, and whether in the margin. -/
def TimeUnit.place (t : TimeUnit) : Nat × Nat × Nat × Nat × Bool := (t.slot, t.offset, t.slotCount, t.localTick, t.inMargin)

/-- What the GTC and the cycles of a slot leave alone of that: count of slot boundaries, slot and local tick. -/
def TimeUnit.counts (t : TimeUnit) : Nat × Nat × Nat := (t.slotCount, t.slot, t.localTick)

theorem TimeUnit.place_of_grid {t u : TimeUnit} (h : t.grid = u.grid) : t.place = u.place := (congrArg TimeUnit.place h : t.grid.place = u.grid.place)

theorem TimeUnit.counts_of_grid {t u : TimeUnit} (h : t.grid = u.grid) : t.counts = u.counts := (congrArg TimeUnit.counts h : t.grid.counts = u.grid.counts)

theorem State.catchUp_counts (p n : Nat) (s : State) : (s.catchUp p n).time.counts = s.time.counts := by
  induction n generalizing s with
  | zero => rfl
  | succ n ih =>
    unfold State.catchUp
    split
    · exact (ih _).trans rfl
    · rfl

theorem State.boundaryIn_still {s0 s : State} (b : BoundaryIn) (h : Still s0 s) : Still s0 (s.boundaryIn b) := by
  unfold State.boundaryIn
  extract_lets stores bad stores' u
  have hu : Still s0 u := Still.foldl (fun t x ht => State.regionFault_still x ht) h
  refine State.countPorts_still b ?_
  with_reducible exact Still.upd hu rfl

/-- A slot of a tick in progress, with no clock restart before it, has its cycles up to offset 255 left. -/
theorem State.acLeft_slot {s : State} (ht : s.time.tickRunning = true) (hm : s.time.inMargin = false) (hr : s.time.resync = false) :
    s.acLeft = some (255 - s.time.offset) := by
  simp [State.acLeft, ht, hm, hr]

/-- The end of a slot before the GTC is looked at: its cycles have passed, its inputs are in, it is counted. -/
def State.slotEnd (s : State) (b : BoundaryIn) : State := (s.runOut.sendTests.boundaryIn b).slotPassed

theorem State.slotEnd_grid {s : State} (ht : s.time.tickRunning = true) (hm : s.time.inMargin = false) (hr : s.time.resync = false) (b : BoundaryIn) :
    (s.slotEnd b).time.grid = (s.time.after (255 - s.time.offset)).grid ∧ (s.slotEnd b).config = s.config := by
  have hrun : s.runOut = s.advance (255 - s.time.offset) := by simp only [State.runOut, State.acLeft_slot ht hm hr]
  have hstill : Still s.runOut (s.slotEnd b) := State.slotPassed_still (State.boundaryIn_still b (State.sendTests_still (Still.refl _)))
  obtain ⟨hgrid, hconfig⟩ := s.advance_time (255 - s.time.offset)
  rw [← hrun] at hgrid hconfig
  exact ⟨hstill.grid.trans hgrid, hstill.config.trans hconfig⟩

theorem State.endSlot_counts {s : State} (ht : s.time.tickRunning = true) (hm : s.time.inMargin = false) (hr : s.time.resync = false) (b : BoundaryIn) :
    (s.endSlot b).time.counts = s.time.counts :=
  (State.catchUp_counts _ _ (s.slotEnd b)).trans ((TimeUnit.counts_of_grid (State.slotEnd_grid ht hm hr b).1).trans rfl)

/-- The gap record changes of the time unit only that it no longer waits. -/
theorem State.gapDue_place (s : State) : s.gapDue.time.place = s.time.place := by
  unfold State.gapDue
  split
  · rfl
  · exact (TimeUnit.place_of_grid (State.gap_still _ _ _ (Still.refl _)).grid).trans rfl

theorem State.newSlot_place (s : State) (slot : Nat) (margin : Bool) (stretch : List Nat) :
    (s.newSlot slot margin stretch).time.place = (slot, 0, s.time.slotCount, s.time.localTick, margin) := by
  simp only [State.newSlot, TimeUnit.place, State.countWeirs_time]

/-- A slot boundary within a tick up to the ends of its tasks (R115): the slot is over, the next has begun, and what stood due for the
boundary itself is done. -/
def State.boundaryBegun (s : State) (b : BoundaryIn) : State :=
  let s := ((s.endSlot b).newSlot ((s.endSlot b).time.slot + 1) false b.stretched).gapDue
  let s := { s with time := { s.time with slotCount := s.time.slotCount + 1 } }
  (allSlots.foldl (·.resumeHere ·) s.pageBoundary).teardowns

theorem State.boundaryBegun_place {s : State} (ht : s.time.tickRunning = true) (hm : s.time.inMargin = false) (hr : s.time.resync = false) (b : BoundaryIn) :
    (s.boundaryBegun b).time.place = (s.time.slot + 1, 0, s.time.slotCount + 1, s.time.localTick, false) := by
  obtain ⟨hcount, hcounts⟩ := Prod.mk.inj (State.endSlot_counts ht hm hr b)
  obtain ⟨hslot, htick⟩ := Prod.mk.inj hcounts
  unfold State.boundaryBegun
  extract_lets u w v
  have hu : u.time.place = (s.time.slot + 1, 0, s.time.slotCount, s.time.localTick, false) := by
    rw [State.gapDue_place, State.newSlot_place, hslot, hcount, htick]
  clear_value u
  have hv : v.time.place = (s.time.slot + 1, 0, s.time.slotCount + 1, s.time.localTick, false) := by
    simp only [TimeUnit.place, Prod.mk.injEq] at hu
    obtain ⟨h1, h2, h3, h4, h5⟩ := hu
    have hp : v.time.place = (u.time.slot, u.time.offset, u.time.slotCount + 1, u.time.localTick, u.time.inMargin) := rfl
    rw [hp, h1, h2, h3, h4, h5]
  refine (TimeUnit.place_of_grid ?_).trans hv
  exact (State.teardowns_still (Still.foldl (fun _ k h => State.resumeHere_still k h) (State.pageBoundary_still (Still.refl v)))).grid

/-- SLOT_BOUNDARY within a tick whose slots stand in the grid: the boundary begins, then the ends, the threads' commands, the board inputs'
actions, and the start of the slot (R115). -/
theorem exec_slotBoundary {s : State} (ht : s.time.tickRunning = true) (hm : s.time.inMargin = false) (hr : s.time.resync = false)
    (hs : s.time.slot + 1 < s.cfg.slotsPerTick) (b : BoundaryIn) :
    exec (.slotBoundary b) s = .next (s.boundaryBegun b).ends.threadEnds.extActions.startSlot := by
  have hcloses : s.slotCloses = true := by simp [State.slotCloses, hr]
  have hno : ¬ s.time.slot + 1 ≥ s.cfg.slotsPerTick := by omega
  obtain ⟨-, hcounts⟩ := Prod.mk.inj (State.endSlot_counts ht hm hr b)
  obtain ⟨hslot, -⟩ := Prod.mk.inj hcounts
  have e : exec (.slotBoundary b) s = .next (s.slotBoundary b) := rfl
  rw [e]
  unfold State.slotBoundary State.boundaryBegun
  simp only [ht, hm, hcloses, decide_eq_false hno, Bool.not_true, Bool.or_false, Bool.false_eq_true, if_false, hslot]

/-- The position of the ac after the cycles of a slot, by the stretched cycles among them. -/
theorem TimeUnit.nextRef_after {t : TimeUnit} (ht : t.tickRunning = true) (n : Nat) : (t.after n).nextRef = t.ref + (n + 1) + t.longer (n + 1) := by
  have hl : t.longer (n + 1) = t.longer n + b2n (t.stretchNow.contains (t.offset + n)) := by
    unfold TimeUnit.longer
    rw [List.range_succ, List.countP_append]
    simp [b2n, List.countP_cons]
  have ho : (t.after n).offset = t.offset + n := by simp [TimeUnit.after, ht]
  have hr : (t.after n).ref = t.ref + n + t.longer n := rfl
  rw [TimeUnit.nextRef, ho, hr, TimeUnit.stretchNow_after, hl]
  omega

/-- What tells whether a GTC boundary falls on the ac that comes: the GTC, the local tick, that ac's position, the last boundary and the trim. -/
def TimeUnit.gtcView (t : TimeUnit) : Nat × Nat × Nat × Nat × Int := (t.gtc, t.localTick, t.nextRef, t.boundaryRef, t.nextTrim)

theorem TimeUnit.gtcView_of_grid {t u : TimeUnit} (h : t.grid = u.grid) : t.gtcView = u.gtcView :=
  (congrArg TimeUnit.gtcView h : t.grid.gtcView = u.grid.gtcView)

theorem TimeUnit.gtcView_after (t : TimeUnit) (n : Nat) : (t.after n).gtcView = (t.gtc, t.localTick, (t.after n).nextRef, t.boundaryRef, t.nextTrim) := by
  unfold TimeUnit.gtcView
  rfl

/-- Where the GTC stands at the local tick and no boundary of it falls on the end of slot N − 1, that end brings neither a boundary nor the
lag limit. -/
theorem State.endLast_slotEnd {s : State} (ht : s.time.tickRunning = true) (hm : s.time.inMargin = false) (hr : s.time.resync = false)
    (hg : s.time.gtc = s.time.localTick) (hb : s.time.ref + (255 - s.time.offset + 1) + s.time.longer (255 - s.time.offset + 1) < s.nextBoundary)
    (b : BoundaryIn) : s.endLast b = s.slotEnd b ∧ (s.slotEnd b).time.noMargin = false := by
  obtain ⟨hgrid, hconfig⟩ := State.slotEnd_grid ht hm hr b
  have hview := TimeUnit.gtcView_of_grid hgrid
  rw [TimeUnit.gtcView_after] at hview
  obtain ⟨hgtc, hview⟩ := Prod.mk.inj hview
  obtain ⟨htick, hview⟩ := Prod.mk.inj hview
  obtain ⟨hnext, hview⟩ := Prod.mk.inj hview
  obtain ⟨hbref, htrim⟩ := Prod.mk.inj hview
  have hbound : (s.slotEnd b).nextBoundary = s.nextBoundary := by
    unfold State.nextBoundary
    rw [hbref, htrim, State.tickLength_congr hconfig]
  have hnone : s.endSlot b = s.slotEnd b := by
    refine State.gtcUp_none (s := s.slotEnd b) ?_
    rw [hbound, hnext, TimeUnit.nextRef_after ht]
    exact hb
  have hle : (s.slotEnd b).time.gtc ≤ (s.slotEnd b).time.localTick := by omega
  refine ⟨?_, by simp [TimeUnit.noMargin, Nat.not_lt.mpr hle]⟩
  unfold State.endLast
  rw [hnone]
  simp [State.lagTest, hle]

/-- The margin up to the ends of the tasks that close with slot N − 1 (R116). -/
def State.marginBegun (s : State) (b : BoundaryIn) : State := ((s.slotEnd b).newSlot (s.slotEnd b).time.slot true b.stretched).gapDue

theorem State.marginBegun_place {s : State} (ht : s.time.tickRunning = true) (hm : s.time.inMargin = false) (hr : s.time.resync = false) (b : BoundaryIn) :
    (s.marginBegun b).time.place = (s.time.slot, 0, s.time.slotCount, s.time.localTick, true) := by
  obtain ⟨hcount, hcounts⟩ := Prod.mk.inj (TimeUnit.counts_of_grid (State.slotEnd_grid ht hm hr b).1)
  obtain ⟨hslot, htick⟩ := Prod.mk.inj hcounts
  unfold State.marginBegun
  rw [State.gapDue_place, State.newSlot_place, hcount, hslot, htick]
  rfl

theorem exec_marginStart {s : State} (ht : s.time.tickRunning = true) (hm : s.time.inMargin = false) (hr : s.time.resync = false)
    (hs : s.time.slot + 1 = s.cfg.slotsPerTick) (hg : s.time.gtc = s.time.localTick)
    (hb : s.time.ref + (255 - s.time.offset + 1) + s.time.longer (255 - s.time.offset + 1) < s.nextBoundary) (b : BoundaryIn) :
    exec (.marginStart b) s = .next (s.marginBegun b).ends.closeSteps.work := by
  obtain ⟨hend, hmargin⟩ := State.endLast_slotEnd ht hm hr hg hb b
  have hcloses : s.slotCloses = true := by simp [State.slotCloses, hr]
  have hlast : s.inLastSlot = true := by simp [State.inLastSlot, ht, hm, hs]
  have e : exec (.marginStart b) s = .next (s.marginStart b) := rfl
  rw [e]
  unfold State.marginStart
  simp only [hlast, hcloses, Bool.and_self, if_true, hend, hmargin, Bool.false_eq_true, if_false]
  rfl

/-! ### BoundaryWork -/

/-- The order of a slot boundary's work: the parts of `startSlot`, the dispatch among them. -/
theorem State.startSlot_eq (s : State) : s.startSlot = allSlots.foldl (·.afterSwitch ·) (allCtrl.foldl (·.threadSwitch ·) (allSlots.foldl (·.beforeSwitch ·)
    (allSlots.foldl (·.sealCheck ·) (State.startAll (allSlots.foldl (fun t k => if (t.ctx k).runs then t.scrubDue k else t) s)).work))) := by
  unfold State.startSlot State.dispatch
  rfl

/-- Settles O23: the order of the work at a boundary, and then what each part of it does, one rule for each. -/
theorem boundaryWork : Obligations.BoundaryWork := by
  refine ⟨fun b s ht hm hr => ⟨fun hs => ?_, ?_⟩, fun l e s _ => ?_, fun k t r i s hr hc hi hn => ?_, fun c step tpl e => ?_, fun c step n now v r hr hc hn hw => ?_, ?_, fun t taken s => ?_,
    fun c s => ?_, fun k r s _ hw hl => ?_⟩
  · have hplace := State.boundaryBegun_place ht hm hr b
    simp only [TimeUnit.place, Prod.mk.injEq] at hplace
    obtain ⟨hslot, hoff, hcount, htick, -⟩ := hplace
    exact ⟨s.boundaryBegun b, _, hslot, hoff, hcount, htick, rfl, (exec_slotBoundary ht hm hr hs b).trans (congrArg _ (State.startSlot_eq _))⟩
  · rintro n hs rfl hg hb
    have hplace := State.marginBegun_place ht hm hr b
    simp only [TimeUnit.place, Prod.mk.injEq] at hplace
    obtain ⟨hslot, hoff, -, htick, hin⟩ := hplace
    exact ⟨s.marginBegun b, hin, hoff, hslot, htick, exec_marginStart ht hm hr hs hg hb b⟩
  · exact ⟨_, rfl, s.endTask_serving l e, fun hr hh ho hp hf => State.endTask_overrun hr hh ho hp hf⟩
  · refine ⟨fun h => ?_, fun h hp hb => ?_⟩
    · obtain ⟨honly, r', hrun, hinst, ho⟩ := State.instanceEnded_counts hr hc hi hn h
      exact ⟨_, r', rfl, honly, hrun, hinst, ho⟩
    · obtain ⟨honly, r', hrun, hst, hend⟩ := State.instanceEnded_last hr hc hi hn h hp hb
      exact ⟨_, r', rfl, honly, hrun, hst, hend⟩
  · refine ⟨?_, fun hx hnone hnext => ?_⟩
    · rintro st r hst hr hn hw
      have happly : c.applyEntry step tpl e = c.applyTo st e := by
        obtain ⟨hx, rfl⟩ | ⟨hx, rfl, ht, hc⟩ := hst
        · exact c.applyEntry_here _ tpl hx
        · exact Ctx.applyEntry_next hx hr ⟨ht, hc⟩
      obtain ⟨⟨r', hrun, hinst, ho, -⟩, hothers, htallies⟩ := InstSet.applyTo hr hn rfl hw
      rw [happly]
      exact ⟨r', hrun, hinst, ho, hothers, htallies⟩
    · rw [Ctx.applyEntry_tally hx hnone, if_pos hnext, Ctx.tally_addTally, BitVec.or_comm]
      exact ⟨rfl, rfl⟩
  · refine ⟨fun hs ha hv => ?_, fun h => Ctx.compareWatch_stands hr hw h⟩
    obtain ⟨⟨r', hrun, hinst, ho, -⟩, -, -⟩ := Ctx.compareWatch_reached hr hw hc hn hs ha hv
    exact ⟨r', hrun, hinst, ho⟩
  · rintro k step n count r d s hr rfl hc hn rfl
    refine ⟨fun h0 hb hp hf => ?_, fun hb htop => ?_⟩
    · obtain ⟨⟨f, hfault, hcode, hd1, hd2, -⟩, hinsts⟩ := State.taskFault_first (s := s)
        (t := (s.ctx k).nodeTask k r n (s.fanoutCount k r ((s.ctx k).node r.template n)) 0) (core := 0xFF) (status := .normal)
        (d1 := s.fanoutCount k r ((s.ctx k).node r.template n)) (d2 := ((s.ctx k).node r.template n).fanoutMax) hp hf (show faultScope 0x07 ≠ 1 by decide)
      exact ⟨_, f, (State.resolveNode_over hr h0 hb).symm, hfault, hcode, hd1, hd2, hinsts⟩
    · rw [State.resolveNode_within hr hb htop]
      exact State.resolveNode_finish hr hc hn _
  · refine ⟨fun g h => ⟨State.chooseTarget_mem h, fun hk => ?_, fun hk => State.chooseTarget_ctrl h hk⟩, fun h hk g hg hlt hfresh => State.chooseTarget_none h hk hg hlt hfresh,
      fun g hk hfree => ?_, fun g f hk hf => ⟨_, rfl, State.place_ctrl hk hf⟩⟩
    · obtain ⟨hlt, hfresh, hfree⟩ := State.chooseTarget_core h hk
      exact ⟨hlt, hfresh, (Core.hasFree_iff _).mp hfree⟩
    · obtain ⟨e, hstate, htask, horder, hnext, hcores, hctxs, hcore, hctrl⟩ := State.place_core (s := s) g hk
      exact ⟨e, _, rfl, hstate, htask, horder, hnext, hcores, hctxs, hcore, hctrl⟩
  · refine ⟨fun f hr hn => ?_, fun f hr hs => State.threadSwitch_stays hr hs⟩
    obtain ⟨hready, hworks, hleast⟩ := State.nextThread_spec hn
    rw [State.threadSwitch_in hr hn]
    exact ⟨hready, hworks, hleast, _, rfl, s.switchIn_spec c f⟩
  · exact ⟨_, rfl, State.completeStep_spec hw hl⟩
end Sys2Proof.Machine
end

section
/-! SUPPORT. The energy governor (R139, R145–R148): the rise of the fraction, and one start decision, of its candidates and of the die. -/

namespace Sys2Proof.Machine

/-! ### A page event -/

theorem State.raise_page_getLsbD (s : State) {p : Fin 64} {b : Nat} (hb : b < 32) (hm : (eventMask p.val).getLsbD b = true) :
    ((s.raise p b).page p).raw.getLsbD b = true := by
  rw [State.raise_page_same]
  exact (PageHdr.set_getLsbD _ _ (event_getLsbD hb hm)).1

theorem State.raise_page_other (s : State) {p q : Fin 64} (h : q ≠ p) (b : Nat) : (s.raise p b).page q = s.page q := State.page_setPage_other s _ h

/-! ### The fraction (R146, R147) -/

/-- The governor once its fraction has risen by a sixteenth, 64 cold tick starts used up (R146). -/
def Governor.risen (g : Governor) : Governor := { g with fraction := min 16 (g.fraction + 1), coldRun := g.coldRun - 64 }

theorem State.fractionRise_early {s : State} (h : s.gov.coldRun < 64) : s.fractionRise = s := by
  simp only [State.fractionRise, if_pos h]

/-- The event is that of a return to 1, and the fraction returns to 1 from 15/16. -/
theorem State.fractionRise_due {s : State} (h : 64 ≤ s.gov.coldRun) :
    s.fractionRise = if s.gov.fraction = 15 then ({ s with gov := s.gov.risen } : State).raise 0x18 2 else { s with gov := s.gov.risen } := by
  have hback : (s.gov.fraction < 16 ∧ min 16 (s.gov.fraction + 1) = 16) ↔ s.gov.fraction = 15 := by omega
  simp only [State.fractionRise, if_neg (Nat.not_lt.mpr h), hback]
  rfl

/-! ### The candidates that are admitted (R139, R145) -/

theorem admitted_subset (share r : Nat) (xs : List (Fin 64 × PondEntry)) : admitted share r xs ⊆ xs := by
  induction xs generalizing r with
  | nil => exact List.Subset.refl _
  | cons x xs ih =>
    unfold admitted
    split
    · exact List.cons_subset_cons x (ih _)
    · exact List.nil_subset _

theorem Core.mem_unstarted {c : Core} {e : PondEntry} (h : e ∈ c.unstarted) : e ∈ [c.e0, c.e1] :=
  (List.mem_filter.mp (List.mem_mergeSort.mp h)).1

theorem State.candidate_spec {s : State} {l : Fin 64} {e : PondEntry} (h : s.candidate l = some e) :
    e ∈ [(s.core l).e0, (s.core l).e1] ∧ e.state = .valid := by
  unfold State.candidate at h
  extract_lets q at h
  split at h
  · cases h
  · split at h
    next x xs hx =>
      split at h
      next hv =>
        obtain rfl := Option.some.inj h
        exact ⟨Core.mem_unstarted (hx ▸ List.mem_cons_self ..), hv⟩
      · cases h
    · cases h

theorem State.mem_candidates {s : State} {k : Fin 16} {l : Fin 64} {e : PondEntry} (h : (l, e) ∈ s.candidates k) :
    e ∈ [(s.core l).e0, (s.core l).e1] ∧ e.state = .valid := by
  obtain ⟨m, -, hm⟩ := List.mem_filterMap.mp (List.mem_mergeSort.mp h)
  split at hm
  next x hx =>
    split at hm
    · cases hm
      exact State.candidate_spec hx
    · cases hm
  · cases hm

/-- The candidates of a context that a start decision admits (R139, R145, R148). -/
def State.admits (s : State) (ilimit : Bool) (k : Fin 16) : List (Fin 64 × PondEntry) :=
  admitted (s.effectiveShare k) (s.runningEnergy k) (if ilimit then (s.candidates k).filter fun x => x.2.task.energy == 0 else s.candidates k)

theorem State.mem_admits {s : State} {ilimit : Bool} {k : Fin 16} {l : Fin 64} {e : PondEntry} (h : (l, e) ∈ s.admits ilimit k) :
    e ∈ [(s.core l).e0, (s.core l).e1] ∧ e.state = .valid := by
  have hvisit := admitted_subset _ _ _ h
  split at hvisit
  · exact State.mem_candidates (List.mem_filter.mp hvisit).1
  · exact State.mem_candidates hvisit

/-! ### Asserting starts -/

/-- The starts of a list of entries are asserted. -/
def State.assertStarts (s : State) (go : List (Fin 64 × PondEntry)) : State := go.foldl (fun s x => s.assertStart x.1 x.2.order) s

theorem State.assertStarts_rest (s : State) (go : List (Fin 64 × PondEntry)) : s.assertStarts go = { s with cores := (s.assertStarts go).cores } := by
  induction go generalizing s with
  | nil => rfl
  | cons x xs ih => exact ih (s.assertStart x.1 x.2.order)

theorem Core.mem_mapEntries {c : Core} {x : PondEntry} (h : x ∈ [c.e0, c.e1]) (f : PondEntry → PondEntry) :
    f x ∈ [(c.mapEntries f).e0, (c.mapEntries f).e1] := List.mem_map_of_mem (f := f) h

/-- What an assertion of the entry of order `o` of core `m` makes of an entry of core `l`. -/
def PondEntry.asserted (x : PondEntry) (l m : Fin 64) (o : Nat) : PondEntry :=
  if l = m ∧ x.state = .valid ∧ x.order = o then { x with state := .starting } else x

theorem State.assertStart_entry {s : State} {l : Fin 64} {x : PondEntry} (h : x ∈ [(s.core l).e0, (s.core l).e1]) (m : Fin 64) (o : Nat) :
    x.asserted l m o ∈ [((s.assertStart m o).core l).e0, ((s.assertStart m o).core l).e1] := by
  unfold State.assertStart PondEntry.asserted
  by_cases hl : l = m
  · subst hl
    rw [State.core_modCore_same]
    simpa only [true_and] using Core.mem_mapEntries h _
  · rw [State.core_modCore_other s _ hl, if_neg (fun g => hl g.1)]
    exact h

/-- An entry whose start is asserted keeps it. -/
theorem State.assertStarts_keep {s : State} {l : Fin 64} {x : PondEntry} (hs : x.state = .starting) (h : x ∈ [(s.core l).e0, (s.core l).e1])
    (go : List (Fin 64 × PondEntry)) : x ∈ [((s.assertStarts go).core l).e0, ((s.assertStarts go).core l).e1] := by
  induction go generalizing s with
  | nil => exact h
  | cons y ys ih =>
    have hx := State.assertStart_entry h y.1 y.2.order
    have hsame : x.asserted l y.1 y.2.order = x := if_neg fun g => by rw [hs] at g; exact absurd g.2.1 (by decide)
    rw [hsame] at hx
    exact ih hx

/-- A valid entry on the list has its start asserted, by its own assertion or by one before it. -/
theorem State.assertStarts_mem {s : State} {l : Fin 64} {e : PondEntry} {go : List (Fin 64 × PondEntry)} (hv : e.state = .valid)
    (h : e ∈ [(s.core l).e0, (s.core l).e1]) (hgo : (l, e) ∈ go) :
    { e with state := .starting } ∈ [((s.assertStarts go).core l).e0, ((s.assertStarts go).core l).e1] := by
  induction go generalizing s with
  | nil => cases hgo
  | cons y ys ih =>
    have hx := State.assertStart_entry h y.1 y.2.order
    by_cases hy : l = y.1 ∧ e.state = .valid ∧ e.order = y.2.order
    · rw [PondEntry.asserted, if_pos hy] at hx
      exact State.assertStarts_keep rfl hx ys
    · rw [PondEntry.asserted, if_neg hy] at hx
      obtain rfl | htail := List.mem_cons.mp hgo
      · exact absurd ⟨rfl, hv, rfl⟩ hy
      · exact ih hx htail

theorem State.assertStarts_other {s : State} {l : Fin 64} {go : List (Fin 64 × PondEntry)} (h : ∀ e, (l, e) ∉ go) : (s.assertStarts go).core l = s.core l := by
  induction go generalizing s with
  | nil => rfl
  | cons y ys ih =>
    have hy : l ≠ y.1 := fun e => h y.2 (List.mem_cons.mpr (.inl (by rw [e])))
    exact (ih fun e he => h e (List.mem_cons_of_mem _ he)).trans (State.core_modCore_other s _ hy)

/-! ### The decision of one context (R139, R145, R148) -/

theorem State.decideStarts_idle {s : State} {k : Fin 16} (h : s.works k = false) (ilimit : Bool) : s.decideStarts ilimit k = s := by
  unfold State.decideStarts
  rw [h]
  rfl

/-- The decision of context `k`, from `s` to `t`. -/
structure Decided (ilimit : Bool) (k : Fin 16) (s t : State) : Prop where
  rest : t = { s with cores := t.cores, ctxs := t.ctxs, obs := t.obs }
  cores : t.cores = (s.assertStarts (s.admits ilimit k)).cores
  others : ∀ j, j ≠ k → t.ctx j = s.ctx j
  deferred : (t.ctx k).stats.deferredStarts = (s.ctx k).stats.deferredStarts + ((s.candidates k).length - (s.admits ilimit k).length)

theorem State.decideStarts_spec {s : State} {k : Fin 16} (h : s.works k = true) (ilimit : Bool) : Decided ilimit k s (s.decideStarts ilimit k) := by
  unfold State.decideStarts
  rw [if_neg (by rw [h]; decide)]
  extract_lets all visit go deferred limited u v
  have hgo : go = s.admits ilimit k := rfl
  have hu : u = s.assertStarts (s.admits ilimit k) := rfl
  have hrest : u = { s with cores := u.cores } := by rw [hu]; exact s.assertStarts_rest _
  have hctx : ∀ j, u.ctx j = s.ctx j := fun j => by rw [hrest]; rfl
  clear_value u
  have hv : Decided ilimit k s v := by
    refine ⟨?_, ?_, fun j hj => ?_, ?_⟩
    · unfold v
      rw [hrest]
      rfl
    · exact (show v.cores = u.cores from rfl).trans (congrArg State.cores hu)
    · exact (State.ctx_modCtx_other u _ hj).trans (hctx j)
    · unfold v
      rw [State.ctx_modCtx_same, hctx]
      unfold deferred all
      rw [hgo]
      split
      · rfl
      · rfl
  split
  · exact ⟨by rw [hv.rest], hv.cores, hv.others, hv.deferred⟩
  · exact hv

theorem State.decideStarts_none {s : State} {js : List (Fin 16)} (h : ∀ j ∈ js, s.works j = false) (ilimit : Bool) :
    js.foldl (·.decideStarts ilimit ·) s = s := by
  induction js with
  | nil => rfl
  | cons j js ih =>
    rw [List.foldl_cons, State.decideStarts_idle (h j (List.mem_cons_self ..))]
    exact ih fun i hi => h i (List.mem_cons_of_mem _ hi)

/-- Where one context is at work the die's decision is the decision of that context. -/
theorem State.decideStarts_all {s : State} {k : Fin 16} (hw : s.works k = true) (ho : ∀ j, j ≠ k → s.works j = false) (ilimit : Bool) :
    allSlots.foldl (·.decideStarts ilimit ·) s = s.decideStarts ilimit k := by
  obtain ⟨before, after, hsplit⟩ := List.append_of_mem (show k ∈ allSlots from List.mem_finRange k)
  have hnodup : (before ++ k :: after).Nodup := hsplit ▸ List.nodup_finRange 16
  obtain ⟨-, htail, hdisjoint⟩ := List.nodup_append.mp hnodup
  have hbefore : ∀ j ∈ before, s.works j = false := fun j hj => ho j (hdisjoint j hj k (List.mem_cons_self ..))
  have hd := State.decideStarts_spec hw ilimit
  have hafter : ∀ j ∈ after, (s.decideStarts ilimit k).works j = false := fun j hj => by
    have hne : j ≠ k := fun e => (List.nodup_cons.mp htail).1 (e ▸ hj)
    have hsafety : (s.decideStarts ilimit k).safety = s.safety := by rw [hd.rest]
    have := ho j hne
    unfold State.works at this ⊢
    rwa [hd.others j hne, hsafety]
  rw [hsplit, List.foldl_append, List.foldl_cons, State.decideStarts_none hbefore, State.decideStarts_none hafter]

/-! ### START_DECISION -/

/-- ILIMIT as the start decision of a die notes it: counted and raised once where it is asserted (R148; log entry 34). -/
def State.ilimitNoted (s : State) (ilimit : Bool) : State :=
  let s := if ilimit then { s with gov := { s.gov with ilimitSlots := wrap 32 (s.gov.ilimitSlots + 1) } }.raise 0x18 0 else s
  { s with gov := { s.gov with ilimitAll := s.gov.ilimitAll && ilimit, ilimitAny := s.gov.ilimitAny || ilimit } }

theorem State.ilimitNoted_rest (s : State) (ilimit : Bool) :
    ∃ g ps, s.ilimitNoted ilimit = { s with gov := g, pages := ps } ∧ g.fraction = s.gov.fraction := by
  cases ilimit with
  | false => exact ⟨_, _, rfl, rfl⟩
  | true => exact ⟨_, _, rfl, rfl⟩

/-- In ac 224 of a slot the decision is at hand: no cycle passes before it. -/
theorem State.startDecision_now {s : State} (hf : s.safety.fenced = false) (ht : s.time.tickRunning = true) (hm : s.time.inMargin = false)
    (ho : s.time.offset = 224) (ilimit : Bool) :
    s.startDecision ilimit true = allSlots.foldl (·.decideStarts ilimit ·) (s.ilimitNoted ilimit) := by
  have hleft : ∃ n, s.acLeft = some n := by
    unfold State.acLeft
    simp only [ht, hm, Bool.not_false, if_true]
    exact ⟨_, rfl⟩
  obtain ⟨n, hn⟩ := hleft
  unfold State.startDecision
  simp only [hf, ht, hm, hn, ho, Bool.not_true, Bool.or_false, Bool.false_eq_true, if_false, Nat.sub_self, State.advance]
  rfl

/-- The decision of a die on which one context is at work, once ILIMIT is noted: nothing that it is made from has changed by that. -/
theorem State.startDecision_decided {s : State} {k : Fin 16} (hf : s.safety.fenced = false) (ht : s.time.tickRunning = true) (hm : s.time.inMargin = false)
    (ho : s.time.offset = 224) (hw : s.works k = true) (hother : ∀ j, j ≠ k → s.works j = false) (ilimit : Bool) :
    Decided ilimit k (s.ilimitNoted ilimit) (s.startDecision ilimit true) ∧ (s.ilimitNoted ilimit).admits ilimit k = s.admits ilimit k ∧
      (s.ilimitNoted ilimit).candidates k = s.candidates k := by
  obtain ⟨g, ps, hnoted, hfrac⟩ := s.ilimitNoted_rest ilimit
  rw [State.startDecision_now hf ht hm ho]
  have hworks : ∀ j, (s.ilimitNoted ilimit).works j = s.works j := fun j => by rw [hnoted]; rfl
  rw [State.decideStarts_all ((hworks k).trans hw) (fun j hj => (hworks j).trans (hother j hj))]
  refine ⟨State.decideStarts_spec ((hworks k).trans hw) ilimit, ?_, by rw [hnoted]; rfl⟩
  have hshare : (s.ilimitNoted ilimit).effectiveShare k = s.effectiveShare k := by
    rw [hnoted]
    show (s.ctx k).share * g.fraction / 16 = (s.ctx k).share * s.gov.fraction / 16
    rw [hfrac]
  unfold State.admits
  rw [hshare, hnoted]
  rfl

/-- Settles O24: the rise by whether its 64 tick starts are over, and the decision of the one context at work after ILIMIT is noted. -/
theorem governorUnit : Obligations.GovernorUnit := by
  refine ⟨fun s => ⟨fun h => ?_, fun h => ?_, fun tenths ht hh => ?_, fun h => ?_⟩, ?_⟩
  · have hexec : exec .thermalFractionRise s = .next s.fractionRise := rfl
    rw [hexec, State.fractionRise_due h]
    by_cases h15 : s.gov.fraction = 15
    · rw [if_pos h15]
      exact ⟨_, rfl, rfl, fun _ => ⟨State.raise_page_getLsbD _ (by decide) (by decide), fun p hp => State.raise_page_other _ hp 2, rfl⟩, fun hne => absurd h15 hne⟩
    · rw [if_neg h15]
      exact ⟨_, rfl, rfl, fun he => absurd he h15, fun _ => rfl⟩
  · exact congrArg Host.Outcome.next (State.fractionRise_early h)
  · exact congrArg Host.Outcome.next (if_neg (by omega))
  · exact congrArg Host.Outcome.next (if_neg (by omega))
  · rintro ilimit k s go hf ht hm ho hw hother - rfl
    obtain ⟨hd, hgo, hall⟩ := State.startDecision_decided hf ht hm ho hw hother ilimit
    obtain ⟨g, ps, hnoted, -⟩ := s.ilimitNoted_rest ilimit
    have hcore : ∀ l, ((s.ilimitNoted ilimit).core l) = s.core l := fun l => by rw [hnoted]; rfl
    have hctx : ∀ j, ((s.ilimitNoted ilimit).ctx j) = s.ctx j := fun j => by rw [hnoted]; rfl
    have hstarts : ∀ l, (s.startDecision ilimit true).core l = ((s.ilimitNoted ilimit).assertStarts (s.admits ilimit k)).core l :=
      State.core_congr (hgo ▸ hd.cores)
    refine ⟨_, rfl, fun l e he => ?_, fun l he => ?_, fun j hj => (hd.others j hj).trans (hctx j), ?_, ?_, ?_, ?_⟩
    · obtain ⟨hmem, hv⟩ := State.mem_admits he
      rw [hstarts]
      exact State.assertStarts_mem hv (by rw [hcore]; exact hmem) he
    · exact (hstarts l).trans ((State.assertStarts_other he).trans (hcore l))
    · have hdef := hd.deferred
      rwa [hgo, hall, hctx] at hdef
    · rintro rfl
      rw [hd.rest]
      exact ⟨rfl, State.raise_page_getLsbD _ (by decide) (by decide)⟩
    · rintro rfl
      rw [hd.rest]
      exact ⟨rfl, rfl⟩
    · rw [hd.rest, hnoted]
      exact ⟨rfl, rfl, rfl⟩

end Sys2Proof.Machine
end

section
/-! SUPPORT. The commands of control threads (R154–R158, R437): their issue, the halt of a context, the end of a thread and the thread fault. -/

namespace Sys2Proof.Machine

/-! ### Issue (R154) -/

theorem State.frame_congr {s t : State} (h : t.ctrl = s.ctrl) (c f : Fin 8) : t.frame c f = s.frame c f := by simp only [State.frame, h]

theorem State.threadCommand_spec {s : State} {c f : Fin 8} (hf : s.runningFrame c = some f) (hr : (s.ctx (s.frame c f).task.slot).runs = true)
    (m : ThreadCmd) : OnlyFrame c f (s.frame c f).task.slot s (s.threadCommand c m) ∧
      (s.threadCommand c m).frame c f = { s.frame c f with commands := (s.frame c f).commands ++ [m] } := by
  have heq : s.threadCommand c m = (s.setFrame c f { s.frame c f with commands := (s.frame c f).commands ++ [m] }).modCtx (s.frame c f).task.slot
      fun x => { x with progress := true } := by
    simp only [State.threadCommand, hf, if_pos hr]
  rw [heq]
  exact ⟨⟨rfl, fun d g h => State.frame_setFrame_other s h _, fun j hj => State.ctx_modCtx_other _ _ hj, State.ctx_modCtx_same _ _ _⟩,
    State.frame_setFrame_same s c f _⟩

/-! ### The halt of a context (R437) -/

/-- What the halt registers of a context show. -/
def Ctx.haltView (c : Ctx) : Bool × Nat × Nat × Nat := (c.halted, c.haltCause, c.haltBreakpoint, c.haltTick)

/-- From `s` to `t` the halt registers of context `k` stay, and every core is halted as it was. -/
structure HaltStands (k : Fin 16) (s t : State) : Prop where
  view : (t.ctx k).haltView = (s.ctx k).haltView
  cores : ∀ l, (t.core l).halted = (s.core l).halted

theorem HaltStands.refl (k : Fin 16) (s : State) : HaltStands k s s := ⟨rfl, fun _ => rfl⟩

theorem HaltStands.trans {k : Fin 16} {s t u : State} (h : HaltStands k s t) (g : HaltStands k t u) : HaltStands k s u :=
  ⟨g.view.trans h.view, fun l => (g.cores l).trans (h.cores l)⟩

theorem HaltStands.halted {k : Fin 16} {s t : State} (h : HaltStands k s t) {v : Bool × Nat × Nat × Nat} (hv : (s.ctx k).haltView = v) {ls : List Nat}
    (hc : ∀ n ∈ ls, (s.core (lcidOf n)).halted = true) : (t.ctx k).haltView = v ∧ ∀ n ∈ ls, (t.core (lcidOf n)).halted = true :=
  ⟨h.view.trans hv, fun n hn => (h.cores _).trans (hc n hn)⟩

theorem State.park_haltStands (s : State) (k : Fin 16) : HaltStands k s (s.park k) := by
  refine ⟨?_, fun l => by simp [State.park, State.core, Core.mapEntries]⟩
  unfold State.park
  extract_lets mine out u
  rw [State.ctx_modCtx_same]
  rfl

theorem State.trigger_haltStands (s : State) (k : Fin 16) (source detail layer op : Nat) : HaltStands k s (s.trigger k source detail layer op) := by
  obtain ⟨tr, htr⟩ := s.trigger_ctx_same k source detail layer op
  exact ⟨by rw [htr]; rfl, fun l => by rw [State.core_congr (s.trigger_cores k source detail layer op)]⟩

theorem State.sendCtrl_haltStands (s : State) (k : Fin 16) (dest : Nat) (body : Ctrl) : HaltStands k s (s.sendCtrl k dest body) where
  view := State.sendCtrl_part (fun t => (State.ctx t k).haltView) k (fun t d => by rw [State.ctx_modCtx_same]; rfl) (fun _ _ _ _ _ => rfl)
    (fun _ _ => rfl) s dest body
  cores l := State.sendCtrl_part (fun t => (State.core t l).halted) k (fun _ _ => rfl) (fun _ _ _ _ _ => rfl) (fun _ _ => rfl) s dest body

theorem State.coresOf_running {s : State} {k : Fin 16} (h : (s.ctx k).phase = .running) :
    s.coresOf k = if (s.ctx k).offCores then [] else (s.ctx k).cores := by
  simp only [State.coresOf, h]
  cases (s.ctx k).offCores with
  | false => rfl
  | true => rfl

/-- Halting a list of cores halts those of it and leaves halted what was. -/
theorem foldl_modCore_halted (ls : List Nat) (s : State) (l : Fin 64) (h : (s.core l).halted = true ∨ ∃ n ∈ ls, lcidOf n = l) :
    ((ls.foldl (fun s n => s.modCore (lcidOf n) fun c => { c with halted := true }) s).core l).halted = true := by
  induction ls generalizing s with
  | nil =>
    obtain h | ⟨n, hn, -⟩ := h
    · exact h
    · cases hn
  | cons m ms ih =>
    refine ih _ ?_
    by_cases hm : l = lcidOf m
    · left
      rw [hm, State.core_modCore_same]
    · rw [State.core_modCore_other s _ hm]
      obtain h | ⟨n, hn, rfl⟩ := h
      · exact .inl h
      · obtain rfl | hn := List.mem_cons.mp hn
        · exact absurd rfl hm
        · exact .inr ⟨n, hn, rfl⟩

theorem State.haltCores_halted {s : State} {k : Fin 16} {n : Nat} (h : n ∈ s.coresOf k) : ((s.haltCores k).core (lcidOf n)).halted = true :=
  foldl_modCore_halted _ s _ (.inr ⟨n, h, rfl⟩)

/-- A running context that meets a breakpoint halts: cause 0, its id, the context tick; and so do its cores. -/
theorem State.haltContext_breakpoint {s : State} {k : Fin 16} (h : (s.ctx k).runs = true) (bp ctid : Nat) (ids : Nat × Nat) :
    ((s.haltContext k 0 bp ctid ids).ctx k).haltView = (true, 0, bp, (s.ctx k).tick) ∧
      ∀ n ∈ s.coresOf k, ((s.haltContext k 0 bp ctid ids).core (lcidOf n)).halted = true := by
  simp only [Ctx.runs, Bool.and_eq_true, beq_iff_eq, Bool.not_eq_true'] at h
  obtain ⟨⟨⟨hphase, hlaunched⟩, -⟩, hhalted⟩ := h
  have hgo : ¬ ((s.ctx k).phase ≠ .running ∨ (s.ctx k).launched = false ∨ (s.ctx k).halted = true) := by simp [hphase, hlaunched, hhalted]
  unfold State.haltContext
  rw [if_neg hgo]
  extract_lets stamp marked parked raised triggered
  have hmarked : (marked.ctx k).haltView = (true, 0, bp, (s.ctx k).tick) ∧ (marked.ctx k).phase = (s.ctx k).phase ∧
      (marked.ctx k).offCores = (s.ctx k).offCores ∧ (marked.ctx k).lcids = (s.ctx k).lcids := by
    unfold marked
    rw [State.ctx_modCtx_same]
    exact ⟨rfl, rfl, rfl, rfl⟩
  obtain ⟨hview, hrun, hoff, hlcids⟩ := hmarked
  have hown : (marked.ctx k).cores = (s.ctx k).cores := by rw [Ctx.cores, hlcids, Ctx.cores]
  have hcoresOf : marked.coresOf k = s.coresOf k := by
    rw [State.coresOf_running (hrun.trans hphase), State.coresOf_running hphase, hoff, hown]
  have hraised : HaltStands k parked raised := by
    unfold raised
    split
    · exact .refl k parked
    · exact ⟨rfl, fun _ => rfl⟩
  have htriggered : HaltStands k (marked.haltCores k) triggered :=
    ((State.park_haltStands _ k).trans hraised).trans (raised.trigger_haltStands k 5 bp ids.1 ids.2)
  refine HaltStands.halted (s := marked.haltCores k) ?_ ?_ fun n hn => State.haltCores_halted (hcoresOf ▸ hn)
  · split
    · exact htriggered.trans (State.sendCtrl_haltStands _ _ _ _)
    · exact htriggered
  · rw [State.ctx_congr (State.haltCores_ctxs marked k)]
    exact hview

/-! ### The end of a thread (R158) -/

theorem Ctx.flagNode_fault (c : Ctx) (st n : Nat) (f : BitVec 32) : (c.flagNode st n f).fault = c.fault := by
  unfold Ctx.flagNode
  split
  · rfl
  · split
    · split
      split
      · rfl
      · rfl
    · rfl

theorem Ctx.applyTo_fault (c : Ctx) (st : Nat) (e : SuccEntry) : (c.applyTo st e).fault = c.fault := by
  unfold Ctx.applyTo
  extract_lets d
  have hd : d.fault = c.fault := by
    unfold d
    split
    · rfl
    · rfl
  split
  · exact hd
  · exact (d.flagNode_fault st e.target e.setFlags).trans hd

theorem Ctx.applyEntry_fault (c : Ctx) (step tpl : Nat) (e : SuccEntry) : (c.applyEntry step tpl e).fault = c.fault := by
  cases hx : e.nextStep with
  | false => rw [c.applyEntry_here step tpl hx, Ctx.applyTo_fault]
  | true =>
    cases hr : c.run? (step + 1) with
    | none =>
      rw [Ctx.applyEntry_tally hx hr]
      split
      · rfl
      · rfl
    | some r =>
      by_cases ht : r.template = tpl ∧ r.cancelled = false
      · rw [Ctx.applyEntry_next hx hr ht, Ctx.applyTo_fault]
      · rw [Ctx.applyEntry_foreign hx hr ht]

theorem Ctx.completeNode_fault (c : Ctx) (step n : Nat) : (c.completeNode step n).fault = c.fault := by
  unfold Ctx.completeNode
  split
  · rfl
  next r _ =>
    split
    · rfl
    · exact List.foldlRecOn (motive := fun d : Ctx => d.fault = c.fault) _ _ rfl fun d hd e _ => (d.applyEntry_fault step r.template e).trans hd

theorem State.completeNode_ctx_fault (s : State) (k : Fin 16) (step n : Nat) : ((s.completeNode k step n).ctx k).fault = (s.ctx k).fault := by
  unfold State.completeNode
  rw [State.ctx_modCtx_same]
  exact Ctx.completeNode_fault (s.ctx k) step n

/-- An end that counts for its node is about the nodes of its context, and no fault. -/
theorem State.instanceEnded_frame (s : State) (k : Fin 16) (t : Task) :
    OnlyCtx k s (s.instanceEnded k t) ∧ ((s.instanceEnded k t).ctx k).fault = (s.ctx k).fault := by
  have hself : OnlyCtx k s s ∧ (s.ctx k).fault = (s.ctx k).fault := ⟨⟨rfl, fun _ _ => rfl⟩, rfl⟩
  cases hr : (s.ctx k).run? t.step with
  | none => simpa only [State.instanceEnded, hr] using hself
  | some r =>
    cases hc : r.cancelled with
    | true => simpa only [State.instanceEnded, hr, hc, if_true] using hself
    | false =>
      have hcount := OnlyCtx.modCtx s k (·.modRun t.step (·.modInst t.node fun i => { i with ended := i.ended + 1 }))
      rw [State.instanceEnded_eq hr hc rfl]
      split
      · exact ⟨hcount.trans (State.completeNode_onlyCtx _ k _ _), by rw [State.completeNode_ctx_fault, State.ctx_modCtx_same]; rfl⟩
      · exact ⟨hcount, by rw [State.ctx_modCtx_same]; rfl⟩

/-- The phase, the fault and the steps in flight of a context. -/
def Ctx.standing (c : Ctx) : Phase × Option FaultInfo × List StepRun := (c.phase, c.fault, c.steps)

theorem Ctx.digestTask_standing (c : Ctx) (slot rank kind core : Nat) (t : Task) (status checksum : Nat) :
    (c.digestTask slot rank kind core t status checksum).standing = c.standing := by
  unfold Ctx.digestTask
  split
  · rfl
  · rfl

/-- A frame set free: no other frame changes, no other context, and of its own context neither phase nor fault nor steps. -/
structure FrameFreed (c f : Fin 8) (k : Fin 16) (s t : State) : Prop where
  frame : t.frame c f = {}
  frames : ∀ d g, (d, g) ≠ (c, f) → t.frame d g = s.frame d g
  others : ∀ j, j ≠ k → t.ctx j = s.ctx j
  standing : (t.ctx k).standing = (s.ctx k).standing

theorem State.freeThread_freed (s : State) (c f : Fin 8) (t : Task) : FrameFreed c f t.slot s (s.freeThread c f t) := by
  unfold State.freeThread
  refine ⟨State.frame_setFrame_same s c f {}, fun d g h => State.frame_setFrame_other s h {}, fun j hj => State.ctx_modCtx_other _ _ hj, ?_⟩
  rw [State.ctx_modCtx_same]
  split
  · rfl
  · rfl

theorem FrameFreed.modCtx {c f : Fin 8} {k : Fin 16} {s t : State} (h : FrameFreed c f k s t) {g : Ctx → Ctx} (hg : ∀ x, (g x).standing = x.standing) :
    FrameFreed c f k s (t.modCtx k g) :=
  ⟨h.frame, h.frames, fun j hj => (State.ctx_modCtx_other t g hj).trans (h.others j hj), by rw [State.ctx_modCtx_same, hg]; exact h.standing⟩

/-- What a normal END has done before its node counts it: the frame is free and the end stands in the lock-step list. -/
def State.threadLeft (s : State) (c f : Fin 8) (t : Task) : State :=
  (s.freeThread c f t).modCtx t.slot fun x => { x.digestTask (s.freeThread c f t).slotCode 0 2 (0x80 + c.val) t 0 0 with progress := true }

theorem State.threadLeft_freed (s : State) (c f : Fin 8) (t : Task) : FrameFreed c f t.slot s (s.threadLeft c f t) :=
  (s.freeThread_freed c f t).modCtx fun x => x.digestTask_standing _ _ _ _ _ _ _

theorem Ctx.run?_congr {c d : Ctx} (h : d.standing = c.standing) (step : Nat) : d.run? step = c.run? step := by
  have hs : d.steps = c.steps := congrArg (·.2.2) h
  unfold Ctx.run?
  rw [hs]

/-! ### The thread fault (R155, R158, R389) -/

theorem State.trigger_ctrl (s : State) (k : Fin 16) (source detail layer op : Nat) : (s.trigger k source detail layer op).ctrl = s.ctrl := by
  unfold State.trigger
  extract_lets c c' u
  have hsig : ∀ n, (u.signalOut n).ctrl = u.ctrl := fun n => by unfold State.signalOut; split <;> rfl
  split
  · split
    · exact hsig 0
    · rfl
  · rfl

theorem State.haltCores_ctrl (s : State) (k : Fin 16) : (s.haltCores k).ctrl = s.ctrl := by
  unfold State.haltCores
  have hm : ∀ (t : State) (l : Nat), (t.modCore (lcidOf l) fun c => { c with halted := true }).ctrl = t.ctrl := fun _ _ => rfl
  exact foldl_part State.ctrl hm _ s

/-- A fault frees no thread frame by itself. -/
theorem State.fault_ctrl (s : State) (k : Fin 16) (f : FaultInfo) : (s.fault k f).ctrl = s.ctrl := by
  unfold State.fault
  extract_lets c f1 f2 u
  split
  · rfl
  · split
    · exact State.trigger_ctrl _ _ _ _ _ _
    · split
      · exact (State.trigger_ctrl _ _ _ _ _ _).trans (State.haltCores_ctrl _ k)
      · extract_lets g'
        exact State.trigger_ctrl _ _ _ _ _ _

/-- A thread fault frees the frame and is its context's fault 0x05, with its code and status and the control core. -/
theorem State.threadFault_spec {s : State} {c f : Fin 8} (hp : (s.ctx (s.frame c f).task.slot).phase ≠ .empty)
    (hn : (s.ctx (s.frame c f).task.slot).fault = none) (code status : Nat) : (s.threadFault c f code status).frame c f = {} ∧
      ∃ x, ((s.threadFault c f code status).ctx (s.frame c f).task.slot).fault = some x ∧ x.code = 0x05 ∧ x.detail1 = code ∧ x.detail2 = status ∧
        x.core = 0x80 + c.val := by
  unfold State.threadFault
  extract_lets t u
  have hu : FrameFreed c f t.slot s u := (s.freeThread_freed c f t).modCtx fun x => x.digestTask_standing _ _ _ _ _ _ _
  obtain ⟨hphase, hrest⟩ := Prod.mk.inj hu.standing
  obtain ⟨hfault, -⟩ := Prod.mk.inj hrest
  obtain ⟨⟨x, hx, hcode, hd1, hd2, hcore⟩, -⟩ := State.taskFault_first (s := u) (t := t) (core := 0x80 + c.val) (d1 := code) (d2 := status)
    (status := .normal) (by rw [hphase]; exact hp) (hfault.trans hn) (show faultScope 0x05 ≠ 1 by decide)
  exact ⟨(State.frame_congr (State.fault_ctrl u _ _) c f).trans hu.frame, x, hx, hcode, hd1, hd2, hcore⟩

/-! ### Effects at a boundary (R154–R158) -/

section
variable {s : State} {c f : Fin 8} (h : (s.frame c f).state ≠ .free)
include h

theorem State.threadEffect_waitFlags (mask : BitVec 24) (any : Bool) : s.threadEffect c f (.waitFlags mask any) =
    s.setFrame c f { s.frame c f with state := .onFlags mask any, since := s.time.slotCount } := by
  simp only [State.threadEffect, if_neg h]

theorem State.threadEffect_waitCounter (vid target : Nat) : s.threadEffect c f (.waitCounter vid target) =
    if vid = 0xFFFFF ∨ (s.ctx (s.frame c f).task.slot).counter? vid = none then s.threadFault c f 3 0
    else s.setFrame c f { s.frame c f with state := .onCounter vid target, since := s.time.slotCount } := by
  simp only [State.threadEffect, if_neg h, Option.isNone_iff_eq_none]

theorem State.threadEffect_yield : s.threadEffect c f .yield = s.setFrame c f { s.frame c f with state := .ready } := by
  simp only [State.threadEffect, if_neg h]

theorem State.threadEffect_setFlags (nx : Bool) (node : Nat) (flags : BitVec 32) : s.threadEffect c f (.setFlags nx node flags) =
    if 2 ^ 24 ≤ flags.toNat ∨ (s.ctx (s.frame c f).task.slot).flagNodeCount (s.frame c f).task nx ≤ node then s.threadFault c f 1 0
    else s.modCtx (s.frame c f).task.slot (·.threadFlags (s.frame c f).task nx node flags) := by
  simp only [State.threadEffect, if_neg h, ge_iff_le]

theorem State.threadEffect_end : s.threadEffect c f (.endThread 0) =
    (s.threadLeft c f (s.frame c f).task).instanceEnded (s.frame c f).task.slot (s.frame c f).task := by
  simp only [State.threadEffect, if_neg h, if_true]
  rfl

theorem State.threadEffect_endFault {status : Nat} (hs : status ≠ 0) : s.threadEffect c f (.endThread status) = s.threadFault c f 5 status := by
  simp only [State.threadEffect, if_neg h, if_neg hs]

theorem State.threadEffect_break (id : Nat) : s.threadEffect c f (.break_ id) =
    s.haltContext (s.frame c f).task.slot 0 id c.val ((s.frame c f).task.layer, (s.frame c f).task.operatorId) := by
  simp only [State.threadEffect, if_neg h]

theorem State.threadEffect_reserved (code : Nat) : s.threadEffect c f (.reserved code) = s.threadFault c f code 0 := by
  simp only [State.threadEffect, if_neg h]

end

/-- Settles O38: each command as it is issued, and then each effect at the boundary by the equation of its command. -/
theorem threadCommands : Obligations.ThreadCommands := by
  refine ⟨fun c f s node next all flags mask vid target status id code hf hr i m him => ?_, ?_⟩
  · have hexec : exec i s = .next (s.threadCommand c m) := by
      simp only [List.mem_cons, Prod.mk.injEq, List.not_mem_nil, or_false] at him
      obtain ⟨rfl, rfl⟩ | ⟨rfl, rfl⟩ | ⟨rfl, rfl⟩ | ⟨rfl, rfl⟩ | ⟨rfl, rfl⟩ | ⟨rfl, rfl⟩ | ⟨rfl, rfl⟩ := him <;> rfl
    exact ⟨_, hexec, State.threadCommand_spec hf hr m⟩
  · rintro c f s k h rfl hp
    refine ⟨State.threadEffect_waitFlags h, fun vid target hv hc => ?_, State.threadEffect_yield h, fun nx node flags hlt hnode => ?_, ?_, fun id hr => ?_,
      fun m code status hm hn => ?_⟩
    · rw [State.threadEffect_waitCounter h, if_neg (not_or.mpr ⟨hv, Option.isSome_iff_ne_none.mp hc⟩)]
    · have hno : ¬ (2 ^ 24 ≤ flags.toNat ∨ (s.ctx (s.frame c f).task.slot).flagNodeCount (s.frame c f).task nx ≤ node) := by omega
      rw [State.threadEffect_setFlags h, if_neg hno]
      exact ⟨_, rfl, OnlyCtx.modCtx s _ _, State.ctx_modCtx_same s _ _⟩
    · rw [State.threadEffect_end h]
      have hleft := s.threadLeft_freed c f (s.frame c f).task
      obtain ⟨-, hrest⟩ := Prod.mk.inj hleft.standing
      obtain ⟨hfault, -⟩ := Prod.mk.inj hrest
      obtain ⟨honly, hkept⟩ := (s.threadLeft c f (s.frame c f).task).instanceEnded_frame (s.frame c f).task.slot (s.frame c f).task
      have hframe := State.frame_congr (congrArg State.ctrl honly.rest)
      refine ⟨_, rfl, (hframe c f).trans hleft.frame, fun d g hne => (hframe d g).trans (hleft.frames d g hne), hkept.trans hfault,
        fun j hj => (honly.others j hj).trans (hleft.others j hj), ?_⟩
      rintro r i hr hc hlen hi hcount hplaced hback
      obtain ⟨-, r', hrun, hstate, -⟩ := State.instanceEnded_last ((Ctx.run?_congr hleft.standing _).trans hr) hc hi hlen hcount hplaced hback
      exact ⟨r', hrun, hstate⟩
    · rw [State.threadEffect_break h]
      obtain ⟨hview, hcores⟩ := State.haltContext_breakpoint hr id c.val ((s.frame c f).task.layer, (s.frame c f).task.operatorId)
      obtain ⟨hhalted, hrest⟩ := Prod.mk.inj hview
      obtain ⟨hcause, hrest⟩ := Prod.mk.inj hrest
      obtain ⟨hbp, htick⟩ := Prod.mk.inj hrest
      exact ⟨_, rfl, hhalted, hcause, hbp, htick, hcores⟩
    · have heffect : s.threadEffect c f m = s.threadFault c f code status := by
        obtain ⟨n, rfl, rfl, rfl⟩ | ⟨n, hne, rfl, rfl, rfl⟩ | ⟨v, g, hbad, rfl, rfl, rfl⟩ | ⟨nx, n, g, hbad, rfl, rfl, rfl⟩ := hm
        · exact State.threadEffect_reserved h _
        · exact State.threadEffect_endFault h hne
        · rw [State.threadEffect_waitCounter h, if_pos hbad]
        · rw [State.threadEffect_setFlags h, if_pos hbad]
      obtain ⟨hframe, x, hx⟩ := State.threadFault_spec hp hn code status
      exact ⟨_, x, heffect.symm, hframe, hx⟩

end Sys2Proof.Machine
end

section
/-! SUPPORT. The inlet (R202–R210, R238): a record that waits, and for each record that is taken the one equation that says what it writes or which
row of R210 it breaks. -/

namespace Sys2Proof.Machine

/-! ### What the inlet's weirs and a fault leave alone -/

@[simp] theorem State.inletWeirs_cores (s : State) : s.inletWeirs.cores = s.cores :=
  State.inletWeirs_part State.cores (fun _ => rfl) (fun s p => by rw [s.peak_rest p]) (fun _ _ _ _ _ => rfl) s

@[simp] theorem State.inletWeirs_packets (s : State) : s.inletWeirs.packets = s.packets :=
  State.inletWeirs_part State.packets (fun _ => rfl) (fun s p => by rw [s.peak_rest p]) (fun _ _ _ _ _ => rfl) s

@[simp] theorem State.inletWeirs_mem (s : State) : s.inletWeirs.mem = s.mem :=
  State.inletWeirs_part State.mem (fun _ => rfl) (fun s p => by rw [s.peak_rest p]) (fun _ _ _ _ _ => rfl) s

@[simp] theorem State.inletWeirs_spad (s : State) : s.inletWeirs.spad = s.spad :=
  State.inletWeirs_part State.spad (fun _ => rfl) (fun s p => by rw [s.peak_rest p]) (fun _ _ _ _ _ => rfl) s

/-- What a fault of context `k` may write: that context, the cores it halts, events, the external trigger and the records that are due. -/
structure FaultIn (k : Fin 16) (s t : State) : Prop where
  rest : t = { s with ctxs := t.ctxs, cores := t.cores, pages := t.pages, ext := t.ext, sluice := t.sluice }
  others : ∀ j, j ≠ k → t.ctx j = s.ctx j

theorem FaultIn.refl (k : Fin 16) (s : State) : FaultIn k s s := ⟨rfl, fun _ _ => rfl⟩

theorem FaultIn.trans {k : Fin 16} {s t u : State} (h : FaultIn k s t) (g : FaultIn k t u) : FaultIn k s u := by
  refine ⟨?_, fun j hj => (g.others j hj).trans (h.others j hj)⟩
  have ht := h.rest
  have hu := g.rest
  rw [ht] at hu
  exact hu

theorem FaultIn.packets {k : Fin 16} {s t : State} (h : FaultIn k s t) : t.packets = s.packets := by rw [h.rest]

theorem FaultIn.modCtx (k : Fin 16) (s : State) (f : Ctx → Ctx) : FaultIn k s (s.modCtx k f) := ⟨rfl, fun _ hj => State.ctx_modCtx_other s f hj⟩

theorem FaultIn.raise (k : Fin 16) (s : State) (p : Fin 64) (b : Nat) : FaultIn k s (s.raise p b) := ⟨rfl, fun _ _ => rfl⟩

theorem FaultIn.modCore (k : Fin 16) (s : State) (l : Fin 64) (f : Core → Core) : FaultIn k s (s.modCore l f) := ⟨rfl, fun _ _ => rfl⟩

theorem FaultIn.pushRec (k : Fin 16) (s : State) (r : Rec) : FaultIn k s (s.pushRec r) := ⟨rfl, fun _ _ => rfl⟩

theorem FaultIn.signalOut (k : Fin 16) (s : State) (n : Nat) : FaultIn k s (s.signalOut n) := by
  unfold State.signalOut
  split
  · exact ⟨rfl, fun _ _ => rfl⟩
  · exact .refl k s

theorem FaultIn.trigger (k : Fin 16) (s : State) (source detail layer op : Nat) : FaultIn k s (s.trigger k source detail layer op) := by
  unfold State.trigger
  extract_lets c c' u
  have hu : FaultIn k s u := (FaultIn.modCtx k s fun _ => c').trans (.raise k _ _ _)
  split
  · split
    · exact hu.trans (.signalOut k u 0)
    · exact hu
  · exact .refl k s

theorem FaultIn.haltCores (k : Fin 16) (s : State) : FaultIn k s (s.haltCores k) := by
  unfold State.haltCores
  exact List.foldlRecOn (motive := FaultIn k s) _ _ (.refl k s) fun t ht l _ => ht.trans (.modCore k t _ _)

theorem State.fault_faultIn (s : State) (k : Fin 16) (f : FaultInfo) : FaultIn k s (s.fault k f) := by
  unfold State.fault
  extract_lets c f1 f2 u
  split
  · exact .refl k s
  · split
    · exact (((FaultIn.modCtx k s _).trans (.pushRec k _ _)).trans (.raise k _ _ _)).trans (.trigger k _ _ _ _ _)
    · split
      · exact (((FaultIn.modCtx k s _).trans (.haltCores k _)).trans (.raise k _ _ _)).trans (.trigger k _ _ _ _ _)
      · extract_lets g'
        exact ((FaultIn.modCtx k s _).trans (.raise k _ _ _)).trans (.trigger k _ _ _ _ _)

/-! ### The open packet of a core -/

theorem State.setOpen_packets (s : State) (lcid : Nat) (f : Packet → Packet) : (s.setOpen lcid fun p => some (f p)).packets =
    s.packets.map fun p => if p.lcid == lcid && !p.closed then f p else p := by
  have hf : (fun p : Packet => if p.lcid == lcid && !p.closed then some (f p) else some p) =
      some ∘ fun p => if p.lcid == lcid && !p.closed then f p else p := by
    funext p
    simp only [Function.comp, apply_ite some]
  simp only [State.setOpen, hf, List.filterMap_eq_map]

theorem State.openPacket_congr {s t : State} (h : t.packets = s.packets) (lcid : Nat) : t.openPacket lcid = s.openPacket lcid := by
  unfold State.openPacket
  rw [h]

/-- What the records of an open packet become leaves it the open packet of its core. -/
theorem State.openPacket_setOpen {s : State} {lcid : Nat} {p : Packet} (h : s.openPacket lcid = some p) {f : Packet → Packet}
    (hl : ∀ q, (f q).lcid = q.lcid) (hc : ∀ q, (f q).closed = q.closed) : (s.setOpen lcid fun q => some (f q)).openPacket lcid = some (f p) := by
  have hopen : (p.lcid == lcid && !p.closed) = true := List.find?_some (p := fun q : Packet => q.lcid == lcid && !q.closed) h
  have hp : ((fun q : Packet => q.lcid == lcid && !q.closed) ∘ fun q => if q.lcid == lcid && !q.closed then f q else q) =
      fun q => q.lcid == lcid && !q.closed := by
    funext q
    simp only [Function.comp]
    split
    · rw [hl, hc]
    · rfl
  unfold State.openPacket at h ⊢
  rw [State.setOpen_packets, List.find?_map, hp, h, Option.map_some, if_pos hopen]

/-- Once every packet a core has open is taken away or closed, it has none open. -/
theorem State.openPacket_setOpen_none (s : State) (lcid : Nat) {f : Packet → Option Packet} (hf : ∀ q x, f q = some x → x.closed = true) :
    (s.setOpen lcid f).openPacket lcid = none := by
  simp only [State.openPacket, State.setOpen, List.find?_eq_none, List.mem_filterMap]
  rintro x ⟨q, -, hq⟩ hx
  split at hq
  next => simp [hf q x hq] at hx
  next hn => exact hn (Option.some.inj hq ▸ hx)

theorem State.mem_of_openPacket {s : State} {lcid : Nat} {p : Packet} (h : s.openPacket lcid = some p) :
    p ∈ s.packets ∧ (p.lcid == lcid && !p.closed) = true :=
  ⟨List.mem_of_find?_eq_some h, List.find?_some (p := fun q : Packet => q.lcid == lcid && !q.closed) h⟩

/-! ### The types of the records (R203) -/

theorem recType_of_choiceOk {r : BitVec 64} (h : choiceOk r = true) : recType r = 0 := by
  simp only [choiceOk, Bool.and_eq_true, beq_iff_eq] at h
  exact h.1.1

theorem recType_of_openOk {r : BitVec 64} (h : openOk r = true) : recType r = 1 := by
  simp only [openOk, Bool.and_eq_true, beq_iff_eq] at h
  exact h.1.1.1.1

theorem recType_of_closeOk {r : BitVec 64} (h : closeOk r = true) : recType r = 2 := by
  simp only [closeOk, Bool.and_eq_true, beq_iff_eq] at h
  exact h.1.1

/-! ### A record as the inlet takes it -/

/-- What a record that the inlet accepts does to the packets, or the fault it is. -/
def State.takeRecord (s : State) (lcid : Nat) (t : Task) (r : BitVec 64) : State :=
  if s.dropsRecords lcid && recType r != 1 then (if recType r == 2 then s.setOpen lcid fun _ => none else s)
  else match recType r with
    | 0 => s.writeChoice lcid t r
    | 1 => s.writeOpen lcid t r
    | 2 => s.writeClose lcid t r
    | _ => s.recordFault t lcid 5 r

/-- The state in which a record of core `l` reaches the inlet: the weirs taken anew and the record counted at its core. -/
def State.atInlet (s : State) (l : Fin 64) : State := s.inletWeirs.modCore l fun c => { c with inletCount := c.inletCount + 1 }

section
variable (s : State) (l : Fin 64)

@[simp] theorem State.atInlet_packets : (s.atInlet l).packets = s.packets := (State.modCore_packets _ l _).trans (State.inletWeirs_packets s)
@[simp] theorem State.atInlet_ctxs : (s.atInlet l).ctxs = s.ctxs := (State.modCore_ctxs _ l _).trans (State.inletWeirs_ctxs s)
@[simp] theorem State.atInlet_mem : (s.atInlet l).mem = s.mem := (State.modCore_mem _ l _).trans (State.inletWeirs_mem s)
@[simp] theorem State.atInlet_spad : (s.atInlet l).spad = s.spad := (State.modCore_spad _ l _).trans (State.inletWeirs_spad s)

theorem State.atInlet_ctx (k : Fin 16) : (s.atInlet l).ctx k = s.ctx k := State.ctx_congr (s.atInlet_ctxs l) k

theorem State.atInlet_openPacket (lcid : Nat) : (s.atInlet l).openPacket lcid = s.openPacket lcid :=
  State.openPacket_congr (s.atInlet_packets l) lcid

end

section
variable {s : State} {l : Fin 64} {x : Task} (hx : s.issues l = some x) (r : BitVec 64)
include hx

/-- While a weir stalls the core's VXE, or earlier records wait, a record waits (R208). -/
theorem State.offerRecord_waits (h : s.inletWeirs.inletBlocked x.slot = true ∨ (s.core l).inletWait ≠ []) :
    s.offerRecord l r = s.inletWeirs.modCore l fun c => { c with inletWait := c.inletWait ++ [r] } := by
  have hcore : s.inletWeirs.core l = s.core l := State.core_congr (State.inletWeirs_cores s) l
  have hb : (s.inletWeirs.inletBlocked x.slot || !(s.core l).inletWait.isEmpty) = true := by simpa using h
  simp only [State.offerRecord, hx, hcore, hb, if_true]

theorem State.offerRecord_taken (hb : s.inletWeirs.inletBlocked x.slot = false) (hw : (s.core l).inletWait = []) :
    s.offerRecord l r = ((s.atInlet l).takeRecord l.val x r).inletWeirs := by
  have hcore : s.inletWeirs.core l = s.core l := State.core_congr (State.inletWeirs_cores s) l
  have hn : (s.inletWeirs.inletBlocked x.slot || !(s.core l).inletWait.isEmpty) = false := by simp [hb, hw]
  have hwrite : s.inletWeirs.writeRecord l.val x r =
      ((s.inletWeirs.modCore (lcidOf l.val) fun c => { c with inletCount := c.inletCount + 1 }).takeRecord l.val x r).inletWeirs := rfl
  simp only [State.offerRecord, hx, hcore, hn, Bool.false_eq_true, if_false]
  rw [hwrite, lcidOf_val]
  rfl

end

/-- The three records reach the inlet alike. -/
theorem exec_record {i : Instr} {l : Fin 64} {r : BitVec 64} (hi : i ∈ [Instr.openRecord l r, .choiceRecord l r, .closeRecord l r]) (s : State) :
    exec i s = .next (s.offerRecord l r) := by
  simp only [List.mem_cons, List.not_mem_nil, or_false] at hi
  obtain rfl | rfl | rfl := hi <;> rfl

section
variable {s : State} {lcid : Nat} {t : Task} {r : BitVec 64}

theorem State.dropsRecords_none (h : s.openPacket lcid = none) : s.dropsRecords lcid = false := by simp [State.dropsRecords, h]

theorem State.dropsRecords_some {p : Packet} (h : s.openPacket lcid = some p) : s.dropsRecords lcid = p.dropped := by simp [State.dropsRecords, h]

/-- The close record of a dropped packet ends it (R209). -/
theorem State.takeRecord_dropped_close (hd : s.dropsRecords lcid = true) (h : recType r = 2) :
    s.takeRecord lcid t r = s.setOpen lcid fun _ => none := by
  simp [State.takeRecord, hd, h]

/-- Any other record of a dropped packet is discarded (R209). -/
theorem State.takeRecord_dropped (hd : s.dropsRecords lcid = true) (h1 : recType r ≠ 1) (h2 : recType r ≠ 2) : s.takeRecord lcid t r = s := by
  simp [State.takeRecord, hd, h1, h2]

/-- An open record is written whatever became of the packet before it. -/
theorem State.takeRecord_open (h : openOk r = true) : s.takeRecord lcid t r = s.writeOpen lcid t r := by
  simp [State.takeRecord, recType_of_openOk h]

theorem State.takeRecord_choice (h : choiceOk r = true) (hd : s.dropsRecords lcid = false) : s.takeRecord lcid t r = s.writeChoice lcid t r := by
  simp [State.takeRecord, recType_of_choiceOk h, hd]

theorem State.takeRecord_close (h : closeOk r = true) (hd : s.dropsRecords lcid = false) : s.takeRecord lcid t r = s.writeClose lcid t r := by
  simp [State.takeRecord, recType_of_closeOk h, hd]

/-- A record whose own fields break the rules of its type is row 5 (R210). -/
theorem State.takeRecord_malformed (ho : openOk r = false) (hc : choiceOk r = false) (hl : closeOk r = false)
    (hd : s.dropsRecords lcid = false ∨ recType r = 1) : s.takeRecord lcid t r = s.recordFault t lcid 5 r := by
  have hn : (s.dropsRecords lcid && recType r != 1) = false := by
    obtain h | h := hd
    · simp [h]
    · simp [h]
  simp only [State.takeRecord, hn, Bool.false_eq_true, if_false]
  split
  · simp [State.writeChoice, hc]
  · simp [State.writeOpen, ho]
  · simp [State.writeClose, hl]
  · rfl

end

/-- A misuse of the inlet that writes nothing into a packet: the row of R210 of a record, as the open packet of its core stands. -/
def RecordMisuse (op : Option Packet) (r : BitVec 64) (row : Nat) : Prop :=
  (row = 1 ∧ (choiceOk r = true ∨ closeOk r = true) ∧ op = none) ∨
    (row = 2 ∧ openOk r = true ∧ op ≠ none) ∨
    (∃ p, row = 3 ∧ closeOk r = true ∧ op = some p ∧ p.dropped = false ∧ recCount r ≠ p.records.length) ∨
    (row = 5 ∧ openOk r = false ∧ choiceOk r = false ∧ closeOk r = false ∧ (recType r = 1 ∨ ∀ p, op = some p → p.dropped = false)) ∨
    (∃ p, row = 6 ∧ choiceOk r = true ∧ op = some p ∧ p.dropped = false ∧
      (recToken r < recToken p.openRec ∨ recToken p.openRec + recTokens p.openRec ≤ recToken r))

section
variable {s : State} {lcid : Nat} {t : Task} {r : BitVec 64}

/-- Each misuse is the fault of its row (R210). -/
theorem State.takeRecord_misuse {row : Nat} (h : RecordMisuse (s.openPacket lcid) r row) : s.takeRecord lcid t r = s.recordFault t lcid row r := by
  obtain ⟨rfl, hr, hn⟩ | ⟨rfl, hr, hn⟩ | ⟨p, rfl, hr, hp, hd, hbad⟩ | ⟨rfl, ho, hc, hl, hd⟩ | ⟨p, rfl, hr, hp, hd, hbad⟩ := h
  case inl =>
    obtain hr | hr := hr
    · simp [State.takeRecord_choice hr (State.dropsRecords_none hn), State.writeChoice, hr, hn]
    · simp [State.takeRecord_close hr (State.dropsRecords_none hn), State.writeClose, hr, hn]
  case inr.inl =>
    have hs : (s.openPacket lcid).isSome = true := Option.isSome_iff_ne_none.mpr hn
    simp [State.takeRecord_open hr, State.writeOpen, hr, hs]
  case inr.inr.inl => simp [State.takeRecord_close hr ((State.dropsRecords_some hp).trans hd), State.writeClose, hr, hp, hbad]
  case inr.inr.inr.inl =>
    refine State.takeRecord_malformed ho hc hl (hd.symm.imp (fun h => ?_) id)
    cases hp : s.openPacket lcid with
    | none => exact State.dropsRecords_none hp
    | some p => exact (State.dropsRecords_some hp).trans (h p hp)
  case inr.inr.inr.inr => simp [State.takeRecord_choice hr ((State.dropsRecords_some hp).trans hd), State.writeChoice, hr, hp, hbad]

/-- A choice of a token in the block is appended to the packet (R203). -/
theorem State.takeRecord_appends {p : Packet} (hr : choiceOk r = true) (hp : s.openPacket lcid = some p) (hd : p.dropped = false)
    (hlo : recToken p.openRec ≤ recToken r) (hhi : recToken r < recToken p.openRec + recTokens p.openRec) :
    s.takeRecord lcid t r = s.setOpen lcid fun p => some { p with records := p.records ++ [r] } := by
  have hin : ¬ (recToken r < recToken p.openRec ∨ recToken p.openRec + recTokens p.openRec ≤ recToken r) := by omega
  rw [State.takeRecord_choice hr ((State.dropsRecords_some hp).trans hd)]
  simp only [State.writeChoice, hr, hp, Bool.not_true, Bool.false_eq_true, if_false, if_neg hin]

/-- A close record with the right count closes the packet (R204). -/
theorem State.takeRecord_closes {p : Packet} (hr : closeOk r = true) (hp : s.openPacket lcid = some p) (hd : p.dropped = false)
    (hn : recCount r = p.records.length) : s.takeRecord lcid t r = s.setOpen lcid fun p => some { p with closed := true } := by
  rw [State.takeRecord_close hr ((State.dropsRecords_some hp).trans hd)]
  simp [State.writeClose, hr, hp, hn]

/-- A valid open record begins a packet of the task's slot, step and epoch (R203), dropped where the step is cancelled (R238). -/
theorem State.takeRecord_opens (hr : openOk r = true) (hn : s.openPacket lcid = none) :
    s.takeRecord lcid t r = { s with packets := s.packets ++ [{
      slot := t.slot, step := t.step, epoch := t.epoch, lcid := lcid, openRec := r, dropped := (s.ctx t.slot).stepCancelled t.step }] } := by
  rw [State.takeRecord_open hr]
  simp [State.writeOpen, hr, hn]

/-- A routing-record fault, the first of its context, has its row, the record and the core, and writes into no packet (R210). -/
theorem State.recordFault_spec (hp : (s.ctx t.slot).phase ≠ .empty) (hf : (s.ctx t.slot).fault = none) (lcid row : Nat) (r : BitVec 64) :
    (∃ f, ((s.recordFault t lcid row r).ctx t.slot).fault = some f ∧ f.code = 0x11 ∧ f.detail1 = row ∧ f.detail2 = r.toNat ∧ f.core = lcid) ∧
      (s.recordFault t lcid row r).packets = s.packets ∧ ∀ j, j ≠ t.slot → (s.recordFault t lcid row r).ctx j = s.ctx j := by
  have hin : FaultIn t.slot s (s.recordFault t lcid row r) := s.fault_faultIn t.slot _
  exact ⟨(State.fault_first hp hf (show faultScope 0x11 ≠ 1 by decide)).1, hin.packets, hin.others⟩

end

/-! ### Records at the inlet -/

/-- `t` has the contexts and the memories of `s`. -/
structure SameData (s t : State) : Prop where
  ctxs : t.ctxs = s.ctxs
  mem : t.mem = s.mem
  spad : t.spad = s.spad

theorem SameData.atInlet (s : State) (l : Fin 64) : SameData s (s.atInlet l) := ⟨s.atInlet_ctxs l, s.atInlet_mem l, s.atInlet_spad l⟩

theorem SameData.inletWeirs {s t : State} (h : SameData s t) : SameData s t.inletWeirs :=
  ⟨(State.inletWeirs_ctxs t).trans h.ctxs, (State.inletWeirs_mem t).trans h.mem, (State.inletWeirs_spad t).trans h.spad⟩

theorem SameData.withPackets {s t : State} (h : SameData s t) (ps : List Packet) : SameData s { t with packets := ps } := ⟨h.ctxs, h.mem, h.spad⟩

theorem State.inletWeirs_openPacket (s : State) (lcid : Nat) : s.inletWeirs.openPacket lcid = s.openPacket lcid :=
  State.openPacket_congr (State.inletWeirs_packets s) lcid

/-- A record that waits changes its core alone, but for the weirs (R208). -/
theorem exec_record_waits {i : Instr} {l : Fin 64} {r : BitVec 64} {s : State} {x : Task}
    (hi : i ∈ [Instr.openRecord l r, .choiceRecord l r, .closeRecord l r]) (hx : s.issues l = some x)
    (h : s.inletWeirs.inletBlocked x.slot = true ∨ (s.core l).inletWait ≠ []) :
    ∃ t, exec i s = .next t ∧ t.core l = { s.core l with inletWait := (s.core l).inletWait ++ [r] } ∧ t.packets = s.packets ∧ t.ctxs = s.ctxs ∧
      ∀ j, j ≠ l → t.core j = s.core j := by
  have hcore : ∀ j, s.inletWeirs.core j = s.core j := State.core_congr (State.inletWeirs_cores s)
  refine ⟨_, (exec_record hi s).trans (congrArg _ (State.offerRecord_waits hx r h)), ?_, ?_, ?_, fun j hj => ?_⟩
  · rw [State.core_modCore_same, hcore]
  · rw [State.modCore_packets, State.inletWeirs_packets]
  · rw [State.modCore_ctxs, State.inletWeirs_ctxs]
  · rw [State.core_modCore_other _ _ hj, hcore]

section
variable {i : Instr} {l : Fin 64} {r : BitVec 64} {s : State} {x : Task}
  (hi : i ∈ [Instr.openRecord l r, .choiceRecord l r, .closeRecord l r]) (hx : s.issues l = some x)
  (hb : s.inletWeirs.inletBlocked x.slot = false) (hw : (s.core l).inletWait = [])
include hi hx hb hw

/-- A record that is taken: the weirs anew around what `takeRecord` does. -/
theorem exec_record_taken {u : State} (h : (s.atInlet l).takeRecord l.val x r = u) : exec i s = .next u.inletWeirs := by
  rw [exec_record hi, State.offerRecord_taken hx r hb hw, h]

/-- An open record begins a packet. -/
theorem exec_record_opens (hr : openOk r = true) (hn : s.openPacket l.val = none) :
    ∃ t, exec i s = .next t ∧ SameData s t ∧ t.packets = s.packets ++ [{
      slot := x.slot, step := x.step, epoch := x.epoch, lcid := l.val, openRec := r, dropped := (s.ctx x.slot).stepCancelled x.step }] := by
  have htake := State.takeRecord_opens (t := x) hr ((s.atInlet_openPacket l l.val).trans hn)
  refine ⟨_, exec_record_taken hi hx hb hw htake, ((SameData.atInlet s l).withPackets _).inletWeirs, ?_⟩
  rw [State.inletWeirs_packets, State.atInlet_packets, State.atInlet_ctx]

/-- Of a dropped packet nothing is written, and its close record ends it (R209). -/
theorem exec_record_dropped {p : Packet} (hp : s.openPacket l.val = some p) (hd : p.dropped = true) (h1 : recType r ≠ 1) :
    ∃ t, exec i s = .next t ∧ SameData s t ∧ (recType r ≠ 2 → t.packets = s.packets) ∧ (recType r = 2 → t.openPacket l.val = none) := by
  have hdrop : (s.atInlet l).dropsRecords l.val = true := (State.dropsRecords_some ((s.atInlet_openPacket l l.val).trans hp)).trans hd
  by_cases h2 : recType r = 2
  · refine ⟨_, exec_record_taken hi hx hb hw (State.takeRecord_dropped_close hdrop h2), ((SameData.atInlet s l).withPackets _).inletWeirs,
      fun h => absurd h2 h, fun _ => ?_⟩
    rw [State.inletWeirs_openPacket]
    exact State.openPacket_setOpen_none _ _ fun _ _ h => nomatch h
  · refine ⟨_, exec_record_taken hi hx hb hw (State.takeRecord_dropped hdrop h1 h2), (SameData.atInlet s l).inletWeirs, fun _ => ?_, fun h => absurd h h2⟩
    rw [State.inletWeirs_packets, State.atInlet_packets]

theorem exec_record_appends {p : Packet} (hr : choiceOk r = true) (hp : s.openPacket l.val = some p) (hd : p.dropped = false)
    (hlo : recToken p.openRec ≤ recToken r) (hhi : recToken r < recToken p.openRec + recTokens p.openRec) :
    ∃ t, exec i s = .next t ∧ SameData s t ∧ t.openPacket l.val = some { p with records := p.records ++ [r] } ∧
      t.packets.length = s.packets.length := by
  have hp' := (s.atInlet_openPacket l l.val).trans hp
  refine ⟨_, exec_record_taken hi hx hb hw (State.takeRecord_appends hr hp' hd hlo hhi), ((SameData.atInlet s l).withPackets _).inletWeirs, ?_, ?_⟩
  · rw [State.inletWeirs_openPacket]
    exact State.openPacket_setOpen hp' (f := fun p => { p with records := p.records ++ [r] }) (fun _ => rfl) fun _ => rfl
  · rw [State.inletWeirs_packets, State.setOpen_packets, List.length_map, State.atInlet_packets]

theorem exec_record_closes {p : Packet} (hr : closeOk r = true) (hp : s.openPacket l.val = some p) (hd : p.dropped = false)
    (hn : recCount r = p.records.length) : ∃ t, exec i s = .next t ∧ SameData s t ∧ t.openPacket l.val = none ∧
      { p with closed := true } ∈ t.packets ∧ t.packets.length = s.packets.length := by
  have hp' := (s.atInlet_openPacket l l.val).trans hp
  refine ⟨_, exec_record_taken hi hx hb hw (State.takeRecord_closes hr hp' hd hn), ((SameData.atInlet s l).withPackets _).inletWeirs, ?_, ?_, ?_⟩
  · rw [State.inletWeirs_openPacket]
    exact State.openPacket_setOpen_none _ _ fun _ _ h => Option.some.inj h ▸ rfl
  · obtain ⟨hmem, hopen⟩ := State.mem_of_openPacket hp'
    rw [State.inletWeirs_packets, State.setOpen_packets]
    exact List.mem_map.mpr ⟨p, hmem, if_pos hopen⟩
  · rw [State.inletWeirs_packets, State.setOpen_packets, List.length_map, State.atInlet_packets]

/-- A misuse writes nothing into a packet and is the fault of its row (R210). -/
theorem exec_record_misuse {row : Nat} (hm : RecordMisuse (s.openPacket l.val) r row) (hp : (s.ctx x.slot).phase ≠ .empty)
    (hf : (s.ctx x.slot).fault = none) : ∃ t f, exec i s = .next t ∧ (t.ctx x.slot).fault = some f ∧ f.code = 0x11 ∧ f.detail1 = row ∧
      f.detail2 = r.toNat ∧ f.core = l.val ∧ t.packets = s.packets ∧ ∀ j, j ≠ x.slot → t.ctx j = s.ctx j := by
  rw [← s.atInlet_openPacket l] at hm
  rw [← s.atInlet_ctx l] at hp hf
  obtain ⟨⟨f, hfault, hcode, hd1, hd2, hcore⟩, hpackets, hothers⟩ := State.recordFault_spec hp hf l.val row r
  refine ⟨_, f, exec_record_taken hi hx hb hw (State.takeRecord_misuse hm), ?_, hcode, hd1, hd2, hcore, ?_, fun j hj => ?_⟩
  · rw [State.ctx_congr (State.inletWeirs_ctxs _), hfault]
  · rw [State.inletWeirs_packets, hpackets, State.atInlet_packets]
  · rw [State.ctx_congr (State.inletWeirs_ctxs _), hothers j hj, State.atInlet_ctx]

end

/-- Settles O39: the record waits, or it is taken, and then each case is one equation of `takeRecord`. -/
theorem inletRecords : Obligations.InletRecords := by
  intro l r i s x hi hx
  refine ⟨exec_record_waits hi hx, fun hb hw => ⟨fun hr hn => ?_, fun p hp hd h1 => ?_, fun p hr hp hd hlo hhi => ?_, fun p hr hp hd hn => ?_,
    fun row => exec_record_misuse hi hx hb hw⟩⟩
  · obtain ⟨t, he, hdata, hpackets⟩ := exec_record_opens hi hx hb hw hr hn
    exact ⟨t, he, hdata.ctxs, hdata.mem, hdata.spad, hpackets⟩
  · obtain ⟨t, he, hdata, hpackets⟩ := exec_record_dropped hi hx hb hw hp hd h1
    exact ⟨t, he, hdata.ctxs, hdata.mem, hdata.spad, hpackets⟩
  · obtain ⟨t, he, hdata, hpackets⟩ := exec_record_appends hi hx hb hw hr hp hd hlo hhi
    exact ⟨t, he, hdata.ctxs, hdata.mem, hdata.spad, hpackets⟩
  · obtain ⟨t, he, hdata, hpackets⟩ := exec_record_closes hi hx hb hw hr hp hd hn
    exact ⟨t, he, hdata.ctxs, hdata.mem, hdata.spad, hpackets⟩

end Sys2Proof.Machine
end

section
/-! SUPPORT. Publication and staging (R215, R216, R223, R229, R290, R292): what the flags of a publication leave alone in a context, the published job, and
the issue of the one staging task that is due. -/

namespace Sys2Proof.Machine

/-! ### JOB_PUBLISH and the publication (R215, R216, R223, R229) -/

section
variable {s : State} {k : Fin 16}

/-- In the last ac before a publication boundary the lists go to their area, and the job is marked (log entry 8). -/
theorem State.jobPublish_due {j : Job} (hm : s.time.inMargin = false) (ho : s.time.offset = 255) (hr : (s.ctx k).runs = true)
    (hj : (s.ctx k).jobs.find? (fun j => j.started && !j.published && decide (j.slotsLeft ≤ 1)) = some j) :
    s.jobPublish k = { s.setCtx k ((s.ctx k).modJob j.step j.layer fun j => { j with written := true }) with mem := (s.ctx k).writeLists j s.mem } := by
  simp [State.jobPublish, hm, ho, hr, hj]

theorem State.jobPublish_early (hm : s.time.inMargin = false) (ho : s.time.offset ≠ 255) : s.jobPublish k = s := by
  have hlast : (s.time.inMargin || s.time.offset == 255) = false := by simp [hm, ho]
  simp only [State.jobPublish, hlast, Bool.and_false, Bool.false_eq_true, if_false]
  split
  · rfl
  · rfl

end

/-- What a publication puts into a context beside its flags: jobs, residency table and the counts of the statistics (R216, R229). -/
def Ctx.routed (c : Ctx) : List Job × List ResEntry × Nat × Nat × Nat := (c.jobs, c.residency, c.stats.spills, c.stats.dropped, c.stats.unassigned)

theorem Ctx.flagNode_routed (c : Ctx) (step n : Nat) (f : BitVec 32) : (c.flagNode step n f).routed = c.routed := by
  unfold Ctx.flagNode
  split
  · rfl
  · split
    · split
      split
      · rfl
      · rfl
    · rfl

theorem Ctx.flagNodes_routed (c : Ctx) (step : Nat) (p : NodeDesc → Bool) (f : BitVec 32) : (c.flagNodes step p f).routed = c.routed := by
  unfold Ctx.flagNodes
  split
  · rfl
  · split
    · rfl
    · exact List.foldlRecOn (motive := fun d : Ctx => d.routed = c.routed) _ _ rfl fun d hd n _ => (d.flagNode_routed step n f).trans hd

theorem Ctx.giveFlag26_routed (c : Ctx) (j : Job) : (c.giveFlag26 j).routed = c.routed := by
  unfold Ctx.giveFlag26
  split
  · rfl
  · exact Ctx.flagNodes_routed _ _ _ _

/-- A job that stands for those of its step and layer, and is published, is the published job of that step and layer. -/
theorem Ctx.published?_modJob {c : Ctx} {j j' : Job} (h : j ∈ c.jobs) (hs : j'.step = j.step) (hl : j'.layer = j.layer) (hp : j'.published = true) :
    (c.modJob j.step j.layer fun _ => j').published? j.layer j.step = some j' := by
  have hfound : ((c.modJob j.step j.layer fun _ => j').published? j.layer j.step).isSome = true := by
    refine List.find?_isSome.mpr ⟨j', List.mem_map.mpr ⟨j, h, ?_⟩, ?_⟩
    · simp
    · simp [hs, hl, hp]
  obtain ⟨q, hq⟩ := Option.isSome_iff_exists.mp hfound
  obtain ⟨x, -, hx⟩ := List.mem_map.mp (List.mem_of_find?_eq_some hq)
  have hkey := List.find?_some (p := fun q : Job => q.layer == j.layer && q.step == j.step && q.published) hq
  split at hx
  next => rw [hq, ← hx]
  next hne =>
    subst hx
    simp only [Bool.and_eq_true, beq_iff_eq] at hkey hne
    exact absurd ⟨hkey.1.2, hkey.1.1⟩ hne

theorem Ctx.published?_congr {c d : Ctx} (h : d.jobs = c.jobs) (layer step : Nat) : d.published? layer step = c.published? layer step := by
  unfold Ctx.published?
  rw [h]

/-- A context with a job's publication in it, before the flags of its nodes: the residency table, the job and the counts. -/
def Ctx.withPublished (c : Ctx) (j j' : Job) : Ctx :=
  ({ c with residency := (c.updateResidency j).1 }.modJob j.step j.layer fun _ => j').modStats fun t =>
    { t with
      spills := t.spills + j.spills, dropped := t.dropped + j.dropped, unassigned := t.unassigned + j.unassigned
      renormSkipped := t.renormSkipped + j.renormSkipped }

/-- The publication of a job: its lists in memory, and its context with the job published and flags 25 and 26 set. -/
theorem State.publishJob_eq (s : State) (k : Fin 16) (j : Job) : ∃ fetch p, let j' : Job := { j with
      published := true, packets := [], lists := ((s.ctx k).updateResidency j).2, fetch := fetch }
    s.publishJob k j = { s.setCtx k ((((s.ctx k).withPublished j j').flagNodes j.step p (1#32 <<< 25)).giveFlag26 j') with
      mem := (s.ctx k).writeLists j' s.mem, jobsPublished := s.jobsPublished + 1 } := ⟨_, _, rfl⟩

/-- The publication of a job of a context (R216, R220, R223, R229): where its lists, its residency and its counts come to stand. -/
theorem State.publishJob_spec {s : State} {k : Fin 16} {j : Job} (h : j ∈ (s.ctx k).jobs) : ∃ j',
    ((s.publishJob k j).ctx k).published? j.layer j.step = some j' ∧ j'.packets = [] ∧ j'.tokens = j.tokens ∧ j'.lists = ((s.ctx k).updateResidency j).2 ∧
    ((s.publishJob k j).ctx k).routed = ((s.ctx k).withPublished j j').routed ∧ (s.publishJob k j).mem = (s.ctx k).writeLists j' s.mem ∧
    (s.publishJob k j).jobsPublished = s.jobsPublished + 1 ∧ (∀ i, i ≠ k → (s.publishJob k j).ctx i = s.ctx i) ∧
    s.publishJob k j = { s with
      ctxs := (s.publishJob k j).ctxs, mem := (s.publishJob k j).mem, jobsPublished := (s.publishJob k j).jobsPublished } := by
  obtain ⟨fetch, p, heq⟩ := s.publishJob_eq k j
  extract_lets j' at heq
  rw [heq]
  have hctx := State.ctx_setCtx_same s k ((((s.ctx k).withPublished j j').flagNodes j.step p (1#32 <<< 25)).giveFlag26 j')
  have hrouted := (Ctx.giveFlag26_routed _ j').trans (((s.ctx k).withPublished j j').flagNodes_routed j.step p (1#32 <<< 25))
  have hjobs : ((s.ctx k).withPublished j j').published? j.layer j.step = some j' :=
    Ctx.published?_modJob (c := { s.ctx k with residency := ((s.ctx k).updateResidency j).1 }) h rfl rfl rfl
  refine ⟨j', ?_, rfl, rfl, rfl, ?_, rfl, rfl, fun i hi => State.ctx_setCtx_other s _ hi, rfl⟩
  · exact (congrArg (·.published? j.layer j.step) hctx).trans ((Ctx.published?_congr (congrArg Prod.fst hrouted) _ _).trans hjobs)
  · exact (congrArg Ctx.routed hctx).trans hrouted

/-! ### STAGING_ISSUE (R290, R292) -/

theorem State.stagingIssue_early {s : State} (hm : s.time.inMargin = false) (ho : s.time.offset ≠ 255) (k : Fin 16) (n : Nat) :
    s.stagingIssue k n = s := by
  simp [State.stagingIssue, hm, ho]

/-- A context with no stages but one. -/
def Ctx.withStage (c : Ctx) (g : Stage) : Ctx := { c with ledger := { c.ledger with stages := [g] } }

/-- The issue of a stage adds its staging task, ready, and marks the stage (R290, R292). -/
theorem Ctx.issueStage_spec {c : Ctx} {g : Stage} {run : StepRun} (hr : c.run? g.step = some run) (hs : c.ledger.stages = [g]) (k : Fin 16) (r : Rates) :
    ∃ a, (c.issueStage k r g).aux = c.aux ++ [a] ∧ (c.issueStage k r g).ledger.stages = [{ g with issued := true }] ∧ a.ready = true ∧
      a.task.service = .staging g.node g.index ∧ a.task.step = g.step ∧ a.task.kind = .mover ∧ a.task.slot = k := by
  simp only [Ctx.issueStage, hr]
  refine ⟨_, rfl, ?_, rfl, rfl, rfl, rfl, rfl⟩
  simp [Ctx.nextLedgerTask, Ctx.addAux, hs]

/-- The one stage of a context falls due in the last ac before its issue boundary and may be made ready: it is issued (log entry 8). -/
theorem State.stagingIssue_due {s : State} {k : Fin 16} {g : Stage} {run : StepRun} (hm : s.time.inMargin = false) (ho : s.time.offset = 255)
    (hs : (s.ctx k).ledger.stages = [g]) (hi : g.issued = false) (h1 : g.issueIn = 1) (hr : (s.ctx k).run? g.step = some run)
    (hready : ((s.ctx k).withStage { g with issueIn := 0 }).stageReady
      ((s.regionSize (bits ((s.ctx k).node run.template g.node).placement.toNat 5 0) (NodeP.region ((s.ctx k).node run.template g.node))).getD 0)
      { g with issueIn := 0 } = true) :
    ∃ r, s.stagingIssue k g.node = (s.setCtx k ((s.ctx k).withStage { g with issueIn := 0 })).setCtx k
      (((s.ctx k).withStage { g with issueIn := 0 }).issueStage k r { g with issueIn := 0 }) := by
  have hnodes : (s.ctx k).stageNodes = [(g.step, g.node)] := by simp [Ctx.stageNodes, hs, hi, List.eraseDups_cons]
  have hmod : (s.modCtx k fun c => { c with ledger := { c.ledger with stages := c.ledger.stages.map fun x =>
      if x.node == g.node && x.issueIn == 1 then { x with issueIn := 0 } else x } }) = s.setCtx k ((s.ctx k).withStage { g with issueIn := 0 }) := by
    simp [State.modCtx, Ctx.withStage, hs, h1]
  have hnext : ((s.ctx k).withStage { g with issueIn := 0 }).nextStage g.step g.node = some { g with issueIn := 0 } := by
    simp [Ctx.nextStage, Ctx.withStage, hi]
  have hrun : ((s.ctx k).withStage { g with issueIn := 0 }).run? g.step = some run := hr
  refine ⟨(s.setCtx k ((s.ctx k).withStage { g with issueIn := 0 })).rates k, ?_⟩
  simp only [State.stagingIssue, hm, ho, hnodes, hs, List.foldl_cons, List.foldl_nil, List.length_singleton, Bool.false_eq_true, if_false, if_true,
    Bool.false_or, beq_self_eq_true, Bool.not_true, hmod, State.issueNode, State.ctx_setCtx_same, hnext, hrun, Option.map_some, Option.getD_some]
  exact if_pos hready

theorem exec_jobPublish (k : Fin 16) (s : State) : exec (.jobPublish k) s = .next (s.jobPublish k) := rfl

theorem exec_stagingIssue (k : Fin 16) (node : Nat) (s : State) : exec (.stagingIssue k node) s = .next (s.stagingIssue k node) := rfl

/-- Settles O40: the equation of each operation in its ac, the publication's by what its flags leave alone. -/
theorem publishAndStage : Obligations.PublishAndStage := by
  intro k s
  refine ⟨fun j hm ho hr hj => ?_, fun j hj => ?_, fun g run node hm ho hs hi h1 hn hr hready => ?_, fun hm ho => ?_⟩
  · exact ⟨_, (exec_jobPublish k s).trans (congrArg _ (State.jobPublish_due hm ho hr hj)), State.ctx_setCtx_same s k _, rfl,
      fun i hi => State.ctx_setCtx_other s _ hi, rfl⟩
  · obtain ⟨j', hpub, hpackets, htokens, hlists, hrouted, hmem, hcount, hothers, hrest⟩ := State.publishJob_spec hj
    obtain ⟨-, hrouted⟩ := Prod.mk.inj hrouted
    obtain ⟨hres, hrouted⟩ := Prod.mk.inj hrouted
    obtain ⟨hspills, hrouted⟩ := Prod.mk.inj hrouted
    obtain ⟨hdropped, hunassigned⟩ := Prod.mk.inj hrouted
    exact ⟨_, j', rfl, hpub, hpackets, htokens, hlists, hres, hmem, hcount, hspills, hdropped, hunassigned, hothers, hrest⟩
  · subst hn
    obtain ⟨r, heq⟩ := State.stagingIssue_due hm ho hs hi h1 hr hready
    obtain ⟨a, haux, hstages, ha⟩ := Ctx.issueStage_spec (c := (s.ctx k).withStage { g with issueIn := 0 }) (g := { g with issueIn := 0 }) hr rfl k r
    refine ⟨_, a, (exec_stagingIssue k _ s).trans (congrArg _ heq), (OnlyCtx.modCtx s k fun _ => _).trans (.modCtx _ k fun _ => _), ?_, ?_, ha⟩
    · rw [State.ctx_setCtx_same, hstages]
    · rw [State.ctx_setCtx_same, haux]
      rfl
  · exact ⟨(exec_jobPublish k s).trans (congrArg _ (State.jobPublish_early hm ho)),
      fun node => (exec_stagingIssue k node s).trans (congrArg _ (State.stagingIssue_early hm ho k node))⟩

end Sys2Proof.Machine
end

section
/-! SUPPORT. The end of a restore (R329–R331): a thaw whose slot and whose image differ in being of a multi-member context. -/

namespace Sys2Proof.Machine

/-! ### The restore of a member (R330) -/

theorem State.sendCtrl_ctx_resumeGtc (s : State) (k : Fin 16) (dest : Nat) (body : Ctrl) :
    ((s.sendCtrl k dest body).ctx k).resumeGtc = (s.ctx k).resumeGtc :=
  State.sendCtrl_part (fun s => (s.ctx k).resumeGtc) k (fun s _ => by rw [State.ctx_modCtx_same]) (fun _ _ _ _ _ => rfl)
    (fun _ _ => rfl) s dest body

theorem State.unpackContext_ctx_resumeGtc (s : State) (k : Fin 16) : ((s.unpackContext k).ctx k).resumeGtc = (s.ctx k).resumeGtc := by
  unfold State.unpackContext
  extract_lets
  rw [State.ctx_setCtx_same]
  rfl

/-- The verified restore of a slot whose context is a member fixes no resume: the resume tick is the one the image gave back. -/
theorem State.restoreEnd_member {s u : State} {k : Fin 16} {i : FreezeImageRef} {began : Nat} (hp : (s.ctx k).phase = .thawing)
    (hs : (s.ctx k).freezeStage = .restoring began) (hm : (s.ctx k).multiMember = true) (hr : (s.ctx k).thawReleased = true)
    {a : Nat} (ha : a = (s.ctx k).thawAddr) (hu : u = { s with mem := s.mem.writeBytes a i.placed }) (hd : u.restoreDone k began = true)
    (hok : u.imageOk k a = true) : ((s.restoreEnd k i).ctx k).resumeGtc = (u.imageContext a).resumeGtc := by
  subst ha
  simp only [State.restoreEnd, hs, hp, hm, hr, ← hu, hd, hok, ne_eq, not_true_eq_false, Bool.true_eq_false, or_self, if_false, if_true]
  rw [State.sendCtrl_ctx_resumeGtc, State.ctx_modCtx_same]
  refine (State.unpackContext_ctx_resumeGtc _ k).trans ?_
  rw [State.ctx_setCtx_same]
  rfl

/-! ### A verified image of a single-member context, thawed into a slot of a multi-member one -/

/-- The cleartext header of a freeze image (R326): CXID 9, CMID 3, one parcel, die address 0x40, freeze serial 2. -/
def soloHeader : Bytes :=
  leBytes 8 0x4E5A52464B535550 ++ leBytes 2 1 ++ leBytes 2 9 ++ leBytes 2 3 ++ leBytes 2 1 ++ leBytes 4 0x40 ++ leBytes 6 2 ++ zeros 24
    ++ leBytes 1 1 ++ zeros 1 ++ leBytes 8 320 ++ zeros 196

/-- The image under a freeze key of zeros, its one parcel empty: header, directory entry with the parcel's tag, padding (R325, R326). -/
def soloImage : Bytes :=
  soloHeader ++ zeros 8 ++ leBytes 8 320 ++ zeros 8 ++ beBytes 16 0xb36beb1ab778fb993c4370bf68eaea6b ++ zeros 24

/-- The context that the image holds, a single-member one. -/
def soloContext : Ctx := { cxid := 9, cmid := 3 }

/-- The thaw of that released freeze: the context that lies in the image is single-member, the one that the slot holds is a member (R451). -/
def mixedThaw : State :=
  { (State.reset.setCtx 0
      { phase := .thawing, cxid := 9, cmid := 3, multiMember := true, memSlots := 1, freezeStage := .restoring 0, thawReleased := true
        thawSub := some { (default : Waiting) with sub := .thaw { (default : ThawReq) with imageAddr := 0x1000 } } }) with
    config := some { instanceAddr := 0x40 }
    time := { State.reset.time with slotCount := 8 }
    steward := { State.reset.steward with keys := State.reset.steward.keys.set 0 (some { (default : KeySlot) with freezeKey := zeros 32 }) }
    images := [{ address := 0x1000, cxid := 9, cmid := 3, instanceAddr := 0x40, serial := 2, bytes := soloImage, ctx := soloContext }] }

/-- The same with the image written where the thaw names it. -/
def mixedThawPlaced : State := { mixedThaw with mem := mixedThaw.mem.writeBytes 0x1000 soloImage }

theorem mixedThawPlaced_verified : mixedThawPlaced.restoreDone 0 0 = true ∧ mixedThawPlaced.imageOk 0 0x1000 = true := by decide +kernel

/-- What the image gives back is the context this die stored under its bytes: a single-member one. -/
theorem mixedThawPlaced_image : mixedThawPlaced.imageContext 0x1000 = soloContext := by
  have hfound : (mixedThawPlaced.images.find? fun f => f.bytes == mixedThawPlaced.mem.readBytes 0x1000 f.bytes.length).map (·.ctx) =
      some soloContext := by decide +kernel
  obtain ⟨f, hf, hctx⟩ := Option.map_eq_some_iff.mp hfound
  simp only [State.imageContext, hf, hctx]

/-- Refutes O47: `Ctx.adopt` takes multi_member from the image of a released freeze, and `State.restoreEnd` asks the slot for it; where the two
differ, the restored single-member context has no resume tick. -/
theorem not_restoreEnds : ¬ Obligations.RestoreEnds := by
  intro h
  obtain ⟨-, hverified, -⟩ := h 0 mixedThaw mixedThawPlaced { placed := soloImage } 0 0x1000 rfl rfl rfl rfl
  obtain ⟨hdone, hok⟩ := mixedThawPlaced_verified
  have hadopted : (mixedThaw.ctx 0).adopt soloContext =
      if (mixedThaw.ctx 0).thawReleased then (mixedThaw.ctx 0).adopt (mixedThawPlaced.imageContext 0x1000) else mixedThaw.ctx 0 := by
    rw [mixedThawPlaced_image]
    exact (if_pos rfl).symm
  obtain ⟨t, he, -, -, -, -, -, -, -, -, -, -, -, -, -, hsingle, -⟩ := hverified hdone hok _ hadopted
  obtain rfl : mixedThaw.restoreEnd 0 { placed := soloImage } = t := Host.Outcome.next.inj he
  have hresume := State.restoreEnd_member (s := mixedThaw) (u := mixedThawPlaced) (k := 0) (i := { placed := soloImage }) (a := 0x1000)
    rfl rfl rfl rfl rfl rfl hdone hok
  rw [hsingle rfl, mixedThawPlaced_image] at hresume
  exact nomatch hresume

end Sys2Proof.Machine
end

section
/-! SUPPORT. Confluence (R241–R252, R263): the words of a region, the commands of a task and its pairs, and the addition of one entry to its element. -/

namespace Sys2Proof.Machine

/-! ### The words of a region (R240) -/

theorem wordAt_zero_of_lt {m : List (Nat × BitVec 256)} {i : Nat} (h : ∀ p ∈ m, i < p.1) : wordAt m i = 0 := by
  induction m with
  | nil => rfl
  | cons p m ih =>
    have hp : i ≠ p.1 := Nat.ne_of_lt (h p List.mem_cons_self)
    rw [wordAt, if_neg hp]
    exact ih fun q hq => h q (List.mem_cons_of_mem _ hq)

/-- A word written reads back at its own element; every other element reads as before. -/
theorem wordAt_putWord {m : List (Nat × BitVec 256)} (h : m.Pairwise fun a b => a.1 < b.1) (i : Nat) (v : BitVec 256) (j : Nat) :
    wordAt (putWord m i v) j = if j = i then v else wordAt m j := by
  induction m with
  | nil =>
    by_cases hv : v = 0
    · simp [putWord, wordAt, hv]
    · simp only [putWord, if_neg hv, wordAt]
  | cons p m ih =>
    obtain ⟨k, w⟩ := p
    obtain ⟨hk, hm⟩ := List.pairwise_cons.mp h
    have hbelow : ∀ a, a ≤ k → wordAt m a = 0 := fun a ha => wordAt_zero_of_lt fun q hq => Nat.lt_of_le_of_lt ha (hk q hq)
    rw [putWord]
    obtain hlt | rfl | hgt := Nat.lt_trichotomy i k
    · have hi : wordAt ((k, w) :: m) i = 0 := by rw [wordAt, if_neg (Nat.ne_of_lt hlt), hbelow i (Nat.le_of_lt hlt)]
      rw [if_pos hlt]
      by_cases hv : v = 0
      · rw [if_pos hv]
        by_cases hj : j = i
        · rw [if_pos hj, hj, hi, hv]
        · rw [if_neg hj]
      · rw [if_neg hv, wordAt]
    · rw [if_neg (Nat.lt_irrefl i), if_pos rfl]
      by_cases hj : j = i
      · by_cases hv : v = 0
        · rw [if_pos hv, if_pos hj, hj, hbelow i (Nat.le_refl i), hv]
        · simp only [if_neg hv, if_pos hj, wordAt]
      · by_cases hv : v = 0
        · simp only [if_pos hv, if_neg hj, wordAt]
        · simp only [if_neg hv, if_neg hj, wordAt]
    · rw [if_neg (Nat.lt_asymm hgt), if_neg (Nat.ne_of_gt hgt), wordAt, ih hm]
      by_cases hj : j = k
      · rw [if_pos hj, if_neg (by omega), wordAt, if_pos hj]
      · rw [if_neg hj, wordAt, if_neg hj]

theorem Ctx.region?_cluster {c : Ctx} {u : Nat} {g : Region} (h : c.region? u = some g) : g.cluster.val = u := by
  simpa using List.find?_some h

theorem Ctx.region?_setElement (c : Ctx) (u i : Nat) (v : BitVec 256) (w : Nat) :
    (c.setElement u i v).region? w = (c.region? w).map fun r => if r.cluster.val == u then { r with words := putWord r.words i v } else r := by
  unfold Ctx.region? Ctx.setElement
  rw [List.find?_map]
  congr 2
  funext r
  simp only [Function.comp]
  split
  · rfl
  · rfl

theorem Ctx.element_of_region {c : Ctx} {u : Nat} {g : Region} (h : c.region? u = some g) (i : Nat) : c.element u i = wordAt g.words i := by
  simp [Ctx.element, h]

/-- An element written reads back; every other element of the context reads as before. -/
theorem Ctx.element_setElement {c : Ctx} {u : Nat} {g : Region} (h : c.region? u = some g) (hg : g.words.Pairwise fun a b => a.1 < b.1)
    (i : Nat) (v : BitVec 256) (w j : Nat) : (c.setElement u i v).element w j = if (w, j) = (u, i) then v else c.element w j := by
  have hset := c.region?_setElement u i v w
  by_cases hw : w = u
  · subst hw
    rw [h, Option.map_some, if_pos (by simp [Ctx.region?_cluster h])] at hset
    rw [Ctx.element_of_region hset, Ctx.element_of_region h]
    simp [wordAt_putWord hg]
  · rw [if_neg fun e => hw (Prod.mk.inj e).1]
    unfold Ctx.element
    rw [hset, Option.map_map]
    cases hr : c.region? w with
    | none => rfl
    | some r =>
      have hc : ¬ r.cluster.val = u := fun e => hw ((Ctx.region?_cluster hr).symm.trans e)
      simp [hc]

/-! ### A change of one unit or of one core -/

theorem OnlyUnit.setUnit (s : State) (k : Fin 8) (u : CflUnit) : OnlyUnit k s (s.setUnit k u) :=
  ⟨rfl, fun _ hj => State.unit_setUnit_other s u hj⟩

theorem OnlyCore.modCore (s : State) (l : Fin 64) (f : Core → Core) : OnlyCore l s (s.modCore l f) :=
  ⟨rfl, fun _ hj => State.core_modCore_other s f hj⟩

theorem OnlyCore.trans {l : Fin 64} {s t u : State} (h : OnlyCore l s t) (g : OnlyCore l t u) : OnlyCore l s u := by
  refine ⟨?_, fun j hj => (g.others j hj).trans (h.others j hj)⟩
  have ht := h.rest
  have hu := g.rest
  rw [ht] at hu
  exact hu

/-! ### The task in service and its engine fault (R165, R188) -/

theorem State.issues_serving {s : State} {l : Fin 64} {x : Task} (h : s.issues l = some x) : ∃ e, (s.core l).serving = some e ∧ e.report = none := by
  unfold State.issues at h
  cases he : (s.core l).serving with
  | none => simp [he] at h
  | some e =>
    refine ⟨e, rfl, ?_⟩
    simp only [he] at h
    split at h
    · cases h
    next hno =>
      simp only [Bool.or_eq_true, not_or, Option.not_isSome_iff_eq_none] at hno
      obtain ⟨⟨hr, -⟩, -⟩ := hno
      exact hr

theorem State.issues_congr {s t : State} {l : Fin 64} (hs : (t.core l).serving = (s.core l).serving) (hh : (t.core l).halted = (s.core l).halted) :
    t.issues l = s.issues l := by
  unfold State.issues
  rw [hs, hh]

theorem Core.serving_report {c : Core} {e : PondEntry} (h : c.serving = some e) (hr : e.report = none) (r : EndReport) :
    (c.report r).serving = some { e with report := some r } := by
  have hfirst : ∀ d : PondEntry, (if d.state = .inService ∧ d.report.isNone then { d with report := some r } else d).state = d.state := fun d => by
    split
    · rfl
    · rfl
  unfold Core.serving at h
  unfold Core.serving Core.report Core.mapEntries
  simp only [hfirst]
  split at h
  next h0 =>
    obtain rfl := Option.some.inj h
    rw [if_pos h0, if_pos ⟨h0, by rw [hr]; rfl⟩]
  next h0 =>
    split at h
    next h1 =>
      obtain rfl := Option.some.inj h
      rw [if_neg h0, if_pos h1, if_pos ⟨h1, by rw [hr]; rfl⟩]
    · cases h

/-- An engine fault ends what the task in service may still ask for, and its core alone notes it. -/
theorem State.engineFault_spec {s : State} {l : Fin 64} {x : Task} (h : s.issues l = some x) (code detail : Nat) :
    OnlyCore l s (s.engineFault l code detail) ∧ (s.engineFault l code detail).issues l = none ∧
      ((s.engineFault l code detail).core l).serving.bind (·.report) = some { status := .engineFault, code := code, detail := detail } := by
  obtain ⟨e, he, hr⟩ := State.issues_serving h
  have hserving : ((s.engineFault l code detail).core l).serving =
      some { e with report := some { status := .engineFault, code := code, detail := detail } } := by
    unfold State.engineFault
    rw [State.core_modCore_same]
    exact Core.serving_report he hr _
  refine ⟨OnlyCore.modCore s l _, ?_, ?_⟩
  · unfold State.issues
    rw [hserving]
    rfl
  · rw [hserving]
    rfl

/-! ### Confluence commands (R251, R252, R263) -/

/-- The operands of a drain that R251 allows. -/
def DrainOk (c : Ctx) (lcid count format dest : Nat) : Prop :=
  format ≤ 2 ∧ dest % 64 = 0 ∧ dest + count * drainBytes format ≤ spadSize ∧ c.overlapsRegion lcid dest (dest + count * drainBytes format) = false

theorem not_drainOk {c : Ctx} {lcid count format dest : Nat} : ¬ DrainOk c lcid count format dest ↔
    2 < format ∨ dest % 64 ≠ 0 ∨ spadSize < dest + count * drainBytes format ∨
      c.overlapsRegion lcid dest (dest + count * drainBytes format) = true := by
  unfold DrainOk
  rw [Decidable.not_and_iff_not_or_not, Decidable.not_and_iff_not_or_not, Decidable.not_and_iff_not_or_not, Nat.not_le, Nat.not_le, Bool.not_eq_false]

theorem State.cflOk_iff (s : State) (k : Fin 16) (l first count : Nat) (op : CflOp) : s.cflOk k l first count op = true ↔
    ∃ g, (s.ctx k).region? (s.clusterOf l) = some g ∧ (1 ≤ count ∧ count ≤ 65536 ∧ first + count ≤ g.elements) ∧
      ∀ f d b, op = .drain f d b → DrainOk (s.ctx k) l count f d := by
  unfold State.cflOk
  extract_lets c
  cases hg : c.region? (s.clusterOf l) with
  | none => simp
  | some g =>
    cases op with
    | drain f d b =>
      simp only [Bool.and_eq_true, decide_eq_true_eq, Bool.not_eq_true', Option.some.injEq, CflOp.drain.injEq, DrainOk]
      constructor
      · rintro ⟨hrange, ⟨hf, hd, hn⟩, ho⟩
        refine ⟨g, rfl, hrange, ?_⟩
        rintro _ _ _ ⟨rfl, rfl, rfl⟩
        exact ⟨hf, hd, hn, ho⟩
      · rintro ⟨_, rfl, hrange, hdrain⟩
        obtain ⟨hf, hd, hn, ho⟩ := hdrain f d b ⟨rfl, rfl, rfl⟩
        exact ⟨hrange, ⟨hf, hd, hn⟩, ho⟩
    | exportTo a cl df b => simp
    | clear => simp

/-- The command that a task's confluence command becomes (R252). -/
def State.cflCmd (s : State) (l : Fin 64) (x : Task) (first count : Nat) (op : CflOp) : CflCmd :=
  { slot := x.slot, lcid := l.val, first := first, count := count, op := op, epoch := x.epoch, effective := s.time.ac + 8, after := (s.core l).offered }

section
variable {s : State} {l : Fin 64} {x : Task} (hi : s.issues l = some x) {first count : Nat} {op : CflOp} (code : Nat)
include hi

theorem State.cflCommand_refused (h : s.cflOk x.slot l.val first count op = false) : s.cflCommand l code first count op = s.engineFault l code first := by
  simp [State.cflCommand, hi, h]

theorem State.cflCommand_waits (h : s.cflOk x.slot l.val first count op = true) (ho : (s.core l).offers = []) :
    s.cflCommand l code first count op = s.setUnit (s.unitOf l.val)
      { s.unit (s.unitOf l.val) with waiting := insertCmd (s.cflCmd l x first count op) (s.unit (s.unitOf l.val)).waiting } := by
  simp [State.cflCommand, State.cflCmd, hi, h, ho]

theorem State.cflCommand_behind (h : s.cflOk x.slot l.val first count op = true) (ho : (s.core l).offers ≠ []) :
    s.cflCommand l code first count op = s.setUnit (s.unitOf l.val)
      { s.unit (s.unitOf l.val) with behind := (s.unit (s.unitOf l.val)).behind ++ [s.cflCmd l x first count op] } := by
  simp [State.cflCommand, State.cflCmd, hi, h, ho]

end

section
variable {l : Fin 64} {first count format dest cluster df : Nat} {addr : BitVec 32} {clear : Bool} {c : Instr} {op : CflOp} {code : Nat}
  (h : (c, op, code) ∈ [(Instr.cflDrain l first count format dest clear, CflOp.drain format dest clear, 6),
    (.cflExport l first count addr cluster df clear, .exportTo addr.toNat cluster df clear, 7), (.cflClear l first count, .clear, 0xD)])
include h

theorem exec_cflCommand (s : State) : exec c s = .next (s.cflCommand l code first count op) := by
  simp only [List.mem_cons, List.not_mem_nil, or_false, Prod.mk.injEq] at h
  obtain ⟨rfl, rfl, rfl⟩ | ⟨rfl, rfl, rfl⟩ | ⟨rfl, rfl, rfl⟩ := h
  · rfl
  · rfl
  · rfl

/-- Of the three commands the drain alone has code 6, and it alone has a destination in the scratchpad. -/
theorem cflCommand_drain (P : Nat → Nat → Prop) : (∀ f d b, op = .drain f d b → P f d) ↔ (code = 6 → P format dest) := by
  simp only [List.mem_cons, List.not_mem_nil, or_false, Prod.mk.injEq] at h
  obtain ⟨-, rfl, rfl⟩ | ⟨-, rfl, rfl⟩ | ⟨-, rfl, rfl⟩ := h
  · refine ⟨fun hp _ => hp format dest clear rfl, fun hp f d b e => ?_⟩
    obtain ⟨rfl, rfl, rfl⟩ := CflOp.drain.inj e
    exact hp rfl
  · simp
  · simp

theorem exec_cflCommand_accepted {s : State} {x : Task} (hi : s.issues l = some x) {g : Region} (hg : (s.ctx x.slot).region? (s.clusterOf l.val) = some g)
    (h1 : 1 ≤ count) (hc : count ≤ 65536) (hr : first + count ≤ g.elements) (hd : code = 6 → DrainOk (s.ctx x.slot) l.val count format dest) :
    ∃ t, exec c s = .next t ∧ OnlyUnit (s.unitOf l.val) s t ∧
      ((s.core l).offers = [] → t.unit (s.unitOf l.val) = { s.unit (s.unitOf l.val) with
        waiting := insertCmd (s.cflCmd l x first count op) (s.unit (s.unitOf l.val)).waiting }) ∧
      ((s.core l).offers ≠ [] → t.unit (s.unitOf l.val) = { s.unit (s.unitOf l.val) with
        behind := (s.unit (s.unitOf l.val)).behind ++ [s.cflCmd l x first count op] }) := by
  have hok : s.cflOk x.slot l.val first count op = true :=
    (s.cflOk_iff x.slot l.val first count op).mpr ⟨g, hg, ⟨h1, hc, hr⟩, (cflCommand_drain h fun f d => DrainOk (s.ctx x.slot) l.val count f d).mpr hd⟩
  refine ⟨_, exec_cflCommand h s, ?_⟩
  by_cases ho : (s.core l).offers = []
  · rw [State.cflCommand_waits hi code hok ho]
    exact ⟨OnlyUnit.setUnit s _ _, fun _ => State.unit_setUnit_same s _ _, fun hno => absurd ho hno⟩
  · rw [State.cflCommand_behind hi code hok ho]
    exact ⟨OnlyUnit.setUnit s _ _, fun hno => absurd hno ho, fun _ => State.unit_setUnit_same s _ _⟩

theorem exec_cflCommand_refused {s : State} {x : Task} (hi : s.issues l = some x)
    (hbad : (∀ g, (s.ctx x.slot).region? (s.clusterOf l.val) = some g → g.elements < first + count) ∨ count = 0 ∨ 65536 < count ∨
      (code = 6 ∧ ¬ DrainOk (s.ctx x.slot) l.val count format dest)) :
    ∃ t, exec c s = .next t ∧ OnlyCore l s t ∧ t.issues l = none ∧
      (t.core l).serving.bind (·.report) = some { status := .engineFault, code := code, detail := first } := by
  have hno : s.cflOk x.slot l.val first count op = false := by
    rw [← Bool.not_eq_true, s.cflOk_iff]
    rintro ⟨g, hg, ⟨h1, hc, hr⟩, hdrain⟩
    obtain hout | h0 | hmany | ⟨hcode, hd⟩ := hbad
    · exact absurd (hout g hg) (Nat.not_lt.mpr hr)
    · omega
    · omega
    · exact hd ((cflCommand_drain h fun f d => DrainOk (s.ctx x.slot) l.val count f d).mp hdrain hcode)
  rw [exec_cflCommand h s, State.cflCommand_refused hi code hno]
  exact ⟨_, rfl, State.engineFault_spec hi code first⟩

end

/-! ### Pair records (R245) -/

/-- The state once a core has offered pairs that are all valid. -/
def State.withOffers (s : State) (l : Fin 64) (ps : List (BitVec 128)) : State :=
  s.modCore l fun q => { q with offers := q.offers ++ ps, offered := q.offered + ps.length }

section
variable {s : State} {l : Fin 64} {x : Task} (hi : s.issues l = some x) {good : List (BitVec 128)} (hgood : ∀ p ∈ good, s.pairValid x.slot l.val p = true)
include hi hgood

theorem State.offerPairs_valid : s.offerPairs l good = s.withOffers l good := by
  have htake : good.takeWhile (s.pairValid x.slot l.val ·) = good := by
    simpa only [List.append_nil, List.takeWhile_nil] using List.takeWhile_append_of_pos (l₂ := []) hgood
  simp [State.offerPairs, State.withOffers, hi, htake]

theorem State.offerPairs_invalid {p : BitVec 128} (hp : s.pairValid x.slot l.val p = false) (rest : List (BitVec 128)) :
    s.offerPairs l (good ++ p :: rest) = (s.withOffers l good).engineFault l 0xFF (pairIndex p) := by
  have htake : (good ++ p :: rest).takeWhile (s.pairValid x.slot l.val ·) = good := by
    rw [List.takeWhile_append_of_pos hgood, List.takeWhile_cons, if_neg (by simp [hp]), List.append_nil]
  simp [State.offerPairs, State.withOffers, hi, htake]

end

theorem State.withOffers_issues (s : State) (l : Fin 64) (ps : List (BitVec 128)) : (s.withOffers l ps).issues l = s.issues l := by
  refine State.issues_congr ?_ ?_
  · unfold State.withOffers
    rw [State.core_modCore_same]
    rfl
  · unfold State.withOffers
    rw [State.core_modCore_same]

theorem State.engineFault_offers (s : State) (l : Fin 64) (code detail : Nat) : ((s.engineFault l code detail).core l).offers = (s.core l).offers := by
  unfold State.engineFault
  rw [State.core_modCore_same]
  rfl

/-! ### A fault of a context: what it leaves, and the cores it halts (R387, R390, R513) -/

/-- A fault changes its context in the causes of its steps, the fault, what is withheld and the trace alone. -/
theorem State.fault_ctx_part {α : Type} (p : Ctx → α) (hc : ∀ c n, p (Ctx.cause c n) = p c)
    (hf : ∀ (c : Ctx) f w, p { c with fault := f, withheld := w } = p c) (ht : ∀ (c : Ctx) tr, p { c with trace := tr } = p c)
    (s : State) (k : Fin 16) (f : FaultInfo) : p ((s.fault k f).ctx k) = p (s.ctx k) := by
  have htrig : ∀ (u : State) a b c d, p (((u.raise (ctxPage k) 1).trigger k a b c d).ctx k) = p (u.ctx k) := fun u a b c d => by
    obtain ⟨tr, htr⟩ := (u.raise (ctxPage k) 1).trigger_ctx_same k a b c d
    rw [htr]
    exact ht _ tr
  unfold State.fault
  extract_lets c f1 f2 u
  split
  · rfl
  · split
    · refine (htrig _ _ _ _ _).trans ?_
      rw [State.ctx_congr (State.pushRec_ctxs _ _), State.ctx_modCtx_same]
      exact hc _ 8
    · split
      · refine (htrig _ _ _ _ _).trans ?_
        unfold u
        rw [State.ctx_congr (State.haltCores_ctxs _ k), State.ctx_modCtx_same]
        exact (hf _ _ _).trans (hc _ 8)
      · extract_lets g'
        refine (htrig _ _ _ _ _).trans ?_
        rw [State.ctx_modCtx_same]
        exact hf _ (some g') _

/-- What decides which cores are a context's own (R335, R452). -/
def Ctx.placing (c : Ctx) : Phase × Bool × BitVec 64 × Fin 16 := (c.phase, c.offCores, c.lcids, c.catchment)

theorem State.coresOf_congr {s t : State} (h : ∀ j, (t.ctx j).placing = (s.ctx j).placing) (k : Fin 16) : t.coresOf k = s.coresOf k := by
  have hphase : ∀ j, (t.ctx j).phase = (s.ctx j).phase := fun j => congrArg (·.1) (h j)
  have hoff : ∀ j, (t.ctx j).offCores = (s.ctx j).offCores := fun j => congrArg (·.2.1) (h j)
  have hlcids : ∀ j, (t.ctx j).lcids = (s.ctx j).lcids := fun j => congrArg (·.2.2.1) (h j)
  have hcatch : ∀ j, (t.ctx j).catchment = (s.ctx j).catchment := fun j => congrArg (·.2.2.2) (h j)
  have hrival : t.rivalHere k = s.rivalHere k := by simp only [State.rivalHere, hphase, hoff, hcatch]
  have hcores : (t.ctx k).cores = (s.ctx k).cores := by rw [Ctx.cores, Ctx.cores, hlcids]
  unfold State.coresOf
  extract_lets c d
  rw [hphase k, hoff k, hrival, hcores]

theorem State.coresOf_modCtx (s : State) (k : Fin 16) {f : Ctx → Ctx} (hf : (f (s.ctx k)).placing = (s.ctx k).placing) (j : Fin 16) :
    (s.modCtx k f).coresOf j = s.coresOf j := by
  refine State.coresOf_congr (fun i => ?_) j
  by_cases hi : i = k
  · rw [hi, State.ctx_modCtx_same, hf]
  · rw [State.ctx_modCtx_other s f hi]

/-- The first fault of a context that tears it down halts the context's cores. -/
theorem State.fault_halts {s : State} {k : Fin 16} {f : FaultInfo} (hp : (s.ctx k).phase ≠ .empty) (hn : (s.ctx k).fault = none)
    (hs : faultScope f.code ≠ 1) {n : Nat} (h : n ∈ s.coresOf k) : ((s.fault k f).core (lcidOf n)).halted = true := by
  unfold State.fault
  extract_lets c f1 f2 u
  have hscope : f2.scope = faultScope f.code := by
    unfold f2
    split
    · rfl
    · rfl
  rw [if_neg hp, if_neg (by rw [hscope]; exact hs)]
  split
  next =>
    rw [State.core_congr (State.trigger_cores _ k _ _ _ _)]
    refine State.haltCores_halted ?_
    rw [State.coresOf_modCtx s k (by rfl)]
    exact h
  next g hg => exact absurd (hn.symm.trans hg) (by simp)

/-! ### The addition of an entry (R241, R248, R250) -/

theorem addWord_within {a : BitVec 256} {p : Int} (hl : -(2 ^ 255 : Int) < a.toInt + p) (hh : a.toInt + p < 2 ^ 255) :
    ∃ v, addWord a p = some v ∧ v.toInt = a.toInt + p := by
  refine ⟨_, if_pos ⟨hl, hh⟩, ?_⟩
  exact BitVec.toInt_ofInt_eq_self (by decide) (by simpa using Int.le_of_lt hl) (by simpa using hh)

theorem addWord_beyond {a : BitVec 256} {p : Int} (h : a.toInt + p ≤ -(2 ^ 255 : Int) ∨ 2 ^ 255 ≤ a.toInt + p) : addWord a p = none :=
  if_neg fun ⟨hl, hh⟩ => h.elim (Int.not_le.mpr hl) (Int.not_le.mpr hh)

section
variable {s : State} {k : Fin 16} {u i : Nat} {p : Int}

theorem State.addInt_poisoned (h : (s.ctx k).element u i = poisonWord) : s.addInt k u i p = s := by simp [State.addInt, h]

variable (h : (s.ctx k).element u i ≠ poisonWord)
include h

theorem State.addInt_within {v : BitVec 256} (hv : addWord ((s.ctx k).element u i) p = some v) :
    s.addInt k u i p = s.modCtx k (·.setElement u i v) := by simp [State.addInt, h, hv]

theorem State.addInt_beyond (hv : addWord ((s.ctx k).element u i) p = none) : s.addInt k u i p = s.rangeFault k u i := by
  simp [State.addInt, h, hv]

end

/-- The range fault poisons its element, is noted in the statistics, and is the context's fault with the cluster and the element; the
context's cores halt (R248). -/
theorem State.rangeFault_spec {s : State} {k : Fin 16} {u : Nat} {g : Region} (hg : (s.ctx k).region? u = some g)
    (hw : g.words.Pairwise fun a b => a.1 < b.1) (hp : (s.ctx k).phase ≠ .empty) (hn : (s.ctx k).fault = none) (i : Nat) :
    ((s.rangeFault k u i).ctx k).element u i = poisonWord ∧ ((s.rangeFault k u i).ctx k).stats.rangeFault = true ∧
      (∃ f, ((s.rangeFault k u i).ctx k).fault = some f ∧ f.code = 0x13 ∧ f.detail1 = u ∧ f.detail2 = i) ∧
      (∀ l ∈ s.coresOf k, ((s.rangeFault k u i).core (lcidOf l)).halted = true) ∧ ∀ j, j ≠ k → (s.rangeFault k u i).ctx j = s.ctx j := by
  unfold State.rangeFault State.faultCode
  extract_lets marked
  have hctx : ∃ st, marked.ctx k = { (s.ctx k).setElement u i poisonWord with stats := st } ∧ st.rangeFault = true :=
    ⟨_, State.ctx_modCtx_same s k _, rfl⟩
  obtain ⟨st, hmarked, hst⟩ := hctx
  have hphase : (marked.ctx k).phase ≠ .empty := by rw [hmarked]; exact hp
  have hfault : (marked.ctx k).fault = none := by rw [hmarked]; exact hn
  have hscope : faultScope 0x13 ≠ 1 := by decide
  have hcores : marked.coresOf k = s.coresOf k := State.coresOf_modCtx s k (by rfl) k
  obtain ⟨⟨f, hf, hcode, hd1, hd2, -⟩, -⟩ := State.fault_first (f := { code := 0x13, detail1 := u, detail2 := i }) hphase hfault hscope
  refine ⟨?_, ?_, ⟨f, hf, hcode, hd1, hd2⟩, fun l hl => State.fault_halts hphase hfault hscope (hcores ▸ hl), fun j hj => ?_⟩
  · rw [State.fault_ctx_part (fun c => c.element u i) (fun _ _ => rfl) (fun _ _ _ => rfl) (fun _ _ => rfl), hmarked]
    exact (Ctx.element_setElement hg hw i poisonWord u i).trans (if_pos rfl)
  · rw [State.fault_ctx_part (fun c => c.stats.rangeFault) (fun _ _ => rfl) (fun _ _ _ => rfl) (fun _ _ => rfl), hmarked]
    exact hst
  · exact ((State.fault_faultIn marked k _).others j hj).trans (State.ctx_modCtx_other s _ hj)

/-- Settles O35, by the operands that R251 allows, by the first invalid pair of a record, and by whether the exact sum stays in the range of R241. -/
theorem confluenceCommands : Obligations.ConfluenceCommands := by
  unfold Obligations.ConfluenceCommands
  refine ⟨?_, ?_⟩
  · intro l first count format dest cluster df addr clear s x hi
    refine ⟨fun c op code hc => ⟨fun g hg h1 hcount hr hd => ?_, fun hbad => ?_⟩, fun pairs hgood => ?_, fun good p rest hgood hp => ?_⟩
    · obtain ⟨t, he, honly, hwaits, hbehind⟩ := exec_cflCommand_accepted hc hi hg h1 hcount hr hd
      exact ⟨t, s.cflCmd l x first count op, he, honly, rfl, hwaits, hbehind⟩
    · exact exec_cflCommand_refused hc hi (hbad.imp_right (Or.imp_right (Or.imp_right (And.imp_right not_drainOk.mpr))))
    · exact ⟨_, congrArg Host.Outcome.next (State.offerPairs_valid hi hgood), OnlyCore.modCore s l _, State.core_modCore_same s l _⟩
    · obtain ⟨honly, -, hreport⟩ := State.engineFault_spec ((s.withOffers_issues l good).trans hi) 0xFF (pairIndex p)
      refine ⟨_, congrArg Host.Outcome.next (State.offerPairs_invalid hi hgood hp rest), (OnlyCore.modCore s l _).trans honly, ?_, hreport⟩
      rw [State.engineFault_offers, State.withOffers, State.core_modCore_same]
  · intro k u i p g s hg hw
    refine ⟨State.addInt_poisoned, fun hn hl hh => ?_, fun hn hout hp hf => ?_⟩
    · obtain ⟨v, hv, hsum⟩ := addWord_within hl hh
      have helement := Ctx.element_setElement hg hw i v
      refine ⟨_, (State.addInt_within hn hv).symm, OnlyCtx.modCtx s k _, ?_, fun w j hwj => ?_⟩
      · rw [State.ctx_modCtx_same, helement, if_pos rfl, hsum]
      · rw [State.ctx_modCtx_same, helement, if_neg hwj]
    · obtain ⟨hpoison, hstat, ⟨f, hfault, hcode, hd1, hd2⟩, hhalted, hothers⟩ := State.rangeFault_spec hg hw hp hf i
      exact ⟨_, f, (State.addInt_beyond hn (addWord_beyond hout)).symm, hpoison, hstat, hfault, hcode, hd1, hd2, hhalted, hothers⟩

end Sys2Proof.Machine
end

section
/-! SUPPORT. The begin of a confluence command (R252, R256, R263): a die on which the words that CFL_EXPORT sends to a later cluster of the same die
are added there in the very ac in which the command begins. -/

namespace Sys2Proof.Machine

/-- A running context with step 3 in flight and two confluence regions of one element: it holds 5 in cluster 0 and zero in cluster 1. -/
def relayContext : Ctx :=
  { phase := .running, launched := true, lcids := 0x101, clusters := 0b11, steps := [{ step := 3 }]
    regions := [{ cluster := 0, cores := [0], length := 64, elements := 1, words := [(0, 5)] }, { cluster := 1, cores := [8], length := 64, elements := 1 }] }

/-- CFL_EXPORT of the one element of cluster 0 to that of cluster 1 on the same die, for step 3, effective at ac 5001. -/
def relayExport : CflCmd := { slot := 0, lcid := 0, first := 0, count := 1, op := .exportTo 0x100 1 0 false, epoch := 3, effective := 5001 }

/-- A die in a slot, at ac 5000, on which that command waits in cluster 0 and nothing else is under way. -/
def relayState : State :=
  { State.reset with
    config := some { instanceAddr := 0x100, window := 0x100000, logAddr := 0x200000, operatorKeyHash := [] }
    time := { State.reset.time with ac := 5000, ref := 5000, tickRunning := true, slot := 2, offset := 10 }
    ctxs := State.reset.ctxs.set 0 relayContext
    units := State.reset.units.set 0 { waiting := [relayExport] } }

/-- Only the unit of cluster 0 has work, and its command may begin in the next ac, which still lies in the slot. -/
theorem relayState_begins : relayState.acLeft = some (244 + 1) ∧ (relayState.setUnit 0 {}).quiet = true ∧
    (relayState.unit 0).begins (relayState.time.ac + 1) = true := by decide +kernel

/-- The command's own work leaves the word it sent in the remote part of cluster 1. -/
theorem relayState_cflRun : ((((relayState.pass 1).cflStart 0).cflRun 0).ctx 0).element 1 0 = 0 := by decide +kernel

/-- In the ac that CFL_COMMAND_BEGIN lets pass, cluster 1 works after cluster 0 and adds the word. -/
theorem relayState_cflBegin : ((relayState.cflBegin 0).ctx 0).element 1 0 = 5 := by decide +kernel

/-- Refutes O36: what CFL_EXPORT sends to a later cluster of the same die is added there in the ac in which it begins, so the contexts after
CFL_COMMAND_BEGIN are not those that the begin and the command's own work leave. -/
theorem not_confluenceRuns : ¬ Obligations.ConfluenceRuns := by
  intro h
  obtain ⟨⟨-, -, -, hquiet⟩, -⟩ := h 0 relayState
  obtain ⟨hleft, hothers, hmay⟩ := relayState_begins
  obtain ⟨hbegin, -⟩ := hquiet ⟨244, hleft⟩ hothers rfl rfl rfl rfl
  obtain ⟨t, q, he, rfl, -, hctxs, -⟩ := hbegin rfl hmay
  obtain rfl : relayState.cflBegin 0 = t := Host.Outcome.next.inj he
  have hadded := relayState_cflBegin
  rw [State.ctx_congr hctxs 0, relayState_cflRun] at hadded
  exact absurd hadded (by decide)

end Sys2Proof.Machine
end

section
/-! SUPPORT. Messages of other instances (R36, R62, R257–R260, R347, R348, R355, R357, R516): remote entries, seals, digests and launch messages. -/

namespace Sys2Proof.Machine

/-! ### The addressee (R36) -/

theorem State.findCxid_phase {s : State} {cxid : Nat} {k : Fin 16} (h : s.findCxid cxid = some k) : (s.ctx k).phase ≠ .empty := by
  have hk := List.find?_some h
  simp only [Bool.and_eq_true, decide_eq_true_eq] at hk
  obtain ⟨hphase, -⟩ := hk
  exact hphase

theorem State.addressee_own {s : State} {h : MsgHdr} {k : Fin 16} (hk : s.findCxid h.cxid = some k) (hp : (s.ctx k).phase ≠ .tearingDown)
    (hc : (s.ctx k).cmid = h.cmid) (peer : Bool) : s.addressee h peer = (s, some k) := by
  simp [State.addressee, hk, hp, hc]

/-! ### Remote entries (R257, R259, R260, R515) -/

theorem FaultIn.units {k : Fin 16} {s t : State} (h : FaultIn k s t) : t.units = s.units := by rw [h.rest]

section
variable {s : State} {k : Fin 16} {h : MsgHdr} {cl i : Nat} {item : CflItem}

theorem State.remoteEntry_discarded (he : (s.ctx k).epochLive h.epoch = false) :
    s.remoteEntry k h cl i item = s.modCtx k (·.modStats fun t => { t with epochDiscards := t.epochDiscards + 1 }) := by
  simp [State.remoteEntry, he]

theorem State.remoteEntry_outside (he : (s.ctx k).epochLive h.epoch = true) (hg : ∀ g, (s.ctx k).region? cl = some g → g.elements ≤ i) :
    s.remoteEntry k h cl i item = s.faultCode k 0x0F (0x100 + cl % 8) i := by
  unfold State.remoteEntry
  cases hr : (s.ctx k).region? cl with
  | none => simp [he, hr]
  | some g => simp [he, hr, Nat.not_lt.mpr (hg g hr)]

/-- The entry that a remote partial becomes in the intake of its cluster: it waits where the die itself sent it and the remote part grants it no credit. -/
def State.remoteIntake (s : State) (k : Fin 16) (h : MsgHdr) (cl i : Nat) (item : CflItem) : IntakeEntry :=
  { slot := k, epoch := h.epoch, index := i, item := item, sender := h.sender, vc := h.vc, order := s.arrivals
    waits := h.sender == s.cfg.instanceAddr && ((s.unit (Fin.ofNat 8 cl)).remoteCredit == 0 || (s.unit (Fin.ofNat 8 cl)).remotePart.any (·.waits)) }

theorem State.remoteEntry_waits (he : (s.ctx k).epochLive h.epoch = true) (hg : ∃ g, (s.ctx k).region? cl = some g ∧ i < g.elements)
    (hw : (s.ctx k).fast = false ∨ ∃ r, item = .pair r) :
    ∃ u, s.remoteEntry k h cl i item = { s.setUnit (Fin.ofNat 8 cl) u with arrivals := s.arrivals + 1 } ∧
      u.remotePart = (s.unit (Fin.ofNat 8 cl)).remotePart ++ [s.remoteIntake k h cl i item] := by
  obtain ⟨g, hg, hi⟩ := hg
  unfold State.remoteEntry
  extract_lets c wide inside u e v t
  have hwide : (wide && c.fast) = false := by
    obtain hf | ⟨r, rfl⟩ := hw
    · rw [show c.fast = false from hf, Bool.and_false]
    · rfl
  have hinside : inside = true := by simp [inside, c, hg, hi]
  rw [if_neg (by simp [c, he]), if_neg (by simp [hinside, hwide])]
  exact ⟨v, rfl, rfl⟩

end

section
variable {s : State} {h : MsgHdr} {k : Fin 16} (hk : s.findCxid h.cxid = some k) (hp : (s.ctx k).phase ≠ .tearingDown) (hc : (s.ctx k).cmid = h.cmid)
  {c : Instr} {cl i : Nat} {item : CflItem} (hrow : (∃ w, c = .wideLanding h cl i w ∧ item = .wide w ∧ (s.ctx k).fast = false) ∨
    (∃ r, c = .forwardedPair h cl r ∧ i = pairIndex r ∧ item = .pair r))
include hk hp hc hrow

/-- Both rows that bring a remote partial bring it to the context of the message; a pair names its own element. -/
theorem exec_remotePartial :
    exec c s = .next (s.remoteEntry k h cl i item) ∧ ((s.ctx k).fast = false ∨ ∃ r, item = .pair r) := by
  have harrives : ∀ i item, s.remoteArrives h cl i item = s.remoteEntry k h cl i item := fun i item => by
    simp only [State.remoteArrives, State.addressee_own hk hp hc]
  obtain ⟨w, rfl, rfl, hf⟩ | ⟨r, rfl, rfl, rfl⟩ := hrow
  · exact ⟨congrArg Host.Outcome.next (harrives _ _), .inl hf⟩
  · exact ⟨congrArg Host.Outcome.next (harrives _ _), .inr ⟨r, rfl⟩⟩

theorem remotePartials (hcl : cl < 8) :
    ((s.ctx k).epochLive h.epoch = true → (∃ g, (s.ctx k).region? cl = some g ∧ i < g.elements) →
      ∃ t, exec c s = .next t ∧ (∀ v, v ≠ Fin.ofNat 8 cl → t.unit v = s.unit v) ∧
        (t.unit (Fin.ofNat 8 cl)).remotePart = (s.unit (Fin.ofNat 8 cl)).remotePart ++ [s.remoteIntake k h cl i item] ∧
        t = { s with units := t.units, arrivals := s.arrivals + 1 }) ∧
    ((s.ctx k).epochLive h.epoch = false → ∃ t, exec c s = .next t ∧ OnlyCtx k s t ∧
      t.ctx k = (s.ctx k).modStats fun u => { u with epochDiscards := u.epochDiscards + 1 }) ∧
    ((s.ctx k).epochLive h.epoch = true → (∀ g, (s.ctx k).region? cl = some g → g.elements ≤ i) → (s.ctx k).fault = none →
      ∃ t f, exec c s = .next t ∧ (t.ctx k).fault = some f ∧ f.code = 0x0F ∧ f.detail1 = 0x100 + cl ∧ f.detail2 = i ∧ t.units = s.units) := by
  obtain ⟨hexec, hwide⟩ := exec_remotePartial hk hp hc hrow
  refine ⟨fun he hg => ?_, fun he => ?_, fun he hg hf => ?_⟩
  · obtain ⟨u, hentry, hremote⟩ := State.remoteEntry_waits he hg hwide
    rw [hentry] at hexec
    refine ⟨_, hexec, fun v hv => State.unit_setUnit_other s _ hv, ?_, rfl⟩
    exact (congrArg CflUnit.remotePart (State.unit_setUnit_same s (Fin.ofNat 8 cl) u)).trans hremote
  · rw [State.remoteEntry_discarded he] at hexec
    exact ⟨_, hexec, OnlyCtx.modCtx s k _, State.ctx_modCtx_same s k _⟩
  · rw [State.remoteEntry_outside he hg, Nat.mod_eq_of_lt hcl] at hexec
    obtain ⟨⟨f, hfault, hcode, hd1, hd2, -⟩, -⟩ := State.fault_first (f := { code := 0x0F, detail1 := 0x100 + cl, detail2 := i })
      (State.findCxid_phase hk) hf (show faultScope 0x0F ≠ 1 by decide)
    exact ⟨_, f, hexec, hfault, hcode, hd1, hd2, (s.fault_faultIn k _).units⟩

end

/-! ### Seals and digests (R62, R63, R357, R516) -/

theorem Ctx.seal_raises (c : Ctx) (sender vc tick : Nat) : ∃ n, (sender, vc, n) ∈ (c.seal sender vc tick).seals ∧ tick ≤ n :=
  ⟨_, List.mem_cons_self, Nat.le_max_right _ _⟩

theorem Ctx.seal_others {c : Ctx} {sender vc : Nat} {p : Nat × Nat × Nat} (hp : p ∈ c.seals) (hne : (p.1, p.2.1) ≠ (sender, vc)) (tick : Nat) :
    p ∈ (c.seal sender vc tick).seals := by
  refine List.mem_cons_of_mem _ (List.mem_filter.mpr ⟨hp, ?_⟩)
  simpa [Decidable.imp_iff_not_or] using hne

theorem Ctx.controlSeal_raises (c : Ctx) (sender tick : Nat) : ∃ n, (sender, n) ∈ (c.controlSeal sender tick).controlSeals ∧ tick ≤ n :=
  ⟨_, List.mem_cons_self, Nat.le_max_right _ _⟩

theorem Ctx.controlSeal_others {c : Ctx} {sender : Nat} {p : Nat × Nat} (hp : p ∈ c.controlSeals) (hne : p.1 ≠ sender) (tick : Nat) :
    p ∈ (c.controlSeal sender tick).controlSeals :=
  List.mem_cons_of_mem _ (List.mem_filter.mpr ⟨hp, by simpa using hne⟩)

/-- A part that neither the peaks nor a context's waits for credits touch is the same after the horizon's weirs. -/
theorem State.horizonWeirs_part {α : Type} (f : State → α) (hp : ∀ s p, f (State.peak s p) = f s) (hc : ∀ s k g, f (State.modCtx s k g) = f s)
    (hu : ∀ (s : State) a b c d e q r, f { s with
      horizonStalled := a, horizonCredit := b, quotaCredit := c, beCredit := d, quotaStalled := e, beHorizonStalled := q
      beHorizonDelay := r } = f s) (s : State) : f s.horizonWeirs = f s := by
  unfold State.horizonWeirs
  extract_lets total pool be quota beNow full now
  have hmark : f (now.markCredits s) = f now := foldl_part f (fun t k => hc t k _) _ now
  exact (hp _ _).trans (hmark.trans (hu s _ _ _ _ _ _ _))

@[simp] theorem State.horizonWeirs_horizon (s : State) : s.horizonWeirs.horizon = s.horizon :=
  State.horizonWeirs_part State.horizon (fun s p => by rw [s.peak_rest p]) (fun _ _ _ => rfl) (fun _ _ _ _ _ _ _ _ => rfl) s
@[simp] theorem State.horizonWeirs_arrivals (s : State) : s.horizonWeirs.arrivals = s.arrivals :=
  State.horizonWeirs_part State.arrivals (fun s p => by rw [s.peak_rest p]) (fun _ _ _ => rfl) (fun _ _ _ _ _ _ _ _ => rfl) s
@[simp] theorem State.horizonWeirs_mem (s : State) : s.horizonWeirs.mem = s.mem :=
  State.horizonWeirs_part State.mem (fun s p => by rw [s.peak_rest p]) (fun _ _ _ => rfl) (fun _ _ _ _ _ _ _ _ => rfl) s
@[simp] theorem State.horizonWeirs_spad (s : State) : s.horizonWeirs.spad = s.spad :=
  State.horizonWeirs_part State.spad (fun s p => by rw [s.peak_rest p]) (fun _ _ _ => rfl) (fun _ _ _ _ _ _ _ _ => rfl) s

/-- A seal put into the horizon queue joins it at its end; beside the credits and the weirs nothing changes. -/
theorem State.enqueue_seal (s : State) (k : Fin 16) (h : MsgHdr) :
    CreditsSince s (s.enqueue k h .seal) ∧ (s.enqueue k h .seal).mem = s.mem ∧ (s.enqueue k h .seal).spad = s.spad ∧
      (s.enqueue k h .seal).arrivals = s.arrivals + 1 ∧ (s.enqueue k h .seal).horizon = s.horizon ++
        [{ hdr := h, body := .seal, slot := k, order := s.arrivals, whileFrozen := (s.ctx k).afterSave, late := s.pastDue k h false }] := by
  unfold State.enqueue
  extract_lets control frozen e u
  have hfrozen : frozen = (s.ctx k).afterSave := Bool.and_true _
  have hu : u.ctxs = s.ctxs ∧ u.mem = s.mem ∧ u.spad = s.spad ∧ u.arrivals = s.arrivals ∧ u.horizon = s.horizon := by
    unfold u
    split
    · exact ⟨rfl, rfl, rfl, rfl, rfl⟩
    · exact ⟨rfl, rfl, rfl, rfl, rfl⟩
  obtain ⟨hctxs, hmem, hspad, harrivals, hhorizon⟩ := hu
  refine ⟨(CreditsSince.of_ctxs hctxs).trans (State.horizonWeirs_creditsSince _), ?_, ?_, ?_, ?_⟩
  · rw [State.horizonWeirs_mem]
    exact hmem
  · rw [State.horizonWeirs_spad]
    exact hspad
  · rw [State.horizonWeirs_arrivals, harrivals]
  · rw [State.horizonWeirs_horizon, ← hfrozen, ← hhorizon]

section
variable {s : State} {h : MsgHdr} {k : Fin 16} (hk : s.findCxid h.cxid = some k) (hp : (s.ctx k).phase ≠ .tearingDown) (hc : (s.ctx k).cmid = h.cmid)
include hk hp hc

theorem State.tickSeal_counts (hb : s.behindRemote h s.arrivals = false) : s.tickSeal h = s.modCtx k (·.seal h.sender h.vc h.tick) := by
  simp [State.tickSeal, State.addressee_own hk hp hc, hb]

theorem State.tickSeal_waits (hb : s.behindRemote h s.arrivals = true) : s.tickSeal h = s.enqueue k h .seal := by
  simp [State.tickSeal, State.addressee_own hk hp hc, hb]

theorem State.ctrlSeal_own : s.ctrlSeal h = s.modCtx k (·.controlSeal h.sender h.tick) := by
  simp [State.ctrlSeal, State.addressee_own hk hp hc]

theorem State.peerDigest_own (tick : Nat) (d : BitVec 64) : s.peerDigest h tick d = s.modCtx k fun c =>
    { c with lock := { c.lock with peerDigests := (tick, d) :: c.lock.peerDigests.filter fun p => p.1 != tick } } := by
  simp [State.peerDigest, State.addressee_own hk hp hc]

end

/-! ### Launch messages (R36, R347, R348, R355) -/

theorem OnlyCatch.setCatch (s : State) (k : Fin 16) (c : Catch) : OnlyCatch k s (s.setCatch k c) :=
  ⟨rfl, fun _ hj => State.catch_setCatch_other s c hj⟩

theorem State.launchMsg_held {s : State} {h : MsgHdr} {peer : Bool} {k : Fin 16} (hk : s.launchCatch h peer = some k) (x : Ctrl) :
    s.launchMsg h peer x = s.setCatch k { s.catch_ k with held := (s.catch_ k).held ++ [(h.tick + (s.catch_ k).horizon, h.sender, x)] } := by
  simp [State.launchMsg, hk]

theorem State.launchMsg_stray {s : State} {h : MsgHdr} {peer : Bool} (hk : s.launchCatch h peer = none) (x : Ctrl) :
    s.launchMsg h peer x = s.stray h.sender := by
  simp [State.launchMsg, hk]

theorem exec_launchMessage {h : MsgHdr} {index hash reason horizon launch : Nat} {sm : MemberSummary} {batch : List Change} {s : State} {c : Instr}
    {x : Ctrl} {peer : Bool} (hc : (c, x, peer) ∈ [(Instr.joinMessage h index hash sm, Ctrl.join index hash sm, false),
      (.refuse h index reason, .refuse index reason, (s.launchCatch h false).isNone), (.confirm { hdr := h, batch := batch }, .confirm batch, false),
      (.abort h, .abort, false), (.lockstepHello h horizon launch index, .lockHello horizon launch index, true)]) :
    exec c s = .next (s.launchMsg h peer x) := by
  simp only [List.mem_cons, List.not_mem_nil, or_false, Prod.mk.injEq] at hc
  obtain ⟨rfl, rfl, rfl⟩ | ⟨rfl, rfl, rfl⟩ | ⟨rfl, rfl, rfl⟩ | ⟨rfl, rfl, rfl⟩ | ⟨rfl, rfl, rfl⟩ := hc
  · rfl
  · rfl
  · rfl
  · rfl
  · rfl

/-- Settles O42, by the addressee of each message and by the catchment of the table that a launch message names. -/
theorem controlMessages : Obligations.ControlMessages := by
  unfold Obligations.ControlMessages
  refine ⟨?_, ?_⟩
  · intro h k s hk hp hc
    refine ⟨fun c cl i item hrow hcl => remotePartials hk hp hc hrow hcl, fun hb => ?_, fun hb => ?_, rfl, ?_, fun tick d => ?_⟩
    · refine ⟨_, congrArg Host.Outcome.next (State.tickSeal_counts hk hp hc hb), OnlyCtx.modCtx s k _, ?_⟩
      rw [State.ctx_modCtx_same]
      exact ⟨Ctx.seal_raises _ _ _ _, fun p hmem hne => Ctx.seal_others hmem hne _⟩
    · obtain ⟨hctxs, hmem, hspad, harrivals, hhorizon⟩ := s.enqueue_seal k h
      exact ⟨_, congrArg Host.Outcome.next (State.tickSeal_waits hk hp hc hb), hctxs, hmem, hspad, harrivals, hhorizon⟩
    · refine ⟨_, congrArg Host.Outcome.next (State.ctrlSeal_own hk hp hc), OnlyCtx.modCtx s k _, ?_⟩
      rw [State.ctx_modCtx_same]
      exact ⟨Ctx.controlSeal_raises _ _ _, fun p hmem hne => Ctx.controlSeal_others hmem hne _⟩
    · refine ⟨_, congrArg Host.Outcome.next (State.peerDigest_own hk hp hc tick d), OnlyCtx.modCtx s k _, ?_⟩
      rw [State.ctx_modCtx_same]
      refine ⟨List.mem_cons_self, fun e he => ?_, rfl⟩
      simpa using he
  · intro h index hash reason horizon launch sm batch s
    refine ⟨fun c x peer hc => ⟨fun k hk => ?_, fun hk => ?_⟩, fun k sender => ⟨?_, ?_, rfl, rfl⟩⟩
    · exact ⟨_, (exec_launchMessage hc).trans (congrArg _ (State.launchMsg_held hk x)), OnlyCatch.setCatch s k _, State.catch_setCatch_same s k _⟩
    · exact ⟨_, (exec_launchMessage hc).trans (congrArg _ (State.launchMsg_stray hk x)), rfl, rfl⟩
    · refine ⟨_, rfl, OnlyCatch.setCatch s k _, ?_⟩
      rw [State.launchEffect, State.catch_setCatch_same]
      exact ⟨List.mem_cons_self, List.mem_cons_self⟩
    · refine ⟨_, rfl, OnlyCatch.setCatch s k _, ?_⟩
      rw [State.launchEffect, State.catch_setCatch_same]
      exact List.mem_cons_self

end Sys2Proof.Machine
end

section
/-! SUPPORT. Submissions (R280, R312, R319, R333, R334, R350–R352, R382, R395, R451–R454, R463): the commands that bring one to a context of the die,
the refusals that come before its kind is looked at, what each kind does at a running single-member context, and the sequences that an import enters. -/

namespace Sys2Proof.Machine

/-! ### The commands that bring a submission -/

/-- The command brings the submission, to be taken at the context of the die that its CXID names (R451). -/
inductive Brings (h : SubHdr) : Instr → Sub → Prop
  | freeze (a l : Nat) (rel : Bool) : Brings h (.freeze h a l rel) (.freeze a l rel)
  | teardown : Brings h (.teardown h) .teardown
  | cancel (n : Nat) : Brings h (.cancel h n) (.cancel n)
  | join (r : JoinReq) : Brings h (.join h r) (.join r)
  | leave (r : LeaveReq) : Brings h (.leave h r) (.leave r)
  | importSeq (r : ImportReq) : Brings h (.importSeq h r) (.importSeq r)
  | appendCount (g n : Nat) : Brings h (.appendCount h g n) (.appendCount g n)
  | setFlag (st node : Nat) (flags : BitVec 32) : Brings h (.setFlag h st node flags) (.setFlag st node flags)
  | runRecord : Brings h (.runRecord h) .runRecord
  | step (tpl n : Nat) : Brings h (.step h tpl n) (.step tpl n)

theorem Brings.exec_eq {h : SubHdr} {c : Instr} {x : Sub} (hb : Brings h c x) (s : State) : exec c s = .next (s.submit h x) := by
  cases hb with
  | freeze => rfl
  | teardown => rfl
  | cancel => rfl
  | join => rfl
  | leave => rfl
  | importSeq => rfl
  | appendCount => rfl
  | setFlag => rfl
  | runRecord => rfl
  | step => rfl

/-- No submission is taken before READY (R463). -/
theorem exec_not_ready {s : State} (hr : s.boot.ready = false) {h : SubHdr} {c : Instr}
    (hc : (∃ x, Brings h c x) ∨ (∃ r, c = .load h r) ∨ (∃ b, c = .manifest h b) ∨ (∃ r, c = .thaw h r) ∨ ∃ b, c = .fwUpdate h b) : exec c s = .next s := by
  have hno : (!s.boot.ready) = true := by simp [hr]
  have hnot : ¬ s.boot.ready = true := by simp [hr]
  obtain ⟨x, hb⟩ | ⟨r, rfl⟩ | ⟨b, rfl⟩ | ⟨r, rfl⟩ | ⟨b, rfl⟩ := hc
  · exact (hb.exec_eq s).trans (congrArg Host.Outcome.next (if_neg hnot))
  · exact congrArg Host.Outcome.next (if_pos hno)
  · exact congrArg Host.Outcome.next (if_pos hno)
  · exact congrArg Host.Outcome.next (if_pos hno)
  · exact congrArg Host.Outcome.next (if_neg hnot)

/-- A fenced die refuses each submission that would bring a context onto it (R395). -/
theorem exec_fenced {s : State} (hr : s.boot.ready = true) (hf : s.safety.fenced = true) {h : SubHdr} {c : Instr} {code : Nat}
    (hc : (∃ r, c = .load h r ∧ code = 1) ∨ (∃ b, c = .manifest h b ∧ code = 2) ∨ ∃ r, c = .thaw h r ∧ code = 4) :
    exec c s = .next (s.countTaken.result h code 0 0x2A none (s.time.localTick + 1)) := by
  have hgo : ¬ (!s.boot.ready) = true := by simp [hr]
  obtain ⟨r, rfl, rfl⟩ | ⟨b, rfl, rfl⟩ | ⟨r, rfl, rfl⟩ := hc
  · exact congrArg Host.Outcome.next ((if_neg hgo).trans (if_pos hf))
  · exact congrArg Host.Outcome.next ((if_neg hgo).trans (if_pos hf))
  · exact congrArg Host.Outcome.next ((if_neg hgo).trans (if_pos hf))

/-! ### What each kind comes to at its context (R333, R452, R453) -/

/-- A context with the flags waiting, and with them in its input digest (R384, R453). -/
def Ctx.flagsTaken (c : Ctx) (w : Waiting) (fields : Bytes) : Ctx :=
  { (c.digestInput w.taken 2 (w.received fields)) with setFlagsDue := c.setFlagsDue ++ [w] }

section
variable {h : SubHdr} {k : Fin 16} {u : State} (hk : u.findCxid h.cxid = some k) (taken due : Nat)
include hk

theorem State.accept_misplaced {x : Sub} (hw : Sub.forHeadwater x = true) (hh : (u.ctx k).headwater = false) :
    u.accept h x [] taken due = u.result h x.kind taken 8 (some k) due := by
  simp only [State.accept, hk]
  exact if_pos ⟨hw, hh⟩

theorem State.accept_untimely {x : Sub} (hw : Sub.forHeadwater x = false) (hp : phaseAllows (u.ctx k).phase x = false) :
    u.accept h x [] taken due = u.result h x.kind taken 0x0C (some k) due := by
  simp only [State.accept, hk]
  exact (if_neg (by simp [hw])).trans (if_pos hp)

theorem State.accept_freeze (hp : (u.ctx k).phase ≠ .tearingDown) (a l : Nat) (rel : Bool) :
    u.accept h (.freeze a l rel) [] taken due = u.takeFreeze k { hdr := h, taken := taken, sub := .freeze a l rel } a l due := by
  simp [State.accept, hk, Sub.forHeadwater, phaseAllows, hp]

variable (hp : (u.ctx k).phase = .running)
include hp

theorem State.accept_teardown : u.accept h .teardown [] taken due = u.takeTeardown k { hdr := h, taken := taken, sub := .teardown } := by
  simp [State.accept, hk, Sub.forHeadwater, phaseAllows, hp]

theorem State.accept_importSeq (r : ImportReq) :
    u.accept h (.importSeq r) [] taken due = u.takeImport k { hdr := h, taken := taken, sub := .importSeq r } due r := by
  simp [State.accept, hk, Sub.forHeadwater, phaseAllows, hp]

theorem State.accept_runRecord : u.accept h .runRecord [] taken due = u.pushRec
    { kind := 9, cxid := h.cxid, ctx := some k, slot := h.slot.val, tag := h.tag, taken := taken, subKind := 0x0C, due := due } := by
  simp [State.accept, hk, Sub.forHeadwater, phaseAllows, hp]

theorem State.accept_setFlag (st node : Nat) {flags : BitVec 32} (hf : flags.toNat < 2 ^ 24) : ∃ fields, u.accept h (.setFlag st node flags) [] taken due =
    u.modCtx k (·.flagsTaken { hdr := h, taken := taken, sub := .setFlag st node flags } fields) := by
  refine ⟨leBytes 5 st ++ zeros 1 ++ leBytes 2 node ++ leBytes 4 flags.toNat, ?_⟩
  have hin : ¬ flags.toNat ≥ 2 ^ 24 := by omega
  simp only [State.accept, hk, Sub.forHeadwater, phaseAllows, hp, if_neg hin]
  rfl

theorem State.accept_setFlag_out (st node : Nat) {flags : BitVec 32} (hf : 2 ^ 24 ≤ flags.toNat) :
    u.accept h (.setFlag st node flags) [] taken due = u.result h 11 taken 2 (some k) due := by
  simp only [State.accept, hk, Sub.forHeadwater, phaseAllows, hp, if_pos (show flags.toNat ≥ 2 ^ 24 from hf)]
  rfl

variable (hh : (u.ctx k).headwater = true)
include hh

theorem State.accept_cancel (n : Nat) : u.accept h (.cancel n) [] taken due = u.takeCancel k { hdr := h, taken := taken, sub := .cancel n } n := by
  simp [State.accept, hk, Sub.forHeadwater, phaseAllows, hp, hh]

theorem State.accept_join {r : JoinReq} (hf : u.joinFields k r = true) :
    u.accept h (.join r) [] taken due = u.takeChange k { hdr := h, taken := taken, sub := .join r } := by
  simp [State.accept, hk, Sub.forHeadwater, phaseAllows, hp, hh, hf]

theorem State.accept_join_out {r : JoinReq} (hf : u.joinFields k r = false) : u.accept h (.join r) [] taken due = u.result h 7 taken 2 (some k) due := by
  simp [State.accept, hk, Sub.forHeadwater, phaseAllows, hp, hh, hf, State.refuse, Sub.kind]

theorem State.accept_leave (r : LeaveReq) : u.accept h (.leave r) [] taken due = u.takeChange k { hdr := h, taken := taken, sub := .leave r } := by
  simp [State.accept, hk, Sub.forHeadwater, phaseAllows, hp, hh]

theorem State.accept_appendCount (g : Nat) {n : Nat} (hn : n ≤ 16384) :
    u.accept h (.appendCount g n) [] taken due = u.takeChange k { hdr := h, taken := taken, sub := .appendCount g n } := by
  simp [State.accept, hk, Sub.forHeadwater, phaseAllows, hp, hh, Nat.not_lt.mpr hn]

theorem State.accept_appendCount_out (g : Nat) {n : Nat} (hn : 16384 < n) :
    u.accept h (.appendCount g n) [] taken due = u.result h 10 taken 2 (some k) due := by
  simp [State.accept, hk, Sub.forHeadwater, phaseAllows, hp, hh, hn, State.refuse, Sub.kind]

theorem State.accept_step (tpl n : Nat) :
    u.accept h (.step tpl n) [] taken due = u.takeStep k { hdr := h, taken := taken, sub := .step tpl n } tpl n due := by
  simp [State.accept, hk, Sub.forHeadwater, phaseAllows, hp, hh]

end

/-! ### Submissions taken, and the refusals that come before the kind (R451, R454, R463) -/

section
variable {h : SubHdr} {c : Instr} {x : Sub} (hb : Brings h c x) {s : State} (hr : s.boot.ready = true)
include hb hr

theorem Brings.exec_ready : exec c s = .next (s.countTaken.accept h x [] (s.takenTick h.cxid) (s.time.localTick + 1)) := by
  rw [hb.exec_eq, State.submit, if_pos hr]
  rfl

theorem Brings.no_slot (hn : s.findCxid h.cxid = none) : exec c s = .next (s.countTaken.result h x.kind 0 3 none (s.time.localTick + 1)) := by
  have hu : s.countTaken.findCxid h.cxid = none := hn
  rw [hb.exec_ready hr]
  simp only [State.accept, hu]

variable {k : Fin 16} (hk : s.findCxid h.cxid = some k)
include hk

/-- At the context that the CXID names, a submission is taken with that context's tick (R380). -/
theorem Brings.exec_at {u : State} (ha : s.countTaken.accept h x [] (s.ctx k).tick (s.time.localTick + 1) = u) : exec c s = .next u := by
  rw [hb.exec_ready hr, State.takenTick_of hk, ha]

theorem Brings.misplaced (hw : Sub.forHeadwater x = true) (hh : (s.ctx k).headwater = false) :
    exec c s = .next (s.countTaken.result h x.kind (s.ctx k).tick 8 (some k) (s.time.localTick + 1)) :=
  hb.exec_at hr hk (State.accept_misplaced (u := s.countTaken) hk _ _ hw hh)

theorem Brings.untimely (hw : Sub.forHeadwater x = false) (hp : phaseAllows (s.ctx k).phase x = false) :
    exec c s = .next (s.countTaken.result h x.kind (s.ctx k).tick 0x0C (some k) (s.time.localTick + 1)) :=
  hb.exec_at hr hk (State.accept_untimely (u := s.countTaken) hk _ _ hw hp)

end

/-! ### The effects at a running single-member context (R312, R319, R334, R350, R352) -/

theorem OnlyCtx.setCtx (s : State) (k : Fin 16) (c : Ctx) : OnlyCtx k s (s.setCtx k c) := ⟨rfl, fun _ hj => State.ctx_setCtx_other s c hj⟩

theorem State.takeCancel_running {u : State} {k : Fin 16} (hp : (u.ctx k).phase = .running) (hm : (u.ctx k).multiMember = false) (w : Waiting) (n : Nat) :
    OnlyCtx k u (u.takeCancel k w n) ∧ ((u.takeCancel k w n).ctx k).outcomes = (u.ctx k).outcomes ++ [{ w with step := n }] ∧
      ((u.takeCancel k w n).ctx k).due = (u.ctx k).due ++ [{ tick := (u.ctx k).tick + 1, sender := u.cfg.instanceAddr, ctrl := .cancel n }] ∧
      ((u.takeCancel k w n).ctx k).steps = (u.ctx k).steps := by
  unfold State.takeCancel
  extract_lets c digested noted
  have hlive : ¬ (c.phase = .freezing ∨ c.phase = .frozen ∨ c.phase = .thawing) := by simp [c, hp]
  rw [if_neg hlive, if_neg (by simp [c, hm])]
  have hnoted : OnlyCtx k u noted := (OnlyCtx.modCtx u k _).trans (.modCtx digested k _)
  refine ⟨hnoted.trans (.modCtx noted k _), ?_⟩
  simp only [noted, digested, State.ctx_modCtx_same]
  exact ⟨rfl, rfl, rfl⟩

theorem State.takeStep_known {u : State} {k : Fin 16} {tpl n : Nat} (hn : n ≠ 0)
    (ht : tpl = 0xFFFF ∨ ∃ x, (u.ctx k).image.templates[tpl]? = some x ∧ x.stepTemplate = true) (w : Waiting) (due : Nat) :
    u.takeStep k w tpl n due = u.modCtx k fun c => { c with hw := { c.hw with
      stepSubs := c.hw.stepSubs ++ [{ hdr := w.hdr, taken := w.taken, template := tpl, left := n }] } } := by
  refine if_neg ?_
  obtain rfl | ⟨x, hx, hs⟩ := ht
  · simp [hn]
  · simp [hn, hx, hs]

theorem State.takeStep_none (u : State) (k : Fin 16) (w : Waiting) (tpl due : Nat) : u.takeStep k w tpl 0 due = u.refuse w.hdr w.sub k w.taken 2 due := by
  simp [State.takeStep]

theorem State.takeFreeze_frozen {u : State} {k : Fin 16} (hp : (u.ctx k).phase = .freezing ∨ (u.ctx k).phase = .frozen) (w : Waiting) (a l due : Nat) :
    u.takeFreeze k w a l due = u.refuse w.hdr w.sub k w.taken 6 due := if_pos hp

theorem State.takeFreeze_second {u : State} {k : Fin 16} (hp : (u.ctx k).phase = .running) (hs : (u.ctx k).freezeSub ≠ none) (w : Waiting) (a l due : Nat) :
    u.takeFreeze k w a l due = u.refuse w.hdr w.sub k w.taken 7 due := by
  refine (if_neg ?_).trans (if_pos (Option.isSome_iff_ne_none.mpr hs))
  simp [hp]

/-- A freeze that has its submission fixes the freeze tick (R319). -/
theorem State.freezeEffect_submitted {u : State} {k : Fin 16} (hp : (u.ctx k).phase = .running) (hg : (u.ctx k).freezeStage = .none)
    (hs : (u.ctx k).freezeSub.isSome = true) (f : Nat) : u.freezeEffect k f = u.setCtx k { u.ctx k with freezeStage := .scheduled f } := by
  refine (if_pos ⟨hp, hg⟩).trans (if_neg ?_)
  simp [Option.isSome_iff_ne_none.mp hs]

theorem State.takeFreeze_first {u : State} {k : Fin 16} (hp : (u.ctx k).phase = .running) (hm : (u.ctx k).multiMember = false)
    (hs : (u.ctx k).freezeSub = none) (hg : (u.ctx k).freezeStage = .none) {a l : Nat} (ha : u.inPackage a l = true) (w : Waiting) (due : Nat) :
    OnlyCtx k u (u.takeFreeze k w a l due) ∧
      (u.takeFreeze k w a l due).ctx k = { u.ctx k with freezeSub := some w, freezeStage := .scheduled ((u.ctx k).tick + 1) } := by
  have htaken : u.takeFreeze k w a l due = (u.setCtx k { u.ctx k with freezeSub := some w }).freezeEffect k ((u.ctx k).tick + 1) := by
    simp [State.takeFreeze, hp, hm, hs, ha]
  have hctx := u.ctx_setCtx_same k { u.ctx k with freezeSub := some w }
  rw [htaken, State.freezeEffect_submitted (by rw [hctx]; exact hp) (by rw [hctx]; exact hg) (by rw [hctx]; rfl), hctx]
  exact ⟨(OnlyCtx.setCtx u k _).trans (.setCtx _ k _), State.ctx_setCtx_same _ k _⟩

/-- The first fault that tears a context down has the scope of its code (R398). -/
theorem State.fault_first_scope {s : State} {k : Fin 16} {f g : FaultInfo} (hp : (s.ctx k).phase ≠ .empty) (hn : (s.ctx k).fault = none)
    (hs : faultScope f.code ≠ 1) (hg : ((s.fault k f).ctx k).fault = some g) : g.scope = faultScope f.code := by
  unfold State.fault at hg
  extract_lets c f1 f2 u at hg
  have hscope : f2.scope = faultScope f.code := by
    unfold f2
    split
    · rfl
    · rfl
  rw [if_neg hp, if_neg (by rw [hscope]; exact hs)] at hg
  split at hg
  next =>
    obtain ⟨tr, htr⟩ := (u.raise (ctxPage k) 1).trigger_ctx_same k 2 f2.code f2.ids.1 f2.ids.2
    have hu : (u.raise (ctxPage k) 1).ctx k = { (s.ctx k).cause 8 with fault := some f2, withheld := true } :=
      (State.ctx_congr (State.haltCores_ctxs _ k) k).trans (State.ctx_modCtx_same s k _)
    rw [htr, hu] at hg
    exact Option.some.inj hg ▸ hscope
  next e he => exact absurd (hn.symm.trans he) (by simp)

theorem State.takeTeardown_first {u : State} {k : Fin 16} (hp : (u.ctx k).phase ≠ .empty) (hn : (u.ctx k).fault = none) (w : Waiting) :
    ∃ f, ((u.takeTeardown k w).ctx k).fault = some f ∧ f.code = 0x01 ∧ f.scope = 0 ∧
      ((u.takeTeardown k w).ctx k).teardownSub = some ((u.ctx k).teardownSub.getD w) ∧
      (∀ l ∈ u.coresOf k, ((u.takeTeardown k w).core (lcidOf l)).halted = true) ∧ ∀ j, j ≠ k → (u.takeTeardown k w).ctx j = u.ctx j := by
  unfold State.takeTeardown State.faultCode
  extract_lets noted
  have hctx : noted.ctx k = { u.ctx k with teardownSub := if (u.ctx k).teardownSub.isSome then (u.ctx k).teardownSub else some w } :=
    State.ctx_modCtx_same u k _
  have hphase : (noted.ctx k).phase ≠ .empty := by rw [hctx]; exact hp
  have hfault : (noted.ctx k).fault = none := by rw [hctx]; exact hn
  have hscope : faultScope 0x01 ≠ 1 := by decide
  have hcores : noted.coresOf k = u.coresOf k := State.coresOf_modCtx u k (by rfl) k
  rw [hfault]
  obtain ⟨⟨f, hf, hcode, -⟩, -⟩ := State.fault_first (f := { code := 0x01, detail1 := 0, detail2 := 0 }) hphase hfault hscope
  refine ⟨f, hf, hcode, State.fault_first_scope hphase hfault hscope hf, ?_, fun l hl => State.fault_halts hphase hfault hscope (hcores ▸ hl), fun j hj => ?_⟩
  · rw [State.fault_ctx_part (·.teardownSub) (fun _ _ => rfl) (fun _ _ _ => rfl) (fun _ _ => rfl), hctx]
    cases (u.ctx k).teardownSub with
    | none => rfl
    | some v => rfl
  · exact ((State.fault_faultIn noted k _).others j hj).trans (State.ctx_modCtx_other u _ hj)

/-! ### The sequences of a ledger that an import enters (R275, R280) -/

/-- Of a sequence, what the submission of its import gives it, and its state. -/
def Seq.entry (q : Seq) : Nat × Nat × Bool × Nat × Nat × Nat := (q.globalId, q.state, q.imported, q.maxTokens, q.tokens, q.hostAddr)

/-- A sequence as the submission of its import gives it (R280). -/
def importSeqOf (h : SubHdr) (taken : Nat) (r : ImportReq) : Seq :=
  { globalId := r.globalId, state := 0, imported := true, maxTokens := r.maxTokens, tokens := r.tokens, hostAddr := r.hostAddr, importSub := some (h, taken) }

/-- The entries of a ledger, in the order of its sequences. -/
def Ledger.entries (l : Ledger) : List (Nat × Nat × Bool × Nat × Nat × Nat) := l.seqs.map Seq.entry

theorem Ledger.global?_entry (l : Ledger) (g : Nat) : (l.global? g).map Seq.entry = l.entries.find? (·.1 == g) := by
  rw [Ledger.entries, List.find?_map]
  rfl

theorem Ledger.modSeq_entries (l : Ledger) (q : Nat) {f : Seq → Seq} (hf : ∀ x, (f x).entry = x.entry) : (l.modSeq q f).entries = l.entries := by
  simp only [Ledger.entries, Ledger.modSeq, List.map_map]
  refine List.map_congr_left fun x _ => ?_
  simp only [Function.comp_apply]
  split
  · exact hf x
  · rfl

theorem Ledger.modSeq_pending_entries (l : Ledger) (q n : Nat) : (l.modSeq q fun x => { x with pendingTasks := n }).entries = l.entries :=
  l.modSeq_entries q fun _ => rfl

theorem Ledger.addBlock_entries (l : Ledger) (q level g y i : Nat) : (l.addBlock q level g y i).entries = l.entries := by
  unfold Ledger.addBlock
  split
  · rfl
  · exact l.modSeq_entries q fun _ => rfl

theorem Ledger.addPage_entries (l : Ledger) (targets : List Nat) (q g y p valid : Nat) : (l.addPage targets q g y p valid).entries = l.entries := by
  unfold Ledger.addPage
  split
  · rfl
  · split
    · rfl
    · extract_lets used pick grown
      have hgrown : grown.entries = l.entries := by
        unfold grown
        split
        · rfl
        · exact l.addBlock_entries q 2 g y _
      clear_value pick
      cases pick with
      | none => rfl
      | some f =>
        refine Eq.trans ?_ hgrown
        exact grown.modSeq_entries q fun _ => rfl

/-- The pages of an import, layer by layer, are added to one sequence and change no entry. -/
theorem Ledger.addPages_entries (l : Ledger) (targets : List Nat) (q : Nat) (tokens : Nat) (ls : List (Nat × Nat)) :
    (ls.foldl (fun l gy => (pagesOf l.pageTokens 0 tokens).foldl (fun l p => l.addPage targets q gy.1 gy.2 p (tokensIn l.pageTokens p tokens)) l) l).entries =
      l.entries :=
  List.foldlRecOn (motive := fun m : Ledger => m.entries = l.entries) ls _ rfl fun _ hm gy _ =>
    List.foldlRecOn (motive := fun m : Ledger => m.entries = l.entries) _ _ hm fun m hm p _ => (m.addPage_entries targets q gy.1 gy.2 p _).trans hm

theorem firstFree_isSome {n : Nat} {used : List Nat} (h : used.length < n) : (firstFree 0 n used).isSome = true := by
  simp only [firstFree, Nat.zero_add, List.map_id', List.find?_isSome, Nat.min_eq_right (Nat.succ_le_of_lt h)]
  refine Classical.byContradiction fun hall => ?_
  have hsub : List.range (used.length + 1) ⊆ used := fun x hx => Classical.byContradiction fun hx' => hall ⟨x, hx, by simpa using hx'⟩
  have hle := List.nodup_range.length_le_of_subset hsub
  rw [List.length_range] at hle
  omega

theorem Ledger.enter_entries {l : Ledger} (h : l.seqs.length < 8192) (q : Seq) : (l.enter q).entries = l.entries ++ [q.entry] := by
  obtain ⟨id, hid⟩ := Option.isSome_iff_exists.mp (firstFree_isSome (used := l.seqs.map (·.id)) (by simpa using h))
  simp only [Ledger.enter, hid]
  refine List.foldlRecOn (motive := fun m : Ledger => m.entries = l.entries ++ [q.entry]) _ _ ?_ fun m hm p _ => (m.addBlock_entries id 1 p.1 p.2 0).trans hm
  exact (Ledger.addBlock_entries _ id 0 0 0 0).trans List.map_append

/-- A join that the ledger does not refuse, of an id it does not hold, finds a free sequence id (R276). -/
theorem Ledger.room_of_joinRefusal {l : Ledger} {r : JoinReq} (hi : r.imported = false) (hn : l.global? r.globalId = none) (h : l.joinRefusal r = none) :
    l.seqs.length < 8192 := by
  refine Classical.byContradiction fun hfull => ?_
  simp [Ledger.joinRefusal, hi, hn, Nat.le_of_not_lt hfull] at h

theorem State.setLedger_ledger (s : State) (k : Fin 16) (l : Ledger) : ((s.setLedger k l).ctx k).ledger = l :=
  congrArg Ctx.ledger (State.ctx_modCtx_same s k fun c => { c with ledger := l })

theorem State.setLedger_ctx_other (s : State) {j k : Fin 16} (hj : j ≠ k) (l : Ledger) : (s.setLedger k l).ctx j = s.ctx j :=
  State.ctx_modCtx_other s (fun c => { c with ledger := l }) hj

theorem State.importDone_entries (s : State) (k : Fin 16) (q : Seq) :
    ((s.importDone k q).ctx k).ledger.entries = (s.ctx k).ledger.entries ∧ ∀ j, j ≠ k → (s.importDone k q).ctx j = s.ctx j := by
  unfold State.importDone
  split
  · exact ⟨rfl, fun _ _ => rfl⟩
  · refine ⟨?_, fun j hj => State.setLedger_ctx_other _ hj _⟩
    rw [State.setLedger_ledger]
    exact Ledger.modSeq_entries _ q.id fun _ => rfl

theorem State.beginImport_begins {s : State} {k : Fin 16} {r : ImportReq} (hn : (s.ctx k).ledger.global? r.globalId = none)
    (hr : (s.ctx k).ledger.joinRefusal { globalId := r.globalId, maxTokens := r.maxTokens } = none) (h : SubHdr) (taken : Nat) :
    ∃ t, s.beginImport k h taken r = (t, none) ∧ (t.ctx k).ledger.entries = (s.ctx k).ledger.entries ++ [(importSeqOf h taken r).entry] ∧
      ∀ j, j ≠ k → t.ctx j = s.ctx j := by
  have hroom : (s.ctx k).ledger.seqs.length < 8192 := Ledger.room_of_joinRefusal (r := { globalId := r.globalId, maxTokens := r.maxTokens }) rfl hn hr
  have hentered := Ledger.enter_entries hroom (importSeqOf h taken r)
  have hfound : (((s.ctx k).ledger.enter (importSeqOf h taken r)).global? r.globalId).isSome = true := by
    rw [← Option.isSome_map (f := Seq.entry), Ledger.global?_entry, hentered, List.find?_isSome]
    exact ⟨(importSeqOf h taken r).entry, by simp, by simp [Seq.entry, importSeqOf]⟩
  obtain ⟨q, hq⟩ := Option.isSome_iff_exists.mp hfound
  unfold State.beginImport
  extract_lets c l entered targets
  split
  next e he => simp [l, c, hn, hr] at he
  next =>
    split
    next he => exact absurd (hq.symm.trans he) (by simp)
    next q' _ =>
      extract_lets paged n counted u pages rt tasked v
      have hpaged : paged.entries = entered.entries := entered.addPages_entries targets q'.id r.tokens entered.layers
      have hcounted : counted.entries = paged.entries := paged.modSeq_pending_entries q'.id n
      have htasked : tasked.ledger.entries = (u.ctx k).ledger.entries :=
        List.foldlRecOn (motive := fun d : Ctx => d.ledger.entries = (u.ctx k).ledger.entries) _ _ rfl fun _ hd _ _ => hd
      have hv : (v.ctx k).ledger.entries = l.entries ++ [(importSeqOf h taken r).entry] := by
        rw [State.ctx_setCtx_same, htasked, State.setLedger_ledger, hcounted, hpaged]
        exact hentered
      have hothers : ∀ j, j ≠ k → v.ctx j = s.ctx j := fun j hj =>
        (State.ctx_setCtx_other u tasked hj).trans (State.setLedger_ctx_other s hj counted)
      refine ⟨_, rfl, ?_⟩
      split
      · split
        next x _ =>
          obtain ⟨hdone, hrest⟩ := v.importDone_entries k x
          exact ⟨hdone.trans hv, fun j hj => (hrest j hj).trans (hothers j hj)⟩
        next => exact ⟨hv, hothers⟩
      · exact ⟨hv, hothers⟩

theorem Ledger.global?_appended {l m : Ledger} {q : Seq} (hn : l.global? q.globalId = none) (hm : m.entries = l.entries ++ [q.entry]) :
    ∃ x, m.global? q.globalId = some x ∧ x.entry = q.entry := by
  have hfind : (m.global? q.globalId).map Seq.entry = some q.entry := by
    have hl := l.global?_entry q.globalId
    rw [hn, Option.map_none] at hl
    rw [Ledger.global?_entry, hm, List.find?_append, ← hl]
    simp [Seq.entry]
  exact Option.map_eq_some_iff.mp hfind

theorem State.takeImport_begins {u : State} {k : Fin 16} {r : ImportReq} (hn : (u.ctx k).ledger.global? r.globalId = none)
    (hr : (u.ctx k).ledger.joinRefusal { globalId := r.globalId, maxTokens := r.maxTokens } = none) (w : Waiting) (due : Nat) :
    ∃ q, ((u.takeImport k w due r).ctx k).ledger.global? r.globalId = some q ∧ q.entry = (importSeqOf w.hdr w.taken r).entry ∧
      ∀ j, j ≠ k → (u.takeImport k w due r).ctx j = u.ctx j := by
  unfold State.takeImport
  extract_lets fields digested
  have hledger : (digested.ctx k).ledger = (u.ctx k).ledger := by
    unfold digested
    rw [State.ctx_modCtx_same]
    rfl
  obtain ⟨t, ht, hentries, hothers⟩ := State.beginImport_begins (hledger ▸ hn) (hledger ▸ hr) w.hdr w.taken
  obtain ⟨q, hq, hentry⟩ := Ledger.global?_appended (q := importSeqOf w.hdr w.taken r) (hledger ▸ hn) hentries
  rw [ht]
  exact ⟨q, hq, hentry, fun j hj => (hothers j hj).trans (State.ctx_modCtx_other u _ hj)⟩

/-! ### Submissions -/

section
variable {h : SubHdr} {k : Fin 16} {s : State} (hr : s.boot.ready = true) (hk : s.findCxid h.cxid = some k)
include hr hk

theorem exec_freeze (hp : (s.ctx k).phase ≠ .tearingDown) (a l : Nat) (rel : Bool) : exec (.freeze h a l rel) s =
    .next (s.countTaken.takeFreeze k { hdr := h, taken := (s.ctx k).tick, sub := .freeze a l rel } a l (s.time.localTick + 1)) :=
  (Brings.freeze a l rel).exec_at hr hk (State.accept_freeze (u := s.countTaken) hk _ _ hp a l rel)

variable (hp : (s.ctx k).phase = .running)
include hp

theorem exec_runRecord : exec (.runRecord h) s = .next (s.countTaken.pushRec
    { kind := 9, cxid := h.cxid, ctx := some k, slot := h.slot.val, tag := h.tag, taken := (s.ctx k).tick, subKind := 0x0C, due := s.time.localTick + 1 }) :=
  Brings.runRecord.exec_at hr hk (State.accept_runRecord (u := s.countTaken) hk _ _ hp)

theorem exec_importSeq {r : ImportReq} (hn : (s.ctx k).ledger.global? r.globalId = none)
    (hj : (s.ctx k).ledger.joinRefusal { globalId := r.globalId, maxTokens := r.maxTokens } = none) :
    ∃ t q, exec (.importSeq h r) s = .next t ∧ (t.ctx k).ledger.global? r.globalId = some q ∧ q.state = 0 ∧ q.imported = true ∧
      q.maxTokens = r.maxTokens ∧ q.tokens = r.tokens ∧ q.hostAddr = r.hostAddr ∧ ∀ j, j ≠ k → t.ctx j = s.ctx j := by
  have hexec := (Brings.importSeq r).exec_at hr hk (State.accept_importSeq (u := s.countTaken) hk _ _ hp r)
  obtain ⟨q, hq, hentry, hothers⟩ := State.takeImport_begins (u := s.countTaken) hn hj
    { hdr := h, taken := (s.ctx k).tick, sub := .importSeq r } (s.time.localTick + 1)
  simp only [Seq.entry, importSeqOf, Prod.mk.injEq] at hentry
  obtain ⟨-, hstate, himported, hmax, htokens, haddr⟩ := hentry
  exact ⟨_, q, hexec, hq, hstate, himported, hmax, htokens, haddr, hothers⟩

theorem exec_setFlag (st node : Nat) {flags : BitVec 32} (hf : flags.toNat < 2 ^ 24) :
    ∃ t, exec (.setFlag h st node flags) s = .next t ∧ OnlyCtx k s.countTaken t ∧
      (t.ctx k).setFlagsDue = (s.ctx k).setFlagsDue ++ [{ hdr := h, taken := (s.ctx k).tick, sub := .setFlag st node flags }] ∧
      (t.ctx k).steps = (s.ctx k).steps := by
  obtain ⟨fields, ha⟩ := State.accept_setFlag (u := s.countTaken) hk (s.ctx k).tick (s.time.localTick + 1) hp st node hf
  refine ⟨_, (Brings.setFlag st node flags).exec_at hr hk ha, OnlyCtx.modCtx _ k _, ?_⟩
  rw [State.ctx_modCtx_same]
  exact ⟨rfl, rfl⟩

theorem exec_teardown (hn : (s.ctx k).fault = none) : ∃ t f, exec (.teardown h) s = .next t ∧ (t.ctx k).fault = some f ∧ f.code = 0x01 ∧ f.scope = 0 ∧
    (t.ctx k).teardownSub = some ((s.ctx k).teardownSub.getD { hdr := h, taken := (s.ctx k).tick, sub := .teardown }) ∧
    (∀ l ∈ s.coresOf k, (t.core (lcidOf l)).halted = true) ∧ ∀ j, j ≠ k → t.ctx j = s.ctx j := by
  have hexec := Brings.teardown.exec_at hr hk (State.accept_teardown (u := s.countTaken) hk _ _ hp)
  have hempty : (s.countTaken.ctx k).phase ≠ .empty := State.findCxid_phase hk
  obtain ⟨f, hf⟩ := State.takeTeardown_first hempty hn { hdr := h, taken := (s.ctx k).tick, sub := .teardown }
  exact ⟨_, f, hexec, hf⟩

variable (hh : (s.ctx k).headwater = true)
include hh

theorem exec_step (tpl n : Nat) : exec (.step h tpl n) s =
    .next (s.countTaken.takeStep k { hdr := h, taken := (s.ctx k).tick, sub := .step tpl n } tpl n (s.time.localTick + 1)) :=
  (Brings.step tpl n).exec_at hr hk (State.accept_step (u := s.countTaken) hk _ _ hp hh tpl n)

/-- The submissions that wait for the next step start (R350, R351): each becomes a change of its batch. -/
theorem exec_change {c : Instr} {x : Sub} (hc : (∃ r, s.joinFields k r = true ∧ c = Instr.join h r ∧ x = Sub.join r) ∨
      (∃ r, c = .leave h r ∧ x = .leave r) ∨ ∃ g n, n ≤ 16384 ∧ c = .appendCount h g n ∧ x = .appendCount g n) :
    exec c s = .next (s.countTaken.takeChange k { hdr := h, taken := (s.ctx k).tick, sub := x }) := by
  obtain ⟨r, hf, rfl, rfl⟩ | ⟨r, rfl, rfl⟩ | ⟨g, n, hn, rfl, rfl⟩ := hc
  · exact (Brings.join r).exec_at hr hk (State.accept_join (u := s.countTaken) hk _ _ hp hh hf)
  · exact (Brings.leave r).exec_at hr hk (State.accept_leave (u := s.countTaken) hk _ _ hp hh r)
  · exact (Brings.appendCount g n).exec_at hr hk (State.accept_appendCount (u := s.countTaken) hk _ _ hp hh g hn)

end

/-! The commands that the statement lists, by what decides whether they are refused. -/

section
variable {h : SubHdr} {lr : LoadReq} {tr : ThawReq} {jr : JoinReq} {vr : LeaveReq} {ir : ImportReq} {b : Bytes} {a l n g st tpl code : Nat} {rel : Bool}
  {flags : BitVec 32} {c : Instr}

theorem submission_cases (hc : c ∈ [Instr.load h lr, .manifest h b, .freeze h a l rel, .thaw h tr, .teardown h, .cancel h st, .join h jr, .leave h vr,
      .importSeq h ir, .appendCount h g n, .setFlag h st a flags, .runRecord h, .fwUpdate h b, .step h tpl n]) :
    (∃ x, Brings h c x) ∨ (∃ r, c = .load h r) ∨ (∃ b, c = .manifest h b) ∨ (∃ r, c = .thaw h r) ∨ ∃ b, c = .fwUpdate h b := by
  simp only [List.mem_cons, List.not_mem_nil, or_false] at hc
  obtain rfl | rfl | rfl | rfl | rfl | rfl | rfl | rfl | rfl | rfl | rfl | rfl | rfl | rfl := hc
  · exact .inr (.inl ⟨lr, rfl⟩)
  · exact .inr (.inr (.inl ⟨b, rfl⟩))
  · exact .inl ⟨_, .freeze a l rel⟩
  · exact .inr (.inr (.inr (.inl ⟨tr, rfl⟩)))
  · exact .inl ⟨_, .teardown⟩
  · exact .inl ⟨_, .cancel st⟩
  · exact .inl ⟨_, .join jr⟩
  · exact .inl ⟨_, .leave vr⟩
  · exact .inl ⟨_, .importSeq ir⟩
  · exact .inl ⟨_, .appendCount g n⟩
  · exact .inl ⟨_, .setFlag st a flags⟩
  · exact .inl ⟨_, .runRecord⟩
  · exact .inr (.inr (.inr (.inr ⟨b, rfl⟩)))
  · exact .inl ⟨_, .step tpl n⟩

theorem brings_of_named (hc : (c, code) ∈ [(Instr.freeze h a l rel, 3), (.teardown h, 5), (.cancel h st, 6), (.join h jr, 7), (.leave h vr, 8),
      (.importSeq h ir, 9), (.appendCount h g n, 10), (.setFlag h st a flags, 11), (.runRecord h, 12), (.step h tpl n, 14)]) :
    ∃ x, Brings h c x ∧ x.kind = code := by
  simp only [List.mem_cons, List.not_mem_nil, or_false, Prod.mk.injEq] at hc
  obtain ⟨rfl, rfl⟩ | ⟨rfl, rfl⟩ | ⟨rfl, rfl⟩ | ⟨rfl, rfl⟩ | ⟨rfl, rfl⟩ | ⟨rfl, rfl⟩ | ⟨rfl, rfl⟩ | ⟨rfl, rfl⟩ | ⟨rfl, rfl⟩ | ⟨rfl, rfl⟩ := hc
  · exact ⟨_, .freeze a l rel, rfl⟩
  · exact ⟨_, .teardown, rfl⟩
  · exact ⟨_, .cancel st, rfl⟩
  · exact ⟨_, .join jr, rfl⟩
  · exact ⟨_, .leave vr, rfl⟩
  · exact ⟨_, .importSeq ir, rfl⟩
  · exact ⟨_, .appendCount g n, rfl⟩
  · exact ⟨_, .setFlag st a flags, rfl⟩
  · exact ⟨_, .runRecord, rfl⟩
  · exact ⟨_, .step tpl n, rfl⟩

theorem brings_of_forHeadwater
    (hc : (c, code) ∈ [(Instr.cancel h st, 6), (.join h jr, 7), (.leave h vr, 8), (.appendCount h g n, 10), (.step h tpl n, 14)]) :
    ∃ x, Brings h c x ∧ x.kind = code ∧ Sub.forHeadwater x = true := by
  simp only [List.mem_cons, List.not_mem_nil, or_false, Prod.mk.injEq] at hc
  obtain ⟨rfl, rfl⟩ | ⟨rfl, rfl⟩ | ⟨rfl, rfl⟩ | ⟨rfl, rfl⟩ | ⟨rfl, rfl⟩ := hc
  · exact ⟨_, .cancel st, rfl, rfl⟩
  · exact ⟨_, .join jr, rfl, rfl⟩
  · exact ⟨_, .leave vr, rfl, rfl⟩
  · exact ⟨_, .appendCount g n, rfl, rfl⟩
  · exact ⟨_, .step tpl n, rfl, rfl⟩

theorem brings_of_afterLoad (hc : (c, code) ∈ [(Instr.importSeq h ir, 9), (.setFlag h st a flags, 11), (.runRecord h, 12)]) :
    ∃ x, Brings h c x ∧ x.kind = code ∧ Sub.forHeadwater x = false ∧ phaseAllows .loading x = false := by
  simp only [List.mem_cons, List.not_mem_nil, or_false, Prod.mk.injEq] at hc
  obtain ⟨rfl, rfl⟩ | ⟨rfl, rfl⟩ | ⟨rfl, rfl⟩ := hc
  · exact ⟨_, .importSeq ir, rfl, rfl, rfl⟩
  · exact ⟨_, .setFlag st a flags, rfl, rfl, rfl⟩
  · exact ⟨_, .runRecord, rfl, rfl, rfl⟩

theorem fenced_cases (hc : (c, code) ∈ [(Instr.load h lr, 1), (.manifest h b, 2), (.thaw h tr, 4)]) :
    (∃ r, c = .load h r ∧ code = 1) ∨ (∃ b, c = .manifest h b ∧ code = 2) ∨ ∃ r, c = .thaw h r ∧ code = 4 := by
  simp only [List.mem_cons, List.not_mem_nil, or_false, Prod.mk.injEq] at hc
  exact hc.imp (fun ⟨hl, hx⟩ => ⟨lr, hl, hx⟩) (.imp (fun ⟨hm, hx⟩ => ⟨b, hm, hx⟩) fun ⟨ht, hx⟩ => ⟨tr, ht, hx⟩)

end

/-- Settles O43, by the one submission that each command brings: taken, by its effect at the context it names; refused, by the first check that fails. -/
theorem submissions : Obligations.Submissions := by
  unfold Obligations.Submissions
  refine ⟨?_, ?_⟩
  · rintro h k s w hr hk hp hh hm hf rfl
    refine ⟨fun n => ?_, fun c x hc => ?_, fun tpl n hn ht => ?_, fun st node flags hflags => exec_setFlag hr hk hp st node hflags,
      exec_runRecord hr hk hp, fun a l rel hs hg ha => ?_, fun r hn hj => exec_importSeq hr hk hp hn hj, exec_teardown hr hk hp hf⟩
    · exact ⟨_, (Brings.cancel n).exec_at hr hk (State.accept_cancel (u := s.countTaken) hk _ _ hp hh n),
        State.takeCancel_running (u := s.countTaken) hp hm _ n⟩
    · exact ⟨_, exec_change hr hk hp hh hc, OnlyCtx.modCtx _ k _, State.ctx_modCtx_same _ k _⟩
    · have hstep := State.takeStep_known (u := s.countTaken) hn ht { hdr := h, taken := (s.ctx k).tick, sub := .step tpl n } (s.time.localTick + 1)
      exact ⟨_, (exec_step hr hk hp hh tpl n).trans (congrArg _ hstep), OnlyCtx.modCtx _ k _, State.ctx_modCtx_same _ k _⟩
    · exact ⟨_, exec_freeze hr hk (by simp [hp]) a l rel, State.takeFreeze_first (u := s.countTaken) hp hm hs hg ha _ _⟩
  · intro h s lr tr jr vr ir b a l n g st tpl rel flags
    refine ⟨fun hr c hc => exec_not_ready hr (submission_cases hc), fun hr => ⟨fun hn c code hc => ?_, fun hf c code hc => exec_fenced hr hf (fenced_cases hc),
      fun k hk => ⟨fun hh c code hc => ?_, fun hp c code hc => ?_, fun hp => ?_, fun hp hs => ?_, fun hp hh => ⟨fun hn => ?_, fun hflags => ?_, fun hj => ?_, ?_⟩⟩⟩⟩
    · obtain ⟨x, hb, rfl⟩ := brings_of_named hc
      exact hb.no_slot hr hn
    · obtain ⟨x, hb, rfl, hw⟩ := brings_of_forHeadwater hc
      exact hb.misplaced hr hk hw hh
    · obtain ⟨x, hb, rfl, hw, ha⟩ := brings_of_afterLoad hc
      exact hb.untimely hr hk hw (hp ▸ ha)
    · have htearing : (s.ctx k).phase ≠ .tearingDown := by
        obtain hp | hp := hp
        · simp [hp]
        · simp [hp]
      exact (exec_freeze hr hk htearing a l rel).trans (congrArg _ (State.takeFreeze_frozen (u := s.countTaken) hp _ a l _))
    · exact (exec_freeze hr hk (by simp [hp]) a l rel).trans (congrArg _ (State.takeFreeze_second (u := s.countTaken) hp hs _ a l _))
    · exact (Brings.appendCount g n).exec_at hr hk (State.accept_appendCount_out (u := s.countTaken) hk _ _ hp hh g hn)
    · exact (Brings.setFlag st a flags).exec_at hr hk (State.accept_setFlag_out (u := s.countTaken) hk _ _ hp st a hflags)
    · exact (Brings.join jr).exec_at hr hk (State.accept_join_out (u := s.countTaken) hk _ _ hp hh hj)
    · exact (exec_step hr hk hp hh tpl 0).trans (congrArg _ (State.takeStep_none _ k _ tpl _))

end Sys2Proof.Machine
end

section
/-! SUPPORT. The steward's log (R409, R410, R459): one entry step by step, the addresses it can write, and what of the state it reads. -/

namespace Sys2Proof.Machine

/-! ### One entry -/

/-- The entry that the log makes of a kind, a severity and a payload (R409). -/
def State.logEntry (s : State) (kind severity : Nat) (payload : Bytes) : LogEntry :=
  ⟨s.stamp, s.steward.nextSeq % 2 ^ 32, kind, severity, payload.take 240⟩

/-- The ring's size (R409). -/
def State.logSize (s : State) : Nat := 2 ^ 16 * 2 ^ s.cfg.logLog2

/-- An entry in the ring, the oldest left out where they are overwritten (R410). -/
def State.ringEntry (s : State) (e : LogEntry) : State :=
  { s with
    mem := writeRing s.mem s.cfg.logAddr s.logSize s.steward.logHead e.bytes
    steward := { s.steward with
      log := (trimLog s.logSize (s.steward.log ++ [e])).1
      logHead := s.steward.logHead + e.bytes.length
      overwritten := sat 32 (s.steward.overwritten + (trimLog s.logSize (s.steward.log ++ [e])).2)
      nextSeq := s.steward.nextSeq + 1 } }

theorem State.ringEntry_mem (s : State) (e : LogEntry) :
    (s.ringEntry e).mem = writeRing s.mem s.cfg.logAddr s.logSize s.steward.logHead e.bytes := by
  rw [State.ringEntry]

/-- The ring with an entry more, and the event where entries were lost. -/
def State.fileEntry (s : State) (e : LogEntry) : State :=
  if (trimLog s.logSize (s.steward.log ++ [e])).2 = 0 then s.ringEntry e else (s.ringEntry e).raise 0x04 5

/-- The run of entries that the log area had no room for: their count, the first and the last (R410). -/
def State.setSkipped (s : State) (k : Option (Nat × Nat × Nat)) : State := { s with steward := { s.steward with skipped := k } }

/-- An entry that the log area has no room for. -/
def State.skipEntry (s : State) (e : LogEntry) : State :=
  s.setSkipped (some (match s.steward.skipped with | none => (1, e.seq, e.seq) | some (n, f, _) => (n + 1, f, e.seq)))

/-- An entry in the log area, or skipped. -/
def State.mirrorOrSkip (s : State) (e : LogEntry) : State := if (s.mirror e).2 then (s.mirror e).1 else s.skipEntry e

/-- An entry in the log area of a state, behind the loss entry of a run that was skipped (R410). -/
def State.areaEntry (s : State) (e : LogEntry) : State :=
  match s.steward.skipped with
  | none => s.mirrorOrSkip e
  | some (n, f, l) =>
    let loss : LogEntry := ⟨s.stamp, l, 0x0A, 1, (Config.logPayload 0x0A [n, f, l]).take 240⟩
    if (s.mirror loss).2 then ((s.mirror loss).1.setSkipped none).mirrorOrSkip e else s.skipEntry e

/-- The log is the ring and then the area. -/
theorem State.log_eq (s : State) (kind severity : Nat) (payload : Bytes) :
    s.log kind severity payload = (s.fileEntry (s.logEntry kind severity payload)).areaEntry (s.logEntry kind severity payload) := by
  unfold State.log
  extract_lets w e size skip
  have hskip : ∀ t, skip t = t.skipEntry e := fun t => rfl
  have he : s.logEntry kind severity payload = e := rfl
  rw [he]
  clear_value skip
  split
  next kept lost hk =>
  extract_lets s1 s2
  have htrim : trimLog s.logSize (s.steward.log ++ [e]) = (kept, lost) := hk
  have h2 : s.fileEntry e = s2 := by
    unfold State.fileEntry State.ringEntry
    rw [htrim]
    rfl
  rw [h2]
  clear_value s2 e
  unfold State.areaEntry State.mirrorOrSkip
  simp only [hskip]
  generalize s2.steward.skipped = skipped
  cases skipped with
  | none => rfl
  | some run => rfl

/-- What the ring's write, its event, the area's writes and its registers keep, the log keeps. -/
theorem State.log_induction {P : State → Prop} (s : State) (kind severity : Nat) (payload : Bytes) (hring : ∀ e, P (s.ringEntry e))
    (hraise : ∀ t, P t → P (t.raise 0x04 5)) (hmirror : ∀ t e, P t → P (t.mirror e).1) (hskip : ∀ t k, P t → P (State.setSkipped t k)) :
    P (s.log kind severity payload) := by
  rw [State.log_eq]
  generalize s.logEntry kind severity payload = e
  have hfile : P (s.fileEntry e) := by
    unfold State.fileEntry
    split
    · exact hring e
    · exact hraise _ (hring e)
  generalize s.fileEntry e = t at hfile
  have hor : ∀ u : State, P u → P (u.mirrorOrSkip e) := fun u hu => by
    unfold State.mirrorOrSkip
    split
    · exact hmirror _ _ hu
    · exact hskip _ _ hu
  unfold State.areaEntry
  split
  · exact hor t hfile
  · extract_lets loss
    split
    · exact hor _ (hskip _ _ (hmirror _ _ hfile))
    · exact hskip _ _ hfile

/-- The bytes that the log area's rest takes as a filler before an entry that would pass its end (R459). -/
def State.areaGap (s : State) (e : LogEntry) : Nat :=
  if s.steward.areaHead % s.areaSize + e.bytes.length > s.areaSize then s.areaSize - s.steward.areaHead % s.areaSize else 0

/-- Where the log area of the window begins (R443). -/
def State.areaBase (s : State) : Nat := s.cfg.window + 0x8000 + s.ringSize

/-- An entry in the log area, behind its filler. -/
def State.areaWrite (s : State) (e : LogEntry) : State :=
  { s with
    mem := writeRing s.mem s.areaBase s.areaSize s.steward.areaHead
      ((if s.areaGap e = 0 then [] else leBytes 8 e.stamp ++ zeros 6 ++ leBytes 2 (s.areaGap e - 16) ++ zeros (s.areaGap e - 16)) ++ e.bytes)
    steward := { s.steward with areaHead := wrap 32 (s.steward.areaHead + s.areaGap e + e.bytes.length) } }

/-- The area takes an entry that it has room for (R459). -/
theorem State.mirror_eq (s : State) (e : LogEntry) :
    s.mirror e = if s.areaUsed + s.areaGap e + e.bytes.length ≤ s.areaSize then (s.areaWrite e, true) else (s, false) := rfl

/-- The area's copy of an entry writes memory and the area's head alone. -/
theorem State.mirror_rest (s : State) (e : LogEntry) :
    ∃ m h, (s.mirror e).1 = { s with mem := m, steward := { s.steward with areaHead := h } } := by
  rw [State.mirror_eq]
  split
  · exact ⟨_, _, rfl⟩
  · exact ⟨_, _, rfl⟩

theorem State.log_nextSeq (s : State) (kind severity : Nat) (payload : Bytes) :
    (s.log kind severity payload).steward.nextSeq = s.steward.nextSeq + 1 := by
  refine State.log_induction (P := fun t => t.steward.nextSeq = s.steward.nextSeq + 1) s kind severity payload (fun _ => rfl)
    (fun _ h => h) (fun t e h => ?_) (fun _ _ h => h)
  obtain ⟨m, a, hm⟩ := t.mirror_rest e
  rw [hm]
  exact h

/-- The log raises its event on page 0x04 (R477). -/
theorem State.log_page_other (s : State) (kind severity : Nat) (payload : Bytes) {q : Fin 64} (hq : q ≠ 0x04) :
    (s.log kind severity payload).page q = s.page q := by
  refine State.log_induction (P := fun t => t.page q = s.page q) s kind severity payload (fun _ => rfl)
    (fun t h => (t.raise_page_other hq 5).trans h) (fun t e h => ?_) (fun _ _ h => h)
  obtain ⟨m, a, hm⟩ := t.mirror_rest e
  rw [hm]
  exact h

/-! ### The addresses of the log -/

/-- A circular area is written within its bounds. -/
theorem Memory.writeRing_writtenIn {m : Memory} (h : m.wf) (base count : Nat) {size : Nat} (hs : 0 < size) (b : Bytes) :
    WrittenIn base (base + size) m (writeRing m base size count b) := by
  induction b generalizing m count with
  | nil => exact ⟨h, fun _ _ => rfl⟩
  | cons x b ih =>
    have hlt := Nat.mod_lt count hs
    have hx : WrittenIn base (base + size) m (m.write (base + count % size) x) :=
      Memory.writeBytes_writtenIn h _ [x] (Nat.le_add_right _ _) (by simp only [List.length_singleton]; omega)
    exact hx.trans (ih hx.wf (count + 1))

theorem State.logSize_pos (s : State) : 0 < s.logSize := Nat.mul_pos (Nat.two_pow_pos 16) (Nat.two_pow_pos _)
theorem State.areaSize_pos (s : State) : 0 < s.areaSize := Nat.mul_pos (Nat.two_pow_pos 16) (Nat.two_pow_pos _)

theorem State.mirror_writtenIn {s : State} (h : s.mem.wf) (e : LogEntry) :
    Memory.WrittenIn s.areaBase (s.areaBase + s.areaSize) s.mem (s.mirror e).1.mem := by
  rw [State.mirror_eq]
  split
  · exact Memory.writeRing_writtenIn h _ _ s.areaSize_pos _
  · exact ⟨h, fun _ _ => rfl⟩

/-- Outside the log ring and the log area an entry changes no byte (R409, R459). -/
theorem State.log_read_outside {s : State} (h : s.mem.wf) (kind severity : Nat) (payload : Bytes) {a : Nat}
    (hring : a < s.cfg.logAddr ∨ s.cfg.logAddr + s.logSize ≤ a) (harea : a < s.areaBase ∨ s.areaBase + s.areaSize ≤ a) :
    (s.log kind severity payload).mem.read a = s.mem.read a := by
  refine (State.log_induction (P := fun t => t.config = s.config ∧ t.mem.wf ∧ t.mem.read a = s.mem.read a) s kind severity payload
    (fun e => ?_) (fun _ h => h) (fun t e ht => ?_) (fun _ _ h => h)).2.2
  · have hw := Memory.writeRing_writtenIn h s.cfg.logAddr s.steward.logHead s.logSize_pos e.bytes
    rw [← s.ringEntry_mem e] at hw
    exact ⟨rfl, hw.wf, hw.same a hring⟩
  · obtain ⟨hconfig, hwf, hread⟩ := ht
    have hw := State.mirror_writtenIn hwf e
    obtain ⟨m, b, hm⟩ := t.mirror_rest e
    have hbase : t.areaBase = s.areaBase := by simp only [State.areaBase, State.ringSize, State.cfg, hconfig]
    have hsize : t.areaSize = s.areaSize := by simp only [State.areaSize, State.cfg, hconfig]
    rw [hbase, hsize] at hw
    exact ⟨by rw [hm]; exact hconfig, hw.wf, (hw.same a harea).trans hread⟩

/-! ### What the log reads -/

/-- The parts of the state that the log reads; of these it writes its registers and memory. -/
def State.logPart (s : State) : Option ConfigImage × TimeUnit × Steward × Memory := (s.config, s.time, s.steward, s.mem)

theorem State.raise_logPart (s : State) (p : Fin 64) (b : Nat) : (s.raise p b).logPart = s.logPart := rfl

section
variable {s t : State} (h : t.logPart = s.logPart)
include h

theorem State.logPart_fields : t.config = s.config ∧ t.time = s.time ∧ t.steward = s.steward ∧ t.mem = s.mem := by
  simpa only [State.logPart, Prod.mk.injEq] using h

theorem State.setSkipped_logPart (k : Option (Nat × Nat × Nat)) : (t.setSkipped k).logPart = (s.setSkipped k).logPart := by
  obtain ⟨hconfig, htime, hsteward, hmem⟩ := State.logPart_fields h
  simp only [State.logPart, State.setSkipped, hconfig, htime, hsteward, hmem]

theorem State.mirror_logPart (e : LogEntry) : (t.mirror e).2 = (s.mirror e).2 ∧ (t.mirror e).1.logPart = (s.mirror e).1.logPart := by
  obtain ⟨hconfig, htime, hsteward, hmem⟩ := State.logPart_fields h
  have hsize : t.areaSize = s.areaSize := by simp only [State.areaSize, State.cfg, hconfig]
  have hbase : t.areaBase = s.areaBase := by simp only [State.areaBase, State.ringSize, State.cfg, hconfig]
  have hused : t.areaUsed = s.areaUsed := by simp only [State.areaUsed, hsteward]
  have hgap : t.areaGap e = s.areaGap e := by simp only [State.areaGap, hsize, hsteward]
  rw [State.mirror_eq, State.mirror_eq, hsize, hused, hgap]
  split
  · exact ⟨rfl, by simp only [State.logPart, State.areaWrite, hsize, hbase, hgap, hconfig, htime, hsteward, hmem]⟩
  · exact ⟨rfl, h⟩

theorem State.skipEntry_logPart (e : LogEntry) : (t.skipEntry e).logPart = (s.skipEntry e).logPart := by
  obtain ⟨-, -, hsteward, -⟩ := State.logPart_fields h
  unfold State.skipEntry
  rw [hsteward]
  exact State.setSkipped_logPart h _

theorem State.mirrorOrSkip_logPart (e : LogEntry) : (t.mirrorOrSkip e).logPart = (s.mirrorOrSkip e).logPart := by
  obtain ⟨hok, hpart⟩ := State.mirror_logPart h e
  unfold State.mirrorOrSkip
  rw [hok]
  split
  · exact hpart
  · exact State.skipEntry_logPart h e

theorem State.stamp_logPart : t.stamp = s.stamp := by
  obtain ⟨-, htime, -, -⟩ := State.logPart_fields h
  simp only [State.stamp, htime]

theorem State.areaEntry_logPart (e : LogEntry) : (t.areaEntry e).logPart = (s.areaEntry e).logPart := by
  obtain ⟨-, -, hsteward, -⟩ := State.logPart_fields h
  unfold State.areaEntry
  rw [hsteward, State.stamp_logPart h]
  split
  · exact State.mirrorOrSkip_logPart h e
  · extract_lets loss
    obtain ⟨hok, hpart⟩ := State.mirror_logPart h loss
    rw [hok]
    split
    · exact State.mirrorOrSkip_logPart (State.setSkipped_logPart hpart none) e
    · exact State.skipEntry_logPart h e

theorem State.fileEntry_logPart (e : LogEntry) : (t.fileEntry e).logPart = (s.fileEntry e).logPart := by
  obtain ⟨hconfig, htime, hsteward, hmem⟩ := State.logPart_fields h
  have hsize : t.logSize = s.logSize := by simp only [State.logSize, State.cfg, hconfig]
  have hring : (t.ringEntry e).logPart = (s.ringEntry e).logPart := by
    simp only [State.logPart, State.ringEntry, State.cfg, hsize, hconfig, htime, hsteward, hmem]
  unfold State.fileEntry
  rw [hsize, hsteward]
  split
  · exact hring
  · rw [State.raise_logPart, State.raise_logPart, hring]

/-- The log writes the same where the parts it reads are the same. -/
theorem State.log_logPart (kind severity : Nat) (payload : Bytes) :
    (t.log kind severity payload).logPart = (s.log kind severity payload).logPart := by
  obtain ⟨-, -, hsteward, -⟩ := State.logPart_fields h
  have he : t.logEntry kind severity payload = s.logEntry kind severity payload := by
    rw [State.logEntry, State.logEntry, State.stamp_logPart h, hsteward]
  rw [State.log_eq, State.log_eq, he]
  exact State.areaEntry_logPart (State.fileEntry_logPart h _) _

theorem State.log_mem_congr (kind severity : Nat) (payload : Bytes) :
    (t.log kind severity payload).mem = (s.log kind severity payload).mem :=
  (State.logPart_fields (State.log_logPart h kind severity payload)).2.2.2

/-- The memory after a key slot is cleared, with its log entry (R404, R409). -/
theorem State.clearKey_mem_congr (k : Fin 16) : (t.clearKey k).mem = (s.clearKey k).mem := by
  obtain ⟨hconfig, htime, hsteward, hmem⟩ := State.logPart_fields h
  unfold State.clearKey
  rw [hsteward]
  split
  · exact hmem
  · refine State.log_mem_congr ?_ _ _ _
    simp only [State.logPart, hconfig, htime, hmem]

end

end Sys2Proof.Machine
end

section
/-! SUPPORT. The die after a reset (R461, R473, R474, R476). -/

namespace Sys2Proof.Machine

theorem State.reset_page (p : Fin 64) : State.reset.page p = { mask := eventMask p.val } := by
  simp [State.page, State.reset]

theorem State.reset_ctx (k : Fin 16) : State.reset.ctx k = {} := by
  simp [State.ctx, State.reset]

theorem State.reset_sound : State.reset.Sound := ⟨Memory.wf_nil, Memory.wf_nil⟩

/-- Settles O7: the fields at reset, and of DIE_RESET the state itself, whose scratchpads list no byte. -/
theorem reset : Obligations.Reset := by
  refine ⟨⟨rfl, rfl, rfl, rfl, rfl, rfl, fun k => ?_, fun p => ?_, rfl, rfl, rfl, rfl⟩, State.reset_sound,
    fun s => ⟨s.dieReset, rfl, rfl, fun _ => rfl, fun _ => rfl⟩⟩
  · rw [State.reset_ctx]
  · rw [State.reset_page]
    exact ⟨rfl, rfl, rfl, rfl⟩

end Sys2Proof.Machine
end

section
/-! SUPPORT. ROTATION (R336, R337) of a single-member resident: the members it names, the freeze it fixes, and stagnation. -/

namespace Sys2Proof.Machine

/-- The resident member runs. -/
theorem State.residentOf_running {s : State} {e k : Fin 16} (h : s.residentOf e = some k) : (s.ctx k).phase = .running := by
  have hk := List.find?_some h
  simp only [Bool.and_eq_true, beq_iff_eq] at hk
  obtain ⟨⟨hphase, -⟩, -⟩ := hk
  exact hphase

/-- The member that is thawed next is Frozen. -/
theorem State.nextRunnable_frozen {s : State} {e j : Fin 16} {rota : Nat} (h : s.nextRunnable e rota = some j) : (s.ctx j).phase = .frozen := by
  obtain ⟨d, -, hd⟩ := List.exists_of_findSome?_eq_some h
  have hj := List.find?_some hd
  simp only [State.runnable, Bool.and_eq_true, beq_iff_eq] at hj
  obtain ⟨-, ⟨hphase, -⟩, -⟩ := hj
  exact hphase

/-- The machine with the next member noted and the rotation event counted in both members. -/
def State.countRotation (s : State) (e k j : Fin 16) : State :=
  ((s.setCatch e { s.catch_ e with thawNext := some j }).modCtx k (·.count 11)).modCtx j (·.count 11)

theorem State.countRotation_catches (s : State) (e k j : Fin 16) :
    (s.countRotation e k j).catches = (s.setCatch e { s.catch_ e with thawNext := some j }).catches := rfl

theorem State.catch_congr {s t : State} (h : t.catches = s.catches) (e : Fin 16) : t.catch_ e = s.catch_ e := by simp [State.catch_, h]

/-- A context whose freeze is asked for. -/
def Ctx.freezeAsked (c : Ctx) (w : Waiting) : Ctx := { c with freezeSub := some w }

/-- A context whose freeze is fixed for its next context tick. -/
def Ctx.freezeFixed (c : Ctx) : Ctx := { c with freezeStage := .scheduled (c.tick + 1) }

section
variable {s : State} {e k j : Fin 16} (hj : j ≠ k)
include hj

theorem State.countRotation_resident : (s.countRotation e k j).ctx k = (s.ctx k).count 11 := by
  rw [State.countRotation, State.ctx_modCtx_other _ _ hj.symm, State.ctx_modCtx_same]
  rfl

theorem State.countRotation_next : (s.countRotation e k j).ctx j = (s.ctx j).count 11 := by
  rw [State.countRotation, State.ctx_modCtx_same, State.ctx_modCtx_other _ _ hj]
  rfl

end

theorem State.countRotation_other (s : State) (e : Fin 16) {k j i : Fin 16} (hik : i ≠ k) (hij : i ≠ j) : (s.countRotation e k j).ctx i = s.ctx i := by
  rw [State.countRotation, State.ctx_modCtx_other _ _ hij, State.ctx_modCtx_other _ _ hik]
  rfl

/-- Of two contexts set in a slot the later one stands. -/
theorem State.setCtx_setCtx (s : State) (k : Fin 16) (c d : Ctx) : (s.setCtx k c).setCtx k d = s.setCtx k d := by
  simp [State.setCtx]

/-- The freeze of a single-member resident takes effect at once (R337). -/
theorem State.rotate_single {s : State} {e k j : Fin 16} (hj : j ≠ k) (hp : (s.ctx k).phase = .running) (hm : (s.ctx k).multiMember = false)
    (hg : (s.ctx k).freezeStage = .none) :
    ∃ w, s.rotate e k j = (s.countRotation e k j).setCtx k (((s.ctx k).count 11).freezeAsked w).freezeFixed := by
  have hk := s.countRotation_resident (e := e) hj
  obtain ⟨w, hw⟩ : ∃ w, (s.countRotation e k j).autoFreeze k = (s.countRotation e k j).setCtx k (((s.ctx k).count 11).freezeAsked w) :=
    ⟨_, congrArg (State.setCtx _ k) (congrArg (Ctx.freezeAsked · _) hk)⟩
  have hctx : ((s.countRotation e k j).autoFreeze k).ctx k = ((s.ctx k).count 11).freezeAsked w := by rw [hw, State.ctx_setCtx_same]
  have hsingle : (((s.countRotation e k j).autoFreeze k).ctx k).multiMember = false := by rw [hctx]; exact hm
  have hrotate : s.rotate e k j = ((s.countRotation e k j).autoFreeze k).freezeEffect k ((((s.countRotation e k j).autoFreeze k).ctx k).tick + 1) :=
    if_neg (Bool.not_eq_true _ ▸ hsingle)
  refine ⟨w, ?_⟩
  rw [hrotate, State.freezeEffect_submitted (by rw [hctx]; exact hp) (by rw [hctx]; exact hg) (by rw [hctx]; rfl), hctx, hw, State.setCtx_setCtx]
  rfl

/-- A catchment that cannot rotate notes it once (R337). -/
theorem State.stagnate_first {s : State} {e : Fin 16} (h : (s.catch_ e).stagnant = false) :
    s.stagnate e = ((s.setCatch e { s.catch_ e with stagnant := true }).raise 0x2C 0).log 0x06 1 (Config.logPayload 0x06 [(s.catch_ e).cmid]) :=
  if_neg (by simp [h])

/-- The event of a stagnant catchment leaves contexts, cores, time and the log's count alone. -/
theorem State.raise_stagnant (s : State) (e : Fin 16) (p : Fin 64) (b : Nat) :
    let u := (s.setCatch e { s.catch_ e with stagnant := true }).raise p b
    u.catch_ e = { s.catch_ e with stagnant := true } ∧ (∀ d, d ≠ e → u.catch_ d = s.catch_ d) ∧
      u.steward.nextSeq = s.steward.nextSeq ∧ u.ctxs = s.ctxs ∧ u.cores = s.cores ∧ u.time = s.time :=
  ⟨State.catch_setCatch_same s e _, fun _ hd => State.catch_setCatch_other s _ hd, rfl, rfl, rfl, rfl⟩

theorem State.stagnate_again {s : State} {e : Fin 16} (h : (s.catch_ e).stagnant = true) : s.stagnate e = s := if_pos h

section
variable {cmid : Nat} {e k : Fin 16} {s : State} (hc : s.catchOf cmid = some e) (hr : s.residentOf e = some k) (hw : (s.ctx k).headwater = true)
  (hf : (s.ctx k).fault = none) (hh : (s.ctx k).halted = false) (hg : (s.ctx k).freezeStage = .none) (hs : (s.ctx k).freezeSub = none)
  (hp : (s.ctx k).freezePending = false) (hb : s.catchBlocked k = true)
include hc hr hw hf hh hg hs hp hb

/-- A blocked catchment that rotates itself and has a runnable member rotates. -/
theorem State.rotation_rotates {j : Fin 16} (ha : (s.catch_ e).autoNow = true) (hn : s.nextRunnable e (s.ctx k).rota = some j) :
    s.rotation cmid = s.rotate e k j := by
  simp [State.rotation, hc, hr, hw, hf, hh, hg, hs, hp, hb, ha, hn]

/-- Any other blocked catchment stagnates. -/
theorem State.rotation_stagnates (h : (s.catch_ e).autoNow = false ∨ s.nextRunnable e (s.ctx k).rota = none) :
    s.rotation cmid = s.stagnate e := by
  obtain ha | hn := h
  · simp [State.rotation, hc, hr, hw, hf, hh, hg, hs, hp, hb, ha]
  · simp [State.rotation, hc, hr, hw, hf, hh, hg, hs, hp, hb, hn]

end

/-- Settles O25: the rotation by what it does to each of the two members, and stagnation by what the event and the log entry leave alone. -/
theorem rotation : Obligations.Rotation := by
  intro cmid e k s hc hr hw hm hf hh hg hs hp hb
  refine ⟨fun j ha hn => ?_, fun h => ⟨fun hst => ?_, fun hst => ?_⟩⟩
  · have hrun := State.residentOf_running hr
    have hj : j ≠ k := fun hjk => by
      have hfrozen := State.nextRunnable_frozen hn
      rw [hjk, hrun] at hfrozen
      cases hfrozen
    obtain ⟨w, hw'⟩ := State.rotate_single (e := e) hj hrun hm hg
    have he := (State.rotation_rotates hc hr hw hf hh hg hs hp hb ha hn).trans hw'
    refine ⟨_, congrArg Host.Outcome.next he, ?_⟩
    have hk := State.ctx_setCtx_same (s.countRotation e k j) k (((s.ctx k).count 11).freezeAsked w).freezeFixed
    rw [hk]
    have hcatch := fun d => State.catch_congr ((State.setCtx_catches _ k (((s.ctx k).count 11).freezeAsked w).freezeFixed).trans (s.countRotation_catches e k j)) d
    refine ⟨?_, rfl, rfl, rfl, rfl, ?_, fun i hik hij => ?_, fun d hd => ?_, rfl⟩
    · rw [hcatch, State.catch_setCatch_same]
    · rw [State.ctx_setCtx_other _ _ hj, State.countRotation_next hj]
    · rw [State.ctx_setCtx_other _ _ hik, State.countRotation_other s e hik hij]
    · rw [hcatch, State.catch_setCatch_other s _ hd]
  · have he := (State.rotation_stagnates hc hr hw hf hh hg hs hp hb h).trans (State.stagnate_first hst)
    refine ⟨_, congrArg Host.Outcome.next he, ?_⟩
    generalize Config.logPayload 0x06 [(s.catch_ e).cmid] = payload
    have hevent := State.raise_page_getLsbD (s.setCatch e { s.catch_ e with stagnant := true }) (p := 0x2C) (b := 0) (by decide) (by decide)
    obtain ⟨hcatch, hothers, hseq, hctxs, hcores, htime⟩ := State.raise_stagnant s e 0x2C 0
    generalize (s.setCatch e { s.catch_ e with stagnant := true }).raise 0x2C 0 = u at *
    obtain ⟨m, ps, w, hlog, -⟩ := u.log_logOnly 0x06 1 payload
    rw [u.log_page_other 0x06 1 payload (q := 0x2C) (by decide), u.log_nextSeq 0x06 1 payload, hlog, hseq]
    exact ⟨hcatch, hevent, rfl, hctxs, hcores, htime, hothers⟩
  · exact congrArg Host.Outcome.next ((State.rotation_stagnates hc hr hw hf hh hg hs hp hb h).trans (State.stagnate_again hst))

end Sys2Proof.Machine
end

section
/-! SUPPORT. The end of a teardown's scrub (R334): scrubbed ranges, the notices and packets that go, the cores, the key slot and the context. -/

namespace Sys2Proof.Machine

/-! ### Scrubs -/

/-- A scrub zeroes its range and leaves every other byte. -/
theorem Memory.read_scrub {m : Memory} (h : m.wf) (lo hi a : Nat) : (m.scrub lo hi).read a = if lo ≤ a ∧ a < hi then 0 else m.read a := by
  split
  next hin => exact Memory.read_scrub_inside m lo hi a hin.1 hin.2
  next hout =>
    induction m with
    | nil => rfl
    | cons x m ih =>
      obtain ⟨b, w⟩ := x
      have hbelow := (List.pairwise_cons.mp h.1).1
      have hrest := ih ⟨(List.pairwise_cons.mp h.1).2, fun c hc => h.2 c (List.mem_cons_of_mem _ hc)⟩
      unfold Memory.scrub at hrest ⊢
      by_cases hb : b < lo ∨ hi ≤ b
      · rw [List.filter_cons_of_pos (by simpa using hb)]
        simp only [Memory.read, hrest]
      · rw [List.filter_cons_of_neg (by simpa using hb), hrest, Memory.read, if_neg (by omega)]
        split
        next hab => exact Memory.read_below fun c hc => Nat.lt_trans hab (hbelow c hc)
        next => rfl

/-- Scrubs of several ranges zero each of them and leave every other byte. -/
theorem Memory.read_foldl_scrub (lo hi : Nat → Nat) (a : Nat) (ls : List Nat) {m : Memory} (h : m.wf) :
    (ls.foldl (fun m l => m.scrub (lo l) (hi l)) m).read a = if ∃ l ∈ ls, lo l ≤ a ∧ a < hi l then 0 else m.read a := by
  induction ls generalizing m with
  | nil => simp
  | cons x xs ih =>
    rw [List.foldl_cons, ih (Memory.wf_scrub h _ _), Memory.read_scrub h]
    by_cases hx : lo x ≤ a ∧ a < hi x
    · simp [hx]
    · simp [hx]

/-! ### What goes with the scrub -/

/-- The state without the notices, the packets, the windows and the staging regions of a context. -/
def State.withoutNotices (s : State) (k : Fin 16) : State :=
  { s with
    horizon := s.horizon.filter (·.slot != k)
    packets := s.packets.filter (·.slot != k)
    windows := s.windows.filter fun w => !(s.coresOf k).contains w.lcid
    stagingRegions := s.stagingRegions.filter fun w => !(s.coresOf k).contains w.lcid }

theorem State.withoutNotices_logPart (s : State) (k : Fin 16) : (s.withoutNotices k).logPart = s.logPart := rfl

/-- Beside what it discards, `dropNotices` counts strays and takes the weirs anew. -/
theorem State.dropNotices_part {α : Type} (f : State → α) (hs : ∀ s n, f (State.stray s n) = f s) (hi : ∀ s, f (State.inletWeirs s) = f s)
    (hh : ∀ s, f (State.horizonWeirs s) = f s) (s : State) (k : Fin 16) : f (s.dropNotices k) = f (s.withoutNotices k) :=
  (hh _).trans ((hi _).trans (foldl_part f (fun t _ => hs t _) _ _))

/-- What the release leaves of the state that the strays and the weirs do not touch. -/
def State.heldPart (s : State) : (Option ConfigImage × TimeUnit × Steward × Memory) × Memory × Vector Catch 16 × List Held × List Packet :=
  (s.logPart, s.spad, s.catches, s.horizon, s.packets)

theorem State.dropNotices_heldPart (s : State) (k : Fin 16) : (s.dropNotices k).heldPart = (s.withoutNotices k).heldPart :=
  have hpeak : ∀ t p, (State.peak t p).heldPart = t.heldPart := fun t p => by rw [t.peak_rest p]; rfl
  State.dropNotices_part State.heldPart (fun _ _ => rfl)
    (State.inletWeirs_part State.heldPart (fun _ => rfl) hpeak fun _ _ _ _ _ => rfl)
    (State.horizonWeirs_part State.heldPart hpeak (fun _ _ _ => rfl) fun _ _ _ _ _ _ _ _ => rfl) s k

theorem State.dropNotices_creditsSince (s : State) (k : Fin 16) : CreditsSince s (s.dropNotices k) := by
  unfold State.dropNotices
  extract_lets strays own u
  have hu : (strays.foldl (fun s h => s.stray h.hdr.sender) u).ctxs = s.ctxs := by
    refine foldl_part State.ctxs ?_ strays u
    exact fun _ _ => rfl
  exact (CreditsSince.of_ctxs ((State.inletWeirs_ctxs _).trans hu)).trans (State.horizonWeirs_creditsSince _)

/-- The cores of a context, as at reset. -/
def State.freeCores (s : State) (k : Fin 16) : State := (s.coresOf k).foldl (fun s l => s.setCore (lcidOf l) {}) s

theorem State.freeCores_part {α : Type} (f : State → α) (hf : ∀ s l c, f (State.setCore s l c) = f s) (s : State) (k : Fin 16) :
    f (s.freeCores k) = f s :=
  foldl_part f (fun t l => hf t (lcidOf l) {}) (s.coresOf k) s

theorem foldl_setCore_core (c : Core) (ls : List Nat) (s : State) (l : Fin 64) (h : s.core l = c ∨ ∃ n ∈ ls, lcidOf n = l) :
    (ls.foldl (fun s n => s.setCore (lcidOf n) c) s).core l = c := by
  induction ls generalizing s with
  | nil => simpa using h
  | cons m ms ih =>
    refine ih _ ?_
    by_cases hm : l = lcidOf m
    · left
      rw [hm, State.core_setCore_same]
    · rw [State.core_setCore_other s c hm]
      obtain h | ⟨n, hn, rfl⟩ := h
      · exact .inl h
      · obtain rfl | hn := List.mem_cons.mp hn
        · exact absurd rfl hm
        · exact .inr ⟨n, hn, rfl⟩

theorem State.freeCores_core {s : State} {k : Fin 16} {l : Nat} (h : l ∈ s.coresOf k) : (s.freeCores k).core (lcidOf l) = {} :=
  foldl_setCore_core {} _ s _ (.inr ⟨l, h, rfl⟩)

/-! ### The release -/

/-- The state once the scrub has zeroed what it names. -/
def State.scrubbed (s : State) (k : Fin 16) : State := (s.scrubSpads k).scrubLedger k

/-- The release up to the key slot. -/
def State.discarded (s : State) (k : Fin 16) : State := ((s.scrubbed k).dropNotices k).freeCores k

theorem State.discarded_heldPart (s : State) (k : Fin 16) : (s.discarded k).heldPart = ((s.scrubbed k).withoutNotices k).heldPart :=
  (State.freeCores_part State.heldPart (fun _ _ _ => rfl) _ k).trans ((s.scrubbed k).dropNotices_heldPart k)

theorem State.scrubbed_dropNotices_creditsSince (s : State) (k : Fin 16) : CreditsSince s ((s.scrubbed k).dropNotices k) :=
  (CreditsSince.of_ctxs rfl).trans ((s.scrubbed k).dropNotices_creditsSince k)

theorem State.discarded_creditsSince (s : State) (k : Fin 16) : CreditsSince s (s.discarded k) :=
  (s.scrubbed_dropNotices_creditsSince k).trans (.of_ctxs (State.freeCores_part State.ctxs (fun _ _ _ => rfl) _ k))

/-- The ac at which a wait for credits began has no say in whose the cores are. -/
theorem CreditsSince.coresOf {s t : State} (h : CreditsSince s t) (k : Fin 16) : t.coresOf k = s.coresOf k :=
  State.coresOf_congr (fun j => by
    obtain ⟨n, hn⟩ := h j
    rw [hn]
    rfl) k

theorem State.discarded_core {s : State} {k : Fin 16} {l : Nat} (h : l ∈ s.coresOf k) : (s.discarded k).core (lcidOf l) = {} := by
  rw [← (s.scrubbed_dropNotices_creditsSince k).coresOf k] at h
  rw [State.discarded]
  exact State.freeCores_core h

/-- The release from the key slot on. -/
def State.closeSlot (s : State) (k : Fin 16) : State :=
  ({ s.clearKey k with writes := (s.clearKey k).writes.filter (·.slot != k) }).modCtx k fun c => { c.emptied with released := true }

theorem State.release_eq (s : State) (k : Fin 16) : s.release k = (s.discarded k).closeSlot k := rfl

theorem State.closeSlot_mem (s : State) (k : Fin 16) : (s.closeSlot k).mem = (s.clearKey k).mem := rfl

/-- Beside memory, page events and the contexts, the end of the release clears the key slot and drops the messages being written. -/
theorem State.closeSlot_rest (s : State) (k : Fin 16) : (s.closeSlot k).steward.keys[k.val] = none ∧ (s.closeSlot k).cores = s.cores ∧
    (s.closeSlot k).horizon = s.horizon ∧ (s.closeSlot k).packets = s.packets ∧ (s.closeSlot k).spad = s.spad ∧
    (s.closeSlot k).time = s.time ∧ (s.closeSlot k).catches = s.catches := by
  obtain ⟨m, ps, w, hclear, hkey⟩ := s.clearKey_cases k
  rw [State.closeSlot, hclear]
  exact ⟨hkey, rfl, rfl, rfl, rfl, rfl, rfl⟩

theorem State.clearKey_ctxs (s : State) (k : Fin 16) : (s.clearKey k).ctxs = s.ctxs := by
  obtain ⟨m, ps, w, hclear, -⟩ := s.clearKey_cases k
  rw [hclear]

theorem State.closeSlot_ctx_same (s : State) (k : Fin 16) : (s.closeSlot k).ctx k = { (s.ctx k).emptied with released := true } := by
  rw [State.closeSlot, State.ctx_modCtx_same, ← State.ctx_congr (s.clearKey_ctxs k) k]
  rfl

theorem State.closeSlot_ctx_other (s : State) {j k : Fin 16} (h : j ≠ k) : (s.closeSlot k).ctx j = s.ctx j := by
  rw [State.closeSlot, State.ctx_modCtx_other _ _ h]
  exact State.ctx_congr (s.clearKey_ctxs k) j

theorem State.release_mem (s : State) (k : Fin 16) : (s.release k).mem = ((s.scrubbed k).clearKey k).mem := by
  have hheld : (s.discarded k).logPart = (s.scrubbed k).logPart :=
    (congrArg (fun p => p.1) (s.discarded_heldPart k)).trans ((s.scrubbed k).withoutNotices_logPart k)
  rw [State.release_eq, State.closeSlot_mem]
  exact State.clearKey_mem_congr hheld k

theorem State.scrubbed_mem_wf {s : State} (h : s.Sound) (k : Fin 16) : (s.scrubbed k).mem.wf :=
  (State.scrubLedger_keeps k (State.scrubSpads_keeps k (Keeps.refl s))).mem h.mem

/-- A key slot that holds nothing is cleared without an entry. -/
theorem State.clearKey_empty {s : State} {k : Fin 16} (h : s.steward.keys[k.val] = none) : s.clearKey k = s :=
  if_pos (Option.isNone_iff_eq_none.mpr h)

/-- A key slot's clear writes memory where the steward's log does, and nowhere else. -/
theorem State.clearKey_read_outside {s : State} (h : s.mem.wf) (k : Fin 16) {a : Nat}
    (hring : a < s.cfg.logAddr ∨ s.cfg.logAddr + s.logSize ≤ a) (harea : a < s.areaBase ∨ s.areaBase + s.areaSize ≤ a) :
    (s.clearKey k).mem.read a = s.mem.read a := by
  unfold State.clearKey
  split
  · rfl
  · exact State.log_read_outside (s := { s with steward := { s.steward with keys := s.steward.keys.set k.val none } }) h _ _ _ hring harea

/-- Settles O27, by the parts of the release: the scrub, what goes with it, the key slot and the context. -/
theorem teardownScrubEnd : Obligations.TeardownScrubEnd := by
  intro k s e hsound hphase hreleased hend
  refine ⟨fun hle => ?_, fun hlt => ?_⟩
  · have hrelease : s.teardownScrubEnd k = s.release k := by
      simp [State.teardownScrubEnd, hend, hphase, hreleased, hle]
    refine ⟨s.release k, congrArg Host.Outcome.next hrelease, ?_⟩
    rw [s.release_mem k, s.release_eq k]
    have hcores : ∀ l ∈ s.coresOf k, (s.discarded k).core (lcidOf l) = {} := fun l hl => State.discarded_core hl
    have hcredits := s.discarded_creditsSince k
    have hheld := s.discarded_heldPart k
    simp only [State.heldPart, State.logPart, Prod.mk.injEq] at hheld
    obtain ⟨⟨-, htime, -, -⟩, hspad, hcatches, hhorizon, hpackets⟩ := hheld
    generalize s.discarded k = u at *
    obtain ⟨n, hctx⟩ := hcredits k
    obtain ⟨hkey, hcs, hh, hp, hsp, ht, hca⟩ := u.closeSlot_rest k
    rw [u.closeSlot_ctx_same k, hctx, hh, hp, hsp, ht, hca, hhorizon, hpackets, hspad, htime, hcatches]
    have hzero := fun a => Memory.read_foldl_scrub (fun l => spadAddr l 0) (fun l => spadAddr (l + 1) 0) a (s.coresOf k) hsound.spad
    refine ⟨rfl, hphase, rfl, rfl, rfl, rfl, rfl, rfl, hkey, fun l hl => ?_, fun h hh => ?_, fun p hp => ?_, fun l hl a hlo hhi => ?_,
      fun a ha => ?_, fun hk => ?_, rfl, fun a hring harea => ?_, fun j hj => ?_, rfl, rfl⟩
    · exact (State.core_congr hcs _).trans (hcores l hl)
    · simpa using (List.mem_filter.mp hh).2
    · simpa using (List.mem_filter.mp hp).2
    · exact (hzero a).trans (if_pos ⟨l, hl, hlo, hhi⟩)
    · refine (hzero a).trans (if_neg ?_)
      rintro ⟨l, hl, hlo, hhi⟩
      have := ha l hl
      omega
    · exact congrArg State.mem (State.clearKey_empty (s := s.scrubbed k) hk)
    · exact State.clearKey_read_outside (State.scrubbed_mem_wf hsound k) k hring harea
    · rw [u.closeSlot_ctx_other hj]
      exact hcredits j
  · have hstay : s.teardownScrubEnd k = s := by
      simp [State.teardownScrubEnd, hend, Nat.not_le.mpr hlt]
    exact congrArg Host.Outcome.next hstay

end Sys2Proof.Machine
end

section
/-! SUPPORT. Idle beats and the loss of the headwater (R344, R353): a control message to another die by what the routing table holds, the beat that is
due, and the fault of a worker that hears nothing. -/

namespace Sys2Proof.Machine

/-! ### A control message to another die (R36, R344) -/

/-- A message discarded as stray is counted and raises its event on page 0x34; beside the page's error nothing else changes. -/
theorem State.stray_spec (s : State) (sender : Nat) : ((s.stray sender).page 0x34).raw.getLsbD 2 = true ∧
    s.stray sender = { s with safety := { s.safety with strays := wrap 32 (s.safety.strays + 1) }, pages := (s.stray sender).pages } :=
  ⟨State.raise_page_getLsbD _ (by decide) (by decide), rfl⟩

section
variable {s : State} {k : Fin 16} {addr : Nat} (ha : addr ≠ s.cfg.instanceAddr)
include ha

theorem State.sendCtrl_other (body : Ctrl) : s.sendCtrl k addr body = s.sendMsg addr (s.hdrOf k 2 0) (.ctrl body) := if_neg ha

theorem State.sendCtrl_other_ctx (j : Fin 16) (body : Ctrl) : (s.sendCtrl k addr body).ctx j = s.ctx j := by
  rw [State.sendCtrl_other ha]
  exact State.ctx_congr (State.sendMsg_ctxs _ _ _ _) j

theorem State.sendCtrl_routed (hf : s.safety.fenced = false) {port : Nat} (hr : s.routeTo (s.ctx k).cmid addr = some port) (body : Ctrl) :
    s.sendCtrl k addr body = s.linkSend port addr (s.hdrOf k 2 0) (.ctrl body) := by
  rw [State.sendCtrl_other ha]
  simp [State.sendMsg, State.hdrOf, hf, hr]

theorem State.sendCtrl_unrouted (hf : s.safety.fenced = false) (hr : s.routeTo (s.ctx k).cmid addr = none) (body : Ctrl) :
    s.sendCtrl k addr body = s.stray s.cfg.instanceAddr := by
  rw [State.sendCtrl_other ha]
  simp [State.sendMsg, State.hdrOf, hf, hr]

end

/-! ### The first fault of a context (R387, R398) -/

theorem FaultIn.data {k : Fin 16} {s t : State} (h : FaultIn k s t) : t.time = s.time ∧ t.mem = s.mem ∧ t.spad = s.spad := by
  rw [h.rest]
  exact ⟨rfl, rfl, rfl⟩

/-- The first fault that tears a context down, raised with a code and its details, is kept with the code's scope and halts the context's cores. -/
theorem State.faultCode_first {s : State} {k : Fin 16} {code : Nat} (hp : (s.ctx k).phase ≠ .empty) (hn : (s.ctx k).fault = none)
    (hs : faultScope code ≠ 1) (d1 d2 : Nat) :
    (∃ f, ((s.faultCode k code d1 d2).ctx k).fault = some f ∧ f.code = code ∧ f.scope = faultScope code) ∧
      (∀ l ∈ s.coresOf k, ((s.faultCode k code d1 d2).core (lcidOf l)).halted = true) ∧ FaultIn k s (s.faultCode k code d1 d2) := by
  unfold State.faultCode
  obtain ⟨⟨f, hf, hcode, -⟩, -⟩ := State.fault_first (f := { code := code, detail1 := d1, detail2 := d2 }) hp hn hs
  exact ⟨⟨f, hf, hcode, State.fault_first_scope hp hn hs hf⟩, fun l hl => State.fault_halts hp hn hs hl, s.fault_faultIn k _⟩

/-! ### IDLE_BEAT_SEND and HEADWATER_LOSS (R353) -/

theorem Ctx.running_of_runs {c : Ctx} (h : c.runs = true) : c.phase = .running := by
  simp only [Ctx.runs, Bool.and_eq_true, beq_iff_eq] at h
  exact h.1.1.1

section
variable {s : State} {k : Fin 16}

theorem State.idleBeatSend_due {member addr : Nat} (ht : s.atTickStart = true) (hr : (s.ctx k).runs = true) (hm : (s.ctx k).multiMember = true)
    (hh : (s.ctx k).headwater = true) (hfind : (s.members k).find? (fun p => p.1 == member) = some (member, addr))
    (hdue : (s.ctx k).hw.sentAt member + 128 ≤ (s.ctx k).tick) :
    s.idleBeatSend k member = (s.sendCtrl k addr .idleBeat).modCtx k (·.sentTo member) := by
  simp [State.idleBeatSend, ht, hr, hm, hh, hfind, Nat.not_lt.mpr hdue]

theorem State.idleBeatSend_early {member : Nat} (h : (s.ctx k).tick < (s.ctx k).hw.sentAt member + 128) : s.idleBeatSend k member = s := by
  simp [State.idleBeatSend, h]

theorem State.headwaterLoss_due (hr : (s.ctx k).runs = true) (hm : (s.ctx k).multiMember = true) (hh : (s.ctx k).headwater = false)
    (hdue : (s.ctx k).lastControl + 256 ≤ (s.ctx k).tick) :
    s.headwaterLoss k = s.faultCode k 0x1C ((s.ctx k).tick - (s.ctx k).lastControl) 0 := by
  simp [State.headwaterLoss, hr, hm, hh, hdue]

theorem State.headwaterLoss_early (h : (s.ctx k).tick < (s.ctx k).lastControl + 256) : s.headwaterLoss k = s := by
  simp [State.headwaterLoss, Nat.not_le.mpr h]

end

/-- Settles O26, by whether 128 ticks have passed since the last message and by the route of the member, and by the first fault of a context. -/
theorem headwaterBeats : Obligations.HeadwaterBeats := by
  intro k s hruns hmulti
  refine ⟨fun member addr hhead hstart hfind haddr =>
      ⟨fun hdue hfenced => ?_, fun hearly => congrArg Host.Outcome.next (State.idleBeatSend_early hearly)⟩,
    fun hworker => ⟨fun hdue hfault => ?_, fun hearly => congrArg Host.Outcome.next (State.headwaterLoss_early hearly)⟩⟩
  · have hsent := State.idleBeatSend_due hstart hruns hmulti hhead hfind hdue
    refine ⟨_, congrArg Host.Outcome.next hsent, ?_, fun j hj => ?_, fun port hroute => ?_, fun hroute => ?_⟩
    · rw [State.ctx_modCtx_same, State.sendCtrl_other_ctx haddr]
    · rw [State.ctx_modCtx_other _ _ hj, State.sendCtrl_other_ctx haddr]
    · rw [State.sendCtrl_routed haddr hfenced hroute]
      exact ⟨rfl, rfl⟩
    · obtain ⟨hevent, hrest⟩ := s.stray_spec s.cfg.instanceAddr
      rw [State.sendCtrl_unrouted haddr hfenced hroute]
      exact ⟨rfl, hevent, congrArg (State.modCtx · k (·.sentTo member)) hrest⟩
  · have hphase : (s.ctx k).phase ≠ .empty := by simp [Ctx.running_of_runs hruns]
    obtain ⟨⟨f, hf, hcode, hscope⟩, hhalts, hin⟩ :=
      State.faultCode_first hphase hfault (show faultScope 0x1C ≠ 1 by decide) ((s.ctx k).tick - (s.ctx k).lastControl) 0
    exact ⟨_, f, congrArg Host.Outcome.next (State.headwaterLoss_due hruns hmulti hworker hdue), hf, hcode, hscope, hhalts, hin.others,
      hin.data⟩

end Sys2Proof.Machine
end

section
/-! SUPPORT. MANIFEST and FW_UPDATE (R342, R347, R412, R502): what a message can write, what the log keeps of the steward and of the page events, and a
manifest and a firmware image by the outcome of their checks. -/

namespace Sys2Proof.Machine

/-! ### What messages leave alone (R36, R347) -/

/-- `t` is `s` but for what one message of a catchment may write: the link fabric's messages, the count of strays and page 0x34. -/
def SentFrom (s t : State) : Prop :=
  ∃ out ps sf, t = { s with linkOut := out, pages := ps, safety := sf } ∧ ∀ q : Fin 64, q ≠ 0x34 → ps[q.val] = s.page q

theorem SentFrom.refl (s : State) : SentFrom s s := ⟨_, _, _, rfl, fun _ _ => rfl⟩

theorem State.sendMsg_sentFrom (s : State) (dest : Nat) (hdr : MsgHdr) (body : MsgBody) : SentFrom s (s.sendMsg dest hdr body) := by
  obtain hsend | ⟨port, hsend⟩ | hsend := s.sendMsg_cases dest hdr body
  · rw [hsend]
    exact .refl s
  · exact ⟨_, _, _, hsend, fun _ _ => rfl⟩
  · exact ⟨_, _, _, hsend, fun q hq => (State.raise_page_other _ hq 2).trans (State.page_setPage_other _ _ hq)⟩

/-- A refuse message goes out of a port, if any goes. -/
theorem State.refuseMsg_rest (s : State) (m : Manifest) (code : Nat) : ∃ out, s.refuseMsg m code = { s with linkOut := out } := by
  unfold State.refuseMsg
  split
  · split
    · exact ⟨_, rfl⟩
    · exact ⟨_, rfl⟩
  · exact ⟨_, rfl⟩

/-! ### MANIFEST by the outcome of its checks (R342, R502) -/

theorem exec_manifest {s : State} (hr : s.boot.ready = true) (hf : s.safety.fenced = false) (h : SubHdr) (b : Bytes) :
    exec (.manifest h b) s = .next (s.countTaken.takeManifest h b (s.time.localTick + 1)) := by
  have hexec : exec (.manifest h b) s = execManifest h b s := rfl
  rw [hexec]
  simp [execManifest, hr, hf, State.nextTick]

/-- The checks read nothing of the sluice. -/
theorem State.countTaken_checkManifest (s : State) (b : Bytes) : s.countTaken.checkManifest b = s.checkManifest b := rfl

/-- A manifest whose checks passed: the entry, its event and its result record. -/
def State.manifestFiled (s : State) (h : SubHdr) (k : Fin 16) (c : Catch) (due : Nat) : State :=
  ((s.setCatch k c).horizonWeirs.raise 0x2C 1).result h 2 0 0 none due

section
variable {s : State} {b : Bytes} (h : SubHdr) (due : Nat)

theorem State.takeManifest_refused {code : Nat} (hc : s.checkManifest b = .inl code) :
    ∃ out, s.takeManifest h b due = { s.result h 2 0 code none due with linkOut := out } := by
  obtain ⟨out, hout⟩ := (s.result h 2 0 code none due).refuseMsg_rest (decodeManifest b) code
  exact ⟨out, by rw [State.takeManifest, hc]; exact hout⟩

/-- A manifest whose checks pass is filed; a member of a lock-step pair greets its peer (R355). -/
theorem State.takeManifest_accepted {k : Fin 16} {c : Catch} (hc : s.checkManifest b = .inr (k, c)) :
    SentFrom (s.manifestFiled h k c due) (s.takeManifest h b due) := by
  simp only [State.takeManifest, hc]
  split
  · split
    · exact State.sendMsg_sentFrom _ _ _ _
    · exact .refl _
  · exact .refl _

end

/-! The entry in the catchment table, and what the filing leaves. -/

@[simp] theorem State.horizonWeirs_catches (s : State) : s.horizonWeirs.catches = s.catches :=
  State.horizonWeirs_part State.catches (fun s p => by rw [s.peak_rest p]) (fun _ _ _ => rfl) (fun _ _ _ _ _ _ _ _ => rfl) s

section
variable (s : State) (h : SubHdr) (k : Fin 16) (c : Catch) (due : Nat)

theorem State.manifestFiled_catches : (s.manifestFiled h k c due).catches = (s.setCatch k c).catches := (s.setCatch k c).horizonWeirs_catches

theorem State.manifestFiled_event : ((s.manifestFiled h k c due).page 0x2C).raw.getLsbD 1 = true :=
  State.raise_page_getLsbD (s.setCatch k c).horizonWeirs (by decide) (by decide)

theorem State.manifestFiled_sluice : (s.manifestFiled h k c due).sluice = (s.result h 2 0 0 none due).sluice := by
  have hweirs : (s.setCatch k c).horizonWeirs.sluice = s.sluice := congrArg (·.2.2.1) (s.setCatch k c).horizonWeirs_standing
  simp only [State.manifestFiled, State.result, State.pushRec, State.raise_sluice, hweirs]

theorem State.manifestFiled_creditsSince : CreditsSince s (s.manifestFiled h k c due) :=
  (CreditsSince.of_ctxs (State.setCatch_ctxs s k c)).trans (s.setCatch k c).horizonWeirs_creditsSince

theorem State.manifestFiled_rest : (s.manifestFiled h k c due).time = s.time ∧ (s.manifestFiled h k c due).mem = s.mem ∧
    (s.manifestFiled h k c due).spad = s.spad ∧ (s.manifestFiled h k c due).cores = s.cores ∧ (s.manifestFiled h k c due).steward = s.steward ∧
    (s.manifestFiled h k c due).horizon = s.horizon := by
  have hstanding := (s.setCatch k c).horizonWeirs_standing
  exact ⟨congrArg (·.2.2.2.2) hstanding, (s.setCatch k c).horizonWeirs_mem, (s.setCatch k c).horizonWeirs_spad, (s.setCatch k c).horizonWeirs_cores,
    congrArg (·.2.2.2.1) hstanding, (s.setCatch k c).horizonWeirs_horizon⟩

end

/-! ### What the log keeps (R409, R410) -/

/-- The firmware that runs and the image that is staged (R412, R413). -/
def Steward.firmware (w : Steward) : Nat × Option Nat := (w.running, w.staged)

theorem State.log_firmware (s : State) (kind severity : Nat) (payload : Bytes) : (s.log kind severity payload).steward.firmware = s.steward.firmware := by
  refine State.log_induction (P := fun t => t.steward.firmware = s.steward.firmware) s kind severity payload (fun _ => rfl) (fun _ h => h)
    (fun t e h => ?_) (fun _ _ h => h)
  obtain ⟨m, a, hm⟩ := t.mirror_rest e
  rw [hm]
  exact h

/-- A further event leaves what stands in EVT_RAW. -/
theorem PageHdr.set_keeps {h : PageHdr} {b : Nat} (hb : h.raw.getLsbD b = true) (ac : Nat) (x : BitVec 32) : (h.set ac x).raw.getLsbD b = true := by
  have hor : (h.set ac x).raw = h.raw ||| x := by
    unfold PageHdr.set
    split
    · rfl
    · rfl
  rw [hor, BitVec.getLsbD_or, hb, Bool.true_or]

theorem State.log_page_getLsbD {s : State} {p : Fin 64} {b : Nat} (hb : (s.page p).raw.getLsbD b = true) (kind severity : Nat) (payload : Bytes) :
    ((s.log kind severity payload).page p).raw.getLsbD b = true := by
  refine State.log_induction (P := fun t => (t.page p).raw.getLsbD b = true) s kind severity payload (fun _ => hb) (fun t h => ?_)
    (fun t e h => ?_) (fun _ _ h => h)
  · by_cases hp : p = 0x04
    · subst hp
      rw [State.raise_page_same]
      exact PageHdr.set_keeps h _ _
    · rw [State.raise_page_other t hp]
      exact h
  · obtain ⟨m, a, hm⟩ := t.mirror_rest e
    rw [hm]
    exact h

/-! ### FW_UPDATE by the outcome of its checks (R412) -/

/-- What a log entry and a result record after it leave. -/
theorem State.log_result_spec (s : State) (severity : Nat) (payload : Bytes) (h : SubHdr) (code due : Nat) :
    let t := (s.log 0x08 severity payload).result h 0x0D 0 code none due
    t.steward.staged = s.steward.staged ∧ t.steward.running = s.steward.running ∧ t.steward.nextSeq = s.steward.nextSeq + 1 ∧
      t.sluice = (s.result h 0x0D 0 code none due).sluice ∧ t.ctxs = s.ctxs ∧ t.time = s.time := by
  intro t
  have hfirmware := s.log_firmware 0x08 severity payload
  have hnext := s.log_nextSeq 0x08 severity payload
  obtain ⟨m, ps, w, hlog, -⟩ := s.log_logOnly 0x08 severity payload
  unfold t
  rw [hlog] at hfirmware hnext ⊢
  exact ⟨congrArg (·.2) hfirmware, congrArg (·.1) hfirmware, hnext, rfl, rfl, rfl⟩

theorem exec_fwUpdate {s : State} (hr : s.boot.ready = true) (h : SubHdr) (b : Bytes) :
    exec (.fwUpdate h b) s = .next (s.countTaken.takeFirmware h b (s.time.localTick + 1)) := by
  have hexec : exec (.fwUpdate h b) s = execFwUpdate h b s := rfl
  rw [hexec]
  simp [execFwUpdate, State.takesSubs, hr, State.nextTick]

/-- The checks read nothing of the sluice. -/
theorem State.countTaken_firmwareRefusal (s : State) (b : Bytes) : s.countTaken.firmwareRefusal b = s.firmwareRefusal b := rfl

/-- An image staged, with its event; the log entry and the result record come after it. -/
def State.firmwareStaged (s : State) (h : SubHdr) (b : Bytes) : State :=
  { s with steward := { s.steward with
    staged := some (field b 12 4), stagedSub := some { hdr := h, taken := 0, sub := .fwUpdate 0 b.length } } }.raise 0x04 1

section
variable {s : State} {b : Bytes}

theorem State.takeFirmware_staged (hc : s.firmwareRefusal b = none) (h : SubHdr) (due : Nat) : ∃ payload,
    s.takeFirmware h b due = ((s.firmwareStaged h b).log 0x08 0 payload).result h 0x0D 0 0 none due :=
  ⟨_, by rw [State.takeFirmware, hc]; rfl⟩

theorem State.takeFirmware_refused {code : Nat} (hc : s.firmwareRefusal b = some code) (h : SubHdr) (due : Nat) : ∃ payload,
    s.takeFirmware h b due = (s.log 0x08 1 payload).result h 0x0D 0 code none due :=
  ⟨_, by rw [State.takeFirmware, hc]⟩

end

/-- Settles O45, by the outcome of the checks of R342 and of R412. -/
theorem manifestsAndFirmware : Obligations.ManifestsAndFirmware := by
  intro h b s hready hfenced
  refine ⟨fun k c hcheck => ?_, fun code hcheck => ?_, fun hcheck => ?_, fun code hcheck => ?_⟩
  · obtain ⟨out, ps, sf, htake, hps⟩ := State.takeManifest_accepted h (s.time.localTick + 1) ((s.countTaken_checkManifest b).trans hcheck)
    have hcatches := s.countTaken.manifestFiled_catches h k c (s.time.localTick + 1)
    have hevent := s.countTaken.manifestFiled_event h k c (s.time.localTick + 1)
    have hsluice := s.countTaken.manifestFiled_sluice h k c (s.time.localTick + 1)
    have hcredits := s.countTaken.manifestFiled_creditsSince h k c (s.time.localTick + 1)
    have hrest := s.countTaken.manifestFiled_rest h k c (s.time.localTick + 1)
    refine ⟨_, (exec_manifest hready hfenced h b).trans (congrArg Host.Outcome.next htake), ?_, fun j hj => ?_, ?_, hsluice, hcredits, hrest⟩
    · exact (State.catch_congr hcatches k).trans (State.catch_setCatch_same _ k c)
    · exact (State.catch_congr hcatches j).trans (State.catch_setCatch_other _ c hj)
    · exact (congrArg (·.raw.getLsbD 1) (hps 0x2C (by decide))).trans hevent
  · obtain ⟨out, htake⟩ := State.takeManifest_refused h (s.time.localTick + 1) ((s.countTaken_checkManifest b).trans hcheck)
    exact ⟨_, (exec_manifest hready hfenced h b).trans (congrArg Host.Outcome.next htake), rfl, rfl⟩
  · obtain ⟨payload, htake⟩ := State.takeFirmware_staged ((s.countTaken_firmwareRefusal b).trans hcheck) h (s.time.localTick + 1)
    obtain ⟨hstaged, hrunning, hnext, hsluice, hctxs, htime⟩ :=
      (s.countTaken.firmwareStaged h b).log_result_spec 0 payload h 0 (s.time.localTick + 1)
    have hevent : ((s.countTaken.firmwareStaged h b).page 0x04).raw.getLsbD 1 = true := State.raise_page_getLsbD _ (by decide) (by decide)
    exact ⟨_, (exec_fwUpdate hready h b).trans (congrArg Host.Outcome.next htake), hstaged, hrunning, State.log_page_getLsbD hevent 0x08 0 payload,
      hnext, hsluice, hctxs, htime⟩
  · obtain ⟨payload, htake⟩ := State.takeFirmware_refused ((s.countTaken_firmwareRefusal b).trans hcheck) h (s.time.localTick + 1)
    exact ⟨_, (exec_fwUpdate hready h b).trans (congrArg Host.Outcome.next htake), s.countTaken.log_result_spec 1 payload h code (s.time.localTick + 1)⟩

end Sys2Proof.Machine
end
